-- ==== Sys2Proof/Word.lean ====
section
/-! DEFINITION. The word types of the machine (spec/00_scope.md R5, spec/02_thread.md R27). -/

namespace Sys2Proof

/-- One byte of memory. -/
abbrev Byte := BitVec 8

/-- A `g` register, a control register, an instruction word: 64 bits (R27, R71). -/
abbrev Word := BitVec 64

/-- A code address: the code space is 48 bits wide and every step of a PC is taken modulo 2^48 (R71). -/
abbrev CodeAddr := BitVec 48

/-- A vector register: 8 KiB, element `n` of width `w` in bits `[w(n+1)-1 : w n]` (R27, R129). -/
abbrev VReg := BitVec 65536

/-- The bitmap form of a mask register (R134). -/
abbrev Bitmap := BitVec 2048

/-- The data part of a tile slot: 64 KiB (R16, R225). -/
abbrev SlotData := BitVec 524288

/-- The scale bytes of a tile slot's side area: 4,096 bytes (R225). -/
abbrev SlotScales := BitVec 32768

/-- The flags of FSTAT (R62): bit 0 NV, 1 OF, 2 UF, 3 NX, 4 SA. -/
abbrev FFlags := BitVec 5

end Sys2Proof
end

