-- ==== Sys2Proof/Codes.lean ====
section
/-! DEFINITION. The operand forms and coded fields of the instructions: one structure per format of
spec/04_encoding.md R76, one inductive per coded FN field, and the operand data of the host's steps. -/

namespace Sys2Proof

/-! ### The formats of R76 -/

/-- S format: three-register scalar. Field `c` is a register or a rounding mode (R56). -/
structure SOp where
  d : BitVec 6
  a : BitVec 6
  b : BitVec 6
  c : BitVec 6
  deriving DecidableEq, Repr, Inhabited

/-- I format. -/
structure IOp where
  d : BitVec 6
  a : BitVec 6
  imm : BitVec 36
  deriving DecidableEq, Repr, Inhabited

/-- B format. -/
structure BOp where
  a : BitVec 6
  b : BitVec 6
  off : BitVec 36
  deriving DecidableEq, Repr, Inhabited

/-- BI format. -/
structure BIOp where
  a : BitVec 6
  imm : BitVec 12
  off : BitVec 30
  deriving DecidableEq, Repr, Inhabited

/-- M format. -/
structure MOp where
  t : BitVec 6
  base : BitVec 6
  index : BitVec 6
  scale : BitVec 2
  off : BitVec 28
  deriving DecidableEq, Repr, Inhabited

/-- V format. -/
structure VOp where
  vd : BitVec 6
  va : BitVec 6
  vb : BitVec 6
  vc : BitVec 6
  k : BitVec 4
  z : Bool
  ty : BitVec 4
  rm : BitVec 3
  ea : Bool
  eb : Bool
  ec : Bool
  bs : Bool
  imm : BitVec 8
  deriving DecidableEq, Repr, Inhabited

/-- VM format. -/
structure VMOp where
  vt : BitVec 6
  base : BitVec 6
  sx : BitVec 6
  s2 : BitVec 6
  k : BitVec 4
  ty : BitVec 4
  off : BitVec 16
  deriving DecidableEq, Repr, Inhabited

/-- T format. In the rows of R159 that redefine bits [20:16], `na` is acq, `nb` is rel and
`nacc`, `ca`, `cb` are the scope code. -/
structure TOp where
  md : BitVec 9
  ma : BitVec 9
  mb : BitVec 9
  na : Bool
  nb : Bool
  nacc : Bool
  ca : Bool
  cb : Bool
  skip : Bool
  i32 : Bool
  g : BitVec 5
  ea : Bool
  eb : Bool
  ec : Bool
  la : Bool
  lb : Bool
  pf : Bool
  deriving DecidableEq, Repr, Inhabited

/-- A format. -/
structure AOp where
  dst : BitVec 6
  src : BitVec 6
  len : BitVec 6
  bar : BitVec 6
  acq : Bool
  rel : Bool
  scope : BitVec 3
  deriving DecidableEq, Repr, Inhabited

/-- C format: the convoy header of R78. -/
structure COp where
  cnt : BitVec 2
  u0 : BitVec 2
  u1 : BitVec 2
  u2 : BitVec 2
  u3 : BitVec 2
  ch3 : Bool
  ch2 : Bool
  ch1 : Bool
  ch0 : Bool
  deriving DecidableEq, Repr, Inhabited

/-- Y format. -/
structure YOp where
  n12 : BitVec 12
  g : BitVec 6
  deriving DecidableEq, Repr, Inhabited

/-- The R-type fields of the Etesian extension (R337). -/
structure ROp where
  rd : BitVec 5
  rs1 : BitVec 5
  rs2 : BitVec 5
  deriving DecidableEq, Repr, Inhabited

/-! ### Coded FN fields -/

/-- The conditions of R94. -/
inductive Cond where
  | eq | ne | lt | ge | ltn | gen | any | none
  deriving DecidableEq, Repr, Inhabited

/-- The conditions of `FCMP` (R102). -/
inductive FCond where
  | eq | lt | le | un
  deriving DecidableEq, Repr, Inhabited

/-- The conditions of `VCMP` (R141). -/
inductive VCond where
  | eq | ne | lt | le | gt | ge | un
  deriving DecidableEq, Repr, Inhabited

/-- f32 or f64, the formats of scalar floating point (R99). -/
inductive FFmt where
  | f32 | f64
  deriving DecidableEq, Repr, Inhabited

/-- The type codes of `FCVT` (R103). -/
inductive CvtTy where
  | i32 | n32 | i64 | n64 | f16 | bf16 | f32 | f64
  deriving DecidableEq, Repr, Inhabited

/-- The formats of `FCLASS` (R104). -/
inductive ClassFmt where
  | f16 | bf16 | f32 | f64
  deriving DecidableEq, Repr, Inhabited

/-- The three loop counters (R108). -/
inductive LoopIx where
  | lc0 | lc1 | lc2
  deriving DecidableEq, Repr, Inhabited

/-- The scopes of R82. -/
inductive Scope where
  | t | c | g | d | s
  deriving DecidableEq, Repr, Inhabited

/-- Access sizes of R115, in bytes 1, 2, 4, 8: the type of a store. -/
inductive Size where
  | b1 | b2 | b4 | b8
  deriving DecidableEq, Repr, Inhabited

/-- The sx and size fields of a scalar load (R115, R116). sx with a size of 8 bytes is unassigned. -/
inductive LdTy where
  | n8 | n16 | n32 | n64 | i8 | i16 | i32
  deriving DecidableEq, Repr, Inhabited

/-- The sx and size fields of `AMO` and `CAS` (R115). -/
inductive AmoTy where
  | n32 | n64 | i32
  deriving DecidableEq, Repr, Inhabited

/-- The ord field of R115. -/
inductive MOrd where
  | relaxed | acq | rel | ar
  deriving DecidableEq, Repr, Inhabited

/-- The hints of `PREF` (R126). -/
inductive Hint where
  | l1 | own | l2
  deriving DecidableEq, Repr, Inhabited

/-- The operations of `AMO` (R123). -/
inductive AmoOp where
  | add | and | or | xor | min | max | minn | maxn | swap
  deriving DecidableEq, Repr, Inhabited

/-- The reduction and scan operations (R147, R148). -/
inductive RedOp where
  | add | min | max | mul | and | or | xor
  deriving DecidableEq, Repr, Inhabited

/-- The forms of `KSET` (R136). -/
inductive KSetForm where
  | count | step | ones | zero
  deriving DecidableEq, Repr, Inhabited

/-- The forms of `KMOV` (R136). -/
inductive KMovForm where
  | move | fromv | tov | fromg
  deriving DecidableEq, Repr, Inhabited

/-- The address forms of the vector memory instructions (R151). -/
inductive VMForm where
  | unit | str | d2 | sb
  deriving DecidableEq, Repr, Inhabited

/-- The address forms of `VLDS` and `VSTS` (R151). -/
inductive VSForm where
  | unit | str | d2
  deriving DecidableEq, Repr, Inhabited

/-- The address spaces of a transfer (R191): source to destination. -/
inductive CpySp where
  | dd | tos | froms | ss
  deriving DecidableEq, Repr, Inhabited

/-- The forms of `BARRIVE` (R195). -/
inductive ArrForm where
  | one | n | err
  deriving DecidableEq, Repr, Inhabited

/-- What `HCHK` reads (R201). -/
inductive HchkWhat where
  | length | cap | mark
  deriving DecidableEq, Repr, Inhabited

/-- The kinds of `FENCE` (R211). -/
inductive FenceKind where
  | ldld | ldst | stld | stst | acq | rel | full
  deriving DecidableEq, Repr, Inhabited

/-- The operations of `CMO` (R212). -/
inductive CmoOp where
  | clean | inval | cinv
  deriving DecidableEq, Repr, Inhabited

/-- The element types of R54. -/
inductive VTy where
  | i8 | i16 | i32 | i64 | n8 | n16 | n32 | n64 | f16 | bf16 | f32 | f64 | e4m3 | e5m2
  deriving DecidableEq, Repr, Inhabited

/-- Rounding modes after `dyn` has been resolved (R56). -/
inductive RMode where
  | rne | rtz | rup | rdn | sr
  deriving DecidableEq, Repr, Inhabited

/-! ### Base RISC-V (R9, R331) -/

/-- Branch conditions of RV64I. -/
inductive RvBr where
  | eq | ne | lt | ge | ltu | geu
  deriving DecidableEq, Repr, Inhabited

/-- Load widths of RV64I. -/
inductive RvLd where
  | b | h | w | d | bu | hu | wu
  deriving DecidableEq, Repr, Inhabited

/-- Store widths of RV64I. -/
inductive RvSt where
  | b | h | w | d
  deriving DecidableEq, Repr, Inhabited

/-- Register-register and register-immediate operations of RV64I. -/
inductive RvAlu where
  | add | sub | sll | slt | sltu | xor | srl | sra | or | and
  deriving DecidableEq, Repr, Inhabited

/-- The M extension. -/
inductive RvMul where
  | mul | mulh | mulhsu | mulhu | div | divu | rem | remu
  deriving DecidableEq, Repr, Inhabited

/-- The A extension's read-modify-write operations. -/
inductive RvAmo where
  | swap | add | xor | and | or | min | max | minu | maxu
  deriving DecidableEq, Repr, Inhabited

/-- Zicsr operations. -/
inductive RvCsr where
  | rw | rs | rc
  deriving DecidableEq, Repr, Inhabited

/-- A base instruction of an Etesian core, its fields pulled out (RV64IMA, Zicsr, Zifencei). -/
inductive RvI where
  | lui (rd : BitVec 5) (imm : BitVec 20)
  | auipc (rd : BitVec 5) (imm : BitVec 20)
  | jal (rd : BitVec 5) (off : BitVec 20)
  | jalr (rd rs1 : BitVec 5) (imm : BitVec 12)
  | branch (c : RvBr) (rs1 rs2 : BitVec 5) (off : BitVec 12)
  | load (f : RvLd) (rd rs1 : BitVec 5) (imm : BitVec 12)
  | store (f : RvSt) (rs1 rs2 : BitVec 5) (imm : BitVec 12)
  | opImm (f : RvAlu) (rd rs1 : BitVec 5) (imm : BitVec 12)
  | opImm32 (f : RvAlu) (rd rs1 : BitVec 5) (imm : BitVec 12)
  | op (f : RvAlu) (rd rs1 rs2 : BitVec 5)
  | op32 (f : RvAlu) (rd rs1 rs2 : BitVec 5)
  | mul (f : RvMul) (rd rs1 rs2 : BitVec 5)
  | mul32 (f : RvMul) (rd rs1 rs2 : BitVec 5)
  | fence (fm pred succ : BitVec 4) (rd rs1 : BitVec 5)
  | fenceI (imm : BitVec 12) (rd rs1 : BitVec 5)
  | ecall
  | ebreak
  | wfi
  | csr (f : RvCsr) (imm : Bool) (rd rs1 : BitVec 5) (n : BitVec 12)
  | lr (dbl aq rl : Bool) (rd rs1 : BitVec 5)
  | sc (dbl aq rl : Bool) (rd rs1 rs2 : BitVec 5)
  | amo (f : RvAmo) (dbl aq rl : Bool) (rd rs1 rs2 : BitVec 5)
  deriving DecidableEq, Repr, Inhabited

/-- A base instruction as it stands in memory: 32 bits, or a 16-bit parcel of the C extension. -/
inductive Rv where
  | full (i : RvI)
  | compressed (h : BitVec 16)
  deriving DecidableEq, Repr, Inhabited

/-! ### Operand data of the host's and the link's steps -/

/-- A host access over Turward (R259, R390): an address of device memory and what is done there. -/
inductive HostAccess where
  /-- The base and the size of the control region (R403). -/
  | boot
  | read (pa : Nat) (len : Nat)
  | write (pa : Nat) (bytes : List Byte)
  | atomicAdd (pa : Nat) (v : Word)
  deriving DecidableEq, Repr, Inhabited

/-- What a request of another package asks for (R388). -/
inductive RemoteOp where
  | read (len : Nat)
  | write (bytes : List Byte)
  | amo (op : AmoOp) (wide : Bool) (v : Word)
  | cas (wide : Bool) (expected new : Word)
  deriving DecidableEq, Repr, Inhabited

/-- A UPLI request from another package: its sequence, its requester's pod tenant number, its address (R385, R387). -/
structure RemoteReq where
  seq : Nat
  fromPkg : Nat
  ptid : Nat
  pa : Nat
  op : RemoteOp
  deriving DecidableEq, Repr, Inhabited

/-- How a port's training ends (R384): the lanes it keeps, 0 for failure. -/
inductive TrainResult where
  | full
  | half
  | quarter
  | failed
  deriving DecidableEq, Repr, Inhabited

/-- A measurement of the margin planner (R405). -/
inductive Margin where
  | failing
  | holds
  | stepUp
  deriving DecidableEq, Repr, Inhabited

/-- A tile value: its shape descriptor (R158), its data as a slot or a backing region holds it, and its scale bytes (R225). -/
structure TileVal where
  shape : BitVec 32
  data : SlotData
  scales : SlotScales
  deriving DecidableEq, Repr, Inhabited

/-- A complete send as it stands at the receiver (R184, R389). -/
structure SendMsg where
  id : Nat
  token : Word
  fromPkg : Nat
  ctx : Nat
  ptid : Nat
  intact : Bool
  tile : TileVal
  deriving DecidableEq, Repr, Inhabited

end Sys2Proof
end

