-- ==== Sys2Proof/Syntax.lean ====
section
/-! DEFINITION. The instructions and steps of the machine: one constructor for each row of
spec/opcode_table.json, in the table's order of families; the wakes without operands and the inputs
from outside stand last. -/

namespace Sys2Proof

/-- A step of the machine: an Evoesh instruction (spec/04 to 08), an Etesian instruction (spec/17), or an event of the
device, the host, the link or the management plane (spec/95). Events that act on the thread or hart at turn carry no
operand; the others name the object they act on. -/
inductive Instr where
  -- scalar integer, R95 to R98
  | add (o : SOp)
  | sub (o : SOp)
  | mul (o : SOp)
  | mulh (uns : Bool) (o : SOp)
  | div (uns : Bool) (o : SOp)
  | rem (uns : Bool) (o : SOp)
  | and (o : SOp)
  | or (o : SOp)
  | xor (o : SOp)
  | andn (o : SOp)
  | shl (o : SOp)
  | shr (o : SOp)
  | sar (o : SOp)
  | rol (o : SOp)
  | min (uns : Bool) (o : SOp)
  | max (uns : Bool) (o : SOp)
  | cmp (c : Cond) (o : SOp)
  | sel (o : SOp)
  | clz (o : SOp)
  | ctz (o : SOp)
  | popc (o : SOp)
  | bswap (o : SOp)
  | addi (o : IOp)
  | andi (o : IOp)
  | ori (o : IOp)
  | xori (o : IOp)
  | shli (o : IOp)
  | shri (o : IOp)
  | sari (o : IOp)
  | roli (o : IOp)
  | ldi (o : IOp)
  | lih (o : IOp)
  | cmpi (c : Cond) (o : IOp)
  | bfx (sx : Bool) (o : IOp)
  | bfi (o : IOp)
  -- scalar floating point, R99 to R104
  | fadd (f : FFmt) (o : SOp)
  | fsub (f : FFmt) (o : SOp)
  | fmul (f : FFmt) (o : SOp)
  | fdiv (f : FFmt) (o : SOp)
  | fsqrt (f : FFmt) (o : SOp)
  | fmin (f : FFmt) (o : SOp)
  | fmax (f : FFmt) (o : SOp)
  | ffma (f : FFmt) (o : SOp)
  | fcmp (f : FFmt) (c : FCond) (o : SOp)
  | fcvt (dst src : CvtTy) (o : SOp)
  | fclass (f : ClassFmt) (o : SOp)
  -- control, R105 to R114
  | br (c : Cond) (o : BOp)
  | bri (c : Cond) (o : BIOp)
  | jmp (o : BOp)
  | call (o : BOp)
  | jr (o : SOp)
  | callr (o : SOp)
  | loop (n : LoopIx) (o : BOp)
  | lbrk (n : LoopIx) (c : Cond) (o : BOp)
  | waitf (all : Bool) (o : YOp)
  | yield (o : YOp)
  | exit (o : YOp)
  | nop (o : YOp)
  | illegalInstruction (w : Word) (step : Nat)
  -- scalar memory, R115 to R127
  | ld (t : LdTy) (o : MOp)
  | st (z : Size) (o : MOp)
  | lda (sc : Scope) (t : LdTy) (o : MOp)
  | str (sc : Scope) (z : Size) (o : MOp)
  | lds (t : LdTy) (o : MOp)
  | sts (z : Size) (o : MOp)
  | amo (ord : MOrd) (sc : Scope) (t : AmoTy) (o : MOp)
  | cas (ord : MOrd) (sc : Scope) (t : AmoTy) (o : MOp)
  | pref (h : Hint) (o : MOp)
  | lea (o : MOp)
  -- convoys and vector instructions, R78 to R81, R128 to R156
  | convoy (o : COp)
  | vecEgArrival (member : Nat)
  | vshape (n : Bool) (o : VOp)
  | vadd (o : VOp)
  | vsub (o : VOp)
  | vmul (o : VOp)
  | vmulh (o : VOp)
  | vfma (o : VOp)
  | vfms (o : VOp)
  | vfnma (o : VOp)
  | vdiv (o : VOp)
  | vsqrt (o : VOp)
  | vrcp (o : VOp)
  | vrsq (o : VOp)
  | vexp2 (o : VOp)
  | vlog2 (o : VOp)
  | vsin (o : VOp)
  | vcos (o : VOp)
  | vtanh (o : VOp)
  | vmin (o : VOp)
  | vmax (o : VOp)
  | vabs (o : VOp)
  | vneg (o : VOp)
  | vand (o : VOp)
  | vor (o : VOp)
  | vxor (o : VOp)
  | vshl (o : VOp)
  | vshr (o : VOp)
  | vsar (o : VOp)
  | vcmp (c : VCond) (o : VOp)
  | vsel (o : VOp)
  | viota (cnt : Bool) (o : VOp)
  | vcvt (o : VOp)
  | vquant (o : VOp)
  | vdeq (o : VOp)
  | vredo (op : RedOp) (o : VOp)
  | vredt (op : RedOp) (o : VOp)
  | vscan (op : RedOp) (o : VOp)
  | vperm (t : Bool) (o : VOp)
  | vbcast (row : Bool) (o : VOp)
  | vmovs (hi : BitVec 3) (o : VOp)
  | vins (hi : BitVec 3) (o : VOp)
  | vcompress (o : VOp)
  | vexpand (o : VOp)
  | vslide (dn : Bool) (o : VOp)
  | kand (o : VOp)
  | kor (o : VOp)
  | kxor (o : VOp)
  | kandn (o : VOp)
  | knot (o : VOp)
  | kcnt (o : VOp)
  | kset (f : KSetForm) (o : VOp)
  | kfirst (o : VOp)
  | kmov (f : KMovForm) (o : VOp)
  | vld (f : VMForm) (o : VMOp)
  | vst (f : VMForm) (o : VMOp)
  | vldx (b : Bool) (o : VMOp)
  | vstx (b : Bool) (o : VMOp)
  | vlds (f : VSForm) (o : VMOp)
  | vsts (f : VSForm) (o : VMOp)
  | vbind (o : VMOp)
  | vunbind (nw : Bool) (o : VMOp)
  | vspos (r : Bool) (o : VMOp)
  -- tile instructions, R157 to R187
  | tshape (o : TOp)
  | tzero (o : TOp)
  | tld (p : Bool) (o : TOp)
  | tst (p : Bool) (o : TOp)
  | tstp (o : TOp)
  | tcopy (o : TOp)
  | tgetr (o : TOp)
  | tgetc (o : TOp)
  | tputr (o : TOp)
  | tputc (o : TOp)
  | mma (o : TOp)
  | mmai (o : TOp)
  | mmaDrain (post : Nat)
  | ttrq (ax : Bool) (o : TOp)
  | tcvt (o : TOp)
  | tadd (o : TOp)
  | tmul (o : TOp)
  | tscale (o : TOp)
  | tpref (o : TOp)
  | tdead (o : TOp)
  | tflagr (o : TOp)
  | tflagc (o : TOp)
  | tsend (o : TOp)
  | trecv (x : Bool) (o : TOp)
  | tgather (o : TOp)
  | tappend (o : TOp)
  | twait (all : Bool) (o : TOp)
  | tzmap (o : TOp)
  | tileEntryComplete (post : Nat)
  | fillComplete (slot : Nat)
  | spillComplete (slot : Nat)
  -- engine, barriers, device-made work, R188 to R200
  | cpy (sp : CpySp) (o : AOp)
  | cpy2d (sp : CpySp) (o : AOp)
  | transferComplete (ix : Nat)
  | binit (o : AOp)
  | barrive (f : ArrForm) (o : AOp)
  | bwait (poll : Bool) (o : AOp)
  | gbar (o : AOp)
  | spawn (o : AOp)
  | gsig (n : Bool) (o : AOp)
  -- pages and handles, R201, R202
  | pgalloc (o : SOp)
  | pgfree (o : SOp)
  | hmake (fork : Bool) (o : SOp)
  | hchk (what : HchkWhat) (o : SOp)
  | hmark (o : SOp)
  | htrunc (o : SOp)
  -- mailboxes, R203 to R207
  | mbpost (o : VOp)
  | mbtake (o : VOp)
  | mbpoll (o : SOp)
  | mbctlMode (o : SOp)
  | mbctlBudget (o : SOp)
  | mbctlKill (o : SOp)
  -- hachure, R208 to R210
  | xloop (o : SOp)
  | xgret (o : YOp)
  | xacc (o : SOp)
  | xend (o : YOp)
  | xabort (o : YOp)
  -- fences, caches, code, random numbers, R211 to R214
  | fence (k : FenceKind) (o : AOp)
  | cmo (op : CmoOp) (o : AOp)
  | isync (all : Bool) (o : AOp)
  | rng (w32 : Bool) (o : SOp)
  -- control registers, R215 to R217
  | csrr (o : YOp)
  | csrw (o : YOp)
  | csrx (o : YOp)
  | policygenWrite (o : YOp)
  | tmapbWrite (o : YOp)
  | tracectlWrite (o : YOp)
  -- traps, events, calls, R218 to R222
  | trap (o : YOp)
  | brk (o : YOp)
  | eret (o : YOp)
  | wfe (o : YOp)
  | hcall (o : YOp)
  -- Etesian episodes, R331 to R348
  | etake (o : ROp)
  | epost (o : ROp)
  | ewdkick (o : ROp)
  | eyield (o : ROp)
  | eexit (o : ROp)
  | baseRiscv (i : Rv)
  | budgetExceeded (core : Nat)
  | episodeException (cause : Nat)
  | scrubComplete (core part : Nat)
  | episodeLoad (ctx : Nat)
  | episodeLoadComplete (core part : Nat)
  | episodeRelease (ctx : Nat)
  | episodeKill (ctx : Nat)
  -- contexts, R260 to R275
  | contextCreate (ctx : Nat)
  | contextSuspend (ctx : Nat)
  | quiesceComplete (ctx : Nat)
  | contextResume (ctx : Nat)
  | contextDestroy (ctx : Nat)
  | teardownComplete (ctx : Nat)
  | contextUpdate (ctx : Nat)
  | tlbinv (ctx : Nat)
  | interruptUnmask (ctx : Nat)
  -- queues, nodes, groups, R276 to R309
  | queueCreate (ctx q : Nat)
  | queueResume (ctx q : Nat)
  | queueDrain (ctx q : Nat)
  | queueDestroy (ctx q : Nat)
  | nodeTakeIn (ctx q : Nat)
  | nodeRetire (ctx q : Nat)
  | nodeLimitExpiry (ctx q : Nat) (node : Word)
  | qerrClear (ctx q : Nat)
  | dispatcherNodeStart (ctx q : Nat) (node : Word)
  | copyNodeComplete (ctx q : Nat) (node : Word)
  | loopIterationEnd (ctx q : Nat) (node : Word)
  | minQuantumExpiry (grp : Nat)
  | threadSaveComplete (core slot : Nat)
  -- the link, R383 to R392
  | sendArrival (m : SendMsg)
  | sendResponse (id : Nat) (ack : Bool)
  -- the page pool, R317 to R330
  | poolPromote (ctx : Nat)
  | promoteCopyEnd (ix : Nat)
  | poolHold (ctx : Nat)
  -- wakes and endings that act on the thread or hart at turn; unit and package events
  | waitfWake
  | yieldExpiry
  | convoyComplete
  | tileEntryIssue
  | tileEntryRetire
  | tileWatchdog
  | bwaitWake
  | mbpostWake
  | mbtakeWake
  | wfeWake
  | hcallReply
  | hcallEntryFree
  | etakeWake
  | epostWake
  | groupPlace
  | remoteRequestTimeout
  | turwardRetrain
  | junctionOvertemp
  | spdmIdentity
  | spdmMeasurement
  | telemetryRead
  | packageReset
  | codePageFetch
  -- inputs from outside the package
  | tileSlotRequest (core slot : Nat)
  | nodeAppend (ctx q : Nat) (node : Word)
  | remoteRequest (r : RemoteReq)
  | portEnable (p : Nat)
  | portDisable (p : Nat)
  | podcfgWrite (v : Word)
  | trainingEnd (p : Nat) (r : TrainResult)
  | trainingRetry (p : Nat)
  | laneLost (p lane : Nat)
  | replayLimit (p : Nat)
  | marginMeasurement (m : Margin)
  | firmwareUpdate (image : List Byte) (signature : List Byte)
  | spdmChallenge (nonce : List Byte)
  | minimumQuantumSet (us : Nat)
  | portFence (p : Nat)
  | controlRegionSizeSet (gib : Nat)
  | traceFlushTimeout (core slot : Nat)
  | turwardHostAccess (a : HostAccess)
  | sendTimeout (id : Nat)
  deriving DecidableEq, Repr, Inhabited

end Sys2Proof
end

