-- ==== Sys2Proof/WellFormed.lean ====
section
/-! DEFINITION. The checks of spec/04_encoding.md R73 that a word's own fields decide: step 3 (reserved fields are
zero) and step 4 (coded fields hold allowed values), and the register lists that step 5 compares with the kernel header. -/

namespace Sys2Proof

/-- The step of the first check that fails, 0 when none does. -/
def firstFail : List (Nat × Bool) → Nat
  | [] => 0
  | (n, ok) :: l => if ok then firstFail l else n

/-! ### S, I, B, Y, M formats -/

/-- Which register fields of an S word are used; an unused one is reserved. -/
def SOp.only (o : SOp) (d a b c : Bool) : Nat × Bool :=
  (3, (d || o.d == 0) && (a || o.a == 0) && (b || o.b == 0) && (c || o.c == 0))

/-- Field c holds a rounding mode: bits [29:27] zero (R56). -/
def SOp.rmHigh (o : SOp) : Nat × Bool := (3, o.c.extractLsb' 3 3 == 0)

/-- A rounding instruction: codes 0 to 4 and 7 (R56). -/
def rmRounds (rm : BitVec 3) : Bool := rm != 5 && rm != 6

/-- An instruction with no rounding step: codes 0 and 7 (R56). -/
def rmNone (rm : BitVec 3) : Bool := rm == 0 || rm == 7

/-- A reduction or scan: codes 0 to 3 and 7 (R147), for the integer, minimum, maximum and logic ones too, though they round nothing and R56
allows 0 and 7 where there is no rounding step (DEDUCED, log entry 45). -/
def rmReduce (rm : BitVec 3) : Bool := rm != 4 && rm != 5 && rm != 6

def SOp.rm (o : SOp) : BitVec 3 := o.c.extractLsb' 0 3

def SOp.wf3 (o : SOp) : Nat := firstFail [o.only true true true false]
def SOp.wf2 (o : SOp) : Nat := firstFail [o.only true true false false]
def SOp.wfRound3 (o : SOp) : Nat := firstFail [o.rmHigh, (4, rmRounds o.rm)]
def SOp.wfRound2 (o : SOp) : Nat := firstFail [o.only true true false true, o.rmHigh, (4, rmRounds o.rm)]
def SOp.wfNoRound3 (o : SOp) : Nat := firstFail [o.rmHigh, (4, rmNone o.rm)]
def SOp.wfNoRound2 (o : SOp) : Nat := firstFail [o.only true true false true, o.rmHigh, (4, rmNone o.rm)]

/-- A shift by an immediate: imm36 [35:6] is reserved (R97). -/
def IOp.wfShift (o : IOp) : Nat := firstFail [(3, o.imm.extractLsb' 6 30 == 0)]

/-- The position of a bit-field instruction (R98). -/
def IOp.pos (o : IOp) : Nat := (o.imm.extractLsb' 0 6).toNat

/-- The width of a bit-field instruction (R98). -/
def IOp.width (o : IOp) : Nat := (o.imm.extractLsb' 6 7).toNat

/-- R98: the width is 1 to 64 and the field lies in the register. -/
def IOp.wfBitField (o : IOp) : Nat :=
  firstFail [(3, o.imm.extractLsb' 13 23 == 0), (4, 1 ≤ o.width && o.width ≤ 64 && o.pos + o.width ≤ 64)]

def YOp.only (o : YOp) (n12 g : Bool) : Nat × Bool := (3, (n12 || o.n12 == 0) && (g || o.g == 0))
def YOp.wf (o : YOp) (n12 g : Bool) : Nat := firstFail [o.only n12 g]

/-- The control registers of R216. -/
def csrAssigned (n : BitVec 12) : Bool :=
  let n := n.toNat
  n ≤ 0x006 || (0x010 ≤ n && n ≤ 0x014) || (0x018 ≤ n && n ≤ 0x01A) || (0x020 ≤ n && n ≤ 0x022) || n == 0x028 ||
    (0x030 ≤ n && n ≤ 0x032) || (0x040 ≤ n && n ≤ 0x04F) || (0x100 ≤ n && n ≤ 0x109)

/-- Read-only in every mode (R216). -/
def csrReadOnly (n : BitVec 12) : Bool :=
  let n := n.toNat
  n ≤ 0x006 || (0x020 ≤ n && n ≤ 0x022) || n == 0x028 || n == 0x032

/-- The control registers whose write has a row of its own in the opcode table. -/
def csrOwnRow (n : BitVec 12) : Bool := n == 0x030 || n == 0x100 || n == 0x109

def AOp.only (o : AOp) (dst src len bar acq rel scope : Bool) : Nat × Bool :=
  (3, (dst || o.dst == 0) && (src || o.src == 0) && (len || o.len == 0) && (bar || o.bar == 0) && (acq || !o.acq) &&
    (rel || !o.rel) && (scope || o.scope == 0))

/-- A scope field of its own holds a code of R82. -/
def AOp.scopeOk (o : AOp) : Nat × Bool := (4, o.scope.toNat ≤ 4)

/-! ### V format -/

/-- What the rule of a V-format instruction says of its fields (R131, R137). -/
structure VRule where
  a : Bool
  b : Bool
  c : Bool
  g : Bool
  ty : BitVec 4 → Bool
  rm : BitVec 3 → Bool
  /-- The mask and z fields are used. -/
  k : Bool := true
  z : Bool := true
  /-- The bits of imm8 that the instruction does not use are zero. -/
  imm : BitVec 8 → Bool := fun i => i == 0

def tyInt (t : BitVec 4) : Bool := t.toNat ≤ 7
def tyFloat (t : BitVec 4) : Bool := 8 ≤ t.toNat && t.toNat ≤ 11
def tyIF (t : BitVec 4) : Bool := t.toNat ≤ 11
def tyAny (t : BitVec 4) : Bool := t.toNat ≤ 13
/-- f16, bf16, f32. -/
def tyNarrowF (t : BitVec 4) : Bool := 8 ≤ t.toNat && t.toNat ≤ 10

/-- The rounding field by type: codes 0 to 4 and 7 for F types, 0 or 7 for I types (R137). -/
def rmByTy (t : BitVec 4) (rm : BitVec 3) : Bool := if tyInt t then rmNone rm else rmRounds rm

/-- Steps 3 and 4 for a V-format word. -/
def VOp.wfRule (o : VOp) (r : VRule) : List (Nat × Bool) :=
  [(3, (r.a || (o.va == 0 && !o.ea)) && (r.b || r.g || o.vb == 0) && (r.b || !o.eb) && (r.c || (o.vc == 0 && !o.ec)) &&
      (r.k || o.k == 0) && (r.z || !o.z) && r.imm o.imm),
   (4, (r.g || !o.bs) && !(o.bs && o.eb) && r.ty o.ty && r.rm o.rm)]

/-- The saturating form is imm8[0] = 1, for I types only (R137). -/
def satImm (t : BitVec 4) (i : BitVec 8) : Bool := i == 0 || (i == 1 && tyInt t)

/-- a, b of an I or F type, with a g operand (R137). -/
def VOp.wfArith (o : VOp) (ty : BitVec 4 → Bool) (rounds sat : Bool) : Nat :=
  firstFail (o.wfRule { a := true, b := true, c := false, g := true, ty := ty, rm := if rounds then rmByTy o.ty else rmNone, imm := fun i => i == 0 || (sat && satImm o.ty i) })

/-- a × b + c and its kin. -/
def VOp.wfFused (o : VOp) : Nat :=
  firstFail (o.wfRule { a := true, b := true, c := true, g := true, ty := tyIF, rm := rmByTy o.ty })

/-- One vector source. -/
def VOp.wfUnary (o : VOp) (ty : BitVec 4 → Bool) (rounds sat : Bool) : Nat :=
  firstFail (o.wfRule { a := true, b := false, c := false, g := false, ty := ty, rm := if rounds then rmByTy o.ty else rmNone, imm := fun i => i == 0 || (sat && satImm o.ty i) })

/-- A field that names a mask register has bits [5:4] zero (R75). -/
def kField (r : BitVec 6) : Bool := r.extractLsb' 4 2 == 0

/-- Steps 3 and 4 for a mask instruction (R136): which of va, vb are used, whether each names a mask register, whether
TY is used, whether ea is allowed, and bs. -/
def VOp.wfMask (o : VOp) (a b ty ea bs : Bool) (kd ka kb : Bool) : Nat :=
  firstFail
    [(3, (a || o.va == 0) && (b || o.vb == 0) && o.vc == 0 && o.k == 0 && !o.z && o.rm == 0 && (ea || !o.ea) && !o.eb && !o.ec &&
        o.imm == 0 && (ty || o.ty == 0)),
     (4, tyInt o.ty && o.bs == bs && (!kd || kField o.vd) && (!ka || kField o.va) && (!kb || kField o.vb))]

/-- The reduction types (R147): and, or, xor take I types only. -/
def redTy (op : RedOp) (t : BitVec 4) : Bool :=
  match op with
  | .add | .min | .max | .mul => tyIF t
  | .and | .or | .xor => tyInt t

def VOp.wfReduce (o : VOp) (op : RedOp) : Nat :=
  firstFail (o.wfRule { a := true, b := false, c := false, g := false, ty := redTy op, rm := rmReduce, z := false, imm := fun _ => true } ++ [(4, o.imm == 0 || o.imm == 1)])

def VOp.wfScan (o : VOp) (op : RedOp) : Nat :=
  firstFail ((2, op != .mul) :: o.wfRule { a := true, b := false, c := false, g := false, ty := redTy op, rm := rmReduce, imm := fun i => i.extractLsb' 2 6 == 0 })

/-- A mailbox word (R203): vb names a g register. -/
def VOp.wfMailbox (o : VOp) (post : Bool) : Nat :=
  firstFail [(3, o.k == 0 && !o.z && o.ty == 0 && o.rm == 0 && o.vc == 0 && !o.eb && !o.ec &&
      (if post then o.vd == 0 else o.va == 0 && o.imm == 0 && !o.ea)), (4, o.bs)]

/-! ### VM format -/

def VMOp.only (o : VMOp) (vt base sx s2 k ty off : Bool) : Nat × Bool :=
  (3, (vt || o.vt == 0) && (base || o.base == 0) && (sx || o.sx == 0) && (s2 || o.s2 == 0) && (k || o.k == 0) &&
    (ty || o.ty == 0) && (off || o.off == 0))

/-- A field that names sbN holds N in bits [2:0] (R155). -/
def sbField (r : BitVec 6) : Nat × Bool := (3, r.extractLsb' 3 3 == 0)

def VMOp.wfVS (o : VMOp) : VSForm → Nat
  | .unit => firstFail [o.only true true false false true true true, (4, tyAny o.ty)]
  | .str => firstFail [o.only true true true false true true true, (4, tyAny o.ty)]
  | .d2 => firstFail [(4, tyAny o.ty)]

def VMOp.wfVM (o : VMOp) : VMForm → Nat
  | .unit => o.wfVS .unit
  | .str => o.wfVS .str
  | .d2 => o.wfVS .d2
  | .sb => firstFail [o.only true true false false true false false, sbField o.base]

def VMOp.wfIndexed (o : VMOp) : Nat := firstFail [o.only true true true false true true true, (4, tyAny o.ty)]

/-! ### T format -/

/-- The fields and bits that a row of R159 allows. -/
structure TRule where
  md : Bool := false
  ma : Bool := false
  mb : Bool := false
  g : Bool := false
  pair : Bool := false
  na : Bool := false
  nb : Bool := false
  /-- nacc, ca, cb, skip and pf. -/
  mm : Bool := false
  i32 : Bool := false
  /-- Bits [20:16] are acq, rel and scope; the allowed scope codes. -/
  scopes : List Nat := []
  rel : Bool := false
  ea : Bool := false
  eb : Bool := false
  ec : Bool := false
  la : Bool := false
  lb : Bool := false

/-- The scope code in bits [18:16] of a T word that redefines them (R159). -/
def TOp.scope (o : TOp) : Nat := o.nacc.toNat * 4 + o.ca.toNat * 2 + o.cb.toNat

def TOp.wfRule (o : TOp) (r : TRule) : List (Nat × Bool) :=
  let sc := !r.scopes.isEmpty
  [(3, (r.md || o.md == 0) && (r.ma || o.ma == 0) && (r.mb || o.mb == 0) && (r.g || o.g == 0) && (r.na || sc || !o.na) &&
      (r.nb || (sc && r.rel) || !o.nb) && (r.mm || sc || (!o.nacc && !o.ca && !o.cb)) && (r.mm || (!o.skip && !o.pf)) &&
      (r.i32 || !o.i32) && (r.ea || !o.ea) && (r.eb || !o.eb) && (r.ec || !o.ec) && (r.la || !o.la) && (r.lb || !o.lb)),
   (4, (!r.pair || o.g.toNat ≤ 30) && (!sc || r.scopes.contains o.scope))]

def TOp.wf (o : TOp) (r : TRule) : Nat := firstFail (o.wfRule r)

/-- A vector register number in the low six bits of a tile field. -/
def vInTile (m : BitVec 9) : Nat × Bool := (3, m.extractLsb' 6 3 == 0)

/-- The rule of `MMA` and `MMAI` (R159). -/
def mmaRule (i32 : Bool) : TRule :=
  { md := true, ma := true, mb := true, na := true, nb := true, mm := true, i32, ea := true, eb := true, ec := true, la := true,
    lb := true }

/-- A base instruction that has an encoding (R331): no subtraction of an immediate, shift amounts below the width, and on 32 bits only the
operations that RV64IM has there. -/
def RvI.legal : RvI → Bool
  | .opImm f _ _ imm =>
    match f with
    | .sub => false
    | .sll | .srl | .sra => imm.toNat < 64
    | .add | .slt | .sltu | .xor | .or | .and => true
  | .opImm32 f _ _ imm =>
    match f with
    | .add => true
    | .sll | .srl | .sra => imm.toNat < 32
    | .sub | .slt | .sltu | .xor | .or | .and => false
  | .op32 f _ _ _ =>
    match f with
    | .add | .sub | .sll | .srl | .sra => true
    | .slt | .sltu | .xor | .or | .and => false
  | .mul32 f _ _ _ =>
    match f with
    | .mul | .div | .divu | .rem | .remu => true
    | .mulh | .mulhsu | .mulhu => false
  | .lui _ _ | .auipc _ _ | .jal _ _ | .jalr _ _ _ | .branch _ _ _ _ | .load _ _ _ _ | .store _ _ _ _ | .op _ _ _ _ | .mul _ _ _ _ => true
  | .fence _ _ _ _ _ | .fenceI _ _ _ | .ecall | .ebreak | .wfi | .csr _ _ _ _ _ | .lr _ _ _ _ _ | .sc _ _ _ _ _ _ | .amo _ _ _ _ _ _ _ => true

/-- A base instruction of 32 bits that has an encoding, or a parcel whose low bits are not both one. -/
def Rv.legal : Rv → Bool
  | .full i => i.legal
  | .compressed h => h.extractLsb' 0 2 != 3

/-- The first of steps 2 to 4 of R73 that the fields of an instruction fail; 0 when it is well formed. A `KMOV` to or from a vector register,
or from a `g` register, takes every TY from 0 to 7, as R136 says, though it uses none (DEDUCED, log entry 44). A step of the
device or the host has no word and is well formed. Step 2 is failed only by operand values that no word can hold. -/
def wfStep : Instr → Nat
  | .add o | .sub o | .mul o | .mulh _ o | .div _ o | .rem _ o | .and o | .or o | .xor o | .andn o => o.wf3
  | .shl o | .shr o | .sar o | .rol o | .min _ o | .max _ o | .cmp _ o => o.wf3
  | .sel _ => 0
  | .clz o | .ctz o | .popc o | .bswap o => o.wf2
  | .addi _ | .andi _ | .ori _ | .xori _ | .cmpi _ _ => 0
  | .shli o | .shri o | .sari o | .roli o => o.wfShift
  | .ldi o => firstFail [(3, o.a == 0)]
  | .lih o => firstFail [(3, o.imm.extractLsb' 28 8 == 0)]
  | .bfx _ o | .bfi o => o.wfBitField
  | .fadd _ o | .fsub _ o | .fmul _ o | .fdiv _ o | .ffma _ o => o.wfRound3
  | .fsqrt _ o => o.wfRound2
  | .fmin _ o | .fmax _ o | .fcmp _ _ o => o.wfNoRound3
  | .fcvt d s o => if d = s then 2 else o.wfRound2
  | .fclass _ o => o.wfNoRound2
  | .br _ _ | .bri _ _ => 0
  | .jmp o | .call o => firstFail [(3, o.a == 0 && o.b == 0)]
  | .jr o | .callr o => firstFail [o.only false true false false]
  | .loop _ o => firstFail [(3, o.b == 0), (4, 1 ≤ o.off.toInt)]
  | .lbrk _ _ o => firstFail [(3, o.off == 0)]
  | .waitf false o => firstFail [(3, o.n12.extractLsb' 6 6 == 0 && o.g == 0)]
  | .waitf true o => o.wf false false
  | .yield o => o.wf true false
  | .exit o | .nop o | .eret o | .xgret o | .xend o | .xabort o => o.wf false false
  | .ld _ _ | .st _ _ | .lda _ _ _ | .str _ _ _ | .lds _ _ | .sts _ _ | .lea _ => 0
  | .amo _ _ _ o => firstFail [(3, o.scale == 0), (4, (o.off.extractLsb' 24 4).toNat ≤ 8)]
  | .cas _ _ _ o => firstFail [(3, o.scale == 0 && o.off.extractLsb' 24 4 == 0)]
  | .pref _ o => firstFail [(3, o.t == 0)]
  | .convoy _ => 0
  | .vshape _ o => firstFail [(3, o.vd == 0 && o.va == 0 && o.vc == 0 && o.k == 0 && !o.z && o.ty == 0 && o.rm == 0 && !o.ea && !o.eb &&
      !o.ec && o.imm == 0), (4, o.bs)]
  | .vadd o | .vsub o | .vmul o => o.wfArith tyIF true true
  | .vmulh o | .vshl o | .vshr o | .vsar o => o.wfArith tyInt false false
  | .vfma o | .vfms o | .vfnma o => o.wfFused
  | .vdiv o => o.wfArith tyIF true false
  | .vsqrt o => o.wfUnary tyFloat true false
  | .vrcp o | .vrsq o | .vexp2 o | .vlog2 o | .vsin o | .vcos o | .vtanh o => o.wfUnary tyNarrowF true false
  | .vmin o | .vmax o => o.wfArith tyIF false false
  | .vabs o | .vneg o => o.wfUnary tyIF false true
  | .vand o | .vor o | .vxor o => o.wfArith tyAny false false
  | .vcmp c o => firstFail (o.wfRule { a := true, b := true, c := false, g := true, ty := tyIF, rm := rmNone } ++
      [(4, kField o.vd && (c != .un || tyFloat o.ty))])
  | .vsel o => firstFail (o.wfRule { a := true, b := true, c := false, g := true, ty := tyAny, rm := rmNone, z := false })
  | .viota _ o => firstFail (o.wfRule { a := false, b := false, c := false, g := false, ty := tyInt, rm := rmNone })
  | .vcvt o => firstFail (o.wfRule { a := true, b := false, c := false, g := false, ty := tyAny, rm := rmRounds, imm := fun i => i.extractLsb' 4 4 == 0 } ++ [(4, tyAny (o.imm.extractLsb' 0 4) && o.imm.extractLsb' 0 4 != o.ty)])
  | .vquant o => firstFail (o.wfRule { a := true, b := false, c := false, g := false, ty := tyNarrowF, rm := rmRounds, imm := fun i => i.extractLsb' 5 3 == 0 } ++
      [(4, 5 ≤ o.imm.toNat && o.imm.toNat ≤ 16 && o.k == 0 && !o.z && o.vd.toNat ≤ 62)])
  | .vdeq o => firstFail (o.wfRule { a := true, b := false, c := false, g := false, ty := tyNarrowF, rm := rmRounds, imm := fun i => i.extractLsb' 5 3 == 0 } ++ [(4, 5 ≤ o.imm.toNat && o.imm.toNat ≤ 16 && o.va.toNat ≤ 62)])
  | .vredo op o | .vredt op o => o.wfReduce op
  | .vscan op o => o.wfScan op
  | .vperm false o => firstFail (o.wfRule { a := true, b := true, c := false, g := false, ty := tyAny, rm := rmNone })
  | .vperm true o | .vcompress o | .vexpand o => o.wfUnary tyAny false false
  | .vbcast row o => firstFail (o.wfRule { a := row, b := false, c := false, g := true, ty := tyAny, rm := rmNone } ++ [(4, o.bs)])
  | .vmovs _ o => firstFail (o.wfRule { a := true, b := false, c := false, g := false, ty := tyAny, rm := rmNone, k := false, z := false, imm := fun _ => true })
  | .vins _ o => firstFail (o.wfRule { a := false, b := false, c := false, g := true, ty := tyAny, rm := rmNone, k := false, z := false, imm := fun _ => true } ++ [(4, o.bs)])
  | .vslide _ o => firstFail ((3, o.bs || o.vb == 0) ::
      o.wfRule { a := true, b := false, c := false, g := true, ty := tyAny, rm := rmNone, imm := fun i => !o.bs || i == 0 })
  | .kand o | .kor o | .kxor o | .kandn o => o.wfMask true true true false false true true true
  | .knot o => o.wfMask true false true false false true true false
  | .kcnt o | .kfirst o => o.wfMask true false true false false false true false
  | .kset .count o => o.wfMask false true true false true true false false
  | .kset .step o => o.wfMask false false true false false true false false
  | .kset .ones o | .kset .zero o => o.wfMask false false false false false true false false
  | .kmov .move o => o.wfMask true false false false false true true false
  | .kmov .fromv o => o.wfMask true false true true false true false false
  | .kmov .tov o => o.wfMask true false true false false false true false
  | .kmov .fromg o => o.wfMask false true true false true true false false
  | .vld f o | .vst f o => o.wfVM f
  | .vldx _ o | .vstx _ o => o.wfIndexed
  | .vlds f o | .vsts f o => o.wfVS f
  | .vbind o => firstFail [o.only true true false false false false false, sbField o.vt]
  | .vunbind _ o => firstFail [o.only true false false false false false false, sbField o.vt]
  | .vspos false o => firstFail [o.only false true true false false false false, sbField o.base]
  | .vspos true o => firstFail [o.only true true false false false false false, sbField o.base]
  | .tshape o => o.wf { md := true, g := true }
  | .tzero o | .tdead o | .tflagc o => o.wf { md := true }
  | .tld false o => o.wf { md := true, g := true }
  | .tld true o => o.wf { md := true, g := true, pair := true }
  | .tst false o => o.wf { ma := true, g := true, ea := true, la := true }
  | .tst true o | .tstp o => o.wf { ma := true, g := true, pair := true, ea := true, la := true }
  | .tcopy o => o.wf { md := true, ma := true, ea := true, la := true }
  | .tgetr o | .tgetc o => firstFail (vInTile o.md :: o.wfRule { md := true, ma := true, g := true, ea := true, la := true })
  | .tputr o | .tputc o => firstFail (vInTile o.ma :: o.wfRule { md := true, ma := true, g := true, ea := true, ec := true })
  | .mma o => o.wf (mmaRule false)
  | .mmai o => firstFail (o.wfRule (mmaRule true) ++ [(4, o.i32)])
  | .ttrq _ o => o.wf { md := true, ma := true, ea := true, la := true }
  | .tcvt o => o.wf { md := true, ma := true, g := true, ea := true, la := true }
  | .tadd o | .tmul o => o.wf { md := true, ma := true, mb := true, na := true, nb := true, ea := true, eb := true, la := true, lb := true }
  | .tscale o => o.wf { md := true, ma := true, g := true, na := true, ea := true, la := true }
  | .tpref o => o.wf { ma := true }
  | .tflagr o => o.wf { ma := true, g := true }
  | .tsend o => o.wf { ma := true, g := true, pair := true, scopes := [3, 4], rel := true, ea := true, la := true }
  | .trecv false o => o.wf { md := true, g := true }
  | .trecv true o => o.wf { md := true }
  | .tgather o => o.wf { md := true, g := true, pair := true, scopes := [2, 3, 4] }
  | .tappend o => o.wf { ma := true, g := true, pair := true, scopes := [2, 3, 4], rel := true, ea := true, la := true }
  | .twait false o => o.wf { ma := true }
  | .twait true o => o.wf { }
  | .tzmap o => firstFail (vInTile o.mb :: o.wfRule { md := true, ma := true, mb := true, ea := true, eb := true, la := true })
  | .cpy _ o => firstFail [o.scopeOk]
  | .cpy2d _ o => firstFail [(4, o.scope.toNat ≤ 4 && o.len.toNat ≤ 60)]
  | .binit o => firstFail [o.only false true false true false true true, o.scopeOk]
  | .barrive .n o => firstFail [o.only false true false true false false true, o.scopeOk]
  | .barrive .one o | .barrive .err o => firstFail [o.only false false false true false false true, o.scopeOk]
  | .bwait false o => firstFail [o.only true false true true false false true, o.scopeOk]
  | .bwait true o => firstFail [o.only true false false true false false true, o.scopeOk]
  | .gbar o => firstFail [o.only false false false false false false true, (4, o.scope == 2)]
  | .spawn o => firstFail [o.only true true true false false false false]
  | .gsig n o => firstFail [o.only true true n false false false false]
  | .fence _ o => firstFail [o.only false false false false false false true, o.scopeOk]
  | .cmo _ o => firstFail [o.only true false true false false false true, (4, 1 ≤ o.scope.toNat && o.scope.toNat ≤ 4)]
  | .isync all o => firstFail [o.only (!all) false (!all) false false false false]
  | .pgalloc o | .hmake true o => o.wf3
  | .pgfree o | .hchk _ o | .hmark o | .mbpoll o => o.wf2
  | .hmake false o | .rng _ o => firstFail [o.only true false false false]
  | .htrunc o | .mbctlMode o | .mbctlBudget o => firstFail [o.only false true true false]
  | .mbctlKill o => firstFail [o.only false true false false]
  | .mbpost o => o.wfMailbox true
  | .mbtake o => o.wfMailbox false
  | .xloop o => firstFail [o.only false true true true]
  | .xacc o => firstFail [o.only false false false false]
  | .csrr o => firstFail [(4, csrAssigned o.n12)]
  | .csrw o => firstFail [(2, !csrOwnRow o.n12), (4, csrAssigned o.n12 && !csrReadOnly o.n12)]
  | .csrx o => firstFail [(4, csrAssigned o.n12 && !csrReadOnly o.n12)]
  | .policygenWrite o => firstFail [(2, o.n12 == 0x030)]
  | .tmapbWrite o => firstFail [(2, o.n12 == 0x100)]
  | .tracectlWrite o => firstFail [(2, o.n12 == 0x109)]
  | .trap _ => 0
  | .hcall _ => 0
  | .brk o => o.wf true false
  | .wfe o => o.wf false true
  | .etake o => firstFail [(3, o.rs2 == 0)]
  | .epost _ => 0
  | .ewdkick o => firstFail [(3, o.rs1 == 0 && o.rs2 == 0)]
  | .eyield o => firstFail [(3, o.rd == 0 && o.rs1 == 0 && o.rs2 == 0)]
  | .eexit o => firstFail [(3, o.rd == 0 && o.rs2 == 0)]
  | .waitfWake | .yieldExpiry | .illegalInstruction _ _ | .convoyComplete | .vecEgArrival _ | .mmaDrain _ => 0
  | .tileEntryIssue | .tileEntryComplete _ | .tileEntryRetire | .fillComplete _ | .spillComplete _ | .tileSlotRequest _ _ => 0
  | .tileWatchdog | .transferComplete _ | .bwaitWake | .mbpostWake | .mbtakeWake | .wfeWake | .hcallReply | .hcallEntryFree => 0
  | .etakeWake | .epostWake | .budgetExceeded _ | .episodeException _ | .scrubComplete _ _ | .episodeLoad _ => 0
  | .episodeLoadComplete _ _ | .episodeRelease _ | .episodeKill _ => 0
  | .contextCreate _ | .contextSuspend _ | .quiesceComplete _ | .contextResume _ | .contextDestroy _ | .teardownComplete _ => 0
  | .contextUpdate _ | .tlbinv _ | .interruptUnmask _ | .queueCreate _ _ | .queueResume _ _ | .queueDrain _ _ => 0
  | .queueDestroy _ _ | .nodeAppend _ _ _ | .nodeTakeIn _ _ | .nodeRetire _ _ | .nodeLimitExpiry _ _ _ | .qerrClear _ _ => 0
  | .groupPlace | .dispatcherNodeStart _ _ _ | .copyNodeComplete _ _ _ | .loopIterationEnd _ _ _ | .minQuantumExpiry _ => 0
  | .threadSaveComplete _ _ | .sendArrival _ | .sendResponse _ _ | .sendTimeout _ | .remoteRequest _ => 0
  | .remoteRequestTimeout | .portEnable _ | .portDisable _ | .podcfgWrite _ | .trainingEnd _ _ | .trainingRetry _ => 0
  | .laneLost _ _ | .replayLimit _ | .turwardRetrain | .poolPromote _ | .promoteCopyEnd _ | .poolHold _ => 0
  | .traceFlushTimeout _ _ | .marginMeasurement _ | .junctionOvertemp | .firmwareUpdate _ _ | .spdmIdentity => 0
  | .spdmMeasurement | .spdmChallenge _ | .telemetryRead | .minimumQuantumSet _ | .portFence _ => 0
  | .controlRegionSizeSet _ | .packageReset | .turwardHostAccess _ | .codePageFetch => 0
  | .baseRiscv r => firstFail [(1, r.legal)]

/-- An instruction whose fields pass steps 2 to 4 of R73. -/
def wf (i : Instr) : Bool := wfStep i == 0

/-! ### The registers that step 5 checks -/

/-- Sources a and b, b only when it names a vector register. -/
def VOp.ab (o : VOp) : List (BitVec 6) := if o.bs then [o.va] else [o.va, o.vb]

/-- The vector registers an instruction reads, by R75 and its own rule. -/
def vSources (i : Instr) : List (BitVec 6) :=
  match i with
  | .vadd o | .vsub o | .vmul o | .vmulh o | .vdiv o | .vmin o | .vmax o | .vand o | .vor o | .vxor o => o.ab
  | .vshl o | .vshr o | .vsar o | .vcmp _ o | .vsel o => o.ab
  | .vfma o | .vfms o | .vfnma o => o.ab ++ [o.vc]
  | .vsqrt o | .vrcp o | .vrsq o | .vexp2 o | .vlog2 o | .vsin o | .vcos o | .vtanh o | .vabs o | .vneg o => [o.va]
  | .vcvt o | .vquant o | .vredo _ o | .vredt _ o | .vscan _ o | .vmovs _ o | .vcompress o | .vexpand o | .vslide _ o => [o.va]
  | .vdeq o => [o.va, o.va + 1]
  | .vperm false o => [o.va, o.vb]
  | .vperm true o | .vbcast true o | .kmov .fromv o => [o.va]
  | .vst _ o | .vsts _ o => [o.vt]
  | .vldx _ o => [o.sx]
  | .vstx _ o => [o.sx, o.vt]
  | .tputr o | .tputc o => [o.ma.extractLsb' 0 6]
  | .tzmap o => [o.mb.extractLsb' 0 6]
  | .mbpost o => [o.va]
  | .waitf false o => [o.n12.extractLsb' 0 6]
  | _ => []

/-- The vector registers an instruction writes. -/
def vDests (i : Instr) : List (BitVec 6) :=
  match i with
  | .vadd o | .vsub o | .vmul o | .vmulh o | .vdiv o | .vmin o | .vmax o | .vand o | .vor o | .vxor o => [o.vd]
  | .vshl o | .vshr o | .vsar o | .vsel o | .vfma o | .vfms o | .vfnma o => [o.vd]
  | .vsqrt o | .vrcp o | .vrsq o | .vexp2 o | .vlog2 o | .vsin o | .vcos o | .vtanh o | .vabs o | .vneg o => [o.vd]
  | .viota _ o | .vcvt o | .vdeq o | .vredo _ o | .vredt _ o | .vscan _ o | .vperm _ o | .vbcast _ o | .vins _ o => [o.vd]
  | .vcompress o | .vexpand o | .vslide _ o | .kmov .tov o | .mbtake o => [o.vd]
  | .vquant o => [o.vd, o.vd + 1]
  | .vld _ o | .vldx _ o | .vlds _ o => [o.vt]
  | .tgetr o | .tgetc o => [o.md.extractLsb' 0 6]
  | _ => []

/-- The tile registers an instruction names as sources, in the order ma, mb; the accumulator source md is not among them. -/
def tSources (i : Instr) : List (BitVec 9) :=
  match i with
  | .tst _ o | .tstp o | .tcopy o | .tgetr o | .tgetc o | .ttrq _ o | .tcvt o | .tscale o | .tsend o | .tappend o | .tzmap o => [o.ma]
  | .tpref o | .tflagr o | .twait false o => [o.ma]
  | .mma o | .mmai o | .tadd o | .tmul o => [o.ma, o.mb]
  | _ => []

/-- The tile register that field md names. -/
def tDests (i : Instr) : List (BitVec 9) :=
  match i with
  | .tshape o | .tzero o | .tld _ o | .tcopy o | .tputr o | .tputc o | .mma o | .mmai o | .ttrq _ o | .tcvt o => [o.md]
  | .tadd o | .tmul o | .tscale o | .tdead o | .tflagc o | .trecv _ o | .tgather o | .tzmap o => [o.md]
  | _ => []

/-- An instruction of the tile majors 0x80 to 0x95. -/
def isTile (i : Instr) : Bool :=
  match i with
  | .tshape _ | .tzero _ | .tld _ _ | .tst _ _ | .tstp _ | .tcopy _ | .tgetr _ | .tgetc _ | .tputr _ | .tputc _ | .mma _ | .mmai _ => true
  | .ttrq _ _ | .tcvt _ | .tadd _ | .tmul _ | .tscale _ | .tpref _ | .tdead _ | .tflagr _ | .tflagc _ | .tsend _ | .trecv _ _ => true
  | .tgather _ | .tappend _ | .twait _ _ | .tzmap _ => true
  | _ => false

/-- Step 5 of R73 against the kernel header's register counts (R231). -/
def regsOk (vregs tiles : Nat) (i : Instr) : Bool :=
  (vSources i ++ vDests i).all (fun r => r.toNat < vregs) && (tSources i ++ tDests i).all (fun r => r.toNat < tiles) &&
    (!isTile i || tiles != 0)

end Sys2Proof
end

