-- ==== Sys2Proof/Decode.lean ====
section
/-! DEFINITION. Decoding an instruction word (spec/04_encoding.md R71 to R84, spec/17_episode.md R337) and the encoder.
Decoding is total: a word is an instruction or fails at a numbered step of R73. -/

namespace Sys2Proof

/-! ### The fields of the formats (R76)

A word is its major, its FN and 48 bits of fields. -/

/-- The word of a major, an FN and 48 bits of fields. -/
def mkWord (mj fn : Nat) (f : BitVec 48) : Word := BitVec.ofNat 8 mj ++ BitVec.ofNat 8 fn ++ f

/-- One bit as a vector of width 1. -/
def bit (b : Bool) : BitVec 1 := BitVec.ofBool b

/-- Bit `i` of a word. -/
def flag {n : Nat} (f : BitVec n) (i : Nat) : Bool := f.extractLsb' i 1 == 1#1

def SOp.pack (o : SOp) : BitVec 48 := o.d ++ o.a ++ o.b ++ o.c ++ 0#24
def SOp.unpack (f : BitVec 48) : SOp := ⟨f.extractLsb' 42 6, f.extractLsb' 36 6, f.extractLsb' 30 6, f.extractLsb' 24 6⟩

def IOp.pack (o : IOp) : BitVec 48 := o.d ++ o.a ++ o.imm
def IOp.unpack (f : BitVec 48) : IOp := ⟨f.extractLsb' 42 6, f.extractLsb' 36 6, f.extractLsb' 0 36⟩

def BOp.pack (o : BOp) : BitVec 48 := o.a ++ o.b ++ o.off
def BOp.unpack (f : BitVec 48) : BOp := ⟨f.extractLsb' 42 6, f.extractLsb' 36 6, f.extractLsb' 0 36⟩

def BIOp.pack (o : BIOp) : BitVec 48 := o.a ++ o.imm ++ o.off
def BIOp.unpack (f : BitVec 48) : BIOp := ⟨f.extractLsb' 42 6, f.extractLsb' 30 12, f.extractLsb' 0 30⟩

def MOp.pack (o : MOp) : BitVec 48 := o.t ++ o.base ++ o.index ++ o.scale ++ o.off
def MOp.unpack (f : BitVec 48) : MOp :=
  ⟨f.extractLsb' 42 6, f.extractLsb' 36 6, f.extractLsb' 30 6, f.extractLsb' 28 2, f.extractLsb' 0 28⟩

def VOp.pack (o : VOp) : BitVec 48 :=
  o.vd ++ o.va ++ o.vb ++ o.vc ++ o.k ++ bit o.z ++ o.ty ++ o.rm ++ bit o.ea ++ bit o.eb ++ bit o.ec ++ bit o.bs ++ o.imm
def VOp.unpack (f : BitVec 48) : VOp :=
  { vd := f.extractLsb' 42 6, va := f.extractLsb' 36 6, vb := f.extractLsb' 30 6, vc := f.extractLsb' 24 6
    k := f.extractLsb' 20 4, z := flag f 19, ty := f.extractLsb' 15 4, rm := f.extractLsb' 12 3
    ea := flag f 11, eb := flag f 10, ec := flag f 9, bs := flag f 8, imm := f.extractLsb' 0 8 }

def VMOp.pack (o : VMOp) : BitVec 48 := o.vt ++ o.base ++ o.sx ++ o.s2 ++ o.k ++ o.ty ++ o.off
def VMOp.unpack (f : BitVec 48) : VMOp :=
  { vt := f.extractLsb' 42 6, base := f.extractLsb' 36 6, sx := f.extractLsb' 30 6, s2 := f.extractLsb' 24 6
    k := f.extractLsb' 20 4, ty := f.extractLsb' 16 4, off := f.extractLsb' 0 16 }

def TOp.pack (o : TOp) : BitVec 48 :=
  o.md ++ o.ma ++ o.mb ++ bit o.na ++ bit o.nb ++ bit o.nacc ++ bit o.ca ++ bit o.cb ++ bit o.skip ++ bit o.i32 ++ 0#1 ++ o.g ++
    bit o.ea ++ bit o.eb ++ bit o.ec ++ bit o.la ++ bit o.lb ++ bit o.pf ++ 0#2
def TOp.unpack (f : BitVec 48) : TOp :=
  { md := f.extractLsb' 39 9, ma := f.extractLsb' 30 9, mb := f.extractLsb' 21 9, na := flag f 20, nb := flag f 19
    nacc := flag f 18, ca := flag f 17, cb := flag f 16, skip := flag f 15, i32 := flag f 14
    g := f.extractLsb' 8 5, ea := flag f 7, eb := flag f 6, ec := flag f 5, la := flag f 4, lb := flag f 3
    pf := flag f 2 }

def AOp.pack (o : AOp) : BitVec 48 := o.dst ++ o.src ++ o.len ++ o.bar ++ bit o.acq ++ bit o.rel ++ o.scope ++ 0#19
def AOp.unpack (f : BitVec 48) : AOp :=
  { dst := f.extractLsb' 42 6, src := f.extractLsb' 36 6, len := f.extractLsb' 30 6, bar := f.extractLsb' 24 6
    acq := flag f 23, rel := flag f 22, scope := f.extractLsb' 19 3 }

def YOp.pack (o : YOp) : BitVec 48 := o.n12 ++ o.g ++ 0#30
def YOp.unpack (f : BitVec 48) : YOp := ⟨f.extractLsb' 36 12, f.extractLsb' 30 6⟩

/-- The convoy header (R78) has no FN: bits [55:48] are cnt, u0, u1, u2. -/
def COp.pack (o : COp) : Word :=
  BitVec.ofNat 8 0xC0 ++ o.cnt ++ o.u0 ++ o.u1 ++ o.u2 ++ o.u3 ++ bit o.ch3 ++ bit o.ch2 ++ bit o.ch1 ++ bit o.ch0 ++ 0#42
def COp.unpack (w : Word) : COp :=
  { cnt := w.extractLsb' 54 2, u0 := w.extractLsb' 52 2, u1 := w.extractLsb' 50 2, u2 := w.extractLsb' 48 2
    u3 := w.extractLsb' 46 2, ch3 := flag w 45, ch2 := flag w 44, ch1 := flag w 43, ch0 := flag w 42 }

/-! ### Coded FN fields -/

/-- The condition codes of R94. -/
def Cond.code : Cond → Nat
  | .eq => 0
  | .ne => 1
  | .lt => 2
  | .ge => 3
  | .ltn => 4
  | .gen => 5
  | .any => 6
  | .none => 7

/-- The inverse of `Cond.code`. -/
def Cond.ofCode (n : Nat) : Option Cond :=
  match n with
  | 0 => some .eq
  | 1 => some .ne
  | 2 => some .lt
  | 3 => some .ge
  | 4 => some .ltn
  | 5 => some .gen
  | 6 => some .any
  | 7 => some .none
  | _ => Option.none

/-- The condition codes of `FCMP` (R102). -/
def FCond.code : FCond → Nat
  | .eq => 0
  | .lt => 1
  | .le => 2
  | .un => 3

/-- The inverse of `FCond.code`. -/
def FCond.ofCode (n : Nat) : Option FCond :=
  match n with
  | 0 => some .eq
  | 1 => some .lt
  | 2 => some .le
  | 3 => some .un
  | _ => none

/-- The condition codes of `VCMP` (R141). -/
def VCond.code : VCond → Nat
  | .eq => 0
  | .ne => 1
  | .lt => 2
  | .le => 3
  | .gt => 4
  | .ge => 5
  | .un => 6

/-- The inverse of `VCond.code`. -/
def VCond.ofCode (n : Nat) : Option VCond :=
  match n with
  | 0 => some .eq
  | 1 => some .ne
  | 2 => some .lt
  | 3 => some .le
  | 4 => some .gt
  | 5 => some .ge
  | 6 => some .un
  | _ => none

/-- The format codes of scalar floating point (R99). -/
def FFmt.code : FFmt → Nat
  | .f32 => 6
  | .f64 => 7

/-- The inverse of `FFmt.code`. -/
def FFmt.ofCode (n : Nat) : Option FFmt :=
  match n with
  | 6 => some .f32
  | 7 => some .f64
  | _ => none

/-- The type codes of `FCVT` (R103). -/
def CvtTy.code : CvtTy → Nat
  | .i32 => 0
  | .n32 => 1
  | .i64 => 2
  | .n64 => 3
  | .f16 => 4
  | .bf16 => 5
  | .f32 => 6
  | .f64 => 7

/-- The inverse of `CvtTy.code`. -/
def CvtTy.ofCode (n : Nat) : Option CvtTy :=
  match n with
  | 0 => some .i32
  | 1 => some .n32
  | 2 => some .i64
  | 3 => some .n64
  | 4 => some .f16
  | 5 => some .bf16
  | 6 => some .f32
  | 7 => some .f64
  | _ => none

/-- The FN values of `FCLASS` (R104). -/
def ClassFmt.code : ClassFmt → Nat
  | .f16 => 132
  | .bf16 => 133
  | .f32 => 134
  | .f64 => 135

/-- The inverse of `ClassFmt.code`. -/
def ClassFmt.ofCode (n : Nat) : Option ClassFmt :=
  match n with
  | 132 => some .f16
  | 133 => some .bf16
  | 134 => some .f32
  | 135 => some .f64
  | _ => none

/-- The loop counter numbers of R108. -/
def LoopIx.code : LoopIx → Nat
  | .lc0 => 0
  | .lc1 => 1
  | .lc2 => 2

/-- The inverse of `LoopIx.code`. -/
def LoopIx.ofCode (n : Nat) : Option LoopIx :=
  match n with
  | 0 => some .lc0
  | 1 => some .lc1
  | 2 => some .lc2
  | _ => none

/-- The scope codes of R82. -/
def Scope.code : Scope → Nat
  | .t => 0
  | .c => 1
  | .g => 2
  | .d => 3
  | .s => 4

/-- The inverse of `Scope.code`. -/
def Scope.ofCode (n : Nat) : Option Scope :=
  match n with
  | 0 => some .t
  | 1 => some .c
  | 2 => some .g
  | 3 => some .d
  | 4 => some .s
  | _ => none

/-- The size codes of R115. -/
def Size.code : Size → Nat
  | .b1 => 0
  | .b2 => 1
  | .b4 => 2
  | .b8 => 3

/-- The inverse of `Size.code`. -/
def Size.ofCode (n : Nat) : Option Size :=
  match n with
  | 0 => some .b1
  | 1 => some .b2
  | 2 => some .b4
  | 3 => some .b8
  | _ => none

/-- The sx and size bits of a load (R115). -/
def LdTy.code : LdTy → Nat
  | .n8 => 0
  | .n16 => 1
  | .n32 => 2
  | .n64 => 3
  | .i8 => 4
  | .i16 => 5
  | .i32 => 6

/-- The inverse of `LdTy.code`. -/
def LdTy.ofCode (n : Nat) : Option LdTy :=
  match n with
  | 0 => some .n8
  | 1 => some .n16
  | 2 => some .n32
  | 3 => some .n64
  | 4 => some .i8
  | 5 => some .i16
  | 6 => some .i32
  | _ => none

/-- The sx and size bits of `AMO` and `CAS` (R115). -/
def AmoTy.code : AmoTy → Nat
  | .n32 => 2
  | .n64 => 3
  | .i32 => 6

/-- The inverse of `AmoTy.code`. -/
def AmoTy.ofCode (n : Nat) : Option AmoTy :=
  match n with
  | 2 => some .n32
  | 3 => some .n64
  | 6 => some .i32
  | _ => none

/-- The ord codes of R115. -/
def MOrd.code : MOrd → Nat
  | .relaxed => 0
  | .acq => 1
  | .rel => 2
  | .ar => 3

/-- The inverse of `MOrd.code`. -/
def MOrd.ofCode (n : Nat) : Option MOrd :=
  match n with
  | 0 => some .relaxed
  | 1 => some .acq
  | 2 => some .rel
  | 3 => some .ar
  | _ => none

/-- The FN values of `PREF` (R126). -/
def Hint.code : Hint → Nat
  | .l1 => 0
  | .own => 1
  | .l2 => 2

/-- The inverse of `Hint.code`. -/
def Hint.ofCode (n : Nat) : Option Hint :=
  match n with
  | 0 => some .l1
  | 1 => some .own
  | 2 => some .l2
  | _ => none

/-- The operation codes of `AMO` (R123). -/
def AmoOp.code : AmoOp → Nat
  | .add => 0
  | .and => 1
  | .or => 2
  | .xor => 3
  | .min => 4
  | .max => 5
  | .minn => 6
  | .maxn => 7
  | .swap => 8

/-- The inverse of `AmoOp.code`. -/
def AmoOp.ofCode (n : Nat) : Option AmoOp :=
  match n with
  | 0 => some .add
  | 1 => some .and
  | 2 => some .or
  | 3 => some .xor
  | 4 => some .min
  | 5 => some .max
  | 6 => some .minn
  | 7 => some .maxn
  | 8 => some .swap
  | _ => none

/-- The operation codes of R147. -/
def RedOp.code : RedOp → Nat
  | .add => 0
  | .min => 1
  | .max => 2
  | .mul => 3
  | .and => 4
  | .or => 5
  | .xor => 6

/-- The inverse of `RedOp.code`. -/
def RedOp.ofCode (n : Nat) : Option RedOp :=
  match n with
  | 0 => some .add
  | 1 => some .min
  | 2 => some .max
  | 3 => some .mul
  | 4 => some .and
  | 5 => some .or
  | 6 => some .xor
  | _ => none

/-- The FN values of `KSET` (R136). -/
def KSetForm.code : KSetForm → Nat
  | .count => 0
  | .step => 1
  | .ones => 2
  | .zero => 3

/-- The inverse of `KSetForm.code`. -/
def KSetForm.ofCode (n : Nat) : Option KSetForm :=
  match n with
  | 0 => some .count
  | 1 => some .step
  | 2 => some .ones
  | 3 => some .zero
  | _ => none

/-- The FN values of `KMOV` (R136). -/
def KMovForm.code : KMovForm → Nat
  | .move => 0
  | .fromv => 1
  | .tov => 2
  | .fromg => 3

/-- The inverse of `KMovForm.code`. -/
def KMovForm.ofCode (n : Nat) : Option KMovForm :=
  match n with
  | 0 => some .move
  | 1 => some .fromv
  | 2 => some .tov
  | 3 => some .fromg
  | _ => none

/-- The FN values of the vector memory instructions (R151). -/
def VMForm.code : VMForm → Nat
  | .unit => 0
  | .str => 1
  | .d2 => 2
  | .sb => 3

/-- The inverse of `VMForm.code`. -/
def VMForm.ofCode (n : Nat) : Option VMForm :=
  match n with
  | 0 => some .unit
  | 1 => some .str
  | 2 => some .d2
  | 3 => some .sb
  | _ => none

/-- The FN values of `VLDS` and `VSTS` (R151). -/
def VSForm.code : VSForm → Nat
  | .unit => 0
  | .str => 1
  | .d2 => 2

/-- The inverse of `VSForm.code`. -/
def VSForm.ofCode (n : Nat) : Option VSForm :=
  match n with
  | 0 => some .unit
  | 1 => some .str
  | 2 => some .d2
  | _ => none

/-- The FN values of `CPY` and `CPY2D` (R191). -/
def CpySp.code : CpySp → Nat
  | .dd => 0
  | .tos => 1
  | .froms => 2
  | .ss => 3

/-- The inverse of `CpySp.code`. -/
def CpySp.ofCode (n : Nat) : Option CpySp :=
  match n with
  | 0 => some .dd
  | 1 => some .tos
  | 2 => some .froms
  | 3 => some .ss
  | _ => none

/-- The FN values of `BARRIVE` (R195). -/
def ArrForm.code : ArrForm → Nat
  | .one => 0
  | .n => 1
  | .err => 2

/-- The inverse of `ArrForm.code`. -/
def ArrForm.ofCode (n : Nat) : Option ArrForm :=
  match n with
  | 0 => some .one
  | 1 => some .n
  | 2 => some .err
  | _ => none

/-- The FN values of `HCHK` (R201). -/
def HchkWhat.code : HchkWhat → Nat
  | .length => 0
  | .cap => 1
  | .mark => 2

/-- The inverse of `HchkWhat.code`. -/
def HchkWhat.ofCode (n : Nat) : Option HchkWhat :=
  match n with
  | 0 => some .length
  | 1 => some .cap
  | 2 => some .mark
  | _ => none

/-- The FN values of `FENCE` (R211). -/
def FenceKind.code : FenceKind → Nat
  | .ldld => 0
  | .ldst => 1
  | .stld => 2
  | .stst => 3
  | .acq => 4
  | .rel => 5
  | .full => 6

/-- The inverse of `FenceKind.code`. -/
def FenceKind.ofCode (n : Nat) : Option FenceKind :=
  match n with
  | 0 => some .ldld
  | 1 => some .ldst
  | 2 => some .stld
  | 3 => some .stst
  | 4 => some .acq
  | 5 => some .rel
  | 6 => some .full
  | _ => none

/-- The FN values of `CMO` (R212). -/
def CmoOp.code : CmoOp → Nat
  | .clean => 0
  | .inval => 1
  | .cinv => 2

/-- The inverse of `CmoOp.code`. -/
def CmoOp.ofCode (n : Nat) : Option CmoOp :=
  match n with
  | 0 => some .clean
  | 1 => some .inval
  | 2 => some .cinv
  | _ => none

/-! ### The opcode map (R83)

One function for each value of the high half of the major: the FN values that the instruction chapters assign. -/

/-- Majors 0x00 to 0x0F: the instruction that an FN and 48 bits of fields name. -/
def decodeMajor0 (lo fn : Nat) (f : BitVec 48) : Option Instr :=
  match lo with
  | 0x1 =>
    match fn with
    | 0 => some (.add (.unpack f))
    | _ => none
  | 0x2 =>
    match fn with
    | 0 => some (.sub (.unpack f))
    | _ => none
  | 0x3 =>
    match fn with
    | 0 => some (.mul (.unpack f))
    | 1 => some (.mulh false (.unpack f))
    | 2 => some (.mulh true (.unpack f))
    | _ => none
  | 0x4 =>
    match fn with
    | 0 => some (.div false (.unpack f))
    | 1 => some (.div true (.unpack f))
    | _ => none
  | 0x5 =>
    match fn with
    | 0 => some (.rem false (.unpack f))
    | 1 => some (.rem true (.unpack f))
    | _ => none
  | 0x6 =>
    match fn with
    | 0 => some (.and (.unpack f))
    | _ => none
  | 0x7 =>
    match fn with
    | 0 => some (.or (.unpack f))
    | _ => none
  | 0x8 =>
    match fn with
    | 0 => some (.xor (.unpack f))
    | _ => none
  | 0x9 =>
    match fn with
    | 0 => some (.andn (.unpack f))
    | _ => none
  | 0xA =>
    match fn with
    | 0 => some (.shl (.unpack f))
    | 1 => some (.shr (.unpack f))
    | 2 => some (.sar (.unpack f))
    | 3 => some (.rol (.unpack f))
    | _ => none
  | 0xB =>
    match fn with
    | 0 => some (.min false (.unpack f))
    | 1 => some (.max false (.unpack f))
    | 2 => some (.min true (.unpack f))
    | 3 => some (.max true (.unpack f))
    | _ => none
  | 0xC =>
    (Cond.ofCode fn).map fun c => .cmp c (.unpack f)
  | 0xD =>
    match fn with
    | 0 => some (.sel (.unpack f))
    | _ => none
  | 0xE =>
    match fn with
    | 0 => some (.clz (.unpack f))
    | 1 => some (.ctz (.unpack f))
    | 2 => some (.popc (.unpack f))
    | 3 => some (.bswap (.unpack f))
    | _ => none
  | _ => none

/-- Majors 0x10 to 0x1F: the instruction that an FN and 48 bits of fields name. -/
def decodeMajor1 (lo fn : Nat) (f : BitVec 48) : Option Instr :=
  match lo with
  | 0x0 =>
    match fn with
    | 0 => some (.addi (.unpack f))
    | _ => none
  | 0x1 =>
    match fn with
    | 0 => some (.andi (.unpack f))
    | _ => none
  | 0x2 =>
    match fn with
    | 0 => some (.ori (.unpack f))
    | _ => none
  | 0x3 =>
    match fn with
    | 0 => some (.xori (.unpack f))
    | _ => none
  | 0x4 =>
    match fn with
    | 0 => some (.shli (.unpack f))
    | 1 => some (.shri (.unpack f))
    | 2 => some (.sari (.unpack f))
    | 3 => some (.roli (.unpack f))
    | _ => none
  | 0x5 =>
    match fn with
    | 0 => some (.ldi (.unpack f))
    | _ => none
  | 0x6 =>
    match fn with
    | 0 => some (.lih (.unpack f))
    | _ => none
  | 0x7 =>
    (Cond.ofCode fn).map fun c => .cmpi c (.unpack f)
  | 0x9 =>
    match fn with
    | 0 => some (.bfx false (.unpack f))
    | 1 => some (.bfx true (.unpack f))
    | _ => none
  | 0xA =>
    match fn with
    | 0 => some (.bfi (.unpack f))
    | _ => none
  | 0xC =>
    match fn with
    | 96 => some (.fadd .f32 (.unpack f))
    | 112 => some (.fadd .f64 (.unpack f))
    | 97 => some (.fsub .f32 (.unpack f))
    | 113 => some (.fsub .f64 (.unpack f))
    | 98 => some (.fmul .f32 (.unpack f))
    | 114 => some (.fmul .f64 (.unpack f))
    | 99 => some (.fdiv .f32 (.unpack f))
    | 115 => some (.fdiv .f64 (.unpack f))
    | 100 => some (.fsqrt .f32 (.unpack f))
    | 116 => some (.fsqrt .f64 (.unpack f))
    | 101 => some (.fmin .f32 (.unpack f))
    | 117 => some (.fmin .f64 (.unpack f))
    | 102 => some (.fmax .f32 (.unpack f))
    | 118 => some (.fmax .f64 (.unpack f))
    | _ => none
  | 0xD =>
    match fn with
    | 96 => some (.ffma .f32 (.unpack f))
    | 112 => some (.ffma .f64 (.unpack f))
    | _ => none
  | 0xE =>
    match FFmt.ofCode (fn / 16), FCond.ofCode (fn % 16) with
    | some t, some c => some (.fcmp t c (.unpack f))
    | _, _ => none
  | 0xF =>
    match ClassFmt.ofCode fn with
    | some c => some (.fclass c (.unpack f))
    | none =>
      match CvtTy.ofCode (fn / 16), CvtTy.ofCode (fn % 16) with
      | some d, some s => if d = s then none else some (.fcvt d s (.unpack f))
      | _, _ => none
  | _ => none

/-- Majors 0x20 to 0x2F: the instruction that an FN and 48 bits of fields name. -/
def decodeMajor2 (lo fn : Nat) (f : BitVec 48) : Option Instr :=
  match lo with
  | 0x0 =>
    (Cond.ofCode fn).map fun c => .br c (.unpack f)
  | 0x1 =>
    (Cond.ofCode fn).map fun c => .bri c (.unpack f)
  | 0x2 =>
    match fn with
    | 0 => some (.jmp (.unpack f))
    | _ => none
  | 0x3 =>
    match fn with
    | 0 => some (.call (.unpack f))
    | _ => none
  | 0x4 =>
    match fn with
    | 0 => some (.jr (.unpack f))
    | 1 => some (.callr (.unpack f))
    | _ => none
  | 0x5 =>
    (LoopIx.ofCode fn).map fun c => .loop c (.unpack f)
  | 0x6 =>
    match LoopIx.ofCode (fn / 8), Cond.ofCode (fn % 8) with
    | some n, some c => some (.lbrk n c (.unpack f))
    | _, _ => none
  | 0x7 =>
    match fn with
    | 0 => some (.waitf false (.unpack f))
    | 1 => some (.waitf true (.unpack f))
    | _ => none
  | 0x8 =>
    match fn with
    | 0 => some (.yield (.unpack f))
    | _ => none
  | 0x9 =>
    match fn with
    | 0 => some (.exit (.unpack f))
    | _ => none
  | 0xF =>
    match fn with
    | 0 => some (.nop (.unpack f))
    | _ => none
  | _ => none

/-- Majors 0x30 to 0x3F: the instruction that an FN and 48 bits of fields name. -/
def decodeMajor3 (lo fn : Nat) (f : BitVec 48) : Option Instr :=
  match lo with
  | 0x0 =>
    (LdTy.ofCode fn).map fun c => .ld c (.unpack f)
  | 0x1 =>
    (Size.ofCode fn).map fun c => .st c (.unpack f)
  | 0x2 =>
    match Scope.ofCode (fn / 8), LdTy.ofCode (fn % 8) with
    | some sc, some t => some (.lda sc t (.unpack f))
    | _, _ => none
  | 0x3 =>
    match Scope.ofCode (fn / 8), Size.ofCode (fn % 8) with
    | some sc, some t => some (.str sc t (.unpack f))
    | _, _ => none
  | 0x4 =>
    (LdTy.ofCode fn).map fun c => .lds c (.unpack f)
  | 0x5 =>
    (Size.ofCode fn).map fun c => .sts c (.unpack f)
  | 0x6 =>
    match MOrd.ofCode (fn / 64), Scope.ofCode (fn / 8 % 8), AmoTy.ofCode (fn % 8) with
    | some r, some sc, some t => some (.amo r sc t (.unpack f))
    | _, _, _ => none
  | 0x7 =>
    match MOrd.ofCode (fn / 64), Scope.ofCode (fn / 8 % 8), AmoTy.ofCode (fn % 8) with
    | some r, some sc, some t => some (.cas r sc t (.unpack f))
    | _, _, _ => none
  | 0x8 =>
    (Hint.ofCode fn).map fun c => .pref c (.unpack f)
  | 0xE =>
    match fn with
    | 0 => some (.lea (.unpack f))
    | _ => none
  | _ => none

/-- Majors 0x40 to 0x4F: the instruction that an FN and 48 bits of fields name. -/
def decodeMajor4 (lo fn : Nat) (f : BitVec 48) : Option Instr :=
  match lo with
  | 0x0 =>
    match fn with
    | 0 => some (.vadd (.unpack f))
    | _ => none
  | 0x1 =>
    match fn with
    | 0 => some (.vsub (.unpack f))
    | _ => none
  | 0x2 =>
    match fn with
    | 0 => some (.vmul (.unpack f))
    | 1 => some (.vmulh (.unpack f))
    | _ => none
  | 0x3 =>
    match fn with
    | 0 => some (.vfma (.unpack f))
    | 1 => some (.vfms (.unpack f))
    | 2 => some (.vfnma (.unpack f))
    | _ => none
  | 0x4 =>
    match fn with
    | 0 => some (.vdiv (.unpack f))
    | _ => none
  | 0x5 =>
    match fn with
    | 0 => some (.vsqrt (.unpack f))
    | _ => none
  | 0x6 =>
    match fn with
    | 0 => some (.vrcp (.unpack f))
    | 1 => some (.vrsq (.unpack f))
    | 2 => some (.vexp2 (.unpack f))
    | 3 => some (.vlog2 (.unpack f))
    | 4 => some (.vsin (.unpack f))
    | 5 => some (.vcos (.unpack f))
    | 6 => some (.vtanh (.unpack f))
    | _ => none
  | 0x7 =>
    match fn with
    | 0 => some (.vmin (.unpack f))
    | _ => none
  | 0x8 =>
    match fn with
    | 0 => some (.vmax (.unpack f))
    | _ => none
  | 0x9 =>
    match fn with
    | 0 => some (.vabs (.unpack f))
    | 1 => some (.vneg (.unpack f))
    | _ => none
  | 0xA =>
    match fn with
    | 0 => some (.vand (.unpack f))
    | _ => none
  | 0xB =>
    match fn with
    | 0 => some (.vor (.unpack f))
    | _ => none
  | 0xC =>
    match fn with
    | 0 => some (.vxor (.unpack f))
    | _ => none
  | 0xD =>
    match fn with
    | 0 => some (.vshl (.unpack f))
    | 1 => some (.vshr (.unpack f))
    | 2 => some (.vsar (.unpack f))
    | _ => none
  | 0xE =>
    (VCond.ofCode fn).map fun c => .vcmp c (.unpack f)
  | 0xF =>
    match fn with
    | 0 => some (.vsel (.unpack f))
    | _ => none
  | _ => none

/-- Majors 0x50 to 0x5F: the instruction that an FN and 48 bits of fields name. -/
def decodeMajor5 (lo fn : Nat) (f : BitVec 48) : Option Instr :=
  match lo with
  | 0x0 =>
    match fn with
    | 0 => some (.vcvt (.unpack f))
    | _ => none
  | 0x1 =>
    match fn with
    | 0 => some (.vquant (.unpack f))
    | _ => none
  | 0x2 =>
    match fn with
    | 0 => some (.vdeq (.unpack f))
    | _ => none
  | 0x3 =>
    (RedOp.ofCode fn).map fun c => .vredo c (.unpack f)
  | 0x4 =>
    (RedOp.ofCode fn).map fun c => .vredt c (.unpack f)
  | 0x5 =>
    match RedOp.ofCode fn with
    | some op => if op = .mul then none else some (.vscan op (.unpack f))
    | none => none
  | 0x6 =>
    match fn with
    | 0 => some (.vperm false (.unpack f))
    | 1 => some (.vperm true (.unpack f))
    | _ => none
  | 0x7 =>
    match fn with
    | 0 => some (.vbcast false (.unpack f))
    | 1 => some (.vbcast true (.unpack f))
    | _ => none
  | 0x8 =>
    if fn < 8 then some (.vmovs (BitVec.ofNat 3 fn) (.unpack f)) else none
  | 0x9 =>
    if fn < 8 then some (.vins (BitVec.ofNat 3 fn) (.unpack f)) else none
  | 0xA =>
    match fn with
    | 0 => some (.viota false (.unpack f))
    | 1 => some (.viota true (.unpack f))
    | _ => none
  | 0xB =>
    match fn with
    | 0 => some (.vcompress (.unpack f))
    | _ => none
  | 0xC =>
    match fn with
    | 0 => some (.vexpand (.unpack f))
    | _ => none
  | 0xD =>
    match fn with
    | 0 => some (.vshape false (.unpack f))
    | 1 => some (.vshape true (.unpack f))
    | _ => none
  | 0xE =>
    match fn with
    | 0 => some (.vslide false (.unpack f))
    | 1 => some (.vslide true (.unpack f))
    | _ => none
  | _ => none

/-- Majors 0x60 to 0x6F: the instruction that an FN and 48 bits of fields name. -/
def decodeMajor6 (lo fn : Nat) (f : BitVec 48) : Option Instr :=
  match lo with
  | 0x0 =>
    match fn with
    | 0 => some (.kand (.unpack f))
    | 1 => some (.kor (.unpack f))
    | 2 => some (.kxor (.unpack f))
    | 3 => some (.kandn (.unpack f))
    | 4 => some (.knot (.unpack f))
    | _ => none
  | 0x1 =>
    match fn with
    | 0 => some (.kcnt (.unpack f))
    | _ => none
  | 0x2 =>
    (KSetForm.ofCode fn).map fun c => .kset c (.unpack f)
  | 0x3 =>
    match fn with
    | 0 => some (.kfirst (.unpack f))
    | _ => none
  | 0x4 =>
    (KMovForm.ofCode fn).map fun c => .kmov c (.unpack f)
  | _ => none

/-- Majors 0x70 to 0x7F: the instruction that an FN and 48 bits of fields name. -/
def decodeMajor7 (lo fn : Nat) (f : BitVec 48) : Option Instr :=
  match lo with
  | 0x0 =>
    (VMForm.ofCode fn).map fun c => .vld c (.unpack f)
  | 0x1 =>
    (VMForm.ofCode fn).map fun c => .vst c (.unpack f)
  | 0x2 =>
    match fn with
    | 0 => some (.vldx false (.unpack f))
    | 1 => some (.vldx true (.unpack f))
    | _ => none
  | 0x3 =>
    match fn with
    | 0 => some (.vstx false (.unpack f))
    | 1 => some (.vstx true (.unpack f))
    | _ => none
  | 0x4 =>
    (VSForm.ofCode fn).map fun c => .vlds c (.unpack f)
  | 0x5 =>
    (VSForm.ofCode fn).map fun c => .vsts c (.unpack f)
  | 0x6 =>
    match fn with
    | 0 => some (.vbind (.unpack f))
    | _ => none
  | 0x7 =>
    match fn with
    | 0 => some (.vunbind false (.unpack f))
    | 1 => some (.vunbind true (.unpack f))
    | _ => none
  | 0x8 =>
    match fn with
    | 0 => some (.vspos false (.unpack f))
    | 1 => some (.vspos true (.unpack f))
    | _ => none
  | _ => none

/-- Majors 0x80 to 0x8F: the instruction that an FN and 48 bits of fields name. -/
def decodeMajor8 (lo fn : Nat) (f : BitVec 48) : Option Instr :=
  match lo with
  | 0x0 =>
    match fn with
    | 0 => some (.tshape (.unpack f))
    | _ => none
  | 0x1 =>
    match fn with
    | 0 => some (.tzero (.unpack f))
    | _ => none
  | 0x2 =>
    match fn with
    | 0 => some (.tld false (.unpack f))
    | 1 => some (.tld true (.unpack f))
    | _ => none
  | 0x3 =>
    match fn with
    | 0 => some (.tst false (.unpack f))
    | 1 => some (.tst true (.unpack f))
    | _ => none
  | 0x4 =>
    match fn with
    | 0 => some (.tstp (.unpack f))
    | _ => none
  | 0x5 =>
    match fn with
    | 0 => some (.tcopy (.unpack f))
    | _ => none
  | 0x6 =>
    match fn with
    | 0 => some (.tgetr (.unpack f))
    | 1 => some (.tgetc (.unpack f))
    | _ => none
  | 0x7 =>
    match fn with
    | 0 => some (.tputr (.unpack f))
    | 1 => some (.tputc (.unpack f))
    | _ => none
  | 0x8 =>
    match fn with
    | 0 => some (.mma (.unpack f))
    | _ => none
  | 0x9 =>
    match fn with
    | 0 => some (.mmai (.unpack f))
    | _ => none
  | 0xA =>
    match fn with
    | 0 => some (.ttrq false (.unpack f))
    | 1 => some (.ttrq true (.unpack f))
    | _ => none
  | 0xB =>
    match fn with
    | 0 => some (.tcvt (.unpack f))
    | _ => none
  | 0xC =>
    match fn with
    | 0 => some (.tadd (.unpack f))
    | 1 => some (.tmul (.unpack f))
    | 2 => some (.tscale (.unpack f))
    | _ => none
  | 0xD =>
    match fn with
    | 0 => some (.tpref (.unpack f))
    | _ => none
  | 0xE =>
    match fn with
    | 0 => some (.tdead (.unpack f))
    | _ => none
  | 0xF =>
    match fn with
    | 0 => some (.tflagr (.unpack f))
    | 1 => some (.tflagc (.unpack f))
    | _ => none
  | _ => none

/-- Majors 0x90 to 0x9F: the instruction that an FN and 48 bits of fields name. -/
def decodeMajor9 (lo fn : Nat) (f : BitVec 48) : Option Instr :=
  match lo with
  | 0x0 =>
    match fn with
    | 0 => some (.tsend (.unpack f))
    | _ => none
  | 0x1 =>
    match fn with
    | 0 => some (.trecv false (.unpack f))
    | 1 => some (.trecv true (.unpack f))
    | _ => none
  | 0x2 =>
    match fn with
    | 0 => some (.tgather (.unpack f))
    | _ => none
  | 0x3 =>
    match fn with
    | 0 => some (.tappend (.unpack f))
    | _ => none
  | 0x4 =>
    match fn with
    | 0 => some (.twait false (.unpack f))
    | 1 => some (.twait true (.unpack f))
    | _ => none
  | 0x5 =>
    match fn with
    | 0 => some (.tzmap (.unpack f))
    | _ => none
  | _ => none

/-- Majors 0xA0 to 0xAF: the instruction that an FN and 48 bits of fields name. -/
def decodeMajorA (lo fn : Nat) (f : BitVec 48) : Option Instr :=
  match lo with
  | 0x0 =>
    (CpySp.ofCode fn).map fun c => .cpy c (.unpack f)
  | 0x1 =>
    (CpySp.ofCode fn).map fun c => .cpy2d c (.unpack f)
  | 0x2 =>
    match fn with
    | 0 => some (.binit (.unpack f))
    | _ => none
  | 0x3 =>
    (ArrForm.ofCode fn).map fun c => .barrive c (.unpack f)
  | 0x4 =>
    match fn with
    | 0 => some (.bwait false (.unpack f))
    | 1 => some (.bwait true (.unpack f))
    | _ => none
  | 0x5 =>
    match fn with
    | 0 => some (.gbar (.unpack f))
    | _ => none
  | 0x6 =>
    match fn with
    | 0 => some (.spawn (.unpack f))
    | _ => none
  | 0x7 =>
    match fn with
    | 0 => some (.gsig false (.unpack f))
    | 1 => some (.gsig true (.unpack f))
    | _ => none
  | _ => none

/-- Majors 0xB0 to 0xBF: the instruction that an FN and 48 bits of fields name. -/
def decodeMajorB (lo fn : Nat) (f : BitVec 48) : Option Instr :=
  match lo with
  | 0x0 =>
    match fn with
    | 0 => some (.pgalloc (.unpack f))
    | _ => none
  | 0x1 =>
    match fn with
    | 0 => some (.pgfree (.unpack f))
    | _ => none
  | 0x2 =>
    match fn with
    | 0 => some (.hmake false (.unpack f))
    | 1 => some (.hmake true (.unpack f))
    | _ => none
  | 0x3 =>
    (HchkWhat.ofCode fn).map fun c => .hchk c (.unpack f)
  | 0x4 =>
    match fn with
    | 0 => some (.hmark (.unpack f))
    | _ => none
  | 0x5 =>
    match fn with
    | 0 => some (.htrunc (.unpack f))
    | _ => none
  | 0x7 =>
    match fn with
    | 0 => some (.xgret (.unpack f))
    | _ => none
  | 0x8 =>
    match fn with
    | 0 => some (.mbpost (.unpack f))
    | _ => none
  | 0x9 =>
    match fn with
    | 0 => some (.mbtake (.unpack f))
    | _ => none
  | 0xA =>
    match fn with
    | 0 => some (.mbpoll (.unpack f))
    | _ => none
  | 0xB =>
    match fn with
    | 0 => some (.mbctlMode (.unpack f))
    | 1 => some (.mbctlBudget (.unpack f))
    | 2 => some (.mbctlKill (.unpack f))
    | _ => none
  | 0xC =>
    match fn with
    | 0 => some (.xloop (.unpack f))
    | _ => none
  | 0xD =>
    match fn with
    | 0 => some (.xacc (.unpack f))
    | _ => none
  | 0xE =>
    match fn with
    | 0 => some (.xend (.unpack f))
    | _ => none
  | 0xF =>
    match fn with
    | 0 => some (.xabort (.unpack f))
    | _ => none
  | _ => none

/-- Majors 0xC0 to 0xCF: the instruction that an FN and 48 bits of fields name. -/
def decodeMajorC (lo fn : Nat) (f : BitVec 48) : Option Instr :=
  match lo with
  | 0x1 =>
    (FenceKind.ofCode fn).map fun c => .fence c (.unpack f)
  | 0x2 =>
    (CmoOp.ofCode fn).map fun c => .cmo c (.unpack f)
  | 0x3 =>
    match fn with
    | 0 => some (.isync false (.unpack f))
    | 1 => some (.isync true (.unpack f))
    | _ => none
  | 0x4 =>
    match fn with
    | 0 => some (.rng false (.unpack f))
    | 1 => some (.rng true (.unpack f))
    | _ => none
  | _ => none

/-- Majors 0xD0 to 0xDF: the instruction that an FN and 48 bits of fields name. -/
def decodeMajorD (lo fn : Nat) (f : BitVec 48) : Option Instr :=
  match lo with
  | 0x0 =>
    match fn with
    | 0 => some (.csrr (.unpack f))
    | _ => none
  | 0x1 =>
    match fn with
    | 0 =>
      let o := YOp.unpack f
      if o.n12 = 0x030 then some (.policygenWrite o)
      else if o.n12 = 0x100 then some (.tmapbWrite o)
      else if o.n12 = 0x109 then some (.tracectlWrite o)
      else some (.csrw o)
    | _ => none
  | 0x2 =>
    match fn with
    | 0 => some (.csrx (.unpack f))
    | _ => none
  | 0x3 =>
    match fn with
    | 0 => some (.trap (.unpack f))
    | _ => none
  | 0x4 =>
    match fn with
    | 0 => some (.eret (.unpack f))
    | _ => none
  | 0x5 =>
    match fn with
    | 0 => some (.wfe (.unpack f))
    | _ => none
  | 0x6 =>
    match fn with
    | 0 => some (.hcall (.unpack f))
    | _ => none
  | _ => none

/-- Majors 0xF0 to 0xFF: the instruction that an FN and 48 bits of fields name. -/
def decodeMajorF (lo fn : Nat) (f : BitVec 48) : Option Instr :=
  match lo with
  | 0xF =>
    match fn with
    | 0 => some (.brk (.unpack f))
    | _ => none
  | _ => none

/-- The instruction of an assigned FN; none where step 2 of R73 fails. The convoy header has no FN. -/
def decodeFn (mj fn : Nat) (f : BitVec 48) : Option Instr :=
  match mj / 16 with
  | 0x0 => decodeMajor0 (mj % 16) fn f
  | 0x1 => decodeMajor1 (mj % 16) fn f
  | 0x2 => decodeMajor2 (mj % 16) fn f
  | 0x3 => decodeMajor3 (mj % 16) fn f
  | 0x4 => decodeMajor4 (mj % 16) fn f
  | 0x5 => decodeMajor5 (mj % 16) fn f
  | 0x6 => decodeMajor6 (mj % 16) fn f
  | 0x7 => decodeMajor7 (mj % 16) fn f
  | 0x8 => decodeMajor8 (mj % 16) fn f
  | 0x9 => decodeMajor9 (mj % 16) fn f
  | 0xA => decodeMajorA (mj % 16) fn f
  | 0xB => decodeMajorB (mj % 16) fn f
  | 0xC => decodeMajorC (mj % 16) fn f
  | 0xD => decodeMajorD (mj % 16) fn f
  | 0xF => decodeMajorF (mj % 16) fn f
  | _ => none

/-- The assigned majors (R83); the others are those of R84. -/
def majorAssigned (mj : Nat) : Bool :=
  (0x01 ≤ mj && mj ≤ 0x0E) || (0x10 ≤ mj && mj ≤ 0x17) || (0x19 ≤ mj && mj ≤ 0x1A) || (0x1C ≤ mj && mj ≤ 0x29) || (0x2F ≤ mj && mj ≤ 0x38) || mj == 0x3E || (0x40 ≤ mj && mj ≤ 0x5E) || (0x60 ≤ mj && mj ≤ 0x64) || (0x70 ≤ mj && mj ≤ 0x78) || (0x80 ≤ mj && mj ≤ 0x95) || (0xA0 ≤ mj && mj ≤ 0xA7) || (0xB0 ≤ mj && mj ≤ 0xB5) || (0xB7 ≤ mj && mj ≤ 0xC4) || (0xD0 ≤ mj && mj ≤ 0xD6) || mj == 0xFF

/-- The 64-bit word of an Evoesh instruction, from the encoding tables; none for a step that has no Evoesh word. -/
def encode64 : Instr → Option Word
  | .add o => some (mkWord 0x01 0 o.pack)
  | .sub o => some (mkWord 0x02 0 o.pack)
  | .and o => some (mkWord 0x06 0 o.pack)
  | .or o => some (mkWord 0x07 0 o.pack)
  | .xor o => some (mkWord 0x08 0 o.pack)
  | .andn o => some (mkWord 0x09 0 o.pack)
  | .sel o => some (mkWord 0x0D 0 o.pack)
  | .mul o => some (mkWord 0x03 0 o.pack)
  | .mulh false o => some (mkWord 0x03 1 o.pack)
  | .mulh true o => some (mkWord 0x03 2 o.pack)
  | .div false o => some (mkWord 0x04 0 o.pack)
  | .div true o => some (mkWord 0x04 1 o.pack)
  | .rem false o => some (mkWord 0x05 0 o.pack)
  | .rem true o => some (mkWord 0x05 1 o.pack)
  | .shl o => some (mkWord 0x0A 0 o.pack)
  | .shr o => some (mkWord 0x0A 1 o.pack)
  | .sar o => some (mkWord 0x0A 2 o.pack)
  | .rol o => some (mkWord 0x0A 3 o.pack)
  | .min false o => some (mkWord 0x0B 0 o.pack)
  | .max false o => some (mkWord 0x0B 1 o.pack)
  | .min true o => some (mkWord 0x0B 2 o.pack)
  | .max true o => some (mkWord 0x0B 3 o.pack)
  | .cmp c o => some (mkWord 0x0C (c.code) o.pack)
  | .clz o => some (mkWord 0x0E 0 o.pack)
  | .ctz o => some (mkWord 0x0E 1 o.pack)
  | .popc o => some (mkWord 0x0E 2 o.pack)
  | .bswap o => some (mkWord 0x0E 3 o.pack)
  | .addi o => some (mkWord 0x10 0 o.pack)
  | .andi o => some (mkWord 0x11 0 o.pack)
  | .ori o => some (mkWord 0x12 0 o.pack)
  | .xori o => some (mkWord 0x13 0 o.pack)
  | .ldi o => some (mkWord 0x15 0 o.pack)
  | .lih o => some (mkWord 0x16 0 o.pack)
  | .bfi o => some (mkWord 0x1A 0 o.pack)
  | .shli o => some (mkWord 0x14 0 o.pack)
  | .shri o => some (mkWord 0x14 1 o.pack)
  | .sari o => some (mkWord 0x14 2 o.pack)
  | .roli o => some (mkWord 0x14 3 o.pack)
  | .cmpi c o => some (mkWord 0x17 (c.code) o.pack)
  | .bfx false o => some (mkWord 0x19 0 o.pack)
  | .bfx true o => some (mkWord 0x19 1 o.pack)
  | .fadd .f32 o => some (mkWord 0x1C 96 o.pack)
  | .fadd .f64 o => some (mkWord 0x1C 112 o.pack)
  | .fsub .f32 o => some (mkWord 0x1C 97 o.pack)
  | .fsub .f64 o => some (mkWord 0x1C 113 o.pack)
  | .fmul .f32 o => some (mkWord 0x1C 98 o.pack)
  | .fmul .f64 o => some (mkWord 0x1C 114 o.pack)
  | .fdiv .f32 o => some (mkWord 0x1C 99 o.pack)
  | .fdiv .f64 o => some (mkWord 0x1C 115 o.pack)
  | .fsqrt .f32 o => some (mkWord 0x1C 100 o.pack)
  | .fsqrt .f64 o => some (mkWord 0x1C 116 o.pack)
  | .fmin .f32 o => some (mkWord 0x1C 101 o.pack)
  | .fmin .f64 o => some (mkWord 0x1C 117 o.pack)
  | .fmax .f32 o => some (mkWord 0x1C 102 o.pack)
  | .fmax .f64 o => some (mkWord 0x1C 118 o.pack)
  | .ffma .f32 o => some (mkWord 0x1D 96 o.pack)
  | .ffma .f64 o => some (mkWord 0x1D 112 o.pack)
  | .fcmp t c o => some (mkWord 0x1E (16 * t.code + c.code) o.pack)
  | .fcvt d s o => some (mkWord 0x1F (16 * d.code + s.code) o.pack)
  | .fclass c o => some (mkWord 0x1F (c.code) o.pack)
  | .br c o => some (mkWord 0x20 (c.code) o.pack)
  | .bri c o => some (mkWord 0x21 (c.code) o.pack)
  | .jmp o => some (mkWord 0x22 0 o.pack)
  | .call o => some (mkWord 0x23 0 o.pack)
  | .jr o => some (mkWord 0x24 0 o.pack)
  | .callr o => some (mkWord 0x24 1 o.pack)
  | .loop c o => some (mkWord 0x25 (c.code) o.pack)
  | .lbrk n c o => some (mkWord 0x26 (8 * n.code + c.code) o.pack)
  | .waitf false o => some (mkWord 0x27 0 o.pack)
  | .waitf true o => some (mkWord 0x27 1 o.pack)
  | .yield o => some (mkWord 0x28 0 o.pack)
  | .exit o => some (mkWord 0x29 0 o.pack)
  | .nop o => some (mkWord 0x2F 0 o.pack)
  | .xgret o => some (mkWord 0xB7 0 o.pack)
  | .xend o => some (mkWord 0xBE 0 o.pack)
  | .xabort o => some (mkWord 0xBF 0 o.pack)
  | .trap o => some (mkWord 0xD3 0 o.pack)
  | .eret o => some (mkWord 0xD4 0 o.pack)
  | .wfe o => some (mkWord 0xD5 0 o.pack)
  | .hcall o => some (mkWord 0xD6 0 o.pack)
  | .brk o => some (mkWord 0xFF 0 o.pack)
  | .csrr o => some (mkWord 0xD0 0 o.pack)
  | .csrx o => some (mkWord 0xD2 0 o.pack)
  | .csrw o => some (mkWord 0xD1 0 o.pack)
  | .policygenWrite o => some (mkWord 0xD1 0 o.pack)
  | .tmapbWrite o => some (mkWord 0xD1 0 o.pack)
  | .tracectlWrite o => some (mkWord 0xD1 0 o.pack)
  | .ld c o => some (mkWord 0x30 (c.code) o.pack)
  | .st c o => some (mkWord 0x31 (c.code) o.pack)
  | .lds c o => some (mkWord 0x34 (c.code) o.pack)
  | .sts c o => some (mkWord 0x35 (c.code) o.pack)
  | .pref c o => some (mkWord 0x38 (c.code) o.pack)
  | .lda sc t o => some (mkWord 0x32 (8 * sc.code + t.code) o.pack)
  | .str sc t o => some (mkWord 0x33 (8 * sc.code + t.code) o.pack)
  | .amo r sc t o => some (mkWord 0x36 (64 * r.code + 8 * sc.code + t.code) o.pack)
  | .cas r sc t o => some (mkWord 0x37 (64 * r.code + 8 * sc.code + t.code) o.pack)
  | .lea o => some (mkWord 0x3E 0 o.pack)
  | .vadd o => some (mkWord 0x40 0 o.pack)
  | .vsub o => some (mkWord 0x41 0 o.pack)
  | .vmul o => some (mkWord 0x42 0 o.pack)
  | .vmulh o => some (mkWord 0x42 1 o.pack)
  | .vfma o => some (mkWord 0x43 0 o.pack)
  | .vfms o => some (mkWord 0x43 1 o.pack)
  | .vfnma o => some (mkWord 0x43 2 o.pack)
  | .vdiv o => some (mkWord 0x44 0 o.pack)
  | .vsqrt o => some (mkWord 0x45 0 o.pack)
  | .vrcp o => some (mkWord 0x46 0 o.pack)
  | .vrsq o => some (mkWord 0x46 1 o.pack)
  | .vexp2 o => some (mkWord 0x46 2 o.pack)
  | .vlog2 o => some (mkWord 0x46 3 o.pack)
  | .vsin o => some (mkWord 0x46 4 o.pack)
  | .vcos o => some (mkWord 0x46 5 o.pack)
  | .vtanh o => some (mkWord 0x46 6 o.pack)
  | .vmin o => some (mkWord 0x47 0 o.pack)
  | .vmax o => some (mkWord 0x48 0 o.pack)
  | .vabs o => some (mkWord 0x49 0 o.pack)
  | .vneg o => some (mkWord 0x49 1 o.pack)
  | .vand o => some (mkWord 0x4A 0 o.pack)
  | .vor o => some (mkWord 0x4B 0 o.pack)
  | .vxor o => some (mkWord 0x4C 0 o.pack)
  | .vshl o => some (mkWord 0x4D 0 o.pack)
  | .vshr o => some (mkWord 0x4D 1 o.pack)
  | .vsar o => some (mkWord 0x4D 2 o.pack)
  | .vsel o => some (mkWord 0x4F 0 o.pack)
  | .vcvt o => some (mkWord 0x50 0 o.pack)
  | .vquant o => some (mkWord 0x51 0 o.pack)
  | .vdeq o => some (mkWord 0x52 0 o.pack)
  | .vcompress o => some (mkWord 0x5B 0 o.pack)
  | .vexpand o => some (mkWord 0x5C 0 o.pack)
  | .kand o => some (mkWord 0x60 0 o.pack)
  | .kor o => some (mkWord 0x60 1 o.pack)
  | .kxor o => some (mkWord 0x60 2 o.pack)
  | .kandn o => some (mkWord 0x60 3 o.pack)
  | .knot o => some (mkWord 0x60 4 o.pack)
  | .kcnt o => some (mkWord 0x61 0 o.pack)
  | .kfirst o => some (mkWord 0x63 0 o.pack)
  | .mbpost o => some (mkWord 0xB8 0 o.pack)
  | .mbtake o => some (mkWord 0xB9 0 o.pack)
  | .vcmp c o => some (mkWord 0x4E (c.code) o.pack)
  | .vperm false o => some (mkWord 0x56 0 o.pack)
  | .vperm true o => some (mkWord 0x56 1 o.pack)
  | .vbcast false o => some (mkWord 0x57 0 o.pack)
  | .vbcast true o => some (mkWord 0x57 1 o.pack)
  | .viota false o => some (mkWord 0x5A 0 o.pack)
  | .viota true o => some (mkWord 0x5A 1 o.pack)
  | .vshape false o => some (mkWord 0x5D 0 o.pack)
  | .vshape true o => some (mkWord 0x5D 1 o.pack)
  | .vslide false o => some (mkWord 0x5E 0 o.pack)
  | .vslide true o => some (mkWord 0x5E 1 o.pack)
  | .vredo c o => some (mkWord 0x53 (c.code) o.pack)
  | .vredt c o => some (mkWord 0x54 (c.code) o.pack)
  | .vscan c o => some (mkWord 0x55 (c.code) o.pack)
  | .vmovs h o => some (mkWord 0x58 (h.toNat) o.pack)
  | .vins h o => some (mkWord 0x59 (h.toNat) o.pack)
  | .kset c o => some (mkWord 0x62 (c.code) o.pack)
  | .kmov c o => some (mkWord 0x64 (c.code) o.pack)
  | .vld c o => some (mkWord 0x70 (c.code) o.pack)
  | .vst c o => some (mkWord 0x71 (c.code) o.pack)
  | .vlds c o => some (mkWord 0x74 (c.code) o.pack)
  | .vsts c o => some (mkWord 0x75 (c.code) o.pack)
  | .vldx false o => some (mkWord 0x72 0 o.pack)
  | .vldx true o => some (mkWord 0x72 1 o.pack)
  | .vstx false o => some (mkWord 0x73 0 o.pack)
  | .vstx true o => some (mkWord 0x73 1 o.pack)
  | .vunbind false o => some (mkWord 0x77 0 o.pack)
  | .vunbind true o => some (mkWord 0x77 1 o.pack)
  | .vspos false o => some (mkWord 0x78 0 o.pack)
  | .vspos true o => some (mkWord 0x78 1 o.pack)
  | .vbind o => some (mkWord 0x76 0 o.pack)
  | .tshape o => some (mkWord 0x80 0 o.pack)
  | .tzero o => some (mkWord 0x81 0 o.pack)
  | .tstp o => some (mkWord 0x84 0 o.pack)
  | .tcopy o => some (mkWord 0x85 0 o.pack)
  | .tgetr o => some (mkWord 0x86 0 o.pack)
  | .tgetc o => some (mkWord 0x86 1 o.pack)
  | .tputr o => some (mkWord 0x87 0 o.pack)
  | .tputc o => some (mkWord 0x87 1 o.pack)
  | .mma o => some (mkWord 0x88 0 o.pack)
  | .mmai o => some (mkWord 0x89 0 o.pack)
  | .tcvt o => some (mkWord 0x8B 0 o.pack)
  | .tadd o => some (mkWord 0x8C 0 o.pack)
  | .tmul o => some (mkWord 0x8C 1 o.pack)
  | .tscale o => some (mkWord 0x8C 2 o.pack)
  | .tpref o => some (mkWord 0x8D 0 o.pack)
  | .tdead o => some (mkWord 0x8E 0 o.pack)
  | .tflagr o => some (mkWord 0x8F 0 o.pack)
  | .tflagc o => some (mkWord 0x8F 1 o.pack)
  | .tsend o => some (mkWord 0x90 0 o.pack)
  | .tgather o => some (mkWord 0x92 0 o.pack)
  | .tappend o => some (mkWord 0x93 0 o.pack)
  | .tzmap o => some (mkWord 0x95 0 o.pack)
  | .tld false o => some (mkWord 0x82 0 o.pack)
  | .tld true o => some (mkWord 0x82 1 o.pack)
  | .tst false o => some (mkWord 0x83 0 o.pack)
  | .tst true o => some (mkWord 0x83 1 o.pack)
  | .ttrq false o => some (mkWord 0x8A 0 o.pack)
  | .ttrq true o => some (mkWord 0x8A 1 o.pack)
  | .trecv false o => some (mkWord 0x91 0 o.pack)
  | .trecv true o => some (mkWord 0x91 1 o.pack)
  | .twait false o => some (mkWord 0x94 0 o.pack)
  | .twait true o => some (mkWord 0x94 1 o.pack)
  | .cpy c o => some (mkWord 0xA0 (c.code) o.pack)
  | .cpy2d c o => some (mkWord 0xA1 (c.code) o.pack)
  | .barrive c o => some (mkWord 0xA3 (c.code) o.pack)
  | .fence c o => some (mkWord 0xC1 (c.code) o.pack)
  | .cmo c o => some (mkWord 0xC2 (c.code) o.pack)
  | .binit o => some (mkWord 0xA2 0 o.pack)
  | .gbar o => some (mkWord 0xA5 0 o.pack)
  | .spawn o => some (mkWord 0xA6 0 o.pack)
  | .bwait false o => some (mkWord 0xA4 0 o.pack)
  | .bwait true o => some (mkWord 0xA4 1 o.pack)
  | .gsig false o => some (mkWord 0xA7 0 o.pack)
  | .gsig true o => some (mkWord 0xA7 1 o.pack)
  | .isync false o => some (mkWord 0xC3 0 o.pack)
  | .isync true o => some (mkWord 0xC3 1 o.pack)
  | .pgalloc o => some (mkWord 0xB0 0 o.pack)
  | .pgfree o => some (mkWord 0xB1 0 o.pack)
  | .hmark o => some (mkWord 0xB4 0 o.pack)
  | .htrunc o => some (mkWord 0xB5 0 o.pack)
  | .mbpoll o => some (mkWord 0xBA 0 o.pack)
  | .xloop o => some (mkWord 0xBC 0 o.pack)
  | .xacc o => some (mkWord 0xBD 0 o.pack)
  | .hmake false o => some (mkWord 0xB2 0 o.pack)
  | .hmake true o => some (mkWord 0xB2 1 o.pack)
  | .hchk c o => some (mkWord 0xB3 (c.code) o.pack)
  | .mbctlMode o => some (mkWord 0xBB 0 o.pack)
  | .mbctlBudget o => some (mkWord 0xBB 1 o.pack)
  | .mbctlKill o => some (mkWord 0xBB 2 o.pack)
  | .rng false o => some (mkWord 0xC4 0 o.pack)
  | .rng true o => some (mkWord 0xC4 1 o.pack)
  | .convoy o => some o.pack
  | .waitfWake | .yieldExpiry | .illegalInstruction _ _ | .convoyComplete | .vecEgArrival _ | .mmaDrain _ => none
  | .tileEntryIssue | .tileEntryComplete _ | .tileEntryRetire | .fillComplete _ | .spillComplete _ | .tileSlotRequest _ _ => none
  | .tileWatchdog | .transferComplete _ | .bwaitWake | .mbpostWake | .mbtakeWake | .wfeWake | .hcallReply | .hcallEntryFree => none
  | .etakeWake | .epostWake | .budgetExceeded _ | .episodeException _ | .scrubComplete _ _ | .episodeLoad _ => none
  | .episodeLoadComplete _ _ | .episodeRelease _ | .episodeKill _ => none
  | .contextCreate _ | .contextSuspend _ | .quiesceComplete _ | .contextResume _ | .contextDestroy _ | .teardownComplete _ => none
  | .contextUpdate _ | .tlbinv _ | .interruptUnmask _ | .queueCreate _ _ | .queueResume _ _ | .queueDrain _ _ => none
  | .queueDestroy _ _ | .nodeAppend _ _ _ | .nodeTakeIn _ _ | .nodeRetire _ _ | .nodeLimitExpiry _ _ _ | .qerrClear _ _ => none
  | .groupPlace | .dispatcherNodeStart _ _ _ | .copyNodeComplete _ _ _ | .loopIterationEnd _ _ _ | .minQuantumExpiry _ => none
  | .threadSaveComplete _ _ | .sendArrival _ | .sendResponse _ _ | .sendTimeout _ | .remoteRequest _ => none
  | .remoteRequestTimeout | .portEnable _ | .portDisable _ | .podcfgWrite _ | .trainingEnd _ _ | .trainingRetry _ => none
  | .laneLost _ _ | .replayLimit _ | .turwardRetrain | .poolPromote _ | .promoteCopyEnd _ | .poolHold _ => none
  | .traceFlushTimeout _ _ | .marginMeasurement _ | .junctionOvertemp | .firmwareUpdate _ _ | .spdmIdentity => none
  | .spdmMeasurement | .spdmChallenge _ | .telemetryRead | .minimumQuantumSet _ | .portFence _ => none
  | .controlRegionSizeSet _ | .packageReset | .baseRiscv _ | .turwardHostAccess _ | .codePageFetch => none
  | .etake _ | .epost _ | .ewdkick _ | .eyield _ | .eexit _ => none

/-- Decoding a 64-bit word: the instruction, or the step of R73 that fails first (1 to 4). A reserved field of the format
that is not zero is seen as the word differing from the encoding of its own fields. -/
def decodeWord (w : Word) : Except Nat Instr :=
  let mj := (w.extractLsb' 56 8).toNat
  if majorAssigned mj then
    match if mj = 0xC0 then some (.convoy (.unpack w)) else decodeFn mj (w.extractLsb' 48 8).toNat (w.extractLsb' 0 48) with
    | none => .error 2
    | some i => if encode64 i = some w then (if wfStep i = 0 then .ok i else .error (wfStep i)) else .error 3
  else .error 1

/-- The instruction of a 64-bit word, none where the word is rejected. -/
def decode (w : Word) : Option Instr := (decodeWord w).toOption

/-! ### The Etesian words (spec/17_episode.md R331, R337)

The base encodings are those of RV64IMAC with Zicsr and Zifencei. -/

/-- An R-type word of the RISC-V layout. -/
def rvR (f7 : BitVec 7) (rs2 rs1 : BitVec 5) (f3 : BitVec 3) (rd : BitVec 5) (op : BitVec 7) : BitVec 32 :=
  f7 ++ rs2 ++ rs1 ++ f3 ++ rd ++ op

/-- An I-type word of the RISC-V layout. -/
def rvIw (imm : BitVec 12) (rs1 : BitVec 5) (f3 : BitVec 3) (rd : BitVec 5) (op : BitVec 7) : BitVec 32 :=
  imm ++ rs1 ++ f3 ++ rd ++ op

/-- The custom-0 words of R337. -/
def ROp.pack (o : ROp) (f3 : BitVec 3) : BitVec 32 := rvR 0 o.rs2 o.rs1 f3 o.rd 0x0B

/-- The rd, rs1 and rs2 fields. -/
def ROp.unpack (w : BitVec 32) : ROp := ⟨w.extractLsb' 7 5, w.extractLsb' 15 5, w.extractLsb' 20 5⟩

def RvBr.code : RvBr → BitVec 3
  | .eq => 0 | .ne => 1 | .lt => 4 | .ge => 5 | .ltu => 6 | .geu => 7

def RvLd.code : RvLd → BitVec 3
  | .b => 0 | .h => 1 | .w => 2 | .d => 3 | .bu => 4 | .hu => 5 | .wu => 6

def RvSt.code : RvSt → BitVec 3
  | .b => 0 | .h => 1 | .w => 2 | .d => 3

def RvAlu.code : RvAlu → BitVec 3
  | .add | .sub => 0 | .sll => 1 | .slt => 2 | .sltu => 3 | .xor => 4 | .srl | .sra => 5 | .or => 6 | .and => 7

def RvMul.code : RvMul → BitVec 3
  | .mul => 0 | .mulh => 1 | .mulhsu => 2 | .mulhu => 3 | .div => 4 | .divu => 5 | .rem => 6 | .remu => 7

def RvAmo.code : RvAmo → BitVec 5
  | .swap => 1 | .add => 0 | .xor => 4 | .and => 12 | .or => 8 | .min => 16 | .max => 20 | .minu => 24 | .maxu => 28

/-- funct7 of a register-register operation. -/
def RvAlu.f7 : RvAlu → BitVec 7
  | .sub | .sra => 0x20
  | .add | .sll | .slt | .sltu | .xor | .srl | .or | .and => 0

/-- The bits that `srai` sets above its shift amount. -/
def RvAlu.immHigh : RvAlu → BitVec 12
  | .sra => 0x400
  | .add | .sub | .sll | .slt | .sltu | .xor | .srl | .or | .and => 0

/-- The 32-bit word of a base instruction. -/
def RvI.encode : RvI → BitVec 32
  | .lui rd imm => imm ++ rd ++ 0x37#7
  | .auipc rd imm => imm ++ rd ++ 0x17#7
  | .jal rd off => off.extractLsb' 19 1 ++ off.extractLsb' 0 10 ++ off.extractLsb' 10 1 ++ off.extractLsb' 11 8 ++ rd ++ 0x6F#7
  | .jalr rd rs1 imm => rvIw imm rs1 0 rd 0x67
  | .branch c rs1 rs2 off =>
    off.extractLsb' 11 1 ++ off.extractLsb' 4 6 ++ rs2 ++ rs1 ++ c.code ++ off.extractLsb' 0 4 ++ off.extractLsb' 10 1 ++ 0x63#7
  | .load f rd rs1 imm => rvIw imm rs1 f.code rd 0x03
  | .store f rs1 rs2 imm => imm.extractLsb' 5 7 ++ rs2 ++ rs1 ++ f.code ++ imm.extractLsb' 0 5 ++ 0x23#7
  | .opImm f rd rs1 imm => rvIw (imm ||| f.immHigh) rs1 f.code rd 0x13
  | .opImm32 f rd rs1 imm => rvIw (imm ||| f.immHigh) rs1 f.code rd 0x1B
  | .op f rd rs1 rs2 => rvR f.f7 rs2 rs1 f.code rd 0x33
  | .op32 f rd rs1 rs2 => rvR f.f7 rs2 rs1 f.code rd 0x3B
  | .mul f rd rs1 rs2 => rvR 1 rs2 rs1 f.code rd 0x33
  | .mul32 f rd rs1 rs2 => rvR 1 rs2 rs1 f.code rd 0x3B
  | .fence fm pred succ rd rs1 => fm ++ pred ++ succ ++ rs1 ++ 0#3 ++ rd ++ 0x0F#7
  | .fenceI imm rd rs1 => rvIw imm rs1 1 rd 0x0F
  | .ecall => 0x00000073
  | .ebreak => 0x00100073
  | .wfi => 0x10500073
  | .csr f imm rd rs1 n =>
    rvIw n rs1 ((match f with | .rw => 1 | .rs => 2 | .rc => 3) ||| (if imm then 4 else 0)) rd 0x73
  | .lr dbl aq rl rd rs1 => 2#5 ++ bit aq ++ bit rl ++ 0#5 ++ rs1 ++ (if dbl then 3#3 else 2#3) ++ rd ++ 0x2F#7
  | .sc dbl aq rl rd rs1 rs2 => 3#5 ++ bit aq ++ bit rl ++ rs2 ++ rs1 ++ (if dbl then 3#3 else 2#3) ++ rd ++ 0x2F#7
  | .amo f dbl aq rl rd rs1 rs2 => f.code ++ bit aq ++ bit rl ++ rs2 ++ rs1 ++ (if dbl then 3#3 else 2#3) ++ rd ++ 0x2F#7

/-- A register-immediate operation: shifts by the low bits of the immediate, `srai` marked by bit 10; `w` is the width of the
shift amount. -/
def rvOpImm (w : Nat) (f3 : Nat) (imm : BitVec 12) : Option (RvAlu × BitVec 12) :=
  match f3 with
  | 0 => some (.add, imm)
  | 1 => if imm >>> w = 0 then some (.sll, imm) else none
  | 2 => some (.slt, imm)
  | 3 => some (.sltu, imm)
  | 4 => some (.xor, imm)
  | 5 => if imm >>> w = 0 then some (.srl, imm)
    else if imm >>> w = 0x400#12 >>> w then some (.sra, imm &&& ~~~(0x400#12)) else none
  | 6 => some (.or, imm)
  | 7 => some (.and, imm)
  | _ => none

/-- A register-register operation by funct3 and funct7. -/
def rvOp (f3 f7 : Nat) : Option RvAlu :=
  match f3, f7 with
  | 0, 0 => some .add | 0, 0x20 => some .sub | 1, 0 => some .sll | 2, 0 => some .slt | 3, 0 => some .sltu | 4, 0 => some .xor
  | 5, 0 => some .srl | 5, 0x20 => some .sra | 6, 0 => some .or | 7, 0 => some .and
  | _, _ => none

/-- The operations that have a 32-bit form. -/
def rvHasW (f : RvAlu) : Bool :=
  match f with
  | .add | .sub | .sll | .srl | .sra => true
  | .slt | .sltu | .xor | .or | .and => false

def rvMul (f3 : Nat) : Option RvMul :=
  match f3 with
  | 0 => some .mul | 1 => some .mulh | 2 => some .mulhsu | 3 => some .mulhu | 4 => some .div | 5 => some .divu | 6 => some .rem
  | 7 => some .remu | _ => none

/-- The M operations that have a 32-bit form. -/
def rvMulHasW (f : RvMul) : Bool :=
  match f with
  | .mul | .div | .divu | .rem | .remu => true
  | .mulh | .mulhsu | .mulhu => false

def rvBr (f3 : Nat) : Option RvBr :=
  match f3 with
  | 0 => some .eq | 1 => some .ne | 4 => some .lt | 5 => some .ge | 6 => some .ltu | 7 => some .geu | _ => none

def rvLd (f3 : Nat) : Option RvLd :=
  match f3 with
  | 0 => some .b | 1 => some .h | 2 => some .w | 3 => some .d | 4 => some .bu | 5 => some .hu | 6 => some .wu | _ => none

def rvSt (f3 : Nat) : Option RvSt :=
  match f3 with
  | 0 => some .b | 1 => some .h | 2 => some .w | 3 => some .d | _ => none

def rvAmo (f5 : Nat) : Option RvAmo :=
  match f5 with
  | 0 => some .add | 1 => some .swap | 4 => some .xor | 8 => some .or | 12 => some .and | 16 => some .min | 20 => some .max
  | 24 => some .minu | 28 => some .maxu | _ => none

/-- The base instruction of a 32-bit word. -/
def RvI.decode (w : BitVec 32) : Option RvI :=
  let rd := w.extractLsb' 7 5
  let rs1 := w.extractLsb' 15 5
  let rs2 := w.extractLsb' 20 5
  let f3 := (w.extractLsb' 12 3).toNat
  let f7 := (w.extractLsb' 25 7).toNat
  let imm := w.extractLsb' 20 12
  let aq := w.getLsbD 26
  let rl := w.getLsbD 25
  match (w.extractLsb' 0 7).toNat with
  | 0x37 => some (.lui rd (w.extractLsb' 12 20))
  | 0x17 => some (.auipc rd (w.extractLsb' 12 20))
  | 0x6F => some (.jal rd (w.extractLsb' 31 1 ++ w.extractLsb' 12 8 ++ w.extractLsb' 20 1 ++ w.extractLsb' 21 10))
  | 0x67 => if f3 = 0 then some (.jalr rd rs1 imm) else none
  | 0x63 => (rvBr f3).map fun c =>
      .branch c rs1 rs2 (w.extractLsb' 31 1 ++ w.extractLsb' 7 1 ++ w.extractLsb' 25 6 ++ w.extractLsb' 8 4)
  | 0x03 => (rvLd f3).map fun f => .load f rd rs1 imm
  | 0x23 => (rvSt f3).map fun f => .store f rs1 rs2 (w.extractLsb' 25 7 ++ w.extractLsb' 7 5)
  | 0x13 => (rvOpImm 6 f3 imm).map fun p => .opImm p.1 rd rs1 p.2
  | 0x1B => (rvOpImm 5 f3 imm).bind fun p => if rvHasW p.1 then some (.opImm32 p.1 rd rs1 p.2) else none
  | 0x33 => if f7 = 1 then (rvMul f3).map fun f => .mul f rd rs1 rs2 else (rvOp f3 f7).map fun f => .op f rd rs1 rs2
  | 0x3B =>
    if f7 = 1 then (rvMul f3).bind fun f => if rvMulHasW f then some (.mul32 f rd rs1 rs2) else none
    else (rvOp f3 f7).bind fun f => if rvHasW f then some (.op32 f rd rs1 rs2) else none
  | 0x0F =>
    match f3 with
    | 0 => some (.fence (w.extractLsb' 28 4) (w.extractLsb' 24 4) (w.extractLsb' 20 4) rd rs1)
    | 1 => some (.fenceI imm rd rs1)
    | _ => none
  | 0x73 =>
    match f3 with
    | 0 => if w = 0x00000073 then some .ecall else if w = 0x00100073 then some .ebreak else if w = 0x10500073 then some .wfi else none
    | 1 => some (.csr .rw false rd rs1 imm) | 2 => some (.csr .rs false rd rs1 imm) | 3 => some (.csr .rc false rd rs1 imm)
    | 5 => some (.csr .rw true rd rs1 imm) | 6 => some (.csr .rs true rd rs1 imm) | 7 => some (.csr .rc true rd rs1 imm)
    | _ => none
  | 0x2F =>
    if f3 = 2 ∨ f3 = 3 then
      let dbl := f3 == 3
      match (w.extractLsb' 27 5).toNat with
      | 2 => if rs2 = 0 then some (.lr dbl aq rl rd rs1) else none
      | 3 => some (.sc dbl aq rl rd rs1 rs2)
      | f5 => (rvAmo f5).map fun f => .amo f dbl aq rl rd rs1 rs2
    else none
  | _ => none

/-- A three-bit register field of the C extension: x8 to x15. -/
def rvcReg (h : BitVec 16) (lo : Nat) : BitVec 5 := 1#2 ++ h.extractLsb' lo 3

/-- The base instruction that a 16-bit parcel of the C extension stands for; none for a reserved parcel, and for the
floating-point loads and stores that the cores do not have. -/
def RvI.expand (h : BitVec 16) : Option RvI :=
  let b (i : Nat) : BitVec 1 := h.extractLsb' i 1
  let rd := h.extractLsb' 7 5
  let rs2 := h.extractLsb' 2 5
  let rdp := rvcReg h 7
  let rsp := rvcReg h 2
  let imm6 : BitVec 6 := b 12 ++ h.extractLsb' 2 5
  let immI : BitVec 12 := imm6.signExtend 12
  let offW : BitVec 12 := 0#5 ++ b 5 ++ h.extractLsb' 10 3 ++ b 6 ++ 0#2
  let offD : BitVec 12 := 0#4 ++ h.extractLsb' 5 2 ++ h.extractLsb' 10 3 ++ 0#3
  let br : BitVec 12 := (b 12 ++ h.extractLsb' 5 2 ++ b 2 ++ h.extractLsb' 10 2 ++ h.extractLsb' 3 2 : BitVec 8).signExtend 12
  match (h.extractLsb' 0 2).toNat, (h.extractLsb' 13 3).toNat with
  | 0, 0 =>
    let u : BitVec 12 := 0#2 ++ h.extractLsb' 7 4 ++ h.extractLsb' 11 2 ++ b 5 ++ b 6 ++ 0#2
    if u = 0 then none else some (.opImm .add rsp 2 u)
  | 0, 2 => some (.load .w rsp rdp offW)
  | 0, 3 => some (.load .d rsp rdp offD)
  | 0, 6 => some (.store .w rdp rsp offW)
  | 0, 7 => some (.store .d rdp rsp offD)
  | 1, 0 => some (.opImm .add rd rd immI)
  | 1, 1 => if rd = 0 then none else some (.opImm32 .add rd rd immI)
  | 1, 2 => some (.opImm .add rd 0 immI)
  | 1, 3 =>
    if imm6 = 0 then none
    else if rd = 2 then
      some (.opImm .add 2 2 ((b 12 ++ h.extractLsb' 3 2 ++ b 5 ++ b 2 ++ b 6 ++ 0#4 : BitVec 10).signExtend 12))
    else some (.lui rd (imm6.signExtend 20))
  | 1, 4 =>
    match (h.extractLsb' 10 2).toNat with
    | 0 => some (.opImm .srl rdp rdp (imm6.setWidth 12))
    | 1 => some (.opImm .sra rdp rdp (imm6.setWidth 12))
    | 2 => some (.opImm .and rdp rdp immI)
    | _ =>
      match (b 12).toNat, (h.extractLsb' 5 2).toNat with
      | 0, 0 => some (.op .sub rdp rdp rsp)
      | 0, 1 => some (.op .xor rdp rdp rsp)
      | 0, 2 => some (.op .or rdp rdp rsp)
      | 0, 3 => some (.op .and rdp rdp rsp)
      | 1, 0 => some (.op32 .sub rdp rdp rsp)
      | 1, 1 => some (.op32 .add rdp rdp rsp)
      | _, _ => none
  | 1, 5 =>
    some (.jal 0 ((b 12 ++ b 8 ++ h.extractLsb' 9 2 ++ b 6 ++ b 7 ++ b 2 ++ b 11 ++ h.extractLsb' 3 3 : BitVec 11).signExtend 20))
  | 1, 6 => some (.branch .eq rdp 0 br)
  | 1, 7 => some (.branch .ne rdp 0 br)
  | 2, 0 => some (.opImm .sll rd rd (imm6.setWidth 12))
  | 2, 2 => if rd = 0 then none else some (.load .w rd 2 (0#4 ++ h.extractLsb' 2 2 ++ b 12 ++ h.extractLsb' 4 3 ++ 0#2))
  | 2, 3 => if rd = 0 then none else some (.load .d rd 2 (0#3 ++ h.extractLsb' 2 3 ++ b 12 ++ h.extractLsb' 5 2 ++ 0#3))
  | 2, 4 =>
    if b 12 = 0 then
      if rs2 = 0 then (if rd = 0 then none else some (.jalr 0 rd 0)) else some (.op .add rd 0 rs2)
    else if rs2 = 0 then (if rd = 0 then some .ebreak else some (.jalr 1 rd 0))
    else some (.op .add rd rd rs2)
  | 2, 6 => some (.store .w 2 rs2 (0#4 ++ h.extractLsb' 7 2 ++ h.extractLsb' 9 4 ++ 0#2))
  | 2, 7 => some (.store .d 2 rs2 (0#3 ++ h.extractLsb' 7 3 ++ h.extractLsb' 10 3 ++ 0#3))
  | _, _ => none

/-- A parcel with bits [1:0] both one begins a 32-bit instruction. -/
def rvIsFull (h : BitVec 16) : Bool := h.extractLsb' 0 2 == 3

/-- The Etesian instruction of a 32-bit word: the extension in custom-0 (R337), or a base instruction; none is an
illegal-instruction exception. Of a compressed parcel only bits [15:0] are read. -/
def decodeEtesian (w : BitVec 32) : Option Instr :=
  if rvIsFull (w.extractLsb' 0 16) then
    if w.extractLsb' 0 7 = 0x0B then
      let o := ROp.unpack w
      let i : Option Instr :=
        match (w.extractLsb' 12 3).toNat with
        | 0 => some (.etake o)
        | 1 => some (.epost o)
        | 2 => some (.ewdkick o)
        | 3 => some (.eyield o)
        | 4 => some (.eexit o)
        | _ => none
      if w.extractLsb' 25 7 = 0 then i.bind fun i => if wf i then some i else none else none
    else (RvI.decode w).map fun i => .baseRiscv (.full i)
  else
    let h := w.extractLsb' 0 16
    (RvI.expand h).map fun _ => .baseRiscv (.compressed h)

/-- The word of an Etesian instruction, a compressed parcel zero-extended. -/
def encodeEtesian (i : Instr) : Option (BitVec 32) :=
  match i with
  | .etake o => some (o.pack 0)
  | .epost o => some (o.pack 1)
  | .ewdkick o => some (o.pack 2)
  | .eyield o => some (o.pack 3)
  | .eexit o => some (o.pack 4)
  | .baseRiscv (.full i) => some i.encode
  | .baseRiscv (.compressed h) => some (h.setWidth 32)
  | _ => none

/-- The bytes of `n` bits, least significant first (R71: words are stored little-endian). -/
def bytesOf (n : Nat) (w : Nat) : List Byte := (List.range n).map fun i => BitVec.ofNat 8 (w >>> (8 * i))

/-- The bytes of an instruction as they stand in memory. -/
def encode (i : Instr) : Option (List Byte) :=
  match encode64 i with
  | some w => some (bytesOf 8 w.toNat)
  | none =>
    match i with
    | .baseRiscv (.compressed h) => some (bytesOf 2 h.toNat)
    | _ => (encodeEtesian i).map fun w => bytesOf 4 w.toNat

/-- The instruction that this decoder reads from an opcode-table row's bits: an Etesian word where the row has 32 bits or
fewer, an Evoesh word otherwise. -/
def decodeTableWord (nbits w : Nat) : Option Instr :=
  if nbits ≤ 32 then decodeEtesian (BitVec.ofNat 32 w) else decode (BitVec.ofNat 64 w)

end Sys2Proof
end

