-- ==== Sys2Proof/Config.lean ====
section
/-! DEFINITION. The values the spec leaves open, as constants without a body: nothing can be proved of the values they take.
Each is named in a log entry of notes/assumptions. -/

namespace Sys2Proof.Config

/-- A value that the spec leaves undefined or does not state, drawn by number: a step that needs one reads the model's own
counter in State and advances it (log entry 2). -/
opaque freeValue : Nat → BitVec 64

/-- A bit of data the spec leaves undefined (log entry 2). -/
opaque freeBit : Nat → Bool

/-- On which side of a rounding boundary the exact value of a special function lies, where the model's enclosure does not decide it: by
operation, format and operand (log entry 3). -/
opaque undecided : Nat → Nat → Nat → Nat

/-- Whether an Etesian core performs a misaligned load or store of the base instruction set, or raises an exception: RISC-V leaves it
to the implementation, and the spec does not say (log entry 12). -/
opaque misaligned : Bool

/-- Whether an access uses a translation that a TLB still holds from before a change of the tables (11 R266): by core cycle and
address (log entry 23). -/
opaque staleTlb : Nat → Nat → Bool

/-- Which of the tables that have stood since the last invalidation a TLB's translation comes from (11 R266; log entry 23). -/
opaque staleFrom : Nat → Nat → Nat

/-- Whether a line is present in a quadrant's L2 (13 R296): by core cycle, quadrant and line (log entry 24). -/
opaque inL2 : Nat → Nat → Nat → Bool

/-- The device identity key, an Ed25519 private key that never leaves the device (22 R404; log entry 4). -/
opaque deviceKey : List Byte

/-- The Keranay keys in the device's fuses, Ed25519 public keys (22 R404; log entry 4). -/
opaque fusedKeys : List (List Byte)

/-- The identity certificate chain (22 R403; log entry 4). -/
opaque identity : List Byte

/-- The firmware images that booted the package, before any update, in boot order (22 R404; log entry 4). -/
opaque bootImages : List (List Byte)

/-- Rail and temperature readings of the management plane, by reading number (22 R403; log entry 4). -/
opaque telemetry : Nat → List Byte

/-- The version that an image carries for the anti-rollback check (22 R404; log entry 4). -/
opaque imageVersion : List Byte → Nat

/-- The SPDM messages that have agreed on a version, capabilities and algorithms and have read the certificate chain (R9; log entry 4). -/
opaque spdmNegotiated : List Byte

end Sys2Proof.Config
end

