-- ==== Sys2Proof/Machine/Bits.lean ====
section
/-! DEFINITION. Bit-field, extension and byte-order helpers, and the integer arithmetic that the meanings share. -/

namespace Sys2Proof.Machine

/-- The low `w` bits of a number, read as a two's-complement integer (R53). -/
def sextNat (w n : Nat) : Int :=
  let m := n % 2 ^ w
  if m < 2 ^ (w - 1) then m else (m : Int) - 2 ^ w

/-- An integer modulo 2^w. -/
def wrapInt (w : Nat) (i : Int) : Nat := (i % (2 ^ w : Nat)).toNat

/-- Bits [hi:lo] of a number. -/
def bitsOf (hi lo n : Nat) : Nat := (n >>> lo) % 2 ^ (hi + 1 - lo)

/-- Little-endian assembly of bytes (R5). -/
def ofBytes : List Byte → Nat
  | [] => 0
  | b :: l => b.toNat + 256 * ofBytes l

/-- The `n` low bytes of a number, least significant first (R5). -/
def toBytes : Nat → Nat → List Byte
  | 0, _ => []
  | n + 1, v => BitVec.ofNat 8 v :: toBytes n (v / 256)

/-- Ceiling division. -/
def ceilDiv (a b : Nat) : Nat := (a + b - 1) / b

/-- The number of bits of a number: 0 for 0, else ⌊log2⌋ + 1. -/
def bitLen (n : Nat) : Nat := if n = 0 then 0 else Nat.log2 n + 1

/-- Element `n` of width `w` in a register of any width (R129). -/
def elemAt {k : Nat} (r : BitVec k) (w n : Nat) : Nat := (r.extractLsb' (w * n) w).toNat

/-- A register with element `n` of width `w` replaced (R129). -/
def elemPut {k : Nat} (r : BitVec k) (w n v : Nat) : BitVec k :=
  let mask : BitVec k := BitVec.ofNat k (2 ^ w - 1) <<< (w * n)
  (r &&& ~~~mask) ||| (BitVec.ofNat k (v % 2 ^ w) <<< (w * n))

/-- The number that a list of `w`-bit elements packs to, the first at the bottom. -/
def packElems (w : Nat) : List Nat → Nat
  | [] => 0
  | x :: l => x % 2 ^ w + 2 ^ w * packElems w l

/-- A register with its bits [lo + n*w - 1 : lo] replaced by `n` packed elements. -/
def putRange {k : Nat} (r : BitVec k) (lo len v : Nat) : BitVec k :=
  let mask : BitVec k := BitVec.ofNat k (2 ^ len - 1) <<< lo
  (r &&& ~~~mask) ||| (BitVec.ofNat k (v % 2 ^ len) <<< lo)

/-- Signed or unsigned reading of a `w`-bit value. -/
def readInt (signed : Bool) (w n : Nat) : Int := if signed then sextNat w n else (n % 2 ^ w : Nat)

/-- The least and the greatest value of an integer type. -/
def intRange (signed : Bool) (w : Nat) : Int × Int :=
  if signed then (-(2 ^ (w - 1) : Nat), (2 ^ (w - 1) : Nat) - 1) else (0, (2 ^ w : Nat) - 1)

/-- Clamp to a type's range; the flag says that the value was clamped. -/
def clampInt (signed : Bool) (w : Nat) (i : Int) : Int × Bool :=
  let (lo, hi) := intRange signed w
  if i < lo then (lo, true) else if hi < i then (hi, true) else (i, false)

/-- Quotient of R96 at width `w`: all ones for a zero divisor, the minimum for the minimum over −1. -/
def divide (signed : Bool) (w a b : Nat) : Nat :=
  if b % 2 ^ w = 0 then 2 ^ w - 1 else wrapInt w ((readInt signed w a).tdiv (readInt signed w b))

/-- Remainder of R96: the dividend for a zero divisor. -/
def remainder (signed : Bool) (w a b : Nat) : Nat :=
  if b % 2 ^ w = 0 then a % 2 ^ w else wrapInt w ((readInt signed w a).tmod (readInt signed w b))

/-- Count of leading zero bits of a 64-bit value (R95). -/
def clz64 (x : Word) : Nat := 64 - bitLen x.toNat

/-- Count of trailing zero bits of a 64-bit value (R95). -/
def ctz64 (x : Word) : Nat := ((List.range 64).find? fun i => x.getLsbD i).getD 64

/-- Count of one bits (R95). -/
def popc64 (x : Word) : Nat := (List.range 64).countP fun i => x.getLsbD i

/-- The eight bytes in reverse order (R95). -/
def bswap64 (x : Word) : Word := BitVec.ofNat 64 (ofBytes (toBytes 8 x.toNat).reverse)

/-- The conditions of R94. -/
def condHolds (c : Cond) (a b : Word) : Bool :=
  match c with
  | .eq => a == b
  | .ne => a != b
  | .lt => a.slt b
  | .ge => !a.slt b
  | .ltn => a.ult b
  | .gen => !a.ult b
  | .any => a &&& b != 0
  | .none => a &&& b == 0

/-- The element width in bits of a type code (R54). -/
def tyWidth (t : Nat) : Nat :=
  match t with
  | 0 | 4 | 12 | 13 => 8
  | 1 | 5 | 8 | 9 => 16
  | 2 | 6 | 10 => 32
  | _ => 64

/-- A two's-complement type code (R54). -/
def tySigned (t : Nat) : Bool := t < 4

/-- An integer type code (R54). -/
def tyIsInt (t : Nat) : Bool := t < 8

end Sys2Proof.Machine
end

