-- ==== Sys2Proof/Machine/State.lean ====
section
/-! DEFINITION. The state of one package (spec/01 R12), its value after package reset, and the ways a step can stop.
Every piece of state that the spec gives the machine is a field here; INVENTORY.md lists them with their rules. -/

namespace Sys2Proof.Machine

/-! ### Bytes of memory -/

/-- Bytes by address: addresses strictly rising, and no entry equal to 0, which is what an unlisted address reads as
(scratchpad: 05 R122; other memory: log entry 6). -/
abbrev Mem := List (Nat × Byte)

/-! ### The thread -/

/-- The two forms of a mask register (R134): 2,048 bits, or the first `c` elements of width `w`. -/
inductive MaskVal where
  | bitmap (b : Bitmap)
  | count (c w : Nat)
  deriving DecidableEq, Repr, Inhabited

/-- One loop counter with its start and end addresses (R108, R111). -/
structure Loop where
  count : Word
  start : CodeAddr
  last : CodeAddr
  deriving DecidableEq, Repr, Inhabited

/-- A stream binding: the fields of the stream control block (R154), and the address it was bound from. -/
structure Stream where
  base : Word
  step0 : Word
  step1 : Word
  step2 : Word
  cnt0 : Nat
  cnt1 : Nat
  cnt2 : Nat
  ty : Nat
  spad : Bool
  wrap : Bool
  pos : Nat
  block : Word
  deriving DecidableEq, Repr, Inhabited

/-- The register files of a thread (R27): `g`, `v` with their arrival bits (R35), `k`, the loop state and the stream bindings. -/
structure Regs where
  g : Vector Word 64
  v : Vector VReg 64
  arr : Vector (BitVec 32) 64
  k : Vector MaskVal 16
  loops : Vector Loop 3
  sb : Vector (Option Stream) 8
  deriving DecidableEq, Repr

/-- The thread's own control registers (R216); THREADID, CTXID, PROTECT and XSTATE are views of other state. -/
structure Csrs where
  shape : Word
  fmode : Word
  fstat : Word
  rngkey : Word
  rngctr : Word
  instret : Word
  tqindex : Word
  engerr : Word
  engaddr : Word
  tmapb : Word
  trappc : Word
  trapcause : Word
  trapinfo : Vector Word 4
  tracectl : Word
  pmc : Vector Word 8
  pmsel : Vector Word 8
  deriving DecidableEq, Repr

/-- A member of a posted convoy: the instruction, the `g` values it captured at commit (R129, R151), the first Philox block it
reserved (R60), and for a stream access the binding as it stood, with P in its `pos` (R156). -/
structure Member where
  ins : Instr
  x0 : Word
  x1 : Word
  x2 : Word
  rng : Word
  stream : Option Stream
  /-- EGs of a load that have arrived ahead of completion (row VEC_EG_ARRIVAL). -/
  early : Nat
  deriving DecidableEq, Repr, Inhabited

/-- A posted convoy (R31, R44): the header's address, its members, and what it captured at commit (R129). `younger` is the posting
number of the first tile entry that is younger than the convoy (R254). -/
structure Convoy where
  pc : CodeAddr
  /-- The cycle at which it began: when it was posted, or when the convoy before it completed. -/
  began : Nat
  younger : Nat
  rows : Nat
  cols : Nat
  fmode : Word
  rngkey : Word
  members : List Member
  deriving DecidableEq, Repr, Inhabited

/-- A fault waiting to be delivered: the cause of R364 and the four TRAPINFO values. -/
structure FaultInfo where
  cause : Nat
  i0 : Word := 0
  i1 : Word := 0
  i2 : Word := 0
  i3 : Word := 0
  deriving DecidableEq, Repr, Inhabited

/-- Where a trap arises (R365 STREAM): in the scalar stream, at a convoy header, at a held tile entry, in a convoy that has run. -/
inductive TrapAt where
  | scalar
  | convoy
  | tile (pc : CodeAddr) (post : Nat)
  | vector (pc : CodeAddr)
  deriving DecidableEq, Repr, Inhabited

/-- Where a tile queue entry stands (R33, R40, R369). -/
inductive TqState where
  | posted
  | issued
  | completed
  | held (f : FaultInfo)
  deriving DecidableEq, Repr, Inhabited

/-- What a completed tile entry leaves for its retirement: the new value and the flags it raises. -/
structure TileResult where
  val : Option TileVal
  flags : BitVec 4
  /-- The window armed by a `TRECV`, or the page list positions pinned by a `TGATHER`. -/
  window : Option Nat
  pins : List Nat
  deriving DecidableEq, Repr, Inhabited

/-- An entry of the tile queue (R31, R32, R41). -/
structure TqEnt where
  post : Nat
  pc : CodeAddr
  ins : Instr
  g0 : Word
  g1 : Word
  fmode : Word
  rngkey : Word
  rng : Word
  st : TqState
  /-- Marked done in the image: it retires without being performed (R41). -/
  done : Bool
  /-- SKIP was set at `ERET`: it retires without effect (R372). -/
  skip : Bool
  /-- The pool slot it took at issue (R234). -/
  slot : Option Nat
  /-- The posting number of the `MMA` it is chained to (R46). -/
  chain : Option Nat
  /-- Unit number of the TQ-ISSUE packet (R397). -/
  unit : Nat
  /-- One more than the cycle since which it has waited for a slot without a candidate (R374) or for a port (R385); 0 for neither. -/
  since : Nat
  /-- Its store stands as an XSERIAL access of a speculative iteration, and its hold has been reported (R359). -/
  xheld : Bool
  res : TileResult
  deriving DecidableEq, Repr, Inhabited

/-- An entry of the tile map (R224). -/
structure TEnt where
  rzHigh : BitVec 160
  win : BitVec 12
  arm : Bool
  sf : Bool
  pin : Bool
  lu : Bool
  rzLow : BitVec 7
  bidx : BitVec 9
  core : BitVec 8
  slot : BitVec 8
  gen : BitVec 8
  flags : BitVec 4
  f : Bool
  state : BitVec 3
  shape : BitVec 32
  deriving DecidableEq, Repr, Inhabited

/-- Why a thread is not committing: a wait of an instruction that has a wake row of its own, with the operands that it read.
A wait that is stopped is executed again in full (R39). -/
inductive Wait where
  | none
  | waitf (all : Bool) (n : Nat)
  | yield (until_ : Nat)
  | exit
  | bwait (d : BitVec 6) (addr : Word) (n : Nat) (sc : Scope)
  | mbpost (o : VOp)
  | mbtake (o : VOp)
  | wfe (addr : Word)
  | hcallEntry (g : BitVec 6)
  | hcallReply (g : BitVec 6)
  /-- A `GBAR` that has arrived (R307). -/
  | gbar
  /-- A `TGETR` or `TGETC` that needs the fill of a tile (R230, R233). -/
  | tileGet (t : Nat)
  /-- An `XABORT` that a speculative iteration holds, as a fault (R360). -/
  | xabort
  | remote (deadline : Nat) (f : FaultInfo)
  /-- A `VBIND` or `VUNBIND` that waits for a usable port (R385). -/
  | bindPort (deadline : Nat)
  /-- A `VEC_EMPTY` trap that waits for the vector queue to drain (R366 step 1). -/
  | emptyTrap (f : FaultInfo)
  deriving DecidableEq, Repr, Inhabited

/-- A pending `HCALL` (R392): its sequence number, its code and value, and whether its ring entry has been written. -/
structure Hcall where
  seq : Word
  code : Nat
  value : Word
  written : Bool
  deriving DecidableEq, Repr, Inhabited

/-- The trace unit's queue for a thread (R395 to R398): packets not yet in a line, without their LAP bit, each with the cycle at which it
was made; the packets of the line being filled; the branch bits gathered; the packets since the last SYNC; the packets lost; the cycle at
which the oldest unwritten packet was made; how many packets of the line a flush has written. -/
structure TraceBuf where
  queue : List (Word × Nat)
  line : List Word
  bits : List Bool
  since : Nat
  lost : Nat
  stamp : Nat
  written : Nat
  deriving DecidableEq, Repr, Inhabited

/-- Who a thread is: context, queue, node, group, indices, save record, core (48q + c) and thread slot (R25, R217, R274). -/
structure ThreadId where
  ctx : Nat
  q : Nat
  node : Word
  gid : Nat
  gidx : Nat
  tidx : Nat
  record : Nat
  core : Nat
  slot : Nat
  deriving DecidableEq, Repr, Inhabited

/-- What a core keeps of a saved thread's tile queue beside the image of R274, which holds no address, posting number or mode:
by context and save record, the entries posted since launch and each kept entry's posting number, address, FMODE and RNGKEY. -/
structure Image where
  ctx : Nat
  record : Nat
  posts : Nat
  ents : List (Nat × CodeAddr × Word × Word)
  deriving DecidableEq, Repr, Inhabited

/-- What the kernel header gives a thread (R290), rounded by R231. -/
structure Header where
  entry : Word
  group : Nat
  slots : Nat
  vregs : Nat
  tiles : Nat
  nsb : Nat
  trace : Bool
  hach : Bool
  prot : Bool
  mapbase : Word
  deriving DecidableEq, Repr, Inhabited

/-- A thread in a slot (R27). -/
structure Thread where
  live : Bool
  id : ThreadId
  hdr : Header
  r : Regs
  c : Csrs
  pc : CodeAddr
  sup : Bool
  /-- Registers written since the last restore, and the high-water marks, in EGs (R41). -/
  vdirty : BitVec 64
  hwm : Vector Nat 64
  /-- The thread's half of the scratchpad (R122), and one more than the highest byte written since launch (R274). -/
  spad : Mem
  spadHigh : Nat
  vq : List Convoy
  tq : List TqEnt
  /-- Tile entries posted since launch (R162). -/
  posts : Nat
  /-- The installed map's entries below the tile count (R226), and whether R295 has been applied to them. -/
  tmap : List TEnt
  tmapReady : Bool
  /-- Tiles whose prefetch has still to begin (R165, R175). -/
  prefs : List Nat
  /-- The tile whose fill has failed for a `TGETR` or `TGETC`, and the failing address (R233). -/
  fillErr : Option (Nat × Nat)
  hcall : Option Hcall
  wait : Wait
  /-- The thread stands at an XSERIAL instruction that its speculative iteration holds (R359). -/
  heldX : Bool
  /-- The fault that its speculative iteration holds (R360): delivered once the iteration is the oldest. -/
  held : Option (TrapAt × FaultInfo)
  trace : TraceBuf
  deriving DecidableEq, Repr

/-! ### The core's tile store, caches and engines -/

/-- A slot's tag (R227, R275): context, map base, tile number, generation. -/
structure Tag where
  ctx : Nat
  base : Word
  tile : Nat
  gen : BitVec 8
  deriving DecidableEq, Repr, Inhabited

/-- A tile slot in use (R225, R232): its tag, its value, its zero-block map (R238), whether it is newer than its backing region,
and the cycle of its last use. -/
structure Slot where
  num : Nat
  tag : Tag
  val : TileVal
  zmap : Bitmap
  dirty : Bool
  full : Bool
  /-- It is kept as though SF were 1: its eviction failed while its map was not installed (R275). -/
  sf : Bool
  /-- The failing address of a spill that failed (R233, R275), and whether that has still to be reported. -/
  sfAddr : Word
  report : Bool
  lastUse : Nat
  deriving DecidableEq, Repr, Inhabited

/-- A transfer of the fill/spill engine (R232, R235): a fill into a slot for a tile, or a spill of a slot. -/
structure Move where
  spill : Bool
  slot : Nat
  tag : Tag
  shape : BitVec 32
  bidx : Nat
  /-- The value, flags and generation that a spill carries. -/
  val : TileVal
  flags : BitVec 4
  /-- A prefetch, whose failure is dropped (R233). -/
  pref : Bool
  /-- What becomes of the slot when a spill ends: it joins the pool (R234). -/
  toPool : Bool
  /-- The order in which moves begin: those of one backing region end in it (R232). -/
  began : Nat
  deriving DecidableEq, Repr, Inhabited

/-- An engine transfer posted and not complete (R191, R192). -/
structure Transfer where
  core : Nat
  tslot : Nat
  tid : ThreadId
  sup : Bool
  two : Bool
  sp : CpySp
  dst : Word
  src : Word
  len : Nat
  rows : Nat
  sp2 : Word
  dp2 : Word
  bar : Word
  acq : Bool
  rel : Bool
  scope : BitVec 3
  /-- Tile entries of its thread with smaller posting numbers are older (R192). -/
  posts : Nat
  /-- One more than the cycle since which it has waited for a port (R385); 0 for no wait. -/
  since : Nat
  /-- A chunk has failed, and the arrival alone is left (R193). -/
  err : Bool
  deriving DecidableEq, Repr, Inhabited

/-- The scratchpad of a thread that has left its slot while transfers of it are under way (R114, R192): group, index, size, bytes. -/
structure KeptSpad where
  gid : Nat
  tidx : Nat
  bytes : Nat
  spad : Mem
  deriving DecidableEq, Repr, Inhabited

/-- A core (R15 to R17): its split, the pool slots that are free, the slots in use, and the moves in flight. -/
structure Core where
  split : Nat
  pool : List Nat
  slots : List Slot
  moves : List Move
  deriving DecidableEq, Repr, Inhabited

/-- A block of the instruction cache (R72, R242, R246): the core, the context, the block's code address, the physical
address that it was fetched from, its 512 bits. -/
structure IBlock where
  core : Nat
  ctx : Nat
  block : BitVec 42
  pa : Nat
  data : BitVec 512
  deriving DecidableEq, Repr, Inhabited

/-! ### The context, its queues, groups and regions -/

/-- States of a context (R270). -/
inductive CtxState where
  | free | active | quiescing | suspended | destroying
  deriving DecidableEq, Repr, Inhabited

/-- A window of a context (R262), as the dispatcher took it, in units of 64 KiB. -/
structure Window where
  valid : Bool
  w : Bool
  base : Nat
  last : Nat
  deriving DecidableEq, Repr, Inhabited

/-- The dispatcher's copy of an interrupt vector (R273). -/
structure Vec where
  addr : Word
  data : BitVec 32
  deriving DecidableEq, Repr, Inhabited

/-- States of a queue (R282). -/
inductive QState where
  | destroyed | empty | active | frozen | draining
  deriving DecidableEq, Repr, Inhabited

/-- States of a node (R277). -/
inductive NState where
  | waiting | ready | running | done | faulted | cancelled
  deriving DecidableEq, Repr, Inhabited

/-- A node taken in and not retired (R279), with what the dispatcher knows of it: its work, the groups that it has still to
create, the iterations of a loop, its run time (R284), and the step at which it became READY (R287). -/
structure Node where
  addr : Word
  /-- The sixteen words of the node as its take-in read them. -/
  body : Vector Word 16
  state : NState
  readyAt : Nat
  /-- The kernel or copy that it runs: the address and the words of itself, or of the template of a controlling node (R300). -/
  work : Word
  wbody : Vector Word 16
  hdr : Option Header
  groups : Nat
  placed : Nat
  ended : Nat
  iters : Nat
  copying : Bool
  /-- One more than the cycle since which its copy has waited for a port (R385); 0 for no wait. -/
  since : Nat
  /-- The cause for which a chunk of its copy has failed, where its own arrival has still to wait for a port (R385). -/
  failed : Option Nat
  /-- Cycles in which one of its groups was placed (R284). -/
  ran : Nat
  /-- AFF0 to AFF3 as counted when it became READY (R296): for each quadrant, lines in its L2 and lines whose home it is. -/
  aff : List (Nat × Nat)
  /-- The SUCC positions whose decrement or token is still owed (R281): the node is not retired before they are made. -/
  owed : List Nat
  /-- The state whose write failed (R281): `state` is what memory still holds, and `RESUME` repeats the write. -/
  pend : Option NState
  deriving DecidableEq, Repr

/-- A decrement, or the error token, that a failed access has kept from a successor (R281): the queue and the node that it comes from,
the SUCC position, and the successor where it could be read. -/
structure Owed where
  q : Nat
  node : Word
  i : Nat
  token : Bool
  tgt : Option Word
  deriving DecidableEq, Repr, Inhabited

/-- The dispatcher's state of a queue (R276 to R286). -/
structure Queue where
  state : QState
  /-- CTL as the last command read it (R276). -/
  ctl : Word
  /-- Its bit of QERR is set: the queue behaves as FROZEN (R281). -/
  errd : Bool
  /-- The node last taken in, 0 for none, and the nodes not retired, in list order. -/
  lastTaken : Word
  nodes : List Node
  /-- The last node linked before a DRAIN (R282), and the SEQ of a command whose DONE waits. -/
  drainTo : Word
  cmdSeq : Option (BitVec 32)
  cmdOp : Nat
  /-- The SEQ of the last command taken (R282): DONE in memory is the dispatcher's, whatever software stores there. -/
  taken : Option (BitVec 32)
  /-- The save records held after faults of KIND 1 (R283). -/
  heldRec : List Nat
  /-- Accesses to a node that `RESUME` repeats (R281): a take-in; a retirement; decrements and tokens. -/
  owedTake : Bool
  owedRetire : Bool
  waits : List Owed
  deriving DecidableEq, Repr

/-- A context (R260 to R275): the fields that the dispatcher took from its block, and its registers. -/
structure Ctx where
  state : CtxState
  droot : Word
  croot : Word
  cls : Nat
  weight : Nat
  rwq : Nat
  livemax : Nat
  savebase : Nat
  ecores : Word
  qblk : Vector Word 16
  wins : Vector Window 16
  ivec : Vector Vec 16
  cvec : Vec
  /-- Field HTAB (R317): the pool block, the completion interrupt. -/
  pblk : Nat
  pien : Bool
  pivec : Nat
  /-- The pool block as `CREATE` took it (R318). -/
  ndev : Nat
  devbase : Nat
  nslow : Nat
  slowbase : Nat
  work : Nat
  maxpg : Nat
  log2n : Nat
  trapvec : Word
  epcbase : Word
  policygen : Word
  /-- TRAPVEC, EPCBASE and POLGEN of the block as the last command read them (R269). -/
  blkTrapvec : Word
  blkEpcbase : Word
  blkPolgen : Word
  /-- Memory as it stood when the context's translations were last invalidated, and as it stood before each write since that may have
  changed its tables, newest first: a TLB may still answer from any of them (R266). -/
  seen : Mem
  stale : List Mem
  /-- Ranges that `TLBINV` has named since: the code space or the data space, the first address, the one after the last, and how many of
  `stale` stood then. Neither those nor `seen` answer for an address of the range. -/
  gone : List (Bool × Nat × Nat × Nat)
  /-- CTXLINK (R386) and the call unit (R392). -/
  ptid : Nat
  hvec : Nat
  hien : Bool
  hring : Nat
  hseq : Word
  /-- The trace block (R393). -/
  tbase : Word
  log2sz : Nat
  queues : Vector Queue 16
  /-- Nodes that an error token cancelled before their take-in (R283). -/
  cancelled : List Word
  /-- Save records in use (R274). -/
  records : List Nat
  deficit : Nat
  /-- SEQ of the command whose DONE waits, and whether a DESTROY asked for a scrub (R267, R272). -/
  cmdSeq : Option (BitVec 32)
  scrub : Bool
  /-- The SEQ of the last command taken of each episode that has had one (R333). -/
  epSeqs : List (Nat × BitVec 32)
  /-- ARG0 and ARG1 of a `TLBINV` that waits for the accesses in flight (R267). -/
  inv : Option (Word × Word)
  deriving DecidableEq, Repr

/-- States of a group (R303). -/
inductive GState where
  | ready | running | stopping | suspended | ended | aborted
  deriving DecidableEq, Repr, Inhabited

/-- A group (R303, R306): its state, its live threads with their save records, its barrier state, and its placement. -/
structure Group where
  gid : Nat
  ctx : Nat
  q : Nat
  node : Word
  gidx : Nat
  n : Nat
  state : GState
  hdr : Header
  quadrant : Nat
  /-- When it was last placed, the end of its minimum quantum, and whether that has passed (R288). -/
  placedAt : Nat
  quantumAt : Nat
  quantumUp : Bool
  /-- Live threads: thread index, save record, whether it is saved. -/
  threads : List (Nat × Nat × Bool)
  /-- R306: OPEN, the counts c(t), ARR and EXITED. -/
  opened : BitVec 32
  counts : List (BitVec 32)
  arr : BitVec 96
  exited : BitVec 96
  /-- The threads whose instance had completed when the group was ordered to stop: their `GBAR`s commit first (R307). -/
  passing : BitVec 96
  deriving DecidableEq, Repr, Inhabited

/-- The carried values of a hachure region (R350). -/
structure Carry where
  g : List (Nat × Word)
  v : List (Nat × VReg)
  t : List (Nat × TileVal × BitVec 4)
  deriving DecidableEq, Repr, Inhabited

/-- A receive window in use (R182). -/
structure RWin where
  win : Nat
  gen : BitVec 8
  ctx : Nat
  tmapb : Word
  tile : Nat
  tgen : BitVec 8
  shape : BitVec 32
  /-- The thread that armed it: its group and index. -/
  gid : Nat
  tidx : Nat
  deriving DecidableEq, Repr, Inhabited

/-- What a stroke restores when its iteration is rejected (R350, R355): the registers, among them the control registers that a stroke
may write (R190), and, for each tile that its iteration has written, the map entry and the value that the tile had; `posts` parts the
iteration's tile entries from older ones. -/
structure Checkpoint where
  r : Regs
  shape : Word
  fmode : Word
  fstat : Word
  rngkey : Word
  rngctr : Word
  engerr : Word
  engaddr : Word
  pmsel : Vector Word 8
  posts : Nat
  tiles : List (Nat × TEnt × TileVal)
  /-- The receive windows that were armed on those tiles (R182). -/
  wins : List RWin
  deriving DecidableEq, Repr

/-- Stroke states (R217, R355). -/
inductive SState where
  | none | guessing | running | awaiting | committed | rejected
  deriving DecidableEq, Repr, Inhabited

/-- Region states (R217, R354). -/
inductive RState where
  | idle | armed | running | committing | done | aborted
  deriving DecidableEq, Repr, Inhabited

/-- A stroke of a region (R349 to R360). -/
structure Stroke where
  tidx : Nat
  arrived : Bool
  left : Bool
  sst : SState
  iter : Option Nat
  /-- The guess of its iteration was abandoned, so it waits until it is the oldest (R351). -/
  abandoned : Bool
  xloop : CodeAddr
  guess : CodeAddr
  ckpt : Option Checkpoint
  input : Option Carry
  out : Option Carry
  /-- Physical addresses read by its iteration, each with the source: 0 memory, k + 1 the version of iteration k (R357). -/
  reads : List (Nat × Nat)
  /-- Append marks: handle and length (R358). -/
  marks : List (Word × Nat)
  deriving DecidableEq, Repr

/-- A byte of a versioned line (R356). -/
structure Version where
  iter : Nat
  pa : Nat
  byte : Byte
  deriving DecidableEq, Repr, Inhabited

/-- A hachure region that is not IDLE (R208, R349 to R363). -/
structure Region where
  /-- Its number among the regions that have been entered: a group may enter one again over the same participants. -/
  rid : Nat
  gid : Nat
  block : Word
  count : Nat
  state : RState
  part : BitVec 96
  tol : Word
  body : Nat
  accty : Nat
  accmode : Nat
  ireg : Nat
  tiles : List Nat
  vmask : BitVec 64
  smask : BitVec 64
  i0 : Nat
  carry : Carry
  versions : List Version
  strokes : List Stroke
  deriving DecidableEq, Repr

/-! ### Receive windows and sends -/

/-- A send that has not been answered (R183, R389). -/
structure Send where
  id : Nat
  tid : ThreadId
  token : Word
  bar : Word
  rel : Bool
  scope : BitVec 3
  tile : TileVal
  deadline : Nat
  /-- It has reached a receiver of this package, which has yet to answer: the answer (R184). -/
  answer : Option Bool
  /-- It has been answered, and its arrival waits for a port till the deadline (R385). -/
  waiting : Bool
  deriving DecidableEq, Repr, Inhabited

/-! ### Episodes -/

/-- A mailbox entry (R341): its tag and payload. -/
structure MbEntry where
  tag : BitVec 128
  payload : List Byte
  deriving DecidableEq, Repr, Inhabited

/-- States of an episode (R206). -/
inductive EState where
  | free | loading | ready | stepping | awaiting | done | killed | stale
  deriving DecidableEq, Repr, Inhabited

/-- An RV64IMAC hart in U-mode (R331, R338): its registers, its reservation (the address and the bytes), its counters, and whether it
has taken an action. -/
structure Hart where
  x : Vector Word 32
  pc : Word
  resv : Option (Nat × Nat)
  taken : Bool
  estep : BitVec 32
  egen : BitVec 32
  instret : Word
  deriving DecidableEq, Repr

/-- Why a hart waits (R338). -/
inductive HWait where
  | none
  | take (o : ROp)
  | post (o : ROp)
  deriving DecidableEq, Repr, Inhabited

/-- An episode that is not FREE (R332 to R346). -/
structure Episode where
  ctx : Nat
  e : Nat
  state : EState
  core : Nat
  /-- The first 32 KiB unit of its partition, and LUNITS. -/
  unit : Nat
  lunits : Nat
  /-- The window's frames, captured at LOAD (R332): physical addresses of 64 KiB pages. -/
  frames : List Nat
  hart : Hart
  wait : HWait
  step : BitVec 32
  base : BitVec 32
  mode : Nat
  modeNext : Option Nat
  budget : Nat
  budgetNext : Option Nat
  kicksCfg : Nat
  kicks : Nat
  count : Nat
  acts : List MbEntry
  obs : List MbEntry
  /-- RETURNED entries that wait for a place, and the final entry that is due (R342, R344). -/
  returned : List MbEntry
  final : Option MbEntry
  /-- The scrub of R345 is running: what its end brings. -/
  scrubbing : Bool
  freeAfter : Bool
  cmdSeq : Option (BitVec 32)
  /-- CFG's interrupt bits (R333). -/
  icmd : Bool
  iend : Bool
  ivec : Nat
  deriving DecidableEq, Repr

/-- An Etesian core (R331): its local SRAM below the monitor, and the episode that holds it. -/
structure ECore where
  sram : Mem
  running : Option (Nat × Nat)
  cycles : Word
  deriving DecidableEq, Repr, Inhabited

/-! ### The link, the pool's promotions, the management plane, damage -/

/-- States of a port (R384). -/
inductive PState where
  | down | training | up | degraded | fenced
  deriving DecidableEq, Repr, Inhabited

/-- A UALink port or Turward (R384, R386): its state, the lanes that remain, REPLAYS, EN, and the cycle since which it has been
in its state. -/
structure Port where
  state : PState
  lanes : Nat
  replays : BitVec 32
  en : Bool
  since : Nat
  deriving DecidableEq, Repr, Inhabited

/-- A window that another package holds for the contexts joined to a PTID (R387): what this package's requests meet there. A package that
the pod holds has an entry, if only one of no bytes (log entry 30). -/
structure PodWin where
  pkg : Nat
  ptid : Nat
  base : Nat
  last : Nat
  w : Bool
  deriving DecidableEq, Repr, Inhabited

/-- A unit's work that may wait for a port (R385): an event of the opcode table, or the trace lines, the tile slots or the start and end of
the thread of a slot. -/
inductive UnitWork where
  | event (i : Instr)
  | trace (core slot : Nat)
  | request (core slot : Nat)
  | thread (core slot : Nat)
  deriving DecidableEq, Repr

/-- A promotion copy (R327). -/
structure Promotion where
  ctx : Nat
  page : Nat
  frame : Nat
  pgen : BitVec 8
  seq : BitVec 32
  deriving DecidableEq, Repr, Inhabited

/-- Damage to stored data, as the readers meet it (R375 to R382). Nothing in the model makes damage. -/
structure Damage where
  /-- 64-byte sectors whose check value fails, by address ÷ 64, with the difference between the stored value and that of the bytes
  (R381), and sectors that cannot be corrected. -/
  check : List (Nat × BitVec 16)
  uncorr : List Nat
  /-- Slots with a double error: core and slot. -/
  slots : List (Nat × Nat)
  /-- Rows of a vector register with failing slices: core, thread slot, register, EG, the lanes (R375, R376). -/
  vec : List (Nat × Nat × Nat × Nat × List Nat)
  /-- `g` registers with a double error: core, thread slot, register (R376). -/
  greg : List (Nat × Nat × Nat)
  /-- Control registers with a double error: core, thread slot, number (R376). -/
  csr : List (Nat × Nat × Nat)
  /-- Residue mismatches still to come in an `MMA`: core, thread slot, posting number, count (R378). -/
  residue : List (Nat × Nat × Nat × Nat)
  /-- Mismatches still to come in protected mode: core, thread slot, address of the instruction, EG, count (R380). -/
  mismatch : List (Nat × Nat × CodeAddr × Nat × Nat)
  deriving DecidableEq, Repr, Inhabited

/-- A line that is dirty in an L1 (R241, R242): its physical address ÷ 64, and the bytes that L2 holds of it. -/
structure DirtyLine where
  line : Nat
  below : BitVec 512
  deriving DecidableEq, Repr, Inhabited

/-- The reservation of an Etesian `lr` in a window (R9): the episode, and the device bytes that no other agent has written since. -/
structure Watch where
  ctx : Nat
  e : Nat
  pa : Nat
  n : Nat
  deriving DecidableEq, Repr, Inhabited

/-- What the levels below the coherent image hold (R212, R241), and who watches it: the lines that scalar stores have left dirty in an
L1, memory as it stands below L2, and the reservations. `State.mem` is the image that every coherent reader sees. -/
structure Coherence where
  l1 : List DirtyLine
  home : Mem
  watch : List Watch
  deriving DecidableEq, Repr, Inhabited

/-- A request over the management port, or of the margin planner (R403 to R405). -/
inductive Request where
  | margin (m : Margin)
  | firmware (image signature : List Byte)
  | identity
  | measurement
  | challenge (nonce : List Byte)
  | telemetry
  | minQuantum (us : Nat)
  | fence (p : Nat)
  | regionSize (gib : Nat)
  deriving DecidableEq, Repr, Inhabited

/-- The management plane (R403 to R406). -/
structure Mgmt where
  arrayClk : Nat
  minQuantum : Nat
  cbase : Nat
  csize : Nat
  csizeNext : Nat
  /-- The updated image that runs, the staged image, and the anti-rollback count (R404). -/
  running : Option (List Byte)
  staged : Option (List Byte)
  rollback : Nat
  /-- Answers over the management port and the events raised, oldest first. -/
  out : List (List Byte)
  events : List String
  /-- Requests that wait for the end of a context command, oldest first (R23, R406). -/
  held : List Request
  deriving DecidableEq, Repr, Inhabited

/-- Which agent the next step belongs to: the thread at turn, the device's units, or the Etesian core at turn. -/
inductive Turn where
  | thread | device | hart
  deriving DecidableEq, Repr, Inhabited

/-- The state of the package. -/
structure State where
  /-- The thread at turn, and the other thread slots in use. -/
  thr : Thread
  parked : List Thread
  images : List Image
  mem : Mem
  cores : Vector Core 192
  icache : List IBlock
  transfers : List Transfer
  spads : List KeptSpad
  ctxs : Vector Ctx 64
  groups : List Group
  nextGid : Nat
  lastServed : Nat
  regions : List Region
  nextRid : Nat
  rwins : List RWin
  wgen : List (Nat × BitVec 8)
  sends : List Send
  nextSend : Nat
  eps : List Episode
  ecores : Vector ECore 64
  /-- The Etesian core at turn. -/
  ecur : Nat
  podcfg : Word
  ports : Vector Port 24
  turward : Port
  podWins : List PodWin
  /-- Events of the units that wait for a port (R385, R390), each with the cycle at which its wait ends. -/
  unitWaits : List (UnitWork × Nat)
  /-- The model's own: a trial run of an event in which every port counts as usable; false between steps (log entry 91). -/
  lent : Bool
  /-- Requesting packages and sequences of the remote requests performed, and the answers sent, oldest first: the sequence, 0 or
  the cause of a failure, the bytes read (R385, R388). -/
  remoteSeen : List (Nat × Nat)
  remoteOut : List (Nat × Nat × List Byte)
  /-- Interrupts delivered, oldest first, and those held while Turward is not usable (R273, R390). -/
  irqs : List (Word × BitVec 32)
  irqHeld : List (Word × BitVec 32)
  /-- Bytes that the host has been given, oldest first: the report at boot (R403), then those of its reads; none for poisoned data (R382). -/
  hostOut : List (Option (List Byte))
  promotions : List Promotion
  /-- The slow pages that hold a device frame (R323, R325), by the address of their records. -/
  promoted : List Nat
  mgmt : Mgmt
  damage : Damage
  coh : Coherence
  /-- Core cycles since reset (CYCLE). -/
  cycle : Nat
  /-- Steps that come next: inputs from the host, the link and the management plane, oldest first. -/
  agenda : List Instr
  turn : Turn
  /-- The model's own counter of free values drawn (log entry 2). -/
  drawn : Nat
  deriving DecidableEq, Repr

/-- Reasons for which a step stops with a fault. -/
inductive Fault where
  /-- Raised by a step of a device event whose condition does not hold in the state: the spec describes no such event there.
  Safe: the machine itself never chooses it. -/
  | notEnabled
  /-- Raised by an Etesian instruction where the core at turn runs no episode. Safe: no hart exists to run it. -/
  | noHart
  /-- Raised by a host access to an address of neither device memory nor the slow tier (R259, R263). Safe: no such address exists. -/
  | noSuchAddress
  deriving DecidableEq, Repr, Inhabited

/-- Reasons for which a step is refused. -/
inductive Refusal where
  /-- Raised by the dispatcher of instructions for one that has no meaning yet. Safe. -/
  | notModelled (mnemonic : String)
  deriving DecidableEq, Repr, Inhabited

/-! ### Reset -/

/-- Registers at launch (R27); a slot that has never been launched holds the same values (log entry 7). -/
def Regs.launch : Regs where
  g := Vector.replicate 64 0
  v := Vector.replicate 64 0
  arr := Vector.replicate 64 (BitVec.allOnes 32)
  k := Vector.replicate 16 (.count 16384 64)
  loops := Vector.replicate 3 ⟨0, 0, 0⟩
  sb := Vector.replicate 8 none

/-- Control registers at launch (R216): SHAPE reads 1 × 2,048, every other one 0. -/
def Csrs.launch : Csrs where
  shape := 0x1800
  fmode := 0
  fstat := 0
  rngkey := 0
  rngctr := 0
  instret := 0
  tqindex := 0
  engerr := 0
  engaddr := 0
  tmapb := 0
  trappc := 0
  trapcause := 0
  trapinfo := Vector.replicate 4 0
  tracectl := 0
  pmc := Vector.replicate 8 0
  pmsel := Vector.replicate 8 0

/-- A thread slot without a thread. -/
def Thread.none : Thread where
  live := false
  id := ⟨0, 0, 0, 0, 0, 0, 0, 0, 0⟩
  hdr := ⟨0, 1, 176, 0, 0, 0, false, false, false, 0⟩
  r := Regs.launch
  c := Csrs.launch
  pc := 0
  sup := false
  vdirty := 0
  hwm := Vector.replicate 64 0
  spad := []
  spadHigh := 0
  vq := []
  tq := []
  posts := 0
  tmap := []
  tmapReady := true
  prefs := []
  fillErr := Option.none
  hcall := Option.none
  wait := .none
  heldX := false
  held := Option.none
  trace := ⟨[], [], [], 0, 0, 0, 0⟩

/-- A core after reset: the default split (R16), the pool in the highest slots (log entry 8), nothing held. -/
def Core.reset : Core where
  split := 176
  pool := List.range' 160 16
  slots := []
  moves := []

/-- A queue slot without a queue: DESTROYED (R282). -/
def Queue.reset : Queue where
  state := .destroyed
  ctl := 0
  errd := false
  lastTaken := 0
  nodes := []
  drainTo := 0
  cmdSeq := none
  cmdOp := 0
  taken := none
  heldRec := []
  owedTake := false
  owedRetire := false
  waits := []

/-- A FREE context (R270). -/
def Ctx.reset : Ctx where
  state := .free
  droot := 0
  croot := 0
  cls := 0
  weight := 0
  rwq := 0
  livemax := 0
  savebase := 0
  ecores := 0
  qblk := Vector.replicate 16 0
  wins := Vector.replicate 16 ⟨false, false, 0, 0⟩
  ivec := Vector.replicate 16 ⟨0, 0⟩
  cvec := ⟨0, 0⟩
  pblk := 0
  pien := false
  pivec := 0
  ndev := 0
  devbase := 0
  nslow := 0
  slowbase := 0
  work := 0
  maxpg := 0
  log2n := 0
  trapvec := 0
  epcbase := 0
  policygen := 0
  blkTrapvec := 0
  blkEpcbase := 0
  blkPolgen := 0
  seen := []
  stale := []
  gone := []
  ptid := 0
  hvec := 0
  hien := false
  hring := 0
  hseq := 0
  tbase := 0
  log2sz := 0
  queues := Vector.replicate 16 Queue.reset
  cancelled := []
  records := []
  deficit := 0
  cmdSeq := none
  scrub := false
  epSeqs := []
  inv := none

/-- What the package tells the host over Turward at boot: the base and the size of the control region (R260, R403; log entry 127). -/
def bootReport (base gib : Nat) : Option (List (BitVec 8)) :=
  some ((List.range 16).map fun i => BitVec.ofNat 8 ((base + gib * 2 ^ 30 * 2 ^ 64) / 256 ^ i))

/-- Package reset (R404, R403): the default management settings; ports DOWN with EN 0 (R386); every context FREE; no thread. -/
def State.reset : State where
  thr := Thread.none
  parked := []
  images := []
  mem := []
  cores := Vector.replicate 192 Core.reset
  icache := []
  transfers := []
  spads := []
  ctxs := Vector.replicate 64 Ctx.reset
  groups := []
  nextGid := 0
  lastServed := 63
  regions := []
  nextRid := 0
  rwins := []
  wgen := []
  sends := []
  nextSend := 0
  eps := []
  ecores := Vector.replicate 64 ⟨[], none, 0⟩
  ecur := 0
  podcfg := 0
  ports := Vector.replicate 24 ⟨.down, 0, 0, false, 0⟩
  turward := ⟨.down, 0, 0, true, 0⟩
  podWins := []
  unitWaits := []
  lent := false
  remoteSeen := []
  remoteOut := []
  irqs := []
  irqHeld := []
  hostOut := [bootReport 0xBF00000000 4]
  promotions := []
  promoted := []
  mgmt := ⟨850, 50, 0xBF00000000, 4, 4, none, none, 0, [], [], []⟩
  damage := ⟨[], [], [], [], [], [], [], []⟩
  coh := ⟨[], [], []⟩
  cycle := 0
  agenda := []
  turn := .thread
  drawn := 0

end Sys2Proof.Machine
end

