-- ==== Sys2Proof/Machine/Mem.lean ====
section
/-! DEFINITION. Memory: bytes by address, physical addresses, the page-table walks, and the checks that an access meets. -/

namespace Sys2Proof.Machine

/-! ### Elements of fixed tables -/

/-- Element `i` of a table, its index taken modulo the size. -/
def vget {α : Type} {n : Nat} [NeZero n] (v : Vector α n) (i : Nat) : α :=
  v[i % n]'(Nat.mod_lt _ (Nat.pos_of_neZero n))

/-- A table with element `i` replaced. -/
def vset {α : Type} {n : Nat} [NeZero n] (v : Vector α n) (i : Nat) (x : α) : Vector α n :=
  v.set (i % n) x (Nat.mod_lt _ (Nat.pos_of_neZero n))

/-! ### Bytes -/

/-- The byte at an address; an unlisted address reads 0. -/
def Mem.get : Mem → Nat → Byte
  | [], _ => 0
  | (x, b) :: l, a => if a = x then b else Mem.get l a

/-- A memory with one byte written, in canonical form. -/
def Mem.set : Mem → Nat → Byte → Mem
  | [], a, b => if b = 0 then [] else [(a, b)]
  | (x, c) :: l, a, b =>
    if a < x then if b = 0 then (x, c) :: l else (a, b) :: (x, c) :: l
    else if a = x then if b = 0 then l else (a, b) :: l
    else (x, c) :: Mem.set l a b

/-- The canonical form: addresses strictly rising, no byte equal to 0. -/
def Mem.wf : Mem → Bool
  | [] => true
  | [(_, b)] => b != 0
  | (x, b) :: (y, c) :: l => b != 0 && x < y && Mem.wf ((y, c) :: l)

/-- `n` bytes from an address. -/
def Mem.read (m : Mem) : Nat → Nat → List Byte
  | _, 0 => []
  | a, n + 1 => m.get a :: Mem.read m (a + 1) n

/-- A memory with a run of bytes written. -/
def Mem.write (m : Mem) (a : Nat) : List Byte → Mem
  | [] => m
  | b :: l => Mem.write (m.set a b) (a + 1) l

/-- `n` bytes read as one little-endian number (R5). -/
def Mem.num (m : Mem) (a n : Nat) : Nat := ofBytes (m.read a n)

/-! ### Physical addresses (R263) -/

/-- Device memory: 768 GiB. -/
def deviceBytes : Nat := 768 * 2 ^ 30

/-- The kind of a physical address: 0 device, 1 slow tier, 2 pod. -/
def paKind (pa : Nat) : Nat := pa / 2 ^ 52 % 16

/-- An address that its kind has: the bits that R263 makes zero are zero, and the offset lies below the limit. -/
def paValid (pa : Nat) : Bool :=
  pa < 2 ^ 56 &&
  match paKind pa with
  | 0 => pa % 2 ^ 52 < deviceBytes
  | 1 => pa % 2 ^ 52 < 2 ^ 42
  | 2 => pa % 2 ^ 42 < deviceBytes
  | _ => false

/-- The package of a pod address. -/
def paPkg (pa : Nat) : Nat := pa / 2 ^ 42 % 1024

/-- PKGID as the package reads it (R14). -/
def State.pkgid (s : State) : Nat := if s.podcfg.getLsbD 16 then (s.podcfg.extractLsb' 0 10).toNat else 0

/-! ### Views of the state -/

/-- Context `n`. -/
def State.ctx (s : State) (n : Nat) : Ctx := vget s.ctxs n

/-- The state with context `n` replaced. -/
def State.setCtx (s : State) (n : Nat) (c : Ctx) : State := { s with ctxs := vset s.ctxs n c }

/-- The context of the thread at turn. -/
def State.tctx (s : State) : Ctx := s.ctx s.thr.id.ctx

/-! ### Windows and walks -/

/-- Bytes `lo` to `hi - 1` lie inside one valid window, writable if `w` is asked for (R262, R265). -/
def Ctx.covers (c : Ctx) (w : Bool) (lo hi : Nat) : Bool :=
  c.wins.toArray.any fun x => x.valid && (x.w || !w) && x.base * 65536 ≤ lo && hi ≤ x.last * 65536

/-- A level of a walk (R264): the lowest VA bit that it resolves, its index width, whether a leaf is allowed, and the size of
the table that a table entry names (0 where a table entry is not allowed). -/
structure Level where
  shift : Nat
  bits : Nat
  leaf : Bool
  next : Nat
  deriving DecidableEq, Repr

/-- The data walk (R264). -/
def dataLevels : List Level :=
  [⟨48, 8, false, 4096⟩, ⟨39, 9, false, 4096⟩, ⟨30, 9, true, 4096⟩, ⟨21, 9, true, 256⟩, ⟨16, 5, true, 0⟩]

/-- The code walk (R264). -/
def codeLevels : List Level := [⟨39, 9, false, 4096⟩, ⟨30, 9, true, 4096⟩, ⟨21, 9, true, 0⟩]

/-- The faults of R265: no valid translation (DATA_PAGE), or not accessible (DATA_ACCESS). A fetch reports both as CODE_PAGE. -/
inductive WalkFault where
  | page | access
  deriving DecidableEq, Repr

/-- A walk from `table` (R264, R265): the physical address, or the fault. -/
def walk (m : Mem) (c : Ctx) (code sup write : Bool) (va : Nat) : List Level → Nat → Except WalkFault Nat
  | [], _ => .error .page
  | l :: rest, table =>
    let at_ := table + 8 * (va / 2 ^ l.shift % 2 ^ l.bits)
    if !c.covers false at_ (at_ + 8) then .error .page else
    let e := m.num at_ 8
    let addr := e / 256 % 2 ^ 48 * 256
    let leaf := e.testBit 1
    let size := if leaf then 2 ^ l.shift else l.next
    if !e.testBit 0 || e / 2 ^ 56 != 0 || e / 16 % 16 != 0 || (leaf && !l.leaf) || size = 0 || addr % size != 0 || !paValid addr
    then .error .page
    else if code && e.testBit 2 then .error .access
    else if !leaf then walk m c code sup write va rest addr
    else if !c.covers false addr (addr + size) then .error .access
    else if (write && !(e.testBit 2 && c.covers true addr (addr + size))) || (!sup && e.testBit 3) then .error .access
    else .ok (addr + va % size)

/-- Cause codes of R364. -/
def cILLEGAL : Nat := 0x01
def cMISALIGNED : Nat := 0x02
def cDATA_PAGE : Nat := 0x03
def cDATA_ACCESS : Nat := 0x04
def cCODE_PAGE : Nat := 0x05
def cTILE_FILL : Nat := 0x06
def cTILE_FORMAT : Nat := 0x07
def cTILE_EMPTY : Nat := 0x08
def cVEC_EMPTY : Nat := 0x09
def cHANDLE : Nat := 0x0A
def cMAILBOX : Nat := 0x0B
def cXSERIAL : Nat := 0x0C
def cTRAP : Nat := 0x0D
def cBREAK : Nat := 0x0E
def cPROTECT : Nat := 0x0F
def cUNCORRECTABLE : Nat := 0x10
def cCHECK : Nat := 0x11
def cREMOTE : Nat := 0x12
def cWATCHDOG : Nat := 0x13
def cLIMIT : Nat := 0x14
def cPREEMPT : Nat := 0x15

/-- The memory that a translation of a TLB may come from (R266): any that has stood since the last invalidation of the address; which one
is left free (log entry 23). It is numbered from the oldest, `seen`, up. -/
def Ctx.tlbMem (c : Ctx) (cycle va : Nat) : Nat × Mem :=
  match c.stale with
  | [] => (0, c.seen)
  | l =>
    let i := Config.staleFrom cycle va % (l.length + 1)
    (l.length - i, l.getD i c.seen)

/-- The translations of an address from the memory of a number have been invalidated (R266, R270). -/
def Ctx.dropped (c : Ctx) (code : Bool) (va k : Nat) : Bool :=
  c.gone.any fun (co, lo, hi, n) => co == code && lo ≤ va && va < hi && k ≤ n

/-- A translation (R265, R266): the walk of the tables as they stand, or a valid translation that a TLB still holds from before they
changed. -/
def Ctx.translate (c : Ctx) (m : Mem) (cycle : Nat) (code sup write : Bool) (va : Nat) (ls : List Level) (root : Nat) :
    Except WalkFault Nat :=
  let new := walk m c code sup write va ls root
  let old := c.tlbMem cycle va
  if c.dropped code va old.1 then new else
  match walk old.2 c code sup write va ls root, new with
  | .error .page, _ => new
  | .error .access, .error .access => new
  | .error .access, _ => if Config.staleTlb cycle va then .error .access else new
  | .ok a, .ok b => if a ≠ b ∧ Config.staleTlb cycle va then .ok a else .ok b
  | .ok a, .error e => if Config.staleTlb cycle va then .ok a else .error e

/-- The data-space translation of one address for an access (R118 orders 2 and 3, R265): its physical address or the cause. -/
def State.xlate (s : State) (ctx : Nat) (sup write : Bool) (va : Nat) : Except Nat Nat :=
  let c := s.ctx ctx
  if 2 ^ 56 ≤ va then .error cDATA_PAGE else
  match c.translate s.mem s.cycle false sup write va dataLevels c.droot.toNat with
  | .ok pa => .ok pa
  | .error .page => .error cDATA_PAGE
  | .error .access => .error cDATA_ACCESS

/-- The code-space translation of one address (R265). -/
def State.xlateCode (s : State) (ctx : Nat) (sup : Bool) (va : Nat) : Option Nat :=
  let c := s.ctx ctx
  match c.translate s.mem s.cycle true sup false va codeLevels c.croot.toNat with
  | .ok pa => some pa
  | .error _ => none

/-! ### Check values (R9, R381) -/

/-- One step of CRC-16/T10-DIF: a bit shifted in, polynomial 0x8BB7. -/
def crc16Bit (r : BitVec 16) (b : Bool) : BitVec 16 :=
  if r.msb == b then r <<< 1 else (r <<< 1) ^^^ 0x8BB7

/-- CRC-16/T10-DIF of bytes: most significant bit first, initial value 0, no reflection, no final XOR. -/
def crc16 (bs : List Byte) : BitVec 16 :=
  bs.foldl (fun r b => (List.range 8).foldl (fun r i => crc16Bit r (b.getLsbD (7 - i))) r) 0

/-- A sector's check value fails: what is stored is not that of its bytes. -/
def Damage.fails (d : Damage) (k : Nat) : Bool := d.check.any fun x => x.1 == k && x.2 != 0

/-- The check value stored with sector `k`. -/
def State.checkValue (s : State) (k : Nat) : BitVec 16 :=
  crc16 (s.mem.read (64 * k) 64) ^^^ ((s.damage.check.find? fun x => x.1 == k && x.2 != 0).map Prod.snd).getD 0

/-! ### Orders 4 to 6 of R118 -/

/-- A usable port toward the pod (R384). -/
def Port.usable (p : Port) : Bool := p.state == .up || p.state == .degraded

/-- TMO in core cycles (R386; 1,700 core cycles in a microsecond, R18). -/
def State.tmo (s : State) : Nat :=
  let t := (s.podcfg.extractLsb' 48 16).toNat
  1700 * (if t = 0 then 1000 else t)

/-- A request of the pod or the host finds no usable port; a package that the pod does not hold is served in the same way (R385, R390). -/
def State.noPort (s : State) (pa : Nat) : Bool :=
  !s.lent &&
  match paKind pa with
  | 1 => !s.turward.usable
  | 2 => !s.ports.toArray.any Port.usable || !s.podWins.any fun w => w.pkg = paPkg pa
  | _ => false

/-- The target package holds a valid window over the line for a context joined to the requester's (R387). -/
def State.podWindow (s : State) (ptid : Nat) (write : Bool) (pa : Nat) : Bool :=
  s.podWins.any fun w => w.pkg = paPkg pa && w.ptid = ptid && (w.w || !write) && w.base ≤ pa && pa < w.last

/-- A pod access that fails at once (R387): on its first condition, or, where a port is found, on its third. -/
def State.podRefused (s : State) (ctx : Nat) (write : Bool) (pa : Nat) : Bool :=
  let p := (s.ctx ctx).ptid
  paKind pa = 2 && (!s.podcfg.getLsbD 16 || paPkg pa = s.pkgid || p = 0 || (!s.lent && !s.noPort pa && !s.podWindow p write pa))

/-- The first of orders 4 to 6 of R118 that an access to the sector of `pa` meets. The target of a pod access decides first (R387);
a store never faults CHECK (R381). -/
def State.dataErr (s : State) (ctx : Nat) (read write : Bool) (pa : Nat) : Option Nat :=
  if s.podRefused ctx write pa || s.noPort pa then some cREMOTE
  else if read && s.damage.fails (pa / 64) then some cCHECK
  else if read && s.damage.uncorr.contains (pa / 64) then some cUNCORRECTABLE
  else none

/-! ### Reading and writing physical memory -/

/-- Sectors that a run of bytes covers whole receive a fresh check value (R381). -/
def Damage.clear (d : Damage) (pa n : Nat) : Damage :=
  let keep := fun k => !(pa ≤ k * 64 && k * 64 + 64 ≤ pa + n)
  { d with check := d.check.filter fun x => keep x.1, uncorr := d.uncorr.filter keep }

/-- Sectors that the runs of one write (address and length) cover whole together receive a fresh check value (R381). -/
def Damage.clearRuns (d : Damage) (runs : List (Nat × Nat)) : Damage :=
  let keep := fun k => !((List.range 64).all fun i => runs.any fun (a, n) => a ≤ k * 64 + i && k * 64 + i < a + n)
  { d with check := d.check.filter fun x => keep x.1, uncorr := d.uncorr.filter keep }

/-- A write of a unit that reaches L2 (R241): a line that an L1 held dirty is brought together there, and a reservation of its bytes
is lost (R9). -/
def Coherence.written (c : Coherence) (pa n : Nat) : Coherence :=
  { c with l1 := c.l1.filter fun x => !(pa / 64 ≤ x.line && x.line * 64 < pa + n),
           watch := c.watch.filter fun w => !(pa < w.pa + w.n && w.pa < pa + n) }

/-- A write of physical memory by a unit of the package. -/
def State.storePA (s : State) (pa : Nat) (bs : List Byte) : State :=
  { s with mem := s.mem.write pa bs, damage := s.damage.clear pa bs.length, coh := s.coh.written pa bs.length }

/-- The line of an address as L2 holds it: what an L1 has not written to it stands below the coherent image (R242). -/
def State.lineBelow (s : State) (line : Nat) : BitVec 512 :=
  match s.coh.l1.find? fun x => x.line == line with
  | some x => x.below
  | none => BitVec.ofNat 512 (s.mem.num (line * 64) 64)

/-- A TLB may hold the translations of a context's tables as they stand in memory `m`, before writes that may change them (R266). -/
def State.keepImage (s : State) (n : Nat) (m : Mem) : State :=
  if (s.ctx n).state == .free then s else s.setCtx n { s.ctx n with stale := m :: (s.ctx n).stale }

/-- The same before a write of the host, or of a thread of the context (R266; log entry 23). -/
def State.keepTables (s : State) (n : Nat) : State := s.keepImage n s.mem

/-- A scalar store, which lies inside one line and leaves it dirty in the core's L1 (R241). -/
def State.storeL1 (s : State) (pa : Nat) (bs : List Byte) : State :=
  let d : DirtyLine := ⟨pa / 64, s.lineBelow (pa / 64)⟩
  let s := s.storePA pa bs
  { s with coh := { s.coh with l1 := s.coh.l1 ++ [d] } }

/-- An 8-byte write of physical memory. -/
def State.storePA8 (s : State) (pa : Nat) (v : Word) : State := s.storePA pa (toBytes 8 v.toNat)

/-- An 8-byte read of physical memory. -/
def State.loadPA8 (s : State) (pa : Nat) : Word := BitVec.ofNat 64 (s.mem.num pa 8)

/-! ### Accesses of the dispatcher and the other units, through a context's data tables (R281, R333) -/

/-- A read of `n` bytes inside one line, at `.s`: supervisor rights, orders 2 to 6 of R118. -/
def State.devRead (s : State) (ctx : Nat) (va n : Nat) : Except Nat (List Byte) :=
  match s.xlate ctx true false va with
  | .error e => .error e
  | .ok pa =>
    match s.dataErr ctx true false pa with
    | some e => .error e
    | none => .ok (s.mem.read pa n)

/-- An 8-byte read. -/
def State.devRead8 (s : State) (ctx : Nat) (va : Nat) : Except Nat Word :=
  match s.devRead ctx va 8 with
  | .error e => .error e
  | .ok l => .ok (BitVec.ofNat 64 (ofBytes l))

/-- A write of a run of bytes inside one line. -/
def State.devWrite (s : State) (ctx : Nat) (va : Nat) (bs : List Byte) : Except Nat State :=
  match s.xlate ctx true true va with
  | .error e => .error e
  | .ok pa =>
    match s.dataErr ctx false true pa with
    | some e => .error e
    | none => .ok (s.storePA pa bs)

/-- An 8-byte write. -/
def State.devWrite8 (s : State) (ctx : Nat) (va : Nat) (v : Word) : Except Nat State :=
  s.devWrite ctx va (toBytes 8 v.toNat)

/-- An atomic update of an 8-byte word. -/
def State.devUpdate8 (s : State) (ctx : Nat) (va : Nat) (f : Word → Word) : Except Nat State :=
  match s.devRead8 ctx va with
  | .error e => .error e
  | .ok w => s.devWrite8 ctx va (f w)

/-- A run of bytes cut at line boundaries, in ascending order: addresses and lengths. -/
def pieces (va n : Nat) : List (Nat × Nat) :=
  if n = 0 then [] else
  (List.range ((va + n - 1) / 64 - va / 64 + 1)).map fun i =>
    let lo := max va ((va / 64 + i) * 64)
    (lo, min (va + n) ((va / 64 + i + 1) * 64) - lo)

/-- A read of any length, line by line. -/
def State.devReadN (s : State) (ctx : Nat) (va n : Nat) : Except Nat (List Byte) :=
  (pieces va n).foldlM (fun l (a, k) =>
    match s.devRead ctx a k with
    | .error e => .error e
    | .ok b => .ok (l ++ b)) []

/-- A read of any length, line by line; the error names the first address that fails. -/
def State.devReadAt (s : State) (ctx : Nat) (va n : Nat) : Except (Nat × Nat) (List Byte) :=
  (pieces va n).foldlM (fun l (a, k) =>
    match s.devRead ctx a k with
    | .error e => .error (e, a)
    | .ok b => .ok (l ++ b)) []

/-- Runs of bytes cut at line boundaries. -/
def linePieces (runs : List (Nat × List Byte)) : List (Nat × List Byte) :=
  runs.flatMap fun (a, b) => (pieces a b.length).map fun (p, k) => (p, (b.drop (p - a)).take k)

/-- One write made of several runs, line by line: the cause and the address of the first line that fails, with the lines before it written.
A sector that they cover together receives a fresh check value (R381). -/
def State.devWriteRuns (s : State) (ctx : Nat) (runs : List (Nat × List Byte)) : State × Option (Nat × Nat) :=
  let (s, done, bad) := (linePieces runs).foldl (fun (s, done, bad) (a, b) =>
    match bad with
    | some x => (s, done, some x)
    | none =>
      match s.xlate ctx true true a with
      | .error e => (s, done, some (e, a))
      | .ok pa =>
        match s.dataErr ctx false true pa with
        | some e => (s, done, some (e, a))
        | none => (s.storePA pa b, (pa, b.length) :: done, none)) (s, ([] : List (Nat × Nat)), (none : Option (Nat × Nat)))
  ({ s with damage := s.damage.clearRuns done }, bad)

/-- A write of any length, line by line; it stops at the first line that fails. -/
def State.devWriteN (s : State) (ctx : Nat) (va : Nat) (bs : List Byte) : Except Nat State :=
  (pieces va bs.length).foldlM (fun s (a, k) => s.devWrite ctx a ((bs.drop (a - va)).take k)) s

/-! ### Free values -/

/-- Draw a free value: a value that nothing constrains (log entry 2). -/
def State.draw (s : State) : Word × State := (Config.freeValue s.drawn, { s with drawn := s.drawn + 1 })

end Sys2Proof.Machine
end

