-- ==== Sys2Proof/Machine/Pool.lean ====
section
/-! DEFINITION. The page pool and the handle table (spec/16): both live in the context's work area in the control region. -/

namespace Sys2Proof.Machine

/-- A number rounded up to 64 KiB. -/
def up64k (n : Nat) : Nat := ceilDiv n 65536 * 65536

/-- The parts of the work area (R319). -/
def Ctx.tableAt (c : Ctx) : Nat := c.work * 65536
def Ctx.recsAt (c : Ctx) : Nat := c.tableAt + up64k (32 * 2 ^ c.log2n)
def Ctx.listsAt (c : Ctx) : Nat := c.recsAt + up64k (16 * (c.ndev + c.nslow))
def Ctx.mapsAt (c : Ctx) : Nat := c.listsAt + up64k (4 * c.maxpg * 2 ^ c.log2n)

/-- The size of the work area (R319). -/
def workBytes (log2n ndev nslow maxpg : Nat) : Nat :=
  up64k (32 * 2 ^ log2n) + up64k (16 * (ndev + nslow)) + up64k (4 * maxpg * 2 ^ log2n) + (ceilDiv ndev 8 + ceilDiv nslow 8)

/-! ### Handle table entries (R321) -/

/-- A handle table entry. -/
structure HEnt where
  list : Nat
  gen : Nat
  refs : Nat
  cur : Nat
  v : Bool
  cap : Nat
  mark : Nat
  len : Nat
  deriving DecidableEq, Repr, Inhabited

/-- The 32 bytes of an entry as a number. -/
def HEnt.num (e : HEnt) : Nat :=
  e.len % 2 ^ 32 + 2 ^ 32 * (e.mark % 2 ^ 32) + 2 ^ 64 * (e.cap % 2 ^ 32) + 2 ^ 128 * e.v.toNat + 2 ^ 152 * (e.cur % 256) +
    2 ^ 160 * (e.refs % 2 ^ 24) + 2 ^ 184 * (e.gen % 256) + 2 ^ 192 * (e.list % 2 ^ 64)

/-- An entry from its number. -/
def HEnt.ofNum (n : Nat) : HEnt where
  list := bitsOf 255 192 n
  gen := bitsOf 191 184 n
  refs := bitsOf 183 160 n
  cur := bitsOf 159 152 n
  v := n.testBit 128
  cap := bitsOf 95 64 n
  mark := bitsOf 63 32 n
  len := bitsOf 31 0 n

/-- Entry `i` of the handle table of a context. -/
def State.hent (s : State) (c : Ctx) (i : Nat) : HEnt := HEnt.ofNum (s.mem.num (c.tableAt + 32 * i) 32)

/-- Write entry `i`. -/
def State.setHent (s : State) (c : Ctx) (i : Nat) (e : HEnt) : State := s.storePA (c.tableAt + 32 * i) (toBytes 32 e.num)

/-- The page at list position `q` of entry `i`. -/
def State.listPage (s : State) (e : HEnt) (q : Nat) : Nat := s.mem.num (e.list + 4 * q) 4

/-- Write list position `q`. -/
def State.setListPage (s : State) (e : HEnt) (q p : Nat) : State := s.storePA (e.list + 4 * q) (toBytes 4 p)

/-- The fields of a handle (R320). -/
def handleIdx (h : Word) : Nat := (h.extractLsb' 26 24).toNat
def handleGen (h : Word) : Nat := (h.extractLsb' 50 8).toNat
def handleCtx (h : Word) : Nat := (h.extractLsb' 58 6).toNat

/-- A handle of a context, an index and a generation. -/
def mkHandle (ctx idx gen : Nat) : Word := BitVec.ofNat 6 ctx ++ BitVec.ofNat 8 gen ++ BitVec.ofNat 24 idx ++ 0#26

/-- Checks 1 to 3 of R202: the reason, 0 for a valid handle. -/
def State.handleReason (s : State) (ctx : Nat) (h : Word) : Nat :=
  let c := s.ctx ctx
  let i := handleIdx h
  if h.extractLsb' 0 26 != 0 || i = 0 || c.pblk = 0 || 2 ^ c.log2n ≤ i then 1
  else if handleCtx h != ctx then 2
  else
    let e := s.hent c i
    if !e.v || e.gen != handleGen h then 3 else 0

/-! ### Page records (R323) -/

/-- Page states (R323). -/
def pFREE : Nat := 0
def pALLOCATED : Nat := 1
def pSHARED : Nat := 2
def pRELEASED : Nat := 3
def pSLOW : Nat := 4
def pPROMOTING : Nat := 5

/-- A page record. -/
structure PRec where
  dfr : Nat
  pgen : Nat
  refs : Nat
  pins : Nat
  state : Nat
  deriving DecidableEq, Repr, Inhabited

/-- The 16 bytes of a record as a number. -/
def PRec.num (r : PRec) : Nat :=
  r.state % 8 + 2 ^ 16 * (r.pins % 65536) + 2 ^ 32 * (r.refs % 2 ^ 24) + 2 ^ 56 * (r.pgen % 256) + 2 ^ 64 * (r.dfr % 2 ^ 32)

/-- A record from its number. -/
def PRec.ofNum (n : Nat) : PRec where
  dfr := bitsOf 95 64 n
  pgen := bitsOf 63 56 n
  refs := bitsOf 55 32 n
  pins := bitsOf 31 16 n
  state := bitsOf 2 0 n

/-- Record of page `p`. -/
def State.prec (s : State) (c : Ctx) (p : Nat) : PRec := PRec.ofNum (s.mem.num (c.recsAt + 16 * p) 16)

/-- Write the record of page `p`. -/
def State.setPrec (s : State) (c : Ctx) (p : Nat) (r : PRec) : State := s.storePA (c.recsAt + 16 * p) (toBytes 16 r.num)

/-- A slow page holds the device frame of its DFR (R323). -/
def State.promotedPage (s : State) (c : Ctx) (p : Nat) : Bool := s.promoted.contains (c.recsAt + 16 * p)

/-! ### Frames (R324) -/

/-- Bit `k` of the bitmap at `at_`. -/
def State.frameFree (s : State) (at_ k : Nat) : Bool := (s.mem.get (at_ + k / 8)).getLsbD (k % 8)

/-- Set or clear bit `k` of the bitmap at `at_`. -/
def State.setFrame (s : State) (at_ k : Nat) (free : Bool) : State :=
  let b := s.mem.get (at_ + k / 8)
  let m : Byte := 1#8 <<< (k % 8)
  s.storePA (at_ + k / 8) [if free then b ||| m else b &&& ~~~m]

/-- The device and slow bitmaps. -/
def Ctx.devMap (c : Ctx) : Nat := c.mapsAt
def Ctx.slowMap (c : Ctx) : Nat := c.mapsAt + ceilDiv c.ndev 8

/-- Free frames of a bitmap of `n`. -/
def State.countFree (s : State) (at_ n : Nat) : Nat := (List.range n).countP (s.frameFree at_)

/-- The lowest free frame of an allocation channel (R324). -/
def State.channelFrame (s : State) (c : Ctx) (ch : Nat) : Option Nat :=
  ((List.range (ceilDiv c.ndev 192)).map fun i => ch + 192 * i).find? fun k => k < c.ndev && s.frameFree c.devMap k

/-- The first channel at or after a cursor with a free frame, and that frame. -/
def State.nextFrame (s : State) (c : Ctx) (cur : Nat) : Option (Nat × Nat) :=
  ((List.range 192).map fun i => (cur + i) % 192).findSome? fun ch => (s.channelFrame c ch).map fun k => (ch, k)

/-- Take one page (R324): a device page from the cursor, else the lowest free slow frame. The page, the new cursor, the state. -/
def State.takePage (s : State) (c : Ctx) (cur : Nat) : Option (Nat × Nat × State) :=
  match s.nextFrame c cur with
  | some (ch, k) =>
    let s := s.setFrame c.devMap k false
    some (k, (ch + 1) % 192, s.setPrec c k { s.prec c k with refs := 1, pins := 0, state := pALLOCATED })
  | none =>
    match (List.range c.nslow).find? (s.frameFree c.slowMap) with
    | none => none
    | some i =>
      let s := s.setFrame c.slowMap i false
      some (c.ndev + i, cur, s.setPrec c (c.ndev + i) { s.prec c (c.ndev + i) with refs := 1, pins := 0, state := pSLOW })

/-- A page becomes FREE (R325): every frame it holds returns. -/
def State.freePage (s : State) (c : Ctx) (p : Nat) : State :=
  let r := s.prec c p
  let s := if p < c.ndev then s.setFrame c.devMap p true else
    let s := s.setFrame c.slowMap (p - c.ndev) true
    if s.promotedPage c p then
      { s.setFrame c.devMap r.dfr true with promoted := s.promoted.filter (· != c.recsAt + 16 * p) }
    else s
  s.setPrec c p { r with state := pFREE, pgen := (r.pgen + 1) % 256, refs := 0 }

/-- A page gains a reference (R325). -/
def State.gainRef (s : State) (c : Ctx) (p : Nat) : State :=
  let r := s.prec c p
  s.setPrec c p { r with refs := r.refs + 1, state := if r.state = pALLOCATED then pSHARED else r.state }

/-- A page loses a reference (R325). -/
def State.loseRef (s : State) (c : Ctx) (p : Nat) : State :=
  let r := s.prec c p
  if r.refs ≤ 1 then
    if r.pins = 0 then s.freePage c p else s.setPrec c p { r with refs := 0, state := pRELEASED }
  else s.setPrec c p { r with refs := r.refs - 1, state := if r.state = pSHARED && r.refs = 2 then pALLOCATED else r.state }

/-- A page is pinned. -/
def State.pinPage (s : State) (c : Ctx) (p : Nat) : State :=
  let r := s.prec c p
  s.setPrec c p { r with pins := r.pins + 1 }

/-- A page is unpinned; a RELEASED page is freed by its last unpin. -/
def State.unpinPage (s : State) (c : Ctx) (p : Nat) : State :=
  let r := s.prec c p
  if r.state = pRELEASED && r.pins ≤ 1 then (s.setPrec c p { r with pins := 0 }).freePage c p
  else s.setPrec c p { r with pins := r.pins - 1 }

/-- The physical address of a page's rows (R323). -/
def State.pageRows (s : State) (c : Ctx) (p : Nat) : Nat :=
  if p < c.ndev then c.devbase * 65536 + p * 65536 else
  let r := s.prec c p
  if r.state = pALLOCATED || r.state = pSHARED || (r.state = pRELEASED && s.promotedPage c p)
  then c.devbase * 65536 + r.dfr * 65536
  else c.slowbase * 65536 + (p - c.ndev) * 65536

/-! ### The effects of the handle instructions on an entry (R201, R321) -/

/-- The lowest entry above 0 that is free. -/
def State.freeHandle (s : State) (c : Ctx) : Option Nat :=
  if c.pblk = 0 then none else ((List.range (2 ^ c.log2n)).drop 1).find? fun i => !(s.hent c i).v

/-- A new entry: V, REFS 1, CUR and LIST set, GEN kept. -/
def State.newHent (s : State) (c : Ctx) (i : Nat) : HEnt :=
  { list := c.listsAt + 4 * c.maxpg * i, gen := (s.hent c i).gen, refs := 1, cur := i % 192, v := true, cap := 0, mark := 0, len := 0 }

/-- Take `n` pages for an entry (R324). -/
def State.takePages (s : State) (c : Ctx) (e : HEnt) : Nat → Option (HEnt × State)
  | 0 => some (e, s)
  | n + 1 =>
    match s.takePage c e.cur with
    | none => none
    | some (p, cur, s') =>
      State.takePages (s'.setListPage e (e.cap / 128) p) c { e with cap := e.cap + 128, cur := cur } n

/-- The pages of list positions `lo` to `hi - 1`, in order. -/
def State.listPages (s : State) (e : HEnt) (lo hi : Nat) : List Nat :=
  ((List.range hi).drop lo).map (s.listPage e)

/-- The entry cut to `len` rows: pages beyond leave the list (R201 HTRUNC, R358). -/
def State.cutEntry (s : State) (c : Ctx) (i len mark : Nat) : State :=
  let e := s.hent c i
  let keep := ceilDiv len 128
  let gone := s.listPages e keep (e.cap / 128)
  let s := gone.foldl (fun s p => s.loseRef c p) s
  s.setHent c i { e with len := len, mark := mark, cap := min e.cap (128 * keep) }

/-- The entry freed: every page loses a reference (R201 PGFREE). -/
def State.freeEntry (s : State) (c : Ctx) (i : Nat) : State :=
  let e := s.hent c i
  let s := (s.listPages e 0 (e.cap / 128)).foldl (fun s p => s.loseRef c p) s
  s.setHent c i { e with v := false, refs := 0, gen := (e.gen + 1) % 256 }

/-- A copy of 512-byte rows inside physical memory. -/
def State.copyRows (s : State) (src dst rows : Nat) : State := s.storePA dst (s.mem.read src (512 * rows))

end Sys2Proof.Machine
end

