-- ==== Sys2Proof/Machine/Float.lean ====
section
/-! DEFINITION. Floating-point values, exact operations and the one rounding of every result (spec/03_formats.md). -/

namespace Sys2Proof.Machine

/-- What the codes with an all-ones exponent mean in a format (R48). -/
inductive TopCodes where
  /-- Infinities and NaNs as in IEEE 754. -/
  | ieee
  /-- No infinity; the all-ones code alone is NaN (e4m3). -/
  | nanOnly
  /-- Every code is finite (FP6, FP4). -/
  | finite
  deriving DecidableEq, Repr, Inhabited

/-- A scalar floating-point format of R48: exponent and fraction field widths, bias, special codes. -/
structure FpFmt where
  eb : Nat
  fb : Nat
  bias : Int
  top : TopCodes
  deriving DecidableEq, Repr, Inhabited

def fmtF64 : FpFmt := ⟨11, 52, 1023, .ieee⟩
def fmtF32 : FpFmt := ⟨8, 23, 127, .ieee⟩
def fmtF16 : FpFmt := ⟨5, 10, 15, .ieee⟩
def fmtBF16 : FpFmt := ⟨8, 7, 127, .ieee⟩
def fmtE4M3 : FpFmt := ⟨4, 3, 7, .nanOnly⟩
def fmtE5M2 : FpFmt := ⟨5, 2, 15, .ieee⟩
def fmtE3M2 : FpFmt := ⟨3, 2, 3, .finite⟩
def fmtE2M3 : FpFmt := ⟨2, 3, 1, .finite⟩
def fmtE2M1 : FpFmt := ⟨2, 1, 1, .finite⟩

/-- The bits of a format. -/
def FpFmt.width (f : FpFmt) : Nat := f.eb + f.fb + 1

/-- The exponent of the smallest normal number. -/
def FpFmt.emin (f : FpFmt) : Int := 1 - f.bias

/-- The largest finite code without its sign (R48). -/
def FpFmt.maxCode (f : FpFmt) : Nat :=
  match f.top with
  | .ieee => (2 ^ f.eb - 1) * 2 ^ f.fb - 1
  | .nanOnly => 2 ^ (f.eb + f.fb) - 2
  | .finite => 2 ^ (f.eb + f.fb) - 1

/-- The canonical NaN of R49. -/
def FpFmt.nan (f : FpFmt) : Nat :=
  match f.top with
  | .ieee => (2 ^ f.eb - 1) * 2 ^ f.fb + 2 ^ (f.fb - 1)
  | .nanOnly | .finite => 2 ^ (f.eb + f.fb) - 1

/-- The sign bit of a code. -/
def FpFmt.signBit (f : FpFmt) : Nat := 2 ^ (f.eb + f.fb)

/-- A sign on a code without one. -/
def FpFmt.withSign (f : FpFmt) (neg : Bool) (c : Nat) : Nat := if neg then f.signBit + c else c

/-- An infinity's code (R48). -/
def FpFmt.inf (f : FpFmt) (neg : Bool) : Nat := f.withSign neg ((2 ^ f.eb - 1) * 2 ^ f.fb)

/-- The value of a code: a NaN, an infinity, or (−1)^neg × m × 2^e. -/
inductive FVal where
  | nan
  | inf (neg : Bool)
  | fin (neg : Bool) (m : Nat) (e : Int)
  deriving DecidableEq, Repr, Inhabited

/-- The exponent field of a code. -/
def FpFmt.expOf (f : FpFmt) (x : Nat) : Nat := bitsOf (f.eb + f.fb - 1) f.fb x

/-- The fraction field of a code. -/
def FpFmt.fracOf (f : FpFmt) (x : Nat) : Nat := x % 2 ^ f.fb

/-- The sign of a code. -/
def FpFmt.negOf (f : FpFmt) (x : Nat) : Bool := x / f.signBit % 2 = 1

/-- Decoding a code (R48, R49). -/
def FpFmt.value (f : FpFmt) (x : Nat) : FVal :=
  let e := f.expOf x
  let m := f.fracOf x
  let neg := f.negOf x
  if f.top = .ieee ∧ e = 2 ^ f.eb - 1 then (if m = 0 then .inf neg else .nan)
  else if f.top = .nanOnly ∧ x % f.signBit = f.signBit - 1 then .nan
  else if e = 0 then .fin neg m (f.emin - f.fb)
  else .fin neg (m + 2 ^ f.fb) (e - f.bias - f.fb)

/-- A subnormal code: exponent field zero, fraction not zero. -/
def FpFmt.isSubnormal (f : FpFmt) (x : Nat) : Bool := f.expOf x == 0 && f.fracOf x != 0

/-- The operand that FTZ reads: a subnormal as the zero of its sign (R57). -/
def FpFmt.ftzIn (f : FpFmt) (ftz : Bool) (x : Nat) : Nat :=
  if ftz && f.isSubnormal x then f.withSign (f.negOf x) 0 else x

/-- Flags of FSTAT (R62). -/
def fNV : FFlags := 1
def fOF : FFlags := 2
def fUF : FFlags := 4
def fNX : FFlags := 8
def fSA : FFlags := 16

/-- An exact magnitude before rounding: `m × 2^e`, or, with `sticky`, a value strictly between `m × 2^e` and `(m + 1) × 2^e`.
A sticky magnitude carries at least 100 bits more than any format keeps. -/
structure Exact where
  neg : Bool
  m : Nat
  e : Int
  sticky : Bool := false
  deriving DecidableEq, Repr, Inhabited

/-- The result of an operation before rounding. -/
inductive ExVal where
  /-- A NaN, created here from operands that are not NaN when the flag is set (R49). -/
  | nan (invalid : Bool)
  | inf (neg : Bool)
  | num (x : Exact)
  deriving DecidableEq, Repr, Inhabited

/-- The rounding context of an instruction: mode, FTZ, SAT, and the random word of the element for SR. -/
structure RCtx where
  rm : RMode
  ftz : Bool
  sat : Bool
  u : Nat := 0
  deriving DecidableEq, Repr, Inhabited

/-- `m × 2^(-sh)` (and a sticky tail) rounded to an integer in a mode (R56, R61); the flag says that it was inexact. -/
def roundShift (rm : RMode) (u : Nat) (neg : Bool) (m : Nat) (sh : Int) (sticky : Bool) : Nat × Bool :=
  if sh ≤ 0 then (m * 2 ^ (-sh).toNat, sticky)
  else
    let s := sh.toNat
    let t := m >>> s
    let rem := m % 2 ^ s
    let inexact := rem != 0 || sticky
    let half := 2 ^ (s - 1)
    let up : Bool :=
      match rm with
      | .rne => half < rem || (rem == half && (sticky || t % 2 == 1))
      | .rtz => false
      | .rup => inexact && !neg
      | .rdn => inexact && neg
      | .sr => 2 ^ 32 ≤ (rem * 2 ^ 32) >>> s + u % 2 ^ 32
    (if up && inexact then t + 1 else t, inexact)

/-- The exponent of the leading bit of a magnitude. -/
def leadExp (m : Nat) (e : Int) : Int := (bitLen m : Int) - 1 + e

/-- The code of a magnitude `t × 2^q` that the format holds exactly. -/
def FpFmt.encodeMag (f : FpFmt) (t : Nat) (q : Int) : Nat :=
  if t = 0 then 0
  else
    -- align so that the quantum is the one of the value's binade or of the subnormals
    let l := leadExp t q
    let qq := if l < f.emin then f.emin - f.fb else l - f.fb
    let m := if qq ≤ q then t * 2 ^ (q - qq).toNat else t >>> (qq - q).toNat
    if l < f.emin then m else ((l + f.bias).toNat - 1) * 2 ^ f.fb + m

/-- Whether `t × 2^q` exceeds the largest finite magnitude. -/
def FpFmt.exceeds (f : FpFmt) (t : Nat) (q : Int) : Bool :=
  match f.value f.maxCode with
  | .fin _ m e => if e ≤ q then m < t * 2 ^ (q - e).toNat else m * 2 ^ (e - q).toNat < t
  | _ => false

/-- The result and flags of an overflow (R427). Into e4m3 with SAT = 0, where R58 and R144 give NaN for any overflow and R427 the largest
finite value in the modes whose IEEE 754 result is finite, R427 is followed (DEDUCED, log entry 141). -/
def FpFmt.overflow (f : FpFmt) (c : RCtx) (neg : Bool) : Nat × FFlags :=
  let big := f.withSign neg f.maxCode
  if f.top = .finite then (big, fSA ||| fNX)
  else if c.sat then (big, fOF ||| fNX ||| fSA)
  else
    let toInf : Bool :=
      match c.rm with
      | .rne | .sr => true
      | .rup => !neg
      | .rdn => neg
      | .rtz => false
    if toInf then (if f.top = .nanOnly then f.nan else f.inf neg, fOF ||| fNX) else (big, fOF ||| fNX)

/-- The one rounding of an exact magnitude to a format: bits and flags (R56, R57, R61, R62, R427). Tininess is detected after
rounding with an unbounded exponent. -/
def FpFmt.round (f : FpFmt) (c : RCtx) (x : Exact) : Nat × FFlags :=
  if x.m = 0 ∧ x.sticky = false then (f.withSign x.neg 0, 0)
  else
    let l := leadExp x.m x.e
    let q := max l f.emin - f.fb
    let (t, inexact) := roundShift c.rm c.u x.neg x.m (q - x.e) x.sticky
    if f.exceeds t q then f.overflow c x.neg
    else
      let q' := l - f.fb
      let (t', _) := roundShift c.rm c.u x.neg x.m (q' - x.e) x.sticky
      let tiny := decide (l < f.emin) && decide (leadExp t' q' < f.emin)
      let fl : FFlags := (if inexact then fNX else 0) ||| (if tiny && inexact then fUF else 0)
      let code := f.encodeMag t q
      if c.ftz && f.isSubnormal code then (f.withSign x.neg 0, fl ||| fUF ||| fNX)
      else (f.withSign x.neg code, fl)

/-- Bits and flags of a result: the canonical NaN, an infinity passed on, or a rounded number. A format without an infinity
takes an infinity as R427 gives. -/
def FpFmt.finish (f : FpFmt) (c : RCtx) (v : ExVal) : Nat × FFlags :=
  match v with
  | .nan invalid => (f.nan, if invalid then fNV else 0)
  | .inf neg =>
    match f.top with
    | .ieee => (f.inf neg, 0)
    | .nanOnly => if c.sat then (f.withSign neg f.maxCode, fSA) else (f.nan, fOF)
    | .finite => (f.withSign neg f.maxCode, fSA ||| fNX)
  | .num x => f.round c x

/-! ### Exact operations -/

/-- A decoded operand as an exact value. -/
def FVal.exact : FVal → ExVal
  | .nan => .nan false
  | .inf n => .inf n
  | .fin n m e => .num { neg := n, m := m, e := e }

/-- The opposite of a value. -/
def FVal.negate : FVal → FVal
  | .nan => .nan
  | .inf n => .inf (!n)
  | .fin n m e => .fin (!n) m e

/-- The sign of an exact zero sum of terms that are not both of one sign: minus in RDN. -/
def zeroSumNeg (rm : RMode) (a b : Bool) : Bool := if a = b then a else rm == .rdn

/-- An exact sum of two finite values. -/
def addFin (rm : RMode) (n1 : Bool) (m1 : Nat) (e1 : Int) (n2 : Bool) (m2 : Nat) (e2 : Int) : Exact :=
  if m1 = 0 ∧ m2 = 0 then { neg := zeroSumNeg rm n1 n2, m := 0, e := 0 }
  else
    let e := if m1 = 0 then e2 else if m2 = 0 then e1 else min e1 e2
    let a : Int := if m1 = 0 then 0 else (m1 * 2 ^ (e1 - e).toNat : Nat)
    let b : Int := if m2 = 0 then 0 else (m2 * 2 ^ (e2 - e).toNat : Nat)
    let s := (if n1 then -a else a) + (if n2 then -b else b)
    if s = 0 then { neg := rm == .rdn, m := 0, e := 0 } else { neg := decide (s < 0), m := s.natAbs, e := e }

def addVal (rm : RMode) : FVal → FVal → ExVal
  | .nan, _ => .nan false
  | _, .nan => .nan false
  | .inf a, .inf b => if a = b then .inf a else .nan true
  | .inf a, .fin _ _ _ => .inf a
  | .fin _ _ _, .inf b => .inf b
  | .fin n1 m1 e1, .fin n2 m2 e2 => .num (addFin rm n1 m1 e1 n2 m2 e2)

def mulVal : FVal → FVal → ExVal
  | .nan, _ => .nan false
  | _, .nan => .nan false
  | .inf a, .inf b => .inf (a != b)
  | .inf a, .fin b m _ => if m = 0 then .nan true else .inf (a != b)
  | .fin a m _, .inf b => if m = 0 then .nan true else .inf (a != b)
  | .fin n1 m1 e1, .fin n2 m2 e2 => .num { neg := n1 != n2, m := m1 * m2, e := e1 + e2 }

/-- a × b + c (R101): no flag where the addend is a NaN. -/
def fmaVal (rm : RMode) (a b c : FVal) : ExVal :=
  match mulVal a b, c with
  | .nan _, .nan => .nan false
  | .nan i, _ => .nan i
  | .inf n, c => addVal rm (.inf n) c
  | .num p, c => addVal rm (.fin p.neg p.m p.e) c

/-- The exact quotient of two finite non-zero magnitudes, with a sticky tail. -/
def quotient (neg : Bool) (m1 : Nat) (e1 : Int) (m2 : Nat) (e2 : Int) : Exact :=
  let k := 256 + bitLen m2
  let n := m1 * 2 ^ k
  { neg := neg, m := n / m2, e := e1 - e2 - k, sticky := n % m2 != 0 }

def divVal : FVal → FVal → ExVal
  | .nan, _ => .nan false
  | _, .nan => .nan false
  | .inf _, .inf _ => .nan true
  | .inf a, .fin b _ _ => .inf (a != b)
  | .fin a _ _, .inf b => .num { neg := a != b, m := 0, e := 0 }
  | .fin n1 m1 e1, .fin n2 m2 e2 =>
    if m2 = 0 then (if m1 = 0 then .nan true else .inf (n1 != n2))
    else if m1 = 0 then .num { neg := n1 != n2, m := 0, e := 0 }
    else .num (quotient (n1 != n2) m1 e1 m2 e2)

/-- Integer square root by bits, from bit `k` down. -/
def isqrtGo (n : Nat) : Nat → Nat → Nat
  | 0, r => r
  | k + 1, r =>
    let t := r + 2 ^ k
    isqrtGo n k (if t * t ≤ n then t else r)

/-- ⌊√n⌋. -/
def isqrt (n : Nat) : Nat := isqrtGo n (bitLen n / 2 + 1) 0

/-- The square root of a positive magnitude, with a sticky tail. -/
def sqrtMag (m : Nat) (e : Int) : Exact :=
  let k : Int := 512 + (e % 2)
  let n := m * 2 ^ k.toNat
  let r := isqrt n
  { neg := false, m := r, e := (e - k) / 2, sticky := r * r != n }

def sqrtVal : FVal → ExVal
  | .nan => .nan false
  | .inf n => if n then .nan true else .inf false
  | .fin n m e => if m = 0 then .num { neg := n, m := 0, e := 0 } else if n then .nan true else .num (sqrtMag m e)

/-- Order of two finite values: the sign of a − b. -/
def cmpFin (n1 : Bool) (m1 : Nat) (e1 : Int) (n2 : Bool) (m2 : Nat) (e2 : Int) : Int :=
  let e := min e1 e2
  let a : Int := (m1 * 2 ^ (e1 - e).toNat : Nat)
  let b : Int := (m2 * 2 ^ (e2 - e).toNat : Nat)
  let d := (if n1 then -a else a) - (if n2 then -b else b)
  d.sign

/-- Order of two values, −0 equal to +0; none when one is a NaN. -/
def cmpVal : FVal → FVal → Option Int
  | .nan, _ => none
  | _, .nan => none
  | .inf a, .inf b => some (if a = b then 0 else if a then -1 else 1)
  | .inf a, .fin _ _ _ => some (if a then -1 else 1)
  | .fin _ _ _, .inf b => some (if b then 1 else -1)
  | .fin n1 m1 e1, .fin n2 m2 e2 => some (if m1 = 0 ∧ m2 = 0 then 0 else cmpFin n1 m1 e1 n2 m2 e2)

/-- Minimum or maximum of two codes (R100): one NaN gives the other operand, −0 is less than +0, no flags. -/
def FpFmt.minMax (f : FpFmt) (wantMax : Bool) (x y : Nat) : Nat :=
  match f.value x, f.value y with
  | .nan, .nan => f.nan
  | .nan, _ => y
  | _, .nan => x
  | a, b =>
    let lt : Bool :=
      match cmpVal a b with
      | some d => d < 0 || (d == 0 && f.negOf x && !f.negOf y)
      | none => false
    if lt != wantMax then x else y

/-! ### Conversions -/

/-- Rounding to an integer type (R58): a NaN gives 0, a value beyond the range its limit, both with NV, the only flag that it raises
(R427; DEDUCED, log entry 47). -/
def toInt (signed : Bool) (w : Nat) (c : RCtx) (v : FVal) : Nat × FFlags :=
  let (lo, hi) := intRange signed w
  match v with
  | .nan => (0, fNV)
  | .inf n => (wrapInt w (if n then lo else hi), fNV)
  | .fin n m e =>
    let t := (roundShift c.rm c.u n m (-e) false).1
    let i : Int := if n then -(t : Int) else t
    if i < lo then (wrapInt w lo, fNV) else if hi < i then (wrapInt w hi, fNV) else (wrapInt w i, 0)

/-- An integer as an exact value. -/
def intVal (i : Int) : FVal := .fin (decide (i < 0)) i.natAbs 0

/-- A conversion to an integer type of `w` bits from one of `ws`: only a narrowing clamps (R103, R427). A wider type takes the value as
it is, and one of the same width its bits (DEDUCED, log entry 110). -/
def intToInt (signed : Bool) (ws w : Nat) (sat : Bool) (i : Int) : Nat × FFlags :=
  let (lo, hi) := intRange signed w
  if ws ≤ w ∨ lo ≤ i ∧ i ≤ hi then (wrapInt w i, 0)
  else if sat then (wrapInt w (if i < lo then lo else hi), fSA)
  else (wrapInt w i, 0)

/-- The format of a floating-point type code of R54. -/
def fmtOfTy (t : Nat) : FpFmt :=
  match t with
  | 8 => fmtF16
  | 9 => fmtBF16
  | 10 => fmtF32
  | 11 => fmtF64
  | 12 => fmtE4M3
  | _ => fmtE5M2

/-- Every value of the format is one of the format `g`: the conversion is a widening (R103). -/
def FpFmt.within (f g : FpFmt) : Bool := f.eb ≤ g.eb && f.fb ≤ g.fb

/-- A conversion between two types that is exact whatever the operand, so that it has no rounding step (R103, R144): between integers,
or a widening of floats (DEDUCED, log entry 11). -/
def exactConversion (dst src : Nat) : Bool :=
  if tyIsInt src then tyIsInt dst else !tyIsInt dst && (fmtOfTy src).within (fmtOfTy dst)

/-- A conversion between two types of R54 (R103, R144): bits of the destination width and flags. -/
def convert (dst src : Nat) (c : RCtx) (x : Nat) : Nat × FFlags :=
  if tyIsInt src then
    let i := readInt (tySigned src) (tyWidth src) x
    if tyIsInt dst then intToInt (tySigned dst) (tyWidth src) (tyWidth dst) c.sat i
    else (fmtOfTy dst).finish c (intVal i).exact
  else
    let v := (fmtOfTy src).value ((fmtOfTy src).ftzIn c.ftz x)
    if tyIsInt dst then toInt (tySigned dst) (tyWidth dst) c v
    else (fmtOfTy dst).finish c v.exact

/-- The class bits of `FCLASS` (R104), on the bits as they stand. -/
def FpFmt.classify (f : FpFmt) (x : Nat) : Nat :=
  match f.value x with
  | .nan => 2 ^ 8
  | .inf n => if n then 2 ^ 0 else 2 ^ 7
  | .fin n m _ =>
    if m = 0 then (if n then 2 ^ 3 else 2 ^ 4)
    else if f.isSubnormal x then (if n then 2 ^ 2 else 2 ^ 5)
    else (if n then 2 ^ 1 else 2 ^ 6)

/-! ### Philox-4x32-10 (R59)

The multipliers and key increments are those of the published generator. -/

/-- One round. -/
def philoxRound (c : Nat × Nat × Nat × Nat) (k0 k1 : Nat) : Nat × Nat × Nat × Nat :=
  let p0 := 0xD2511F53 * c.1
  let p1 := 0xCD9E8D57 * c.2.2.1
  ((p1 >>> 32) ^^^ c.2.1 ^^^ k0, p1 % 2 ^ 32, (p0 >>> 32) ^^^ c.2.2.2 ^^^ k1, p0 % 2 ^ 32)

/-- Rounds with the key bumped after each. -/
def philoxGo : Nat → Nat × Nat × Nat × Nat → Nat → Nat → Nat × Nat × Nat × Nat
  | 0, c, _, _ => c
  | n + 1, c, k0, k1 => philoxGo n (philoxRound c k0 k1) ((k0 + 0x9E3779B9) % 2 ^ 32) ((k1 + 0xBB67AE85) % 2 ^ 32)

/-- Philox block `n` under a key: the four words w0 to w3. -/
def philoxBlock (key : Word) (n : Nat) : Nat × Nat × Nat × Nat :=
  let n := n % 2 ^ 64
  philoxGo 10 (n % 2 ^ 32, n >>> 32, 0, 0) (key.toNat % 2 ^ 32) (key.toNat >>> 32)

/-- Word `i mod 4` of block `base + ⌊i ÷ 4⌋` (R60). -/
def srWord (key : Word) (base i : Nat) : Nat :=
  let b := philoxBlock key (base + i / 4)
  match i % 4 with
  | 0 => b.1
  | 1 => b.2.1
  | 2 => b.2.2.1
  | _ => b.2.2.2

end Sys2Proof.Machine
end

