-- ==== Sys2Proof/Machine/Block.lean ====
section
/-! DEFINITION. Tile formats, shapes and images, block quantisation, and the arithmetic of whole tiles
(spec/03_formats.md R50 to R70, spec/07_isa_tile.md). -/

namespace Sys2Proof

open Machine

/-- What an element code of a tile format means (R55). -/
inductive ElemKind where
  | float (f : FpFmt)
  | mx (f : FpFmt)
  | bx
  | int
  deriving DecidableEq, Repr, Inhabited

/-- A tile format: the width of an element and its kind. -/
structure TFmt where
  w : Nat
  kind : ElemKind
  deriving DecidableEq, Repr, Inhabited

/-- The format codes of R55; none for a reserved code. -/
def tileFmt (code : Nat) : Option TFmt :=
  match code with
  | 0 => some ⟨32, .float fmtF32⟩
  | 1 => some ⟨16, .float fmtBF16⟩
  | 2 => some ⟨16, .float fmtF16⟩
  | 3 => some ⟨8, .float fmtE4M3⟩
  | 4 => some ⟨8, .float fmtE5M2⟩
  | 5 => some ⟨8, .mx fmtE4M3⟩
  | 6 => some ⟨8, .mx fmtE5M2⟩
  | 7 => some ⟨6, .mx fmtE3M2⟩
  | 8 => some ⟨6, .mx fmtE2M3⟩
  | 9 => some ⟨4, .mx fmtE2M1⟩
  | 10 => some ⟨2, .bx⟩
  | 11 => some ⟨3, .bx⟩
  | 12 => some ⟨4, .bx⟩
  | 13 => some ⟨5, .bx⟩
  | 14 => some ⟨6, .bx⟩
  | 15 => some ⟨7, .bx⟩
  | 16 => some ⟨8, .bx⟩
  | 17 => some ⟨8, .int⟩
  | 18 => some ⟨32, .int⟩
  | _ => none

/-- A format that carries scales. -/
def TFmt.scaled (f : TFmt) : Bool :=
  match f.kind with
  | .mx _ | .bx => true
  | .float _ | .int => false

/-- The column limit of R55. -/
def TFmt.maxCols (f : TFmt) : Nat := if 8 < f.w && f.w != 6 then 4096 / f.w else min 1024 (32 * (4096 / (32 * f.w)))

/-- The greatest exponent of an element's format, for the choice of a scale (R50, R51). -/
def TFmt.emax (f : TFmt) : Int :=
  match f.kind with
  | .mx g => leadExp (match g.value g.maxCode with | .fin _ m _ => m | _ => 0) (match g.value g.maxCode with | .fin _ _ e => e | _ => 0)
  | _ => 0

/-! ### Shape descriptors (R158) -/

def descAx (d : BitVec 32) : Bool := d.getLsbD 31
def descFmt (d : BitVec 32) : Nat := (d.extractLsb' 24 5).toNat
def descRows (d : BitVec 32) : Nat := (d.extractLsb' 16 7).toNat + 1
def descCols (d : BitVec 32) : Nat := (d.extractLsb' 0 10).toNat + 1

/-- A descriptor of the given fields. -/
def mkDesc (ax : Bool) (fmt rows cols : Nat) : BitVec 32 :=
  BitVec.ofBool ax ++ 0#2 ++ BitVec.ofNat 5 fmt ++ 0#1 ++ BitVec.ofNat 7 (rows - 1) ++ 0#6 ++ BitVec.ofNat 10 (cols - 1)

/-- The format of a descriptor, f32 for a reserved code. -/
def descTFmt (d : BitVec 32) : TFmt := (tileFmt (descFmt d)).getD ⟨32, .float fmtF32⟩

/-- A valid descriptor (R158). -/
def descValid (d : BitVec 32) : Bool :=
  d.extractLsb' 29 2 == 0 && !d.getLsbD 23 && d.extractLsb' 10 6 == 0 &&
    match tileFmt (descFmt d) with
    | none => false
    | some f => descCols d ≤ f.maxCols && (f.scaled || !descAx d)

/-- Elements in one memory row (R160). -/
def rowElems (d : BitVec 32) : Nat := if descAx d then descRows d else descCols d

/-- The memory rows of an image (R160). -/
def memRows (d : BitVec 32) : Nat := if descAx d then descCols d else descRows d

/-- Blocks in one memory row. -/
def rowBlocks (d : BitVec 32) : Nat := ceilDiv (rowElems d) 32

/-- Lr of R160. -/
def rowBytes (d : BitVec 32) : Nat :=
  let f := descTFmt d
  if f.scaled then 4 * f.w * rowBlocks d else ceilDiv (f.w * rowElems d) 8

/-- Lm of R160. -/
def rowPitch (d : BitVec 32) : Nat := 16 * ceilDiv (rowBytes d) 16

/-- The pitch of memory rows in a slot or backing region (R225). -/
def slotPitch (d : BitVec 32) : Nat := if descAx d then rowPitch d else 512

/-- Scale bytes of an image; 0 for an unscaled format. -/
def scaleBytes (d : BitVec 32) : Nat := if (descTFmt d).scaled then memRows d * rowBlocks d else 0

/-! ### Rows of element codes -/

/-- Bit `i` of a number. -/
def testBit (n i : Nat) : Bool := (n >>> i) % 2 == 1

/-- The code of element `p` of a memory row (R50, R52): bit-planes for BX, packed otherwise. -/
def codeAt (f : TFmt) (row p : Nat) : Nat :=
  match f.kind with
  | .bx =>
    let base := 32 * f.w * (p / 32) + p % 32
    packElems 1 ((List.range f.w).map fun j => (testBit row (base + 32 * j)).toNat)
  | _ => (row >>> (f.w * p)) % 2 ^ f.w

/-- One BX block of 32 codes as bit-planes (R52). -/
def bxBlock (w : Nat) (codes : List Nat) : Nat :=
  packElems 32 ((List.range w).map fun j => packElems 1 (codes.map fun c => (testBit c j).toNat))

/-- A list cut into pieces of `n`; `fuel` bounds the number of pieces. -/
def chunks {α : Type} (n : Nat) : Nat → List α → List (List α)
  | 0, _ => []
  | _, [] => []
  | fuel + 1, l => l.take n :: chunks n fuel (l.drop n)

/-- The number that a memory row of codes packs to. -/
def packRow (f : TFmt) (codes : List Nat) : Nat :=
  match f.kind with
  | .bx => packElems (32 * f.w) ((chunks 32 codes.length codes).map (bxBlock f.w))
  | _ => packElems f.w codes

/-- The memory rows of a value's data, as numbers of Lm bytes. -/
def TileVal.rawRows (v : TileVal) : List Nat :=
  (List.range (memRows v.shape)).map fun q => (v.data.toNat >>> (8 * slotPitch v.shape * q)) % 2 ^ (8 * rowBytes v.shape)

/-- The element codes, by memory row. -/
def TileVal.codes (v : TileVal) : List (List Nat) :=
  v.rawRows.map fun r => (List.range (rowElems v.shape)).map (codeAt (descTFmt v.shape) r)

/-- The scale bytes, by memory row; empty rows for an unscaled format. -/
def TileVal.scaleRows (v : TileVal) : List (List Nat) :=
  let b := if (descTFmt v.shape).scaled then rowBlocks v.shape else 0
  (List.range (memRows v.shape)).map fun q => (List.range b).map fun k => (v.scales.toNat >>> (8 * (q * b + k))) % 256

/-- A value from its memory rows of codes and its rows of scales. -/
def TileVal.build (d : BitVec 32) (codes : List (List Nat)) (scales : List (List Nat)) : TileVal :=
  { shape := d
    data := BitVec.ofNat _ (packElems (8 * slotPitch d) (codes.map (packRow (descTFmt d))))
    scales := BitVec.ofNat _ (packElems 8 scales.flatten) }

/-- A value whose padding elements are zero (R55, R160). -/
def TileVal.padded (v : TileVal) : TileVal :=
  if 8 * rowBytes v.shape = (descTFmt v.shape).w * rowElems v.shape then v else TileVal.build v.shape v.codes v.scaleRows

/-- The zero value of a shape: every element 0, every scale 0x00 (R163). -/
def TileVal.zero (d : BitVec 32) : TileVal := { shape := d, data := 0, scales := 0 }

/-- Each element of a row beside the scale of its block; scale 127 for an unscaled format. -/
def withScales (codes scales : List Nat) : List (Nat × Nat) :=
  codes.zipIdx.map fun (c, p) => (c, scales.getD (p / 32) 127)

/-- The value of an element code under a scale (R50, R51). -/
def elemVal (f : TFmt) (code scale : Nat) : FVal :=
  match f.kind with
  | .float g => g.value code
  | .int => intVal (sextNat f.w code)
  | .mx g =>
    if scale = 255 then .nan
    else
      match g.value code with
      | .fin n m e => .fin n m (e + scale - 127)
      | v => v
  | .bx =>
    if scale = 255 then .nan
    else
      let m := sextNat f.w code
      .fin (decide (m < 0)) m.natAbs (scale - 127 + 2 - f.w)

/-- Rows of a tile in tile coordinates from its memory rows (R160). -/
def orient {α : Type} (d : BitVec 32) (rows : List (List α)) : List (List α) := if descAx d then rows.transpose else rows

/-- The element values, row by row of the tile. -/
def TileVal.vals (v : TileVal) : List (List FVal) :=
  orient v.shape ((v.codes.zip v.scaleRows).map fun (c, s) => (withScales c s).map fun (x, k) => elemVal (descTFmt v.shape) x k)

/-! ### Flags and the zero-block map -/

/-- The flags of a tile (R63, R224): bit 0 IV, 1 OF, 2 SA, 3 NX, from those of FSTAT. -/
def tileFlags (f : FFlags) : BitVec 4 := f.extractLsb' 3 1 ++ f.extractLsb' 4 1 ++ f.extractLsb' 0 2

/-- The flags of FSTAT that tile flags set at retirement (R63). -/
def fstatFlags (t : BitVec 4) : FFlags := t.extractLsb' 2 1 ++ t.extractLsb' 3 1 ++ 0#1 ++ t.extractLsb' 0 2

/-- An element code that is ±0. -/
def codeIsZero (f : TFmt) (code : Nat) : Bool :=
  match f.kind with
  | .float g | .mx g => code % g.signBit == 0
  | .bx | .int => code == 0

/-- Per element, whether it keeps its 8 × 8 block from being zero (R179). -/
def TileVal.nonZero (v : TileVal) : List (List Bool) :=
  orient v.shape ((v.codes.zip v.scaleRows).map fun (c, s) => (withScales c s).map fun (x, k) => !codeIsZero (descTFmt v.shape) x || k == 255)

/-- The zero-block map of a value (R179, R238). -/
def TileVal.zmap (v : TileVal) : Bitmap :=
  let bands := (chunks 8 16 v.nonZero).map fun band => (chunks 8 128 band.transpose).map fun blk => blk.any fun col => col.any id
  let bits := bands.map fun b => packElems 1 (b.map Bool.toNat)
  ~~~(BitVec.ofNat 2048 (packElems 128 bits))

/-- Whether the map marks the block of element (i, j) as zero. -/
def zmapAt (z : Bitmap) (i j : Nat) : Bool := z.getLsbD (i / 8 * 128 + j / 8)

/-! ### Matrix multiply (R64 to R66, R172 to R175) -/

/-- The sum of one chunk of exact products, with its IV and NX (R64). A product of zero and a NaN sets no IV, as R64 says of a NaN that arises
from a NaN operand alone, though R409 says that a NaN element raises it (DEDUCED, log entry 140). -/
def chunkSum (ps : List ExVal) : FVal × FFlags :=
  let nan := ps.any fun p => match p with | .nan _ => true | _ => false
  let bad := ps.any fun p => match p with | .nan i => i | _ => false
  let infs := ps.filterMap fun p => match p with | .inf n => some n | _ => none
  let both := infs.any id && infs.any not
  let iv : FFlags := if bad || both then fNV else 0
  if nan || both then (.nan, iv)
  else
    match infs with
    | n :: _ => (.inf n, iv)
    | [] =>
      let nums := ps.filterMap fun p => match p with | .num x => some x | _ => none
      match nums.filter fun x => x.m != 0 with
      | [] => (.fin (nums.all (·.neg)) 0 0, iv)
      | x :: xs =>
        let e := xs.foldl (fun a y => max a (leadExp y.m y.e)) (leadExp x.m x.e) - 40
        let parts := (x :: xs).map fun y =>
          let num : Int := if y.neg then -(y.m : Int) else y.m
          if e ≤ y.e then (num * 2 ^ (y.e - e).toNat, false)
          else (num / 2 ^ (e - y.e).toNat, num % 2 ^ (e - y.e).toNat != 0)
        let sum : Int := parts.foldl (fun (a : Int) p => a + p.1) 0
        (.fin (decide (sum < 0)) sum.natAbs e, iv ||| if parts.any (·.2) then fNX else 0)

/-- The rounding of the accumulator: binary32, RNE, no flush, infinity on overflow (R64). -/
def accCtx : RCtx := { rm := .rne, ftz := false, sat := false }

/-- One accumulator element: chunks of products in ascending order, each added with one rounding (R64). -/
def mmaElem (acc0 : Nat) (cs : List (List ExVal)) : Nat × FFlags :=
  cs.foldl
    (fun (acc, fl) ps =>
      let (s, f1) := chunkSum ps
      let (r, f2) := fmtF32.finish accCtx (addVal .rne (fmtF32.value acc) s)
      (r, fl ||| f1 ||| f2))
    (acc0, 0)

/-- The chunk width of R64 by A's format code. -/
def chunkWidth (fmt : Nat) : Nat :=
  match fmt with
  | 0 => 4
  | 1 | 2 => 16
  | _ => 32

/-- The operand pairs of R173: A and B formats and the accumulator's format code. -/
def mmaPair (int : Bool) (fa fb : Nat) : Bool :=
  let cls (f : Nat) : Nat :=
    match f with
    | 0 => 1 | 1 => 2 | 2 => 3 | 3 | 4 => 4 | 5 | 6 | 7 | 8 | 9 => 5 | 10 | 11 | 12 | 13 | 14 | 15 | 16 => 6 | 17 => 7 | _ => 0
  if int then fa == 17 && fb == 17 else cls fa != 0 && cls fa != 7 && cls fa == cls fb

/-- A TILE_FORMAT reason of R162 and the operand at fault: 0 ma, 1 mb, 2 md. -/
structure TFault where
  reason : Nat
  operand : Nat
  deriving DecidableEq, Repr, Inhabited

/-- The modifiers of a matrix multiply. -/
structure MmaMods where
  na : Bool
  nb : Bool
  nacc : Bool
  ca : Bool
  cb : Bool
  skip : Bool
  int : Bool
  deriving DecidableEq, Repr, Inhabited

/-- M and K of A, K and N of B (R172). -/
def mmaDims (m : MmaMods) (a b : BitVec 32) : Nat × Nat × Nat × Nat :=
  (if m.ca then descCols a else descRows a, if m.ca then descRows a else descCols a,
   if m.cb then descCols b else descRows b, if m.cb then descRows b else descCols b)

/-- The shape and format checks of `MMA` and `MMAI`, in the order of R175. -/
def mmaCheck (m : MmaMods) (a b c : BitVec 32) : Option TFault :=
  let (mm, ka, kb, n) := mmaDims m a b
  if !descValid a then some ⟨1, 0⟩
  else if !descValid b then some ⟨1, 1⟩
  else if !m.nacc && !descValid c then some ⟨1, 2⟩
  else if !mmaPair m.int (descFmt a) (descFmt b) then
    -- A's format alone: ma when no pair allows it, else mb
    some ⟨3, if (List.range 19).any (fun f => mmaPair m.int (descFmt a) f) then 1 else 0⟩
  else if ka != kb then some ⟨2, 1⟩
  else if 128 < mm then some ⟨7, 0⟩
  else if 128 < n then some ⟨7, 1⟩
  else if (descTFmt a).scaled && descAx a != m.ca then some ⟨4, 0⟩
  else if (descTFmt b).scaled && descAx b == m.cb then some ⟨4, 1⟩
  else if m.ca && rowBytes a % 64 != 0 then some ⟨5, 0⟩
  else if m.cb && rowBytes b % 64 != 0 then some ⟨5, 1⟩
  else if !m.nacc && c != mkDesc false (if m.int then 18 else 0) mm n then some ⟨2, 2⟩
  else none

/-- The rows of A for the product: none marks an element of a skipped block (R65). -/
def mmaA (m : MmaMods) (a : TileVal) : List (List (Option FVal)) :=
  let z := a.zmap
  let rows := a.vals.zipIdx.map fun (r, i) => r.zipIdx.map fun (x, j) =>
    if m.skip && zmapAt z i j then none else some (if m.na then x.negate else x)
  if m.ca then rows.transpose else rows

/-- The columns of B for the product. -/
def mmaB (m : MmaMods) (b : TileVal) : List (List FVal) :=
  let rows := if m.nb then b.vals.map (·.map FVal.negate) else b.vals
  if m.cb then rows else rows.transpose

/-- The effect of `MMA` (R174): result and flags. `c` is the old accumulator. -/
def mmaFloat (m : MmaMods) (a b c : TileVal) : TileVal × FFlags :=
  let as := mmaA m a
  let bs := mmaB m b
  let ch := chunkWidth (descFmt a.shape)
  let cc := c.codes
  let out := as.zipIdx.map fun (ra, i) => bs.zipIdx.map fun (cb, j) =>
    let ps := (ra.zip cb).map fun (x, y) =>
      match x with
      | none => ExVal.num { neg := false, m := 0, e := 0 }
      | some x => mulVal x y
    let acc := if m.nacc then 0 else (cc.getD i []).getD j 0
    mmaElem acc (chunks ch ps.length ps)
  let d := mkDesc false 0 as.length bs.length
  (TileVal.build d (out.map (·.map Prod.fst)) [], out.foldl (fun f r => r.foldl (fun f x => f ||| x.2) f) 0)

/-- The effect of `MMAI` (R66, R174). -/
def mmaInt (m : MmaMods) (a b c : TileVal) : TileVal :=
  let ints (v : TileVal) : List (List Int) := v.codes.map (·.map (sextNat 8))
  let as := if m.ca then (ints a).transpose else ints a
  let bs := if m.cb then ints b else (ints b).transpose
  let sgn : Int := if m.na != m.nb then -1 else 1
  let cc := c.codes
  let out := as.zipIdx.map fun (ra, i) => bs.zipIdx.map fun (cb, j) =>
    let acc : Int := if m.nacc then 0 else sextNat 32 ((cc.getD i []).getD j 0)
    wrapInt 32 (acc + sgn * ((ra.zip cb).map fun (x, y) => x * y).sum)
  TileVal.build (mkDesc false 18 as.length bs.length) out []

/-! ### Block quantisation (R69) -/

/-- Quantising one group: scale, codes, flags. Each value comes with its random word. -/
def quantGroup (f : TFmt) (rm : RMode) (xs : List (FVal × Nat)) : Nat × List Nat × FFlags :=
  let special := xs.any fun x => match x.1 with | .fin _ _ _ => false | _ => true
  if special then (255, xs.map fun _ => 0, fNV)
  else
    let leads := xs.filterMap fun x => match x.1 with | .fin _ m e => if m = 0 then none else some (leadExp m e) | _ => none
    let scale : Nat :=
      match leads with
      | [] => 0
      | l :: ls => (min (max (ls.foldl max l - f.emax + 127) 0) 254).toNat
    let one (x : FVal × Nat) : Nat × FFlags :=
      match x.1 with
      | .fin n m e =>
        let e' := e - scale + 127
        match f.kind with
        | .bx =>
          let (t, inexact) := roundShift rm x.2 n m (2 - f.w - e') false
          let (v, cl) := clampInt true f.w (if n then -(t : Int) else t)
          (wrapInt f.w v, if cl then fSA ||| fNX else if inexact then fNX else 0)
        | .mx g =>
          let (c, fl) := g.round { rm := rm, ftz := false, sat := true, u := x.2 } { neg := n, m := m, e := e' }
          (c, fl &&& (fSA ||| fNX))
        | _ => (0, 0)
      | _ => (0, 0)
    let rs := xs.map one
    (scale, rs.map Prod.fst, rs.foldl (fun a r => a ||| r.2) 0)

/-! ### Requantisation (R70, R176) -/

/-- One element moved from an old scale to a larger one: code and flags (tile NX, SA). The code of a NaN element of an MX block stays as it
is, its sign and payload included: R70 gives its value and not its code (DESIGN CHOICE, log entry 128). -/
def requantElem (f : TFmt) (code old new : Nat) : Nat × FFlags :=
  match f.kind with
  | .bx =>
    let m := sextNat f.w code
    let (t, inexact) := roundShift .rne 0 (decide (m < 0)) m.natAbs (new - old : Int) false
    (wrapInt f.w (if m < 0 then -(t : Int) else t), if inexact then fNX else 0)
  | .mx g =>
    match g.value code with
    | .fin n m e =>
      let (c, fl) := g.round { rm := .rne, ftz := false, sat := true } { neg := n, m := m, e := e + old - new }
      (c, fl &&& (fSA ||| fNX))
    | _ => (code, 0)
  | _ => (code, 0)

/-- New blocks along one line of elements that each carry an old scale: codes, scales, flags. -/
def requantLine (f : TFmt) (xs : List (Nat × Nat)) : List Nat × List Nat × FFlags :=
  let blocks := (chunks 32 xs.length xs).map fun blk =>
    let scales := blk.map Prod.snd
    let new := scales.foldl max 0
    if new = 255 then (blk.map fun _ => 0, 255, (0 : FFlags))
    else
      let rs := blk.map fun x => requantElem f x.1 x.2 new
      (rs.map Prod.fst, new, rs.foldl (fun a r => a ||| r.2) 0)
  (blocks.flatMap (·.1), blocks.map (·.2.1), blocks.foldl (fun a b => a ||| b.2.2) 0)

/-- The shape of a `TTRQ` or `TTRQ.ax` result (R176). -/
def transposedDesc (ax : Bool) (d : BitVec 32) : BitVec 32 :=
  if ax then mkDesc (!descAx d) (descFmt d) (descRows d) (descCols d) else mkDesc (descAx d) (descFmt d) (descCols d) (descRows d)

/-- `TTRQ` and `TTRQ.ax` (R176): more than 128 columns break the result's shape, or, in `.ax`, the source's size (R162). -/
def transposeTile (ax : Bool) (v : TileVal) : Except TFault (TileVal × FFlags) :=
  let d := v.shape
  let f := descTFmt d
  if !descValid d then .error ⟨1, 0⟩
  else if ax && !f.scaled then .error ⟨3, 0⟩
  else if 128 < descCols d then .error ⟨7, if ax then 0 else 2⟩
  else
    let nd := transposedDesc ax d
    -- every element with its old scale, in lines along the new block axis
    let pairs := (v.codes.zip v.scaleRows).map fun (c, s) => withScales c s
    let lines := pairs.transpose
    if f.scaled then
      let rs := lines.map (requantLine f)
      .ok (TileVal.build nd (rs.map (·.1)) (rs.map (·.2.1)), rs.foldl (fun a r => a ||| r.2.2) 0)
    else .ok (TileVal.build nd (lines.map (·.map Prod.fst)) [], 0)

/-! ### Conversion and element-wise operations (R177 to R179) -/

/-- The random words of a tile instruction: word of element (i, j) of a tile of `c` columns (R60). -/
def tileWord (key : Word) (base c i j : Nat) : Nat := srWord key base (i * c + j)

/-- One element into an unscaled target: its value, or the integer it is (R144, R58, R427). -/
def convertElem (src dst : TFmt) (c : RCtx) (code : Nat) (v : FVal) : Nat × FFlags :=
  match dst.kind with
  | .float g => g.finish c v.exact
  | .int => if src.kind = .int then intToInt true src.w dst.w c.sat (sextNat src.w code) else toInt true dst.w c v
  | _ => (0, 0)

/-- The value of an element with FTZ applied to an unscaled source (R177). -/
def sourceVal (f : TFmt) (ftz : Bool) (code scale : Nat) : FVal :=
  match f.kind with
  | .float g => g.value (g.ftzIn ftz code)
  | _ => elemVal f code scale

/-- `TCVT` (R177): `u i j` is the random word of an element. -/
def convertTile (v : TileVal) (tgt : Nat) (ax : Bool) (rm : RMode) (ftz sat : Bool) (u : Nat → Nat → Nat) :
    Except TFault (TileVal × FFlags) :=
  let d := v.shape
  let f := descTFmt d
  if !descValid d then .error ⟨1, 0⟩
  else
    match tileFmt tgt with
    | none => .error ⟨3, 2⟩
    | some g =>
      if g.maxCols < descCols d then .error ⟨7, 2⟩
      else
        let nd := mkDesc ax tgt (descRows d) (descCols d)
        let src := orient d ((v.codes.zip v.scaleRows).map fun (c, s) => withScales c s)
        let cells : List (List ((Nat × FVal) × Nat)) := src.zipIdx.map fun (r, i) => r.zipIdx.map fun ((x, k), j) =>
          ((x, sourceVal f ftz x k), if rm = .sr then u i j else 0)
        let lines := orient nd cells
        if g.scaled then
          let rs := lines.map fun l => (chunks 32 l.length l).map fun blk => quantGroup g rm (blk.map fun x => (x.1.2, x.2))
          .ok (TileVal.build nd (rs.map fun l => l.flatMap (·.2.1)) (rs.map fun l => l.map (·.1)),
            rs.foldl (fun a l => l.foldl (fun a b => a ||| b.2.2) a) 0)
        else
          let rs := lines.map fun l => l.map fun x =>
            convertElem f g { rm := rm, ftz := ftz, sat := sat, u := x.2 } x.1.1 x.1.2
          .ok (TileVal.build nd (rs.map (·.map Prod.fst)) [], rs.foldl (fun a l => l.foldl (fun a b => a ||| b.2) a) 0)

/-- Whether `TADD`, `TMUL` and unscaled `TSCALE` take a format code (R178). -/
def elementwiseFmt (int : Bool) (code : Nat) : Bool := code ≤ 2 || (int && code == 18)

/-- Element by element over two tiles of one shape, in tile coordinates. -/
def zipTile (d : BitVec 32) (a b : List (List Nat)) (op : Nat → Nat → Nat → Nat → Nat × FFlags) : TileVal × FFlags :=
  let rs := (a.zip b).zipIdx.map fun ((ra, rb), i) => (ra.zip rb).zipIdx.map fun ((x, y), j) => op i j x y
  (TileVal.build d (rs.map (·.map Prod.fst)) [], rs.foldl (fun f l => l.foldl (fun f x => f ||| x.2) f) 0)

/-- `TADD` and `TMUL` (R178). A format outside the table is reported before a difference of the operands, as the table has its column
"Formats" before its column "Operands", though the sentence that gives reason 3 stands after the table (DEDUCED, log entry 129). -/
def elementwise (mul na nb : Bool) (c : RCtx) (u : Nat → Nat → Nat) (a b : TileVal) : Except TFault (TileVal × FFlags) :=
  if !descValid a.shape then .error ⟨1, 0⟩
  else if !descValid b.shape then .error ⟨1, 1⟩
  else if !elementwiseFmt true (descFmt a.shape) then .error ⟨3, 0⟩
  else if a.shape != b.shape then .error ⟨2, 1⟩
  else
    let f := descTFmt a.shape
    .ok (zipTile a.shape a.codes b.codes fun i j x y =>
      match f.kind with
      | .float g =>
        let neg (n : Bool) (v : FVal) := if n then v.negate else v
        let va := neg na (g.value (g.ftzIn c.ftz x))
        let vb := neg nb (g.value (g.ftzIn c.ftz y))
        g.finish { c with u := u i j } (if mul then mulVal va vb else addVal c.rm va vb)
      | _ =>
        let s (n : Bool) (i : Int) := if n then -i else i
        let ia := s na (sextNat 32 x)
        let ib := s nb (sextNat 32 y)
        (wrapInt 32 (if mul then ia * ib else ia + ib), 0))

/-- The sign of an element code flipped under `na` in a scaled format, with the flags of a clamp (R178). -/
def negateCode (f : TFmt) (code : Nat) : Nat × FFlags :=
  match f.kind with
  | .mx g => ((code + g.signBit) % 2 ^ f.w, 0)
  | _ =>
    let (v, cl) := clampInt true f.w (-(sextNat f.w code))
    (wrapInt f.w v, if cl then fSA ||| fNX else 0)

/-- `TSCALE` (R178). -/
def scaleTile (na : Bool) (k : Int) (c : RCtx) (u : Nat → Nat → Nat) (a : TileVal) : Except TFault (TileVal × FFlags) :=
  let f := descTFmt a.shape
  if !descValid a.shape then .error ⟨1, 0⟩
  else if f.scaled then
    let scales := a.scaleRows.map fun r => r.map fun (x : Nat) =>
      if x = 255 then (255, (0 : FFlags))
      else
        let y : Int := x + k
        if y < 0 then (0, fSA) else if 254 < y then (254, fSA) else (y.toNat, 0)
    let codes := a.codes.map fun r => r.map fun x => if na then negateCode f x else (x, 0)
    let fl (l : List (List (Nat × FFlags))) : FFlags := l.foldl (fun f r => r.foldl (fun f x => f ||| x.2) f) 0
    .ok (TileVal.build a.shape (codes.map (·.map Prod.fst)) (scales.map (·.map Prod.fst)), fl scales ||| fl codes)
  else if elementwiseFmt false (descFmt a.shape) then
    .ok (zipTile a.shape a.codes a.codes fun i j x _ =>
      match f.kind with
      | .float g =>
        match g.value (g.ftzIn c.ftz x) with
        | .fin n m e =>
          -- a shift beyond any format's range is as good as one at it
          let k' := max (-100000) (min 100000 k)
          g.finish { c with u := u i j } (.num { neg := n != na, m := m, e := e + k' })
        | .inf n => g.finish c (.inf (n != na))
        | .nan => g.finish c (.nan false)
      | _ => (x, 0))
  else .error ⟨3, 0⟩

/-- `TZMAP` (R179): every element of a block whose bit is 0 becomes zero. -/
def zeroBlocks (bits : Bitmap) (a : TileVal) : Except TFault (TileVal × FFlags) :=
  if !descValid a.shape then .error ⟨1, 0⟩
  else
    let rows := (orient a.shape a.codes).zipIdx.map fun (r, i) => r.zipIdx.map fun (x, j) => if zmapAt bits i j then x else 0
    .ok (TileVal.build a.shape (orient a.shape rows) a.scaleRows, 0)

/-! ### Lines of a tile (R170, R171) -/

/-- Line `i` of a tile as data bits and scale bytes: a row, or a column. -/
def TileVal.line (v : TileVal) (col : Bool) (i : Nat) : Nat × List Nat :=
  let f := descTFmt v.shape
  if f.scaled then (v.rawRows.getD i 0, v.scaleRows.getD i [])
  else
    let rows := v.codes
    (packElems f.w (if col then rows.map fun r => r.getD i 0 else rows.getD i []), [])

/-- The bits of a line's data. -/
def lineBits (d : BitVec 32) (col : Bool) : Nat :=
  let f := descTFmt d
  if f.scaled then 8 * rowBytes d else f.w * (if col then descRows d else descCols d)

/-- A tile with line `i` replaced. -/
def TileVal.putLine (v : TileVal) (col : Bool) (i : Nat) (data : Nat) (scales : List Nat) : TileVal :=
  let f := descTFmt v.shape
  if f.scaled then
    let n := rowElems v.shape
    TileVal.build v.shape (v.codes.set i ((List.range n).map (codeAt f data))) (v.scaleRows.set i (scales.take (rowBlocks v.shape)))
  else
    let code (p : Nat) := (data >>> (f.w * p)) % 2 ^ f.w
    let rows := v.codes
    let rows := if col then rows.zipIdx.map fun (r, q) => r.set i (code q)
      else rows.set i ((List.range (descCols v.shape)).map code)
    TileVal.build v.shape rows []

end Sys2Proof
end

