-- ==== Sys2Proof/Machine/Trace.lean ====
section
/-! DEFINITION. The counters (21 R399, R400) and the Graver trace unit (R393 to R398). -/

namespace Sys2Proof.Machine

/-- The thread's counters after `n` occurrences of an event (R399): those that select it in the present mode. -/
def Thread.counted (t : Thread) (ev n : Nat) : Vector Word 8 :=
  Vector.zipWith (fun c sel =>
    if (sel.extractLsb' 0 8).toNat = ev && (if t.sup then sel.getLsbD 14 else sel.getLsbD 15)
    then c + BitVec.ofNat 64 n else c) t.c.pmc t.c.pmsel

/-- Count `n` occurrences of an event of R400. -/
def Thread.count (t : Thread) (ev n : Nat) : Thread :=
  { t with c := { t.c with pmc := t.counted ev n } }

/-- Packet type `ty` is on (R394). -/
def Thread.traces (t : Thread) (ty : Nat) : Bool := t.c.tracectl.getLsbD 0 && t.c.tracectl.getLsbD (3 + ty)

/-- A packet of R397 without its LAP bit. -/
def packet (ty payload : Nat) : Word := BitVec.ofNat 64 (ty * 2 ^ 59 + payload % 2 ^ 58)

/-- Packets not yet written (R396). -/
def TraceBuf.unwritten (b : TraceBuf) : Nat := b.queue.length + (b.line.length - b.written)

/-- Packets that stay together join the unit's queue of at most 64 (R396), or are dropped and counted where they find no room. -/
def Thread.push (t : Thread) (cycle : Nat) (ws : List Word) : Thread :=
  let b := t.trace
  if 64 < b.unwritten + ws.length then ({ t with trace := { b with lost := b.lost + ws.length } }).count 19 ws.length
  else { t with trace := { b with queue := b.queue ++ ws.map fun w => (w, cycle), stamp := if b.unwritten = 0 then cycle else b.stamp,
                                  since := b.since + ws.length } }

/-- Where packets have been lost and there is room again, a LOST packet says how many (R396). -/
def Thread.pushLost (t : Thread) (cycle : Nat) : Thread :=
  if t.trace.lost = 0 || 64 ≤ t.trace.unwritten then t
  else ({ t with trace := { t.trace with lost := 0 } }).push cycle [packet 12 (min t.trace.lost (2 ^ 32 - 1))]

/-- Packets join the queue, a LOST packet ahead of them (R396). -/
def Thread.enqueue (t : Thread) (cycle : Nat) (ws : List Word) : Thread := (t.pushLost cycle).push cycle ws

/-- The number that branch bits make, the oldest at bit 0. -/
def bitsNum : List Bool → Nat
  | [] => 0
  | b :: l => b.toNat + 2 * bitsNum l

/-- The gathered branch bits leave as one BRANCH packet (R398). -/
def Thread.flushBits (t : Thread) (cycle : Nat) : Thread :=
  if t.trace.bits.isEmpty then t else
  let w := packet 2 (t.trace.bits.length * 2 ^ 52 + bitsNum t.trace.bits)
  { t with trace := { t.trace with bits := [] } }.enqueue cycle [w]

/-- A SYNC pair, whose parts stand together (R397, R398). -/
def Thread.sync (t : Thread) (cycle : Nat) (pc : CodeAddr) : Thread :=
  if !t.traces 1 then t else
  let t := t.flushBits cycle
  let t := t.enqueue cycle [packet 1 (pc.toNat / 8), packet 1 (2 ^ 57 + cycle % 2 ^ 57)]
  { t with trace := { t.trace with since := 0 } }

/-- A packet other than SYNC and BRANCH: written after the branch bits; a SYNC follows every 4,096 packets (R398). -/
def Thread.emit (t : Thread) (cycle ty payload : Nat) : Thread :=
  if !t.traces ty then t else
  let t := (t.flushBits cycle).enqueue cycle [packet ty payload]
  if 4096 ≤ t.trace.since then t.sync cycle t.pc else t

/-- One branch outcome (R398): the packet is made when 48 bits are held. -/
def Thread.branchBit (t : Thread) (cycle : Nat) (taken : Bool) : Thread :=
  if !t.traces 2 then t else
  let t := { t with trace := { t.trace with bits := t.trace.bits ++ [taken] } }
  if 48 ≤ t.trace.bits.length then t.flushBits cycle else t

/-- TIME of R397. -/
def State.time (s : State) : Nat := s.cycle % 2 ^ 40

/-- A packet of the thread at turn. -/
def State.emit (s : State) (ty payload : Nat) : State := { s with thr := s.thr.emit s.cycle ty payload }

/-- Count an event of the thread at turn. -/
def State.count (s : State) (ev n : Nat) : State := { s with thr := s.thr.count ev n }

/-! ### Writing the buffer (R395) -/

/-- The log2 of the buffer size in packets. -/
def Thread.traceLog (t : Thread) : Nat := (t.c.tracectl.extractLsb' 24 5).toNat - 3

/-- WPTR (R394). -/
def Thread.wptr (t : Thread) : Nat := (t.c.tracectl.extractLsb' 32 32).toNat

/-- TRACECTL with another WPTR. -/
def wptrSet (c : Word) (n : Nat) : Word :=
  (c &&& 0xFFFFFFFF) ||| (BitVec.ofNat 64 (n % 2 ^ 32) <<< 32)

/-- A trace write of the thread at turn: the packets of its line, and zeros in the unused slots for a flush. A failure under orders
2 to 6 of R118 clears EN and sets ERR. -/
def State.traceLine (s : State) : State :=
  let t := s.thr
  let size := 2 ^ t.traceLog
  let first := (t.wptr + 2 ^ 32 - t.trace.line.length) % size
  let va := s.tctx.tbase.toNat + t.id.record * (8 * size) + 8 * first
  let words := t.trace.line ++ List.replicate (8 - first % 8 - t.trace.line.length) 0
  match s.devWrite t.id.ctx va (words.flatMap fun w => toBytes 8 w.toNat) with
  | .ok s' => s'
  | .error _ =>
    { s with thr := { t with c := { t.c with tracectl := (t.c.tracectl &&& ~~~(1 : Word)) ||| 2 },
                             trace := { t.trace with queue := [], line := [], bits := [], written := 0 } } }

/-- Packets enter the line one by one, each with its LAP bit (R397); a full line is written. -/
def State.traceDrain : List (Word × Nat) → State → State
  | [], s => { s with thr := { s.thr with trace := { s.thr.trace with queue := [] } } }
  | (w, made) :: l, s =>
    let t := s.thr
    if !t.c.tracectl.getLsbD 0 then { s with thr := { t with trace := { t.trace with queue := [] } } } else
    let lap := if t.wptr.testBit t.traceLog then (1 : Word) <<< 58 else 0
    let k := t.wptr
    let t := { t with c := { t.c with tracectl := wptrSet t.c.tracectl (k + 1) },
                      trace := { t.trace with queue := l, line := t.trace.line ++ [w ||| lap],
                                              stamp := if t.trace.line.length ≤ t.trace.written then made else t.trace.stamp } }
    let s := { s with thr := t }
    let s := if (k + 1) % 8 = 0 then
        let s := s.traceLine
        { s with thr := { s.thr with trace := { s.thr.trace with line := [], written := 0 } } }
      else s
    State.traceDrain l s

/-- The queued packets of the thread at turn are written as far as they fill lines, and a LOST packet after them where packets have been
dropped meanwhile (R396). -/
def State.traceWrite (s : State) : State :=
  let s := State.traceDrain s.thr.trace.queue s
  if s.thr.trace.lost = 0 then s else
  let s := { s with thr := s.thr.pushLost s.cycle }
  State.traceDrain s.thr.trace.queue s

/-- A flush (R395): the branch bits, the queued packets, and the partly filled line, which stays to be filled. -/
def State.traceFlush (s : State) : State :=
  let s := { s with thr := s.thr.flushBits s.cycle }
  let s := s.traceWrite
  if s.thr.trace.line.isEmpty || !s.thr.c.tracectl.getLsbD 0 then s
  else
    let s := s.traceLine
    { s with thr := { s.thr with trace := { s.thr.trace with stamp := s.cycle, written := s.thr.trace.line.length } } }

end Sys2Proof.Machine
end

