-- ==== Sys2Proof/Machine/TileMap.lean ====
section
/-! DEFINITION. The tile map and the tile store (spec/09): entries, installation, slots, fills, spills, victims. -/

namespace Sys2Proof.Machine

/-! ### Entries (R224) -/

/-- The states of an entry (R228). -/
def tABSENT : BitVec 3 := 0
def tBACKED : BitVec 3 := 1
def tPENDING : BitVec 3 := 2
def tRESIDENT : BitVec 3 := 3
def tDIRTY : BitVec 3 := 4

/-- The 32 bytes of an entry. -/
def TEnt.pack (e : TEnt) : BitVec 256 :=
  e.rzHigh ++ e.win ++ BitVec.ofBool e.arm ++ BitVec.ofBool e.sf ++ BitVec.ofBool e.pin ++ BitVec.ofBool e.lu ++ e.rzLow ++
    e.bidx ++ e.core ++ e.slot ++ e.gen ++ e.flags ++ BitVec.ofBool e.f ++ e.state ++ e.shape

/-- An entry from its 32 bytes. -/
def TEnt.unpack (b : BitVec 256) : TEnt where
  rzHigh := b.extractLsb' 96 160
  win := b.extractLsb' 84 12
  arm := b.getLsbD 83
  sf := b.getLsbD 82
  pin := b.getLsbD 81
  lu := b.getLsbD 80
  rzLow := b.extractLsb' 73 7
  bidx := b.extractLsb' 64 9
  core := b.extractLsb' 56 8
  slot := b.extractLsb' 48 8
  gen := b.extractLsb' 40 8
  flags := b.extractLsb' 36 4
  f := b.getLsbD 35
  state := b.extractLsb' 32 3
  shape := b.extractLsb' 0 32

/-- An entry that faults TILE_FILL 2 when it is used (R224). -/
def TEnt.bad (e : TEnt) : Bool := e.rzHigh != 0 || e.rzLow != 0 || 5 ≤ e.state.toNat

/-- Resident states (R228). -/
def TEnt.resident (e : TEnt) : Bool := e.state == tRESIDENT || e.state == tDIRTY

/-- Launch of an entry (R229, and WIN's reset value in R224). -/
def TEnt.launch (e : TEnt) : TEnt :=
  { e with state := tABSENT, f := true, flags := 0, lu := false, sf := false, arm := false, win := 0, gen := e.gen + 1 }

/-- Address of entry `t` of a map (R223). -/
def entAddr (base : Word) (t : Nat) : Nat := base.toNat + 32 * t

/-- Address of a backing region (R223). -/
def regionAddr (base : Word) (bidx : Nat) : Nat := base.toNat + 0x4000 + bidx * 0x12000

/-- An entry of a map in memory, where it can be read. -/
def State.readEnt? (s : State) (ctx : Nat) (base : Word) (t : Nat) : Option TEnt :=
  match s.devReadN ctx (entAddr base t) 32 with
  | .ok l => some (TEnt.unpack (BitVec.ofNat 256 (ofBytes l)))
  | .error _ => none

/-- An entry of a map in memory; an unreadable one reads as zeros (log entry 9). -/
def State.readEnt (s : State) (ctx : Nat) (base : Word) (t : Nat) : TEnt := (s.readEnt? ctx base t).getD (TEnt.unpack 0)

/-- An entry written as one 32-byte store at `.d` (R226). -/
def State.writeEnt (s : State) (ctx : Nat) (base : Word) (t : Nat) (e : TEnt) : Except Nat State :=
  s.devWrite ctx (entAddr base t) (toBytes 32 e.pack.toNat)

/-- Entry `t` of the installed map of a thread. -/
def Thread.ent (t : Thread) (n : Nat) : TEnt := t.tmap.getD n (TEnt.unpack 0)

/-- The installed map with entry `n` replaced. -/
def Thread.setEnt (t : Thread) (n : Nat) (e : TEnt) : Thread := { t with tmap := t.tmap.set n e }

/-- Entry `n` of the map of the thread at turn. -/
def State.ent (s : State) (n : Nat) : TEnt := s.thr.ent n

/-- Replace entry `n` of the map of the thread at turn. -/
def State.setEnt (s : State) (n : Nat) (e : TEnt) : State := { s with thr := s.thr.setEnt n e }

/-! ### Threads -/

/-- Every thread slot in use. -/
def State.threads (s : State) : List Thread := s.thr :: s.parked

/-- A change of every thread. -/
def State.mapThreads (s : State) (f : Thread → Thread) : State := { s with thr := f s.thr, parked := s.parked.map f }

/-- The thread has a map installed. -/
def Thread.installed (t : Thread) : Bool := t.live && !t.tmap.isEmpty

/-- The tag names a tile of the map that this thread has installed (R227, R275). -/
def Thread.owns (t : Thread) (g : Tag) : Bool :=
  t.installed && t.id.ctx == g.ctx && t.c.tmapb == g.base && g.tile < t.tmap.length

/-- Run `f` with the first thread that meets `p` at turn, and put the order back; the state as it stands where none does. -/
def State.focus (s : State) (p : Thread → Bool) (f : State → State) : State :=
  if p s.thr then f s else
  match s.parked.findIdx? p with
  | none => s
  | some i =>
    match s.parked[i]? with
    | none => s
    | some u =>
      let s' := f { s with thr := u, parked := s.parked.set i s.thr }
      match s'.parked[i]? with
      | none => s'
      | some t => { s' with thr := t, parked := s'.parked.set i s'.thr }

/-! ### The tile store -/

/-- Core `n`. -/
def State.core (s : State) (n : Nat) : Core := vget s.cores n

/-- Replace core `n`. -/
def State.setCore (s : State) (n : Nat) (c : Core) : State := { s with cores := vset s.cores n c }

/-- The slot of a number. -/
def Core.slotAt (c : Core) (n : Nat) : Option Slot := c.slots.find? fun x => x.num == n

/-- A core with a slot put in, in the order of numbers. -/
def Core.putSlot (c : Core) (x : Slot) : Core :=
  let rest := c.slots.filter fun y => y.num != x.num
  { c with slots := rest.takeWhile (fun y => y.num < x.num) ++ [x] ++ rest.dropWhile (fun y => y.num < x.num) }

/-- A core with a slot emptied. -/
def Core.dropSlot (c : Core) (n : Nat) : Core := { c with slots := c.slots.filter fun y => y.num != n }

/-- The slot that holds the value of an entry: the one it names, where the tag agrees (R227). -/
def State.heldIn (s : State) (ctx : Nat) (base : Word) (t : Nat) (e : TEnt) : Option Slot :=
  match (s.core e.core.toNat).slotAt e.slot.toNat with
  | some x => if x.tag = ⟨ctx, base, t, e.gen⟩ then some x else none
  | none => none

/-- The slot of tile `t` of the thread at turn. -/
def State.tileSlot (s : State) (t : Nat) : Option Slot := s.heldIn s.thr.id.ctx s.thr.c.tmapb t (s.ent t)

/-- The value of a resident tile of the thread at turn, with the entry's descriptor. -/
def State.tileVal (s : State) (t : Nat) : TileVal :=
  match s.tileSlot t with
  | some x => x.val
  | none => TileVal.zero (s.ent t).shape

/-- Slots of a core that entries in flight hold (R234). -/
def State.inFlight (s : State) (core : Nat) : List Nat :=
  (s.threads.filter fun t => t.live && t.id.core == core).flatMap fun t => t.tq.filterMap (·.slot)

/-- A core's slot takes a value: what was wrong with the old one is gone (R377). -/
def State.putSlot (s : State) (core : Nat) (x : Slot) : State :=
  { s.setCore core ((s.core core).putSlot x) with
    damage := { s.damage with slots := s.damage.slots.filter (· != (core, x.num)) } }

/-- A core's slot is emptied. -/
def State.dropSlot (s : State) (core n : Nat) : State :=
  { s.setCore core ((s.core core).dropSlot n) with damage := { s.damage with slots := s.damage.slots.filter (· != (core, n)) } }

/-- A slot is emptied, and joins the pool where it was so promised (R234). -/
def State.freeSlot (s : State) (core n : Nat) (toPool : Bool) : State :=
  let s := s.dropSlot core n
  if toPool then s.setCore core { s.core core with pool := (s.core core).pool ++ [n] } else s

/-- The entry that a tag names: in the map that a thread has installed, else in memory; none where that cannot be read. -/
def State.tagEnt (s : State) (g : Tag) : Option TEnt :=
  match s.threads.find? (·.owns g) with
  | some t => some (t.ent g.tile)
  | none => s.readEnt? g.ctx g.base g.tile

/-- The entry still names the slot: its generation is the tag's, and it says that its value stands or is to stand there (R227). Every
other slot is free. An entry that cannot be read leaves its slot as it is (R275). -/
def State.liveSlot (s : State) (core : Nat) (x : Slot) : Bool :=
  match s.tagEnt x.tag with
  | some e => e.gen == x.tag.gen && (e.resident || e.state == tPENDING) && e.core.toNat == core && e.slot.toNat == x.num
  | none => true

/-- A free general slot of a core (R227, R232): an empty one, else one whose tag is of an older generation; the lowest, as the spec leaves
the choice open (log entry 8). -/
def State.freeGeneral (s : State) (core : Nat) : Option Nat :=
  let c := s.core core
  let used := s.inFlight core
  let l := (List.range c.split).filter fun n => !c.pool.contains n && !used.contains n && !c.moves.any fun m => m.slot == n
  match l.find? fun n => (c.slotAt n).isNone with
  | some n => some n
  | none => l.find? fun n =>
    match c.slotAt n with
    | some x => !s.liveSlot core x
    | none => true

/-! ### What a tile instruction names -/

/-- The tiles whose values an entry reads, in the order ma, mb, md, each with its trap bit (R161). -/
def tReads : Instr → List (BitVec 9 × Bool)
  | .tst _ o | .tstp o | .tcopy o | .ttrq _ o | .tcvt o | .tscale o | .tsend o | .tappend o | .tzmap o => [(o.ma, o.ea)]
  | .tgetr o | .tgetc o => [(o.ma, o.ea)]
  | .mma o | .mmai o => [(o.ma, o.ea), (o.mb, o.eb)] ++ (if o.nacc then [] else [(o.md, o.ec)])
  | .tadd o | .tmul o => [(o.ma, o.ea), (o.mb, o.eb)]
  | .tputr o | .tputc o => [(o.md, o.ec)]
  | _ => []

/-- The entry uses the shape that md has before it (R163, R166, R182, R185). -/
def tKeepsShape : Instr → Bool
  | .tzero _ | .tld _ _ | .trecv false _ | .tgather _ => true
  | _ => false

/-- The entry gives md a new value and takes a pool slot at issue (R234). -/
def tRenames : Instr → Bool
  | .tshape _ | .tzero _ | .tld _ _ | .tcopy _ | .tputr _ | .tputc _ | .mma _ | .mmai _ | .ttrq _ _ | .tcvt _ | .tadd _ => true
  | .tmul _ | .tscale _ | .trecv false _ | .tgather _ | .tzmap _ => true
  | _ => false

/-- The fields of a tile instruction. -/
def tOp : Instr → Option TOp
  | .tshape o | .tzero o | .tld _ o | .tst _ o | .tstp o | .tcopy o | .tgetr o | .tgetc o | .tputr o | .tputc o | .mma o => some o
  | .mmai o | .ttrq _ o | .tcvt o | .tadd o | .tmul o | .tscale o | .tpref o | .tdead o | .tflagr o | .tflagc o | .tsend o => some o
  | .trecv _ o | .tgather o | .tappend o | .twait _ o | .tzmap o => some o
  | _ => none

/-- The instruction captures the register g. -/
def tUsesG : Instr → Bool
  | .tshape _ | .tld _ _ | .tst _ _ | .tstp _ | .tgetr _ | .tgetc _ | .tputr _ | .tputc _ | .tcvt _ | .tscale _ | .tsend _ => true
  | .trecv false _ | .tgather _ | .tappend _ => true
  | _ => false

/-- The instruction reads the pair g(N), g(N+1) (R157). -/
def tPair : Instr → Bool
  | .tld true _ | .tst true _ | .tstp _ | .tsend _ | .tgather _ | .tappend _ => true
  | _ => false

/-- The `g` registers that a tile instruction captures at commit. -/
def tGSources (i : Instr) : List (BitVec 6) :=
  match tOp i with
  | some o =>
    (if tUsesG i then [o.g.zeroExtend 6] else []) ++ (if tPair i then [o.g.zeroExtend 6 + 1] else [])
  | none => []

/-- The modifiers of `MMA` and `MMAI`. -/
def mmaMods (int : Bool) (o : TOp) : MmaMods := ⟨o.na, o.nb, o.nacc, o.ca, o.cb, o.skip, int⟩

/-- The shape of the result of an `MMA` or `MMAI` (R174), from the shapes of the tiles. -/
def mmaShape (sh : BitVec 9 → BitVec 32) (i : Instr) : BitVec 32 :=
  match i with
  | .mma o =>
    let d := mmaDims (mmaMods false o) (sh o.ma) (sh o.mb)
    mkDesc false 0 d.1 d.2.2.2
  | .mmai o =>
    let d := mmaDims (mmaMods true o) (sh o.ma) (sh o.mb)
    mkDesc false 18 d.1 d.2.2.2
  | _ => 0

/-- The shape that an entry gives md, from the shapes of the tiles before it (R157). -/
def TqEnt.resultShape (sh : BitVec 9 → BitVec 32) (e : TqEnt) : BitVec 32 :=
  match e.ins with
  | .tshape _ => e.g0.setWidth 32
  | .tcopy o | .tadd o | .tmul o | .tscale o | .tzmap o => sh o.ma
  | .ttrq ax o => transposedDesc ax (sh o.ma)
  | .tcvt o => mkDesc (e.g0.getLsbD 5) (e.g0.extractLsb' 0 5).toNat (descRows (sh o.ma)) (descCols (sh o.ma))
  | .mma _ | .mmai _ => mmaShape sh e.ins
  | i => match tDests i with | d :: _ => sh d | [] => 0

/-- Entries older than one, in the queue. -/
def Thread.olderEnts (t : Thread) (e : TqEnt) : List TqEnt := t.tq.filter fun x => x.post < e.post

/-- The shape that program order gives tile `m` after entries of the queue (R157, R60). -/
def Thread.orderShape (t : Thread) (l : List TqEnt) : BitVec 9 → BitVec 32 :=
  look (l.foldl (fun m e =>
    match tDests e.ins with
    | d :: _ => if e.done || e.skip then m else (d, e.resultShape (look m)) :: m
    | [] => m) [])
where
  /-- A tile's shape in the list, else in the map. -/
  look (m : List (BitVec 9 × BitVec 32)) (n : BitVec 9) : BitVec 32 :=
    match m.find? (·.1 == n) with
    | some x => x.2
    | .none => (t.ent n.toNat).shape

/-- The shape that program order gives tile `m` before an entry. -/
def Thread.shapeAt (t : Thread) (e : TqEnt) (m : BitVec 9) : BitVec 32 := t.orderShape (t.olderEnts e) m

/-- The vector registers that a tile entry reads: a put to a scaled tile takes its scales from v(s+1) (R171). -/
def Thread.vReads (t : Thread) (older : List TqEnt) (i : Instr) : List (BitVec 6) :=
  match i with
  | .tputr o | .tputc o =>
    let v := o.ma.extractLsb' 0 6
    if (descTFmt (t.orderShape older o.md)).scaled && v != 63 && v.toNat + 1 < t.hdr.vregs then [v, v + 1] else [v]
  | i => vSources i

/-- Tiles that a source of an issued entry has still to read, its accumulator among them (R232). An entry that reads a vector register has
read its tile as it issued. -/
def issuedReads (t : Thread) : List Nat :=
  (t.tq.filter fun e => e.st == .issued && (vSources e.ins).isEmpty).flatMap fun e => (tReads e.ins).map fun x => x.1.toNat

/-- An issued entry of a thread of the core has still to read the tile (R232). -/
def State.inUse (s : State) (core : Nat) (g : Tag) : Bool :=
  (s.threads.filter fun t => t.live && t.id.core == core).any fun t => t.owns g && (issuedReads t).contains g.tile

/-- A slot may be a victim (R232): SF is that of the entry. -/
def State.candidate (s : State) (core : Nat) (x : Slot) : Bool :=
  let c := s.core core
  !x.sf && !((s.tagEnt x.tag).any (·.sf)) && !(c.moves.any fun m => m.slot == x.num) && !s.inUse core x.tag &&
  !((s.threads.filter fun t => t.live && t.id.core != core).any fun t => t.owns x.tag)

/-- The key of R232, as numbers in order; PIN and LU are those of the entry. -/
def State.slotKey (s : State) (x : Slot) : List Nat :=
  let e := s.tagEnt x.tag
  [(e.any (·.pin)).toNat, (!e.any (·.lu)).toNat, x.dirty.toNat, x.lastUse, x.num]

/-- Order of keys. -/
def keyLt : List Nat → List Nat → Bool
  | a :: l, b :: m => a < b || (a == b && keyLt l m)
  | [], _ :: _ => true
  | _, _ => false

/-- The victim of a core (R232). -/
def State.victim (s : State) (core : Nat) : Option Slot :=
  ((s.core core).slots.filter (s.candidate core)).foldl
    (fun b x =>
      match b with
      | none => some x
      | some y => if keyLt (s.slotKey x) (s.slotKey y) then some x else some y) none

/-- Change the entry that a tag names while its generation is the tag's: in the installed map that owns it, else in memory (R226, R232).
None where that fails. -/
def State.mapTagEnt (s : State) (g : Tag) (f : TEnt → TEnt) : Option State :=
  if s.threads.any (·.owns g) then
    some (s.mapThreads fun t => if t.owns g && (t.ent g.tile).gen == g.gen then t.setEnt g.tile (f (t.ent g.tile)) else t)
  else
    match s.readEnt? g.ctx g.base g.tile with
    | none => none
    | some e => if e.gen != g.gen then some s else (s.writeEnt g.ctx g.base g.tile (f e)).toOption

/-- The entry of an evicted tile becomes BACKED. -/
def State.backEntry (s : State) (g : Tag) : Option State := s.mapTagEnt g fun e => { e with state := tBACKED }

/-- The slot keeps a tile whose spill or entry write failed (R233, R275): SF is set in an installed entry; an uninstalled one is kept as
though it were. -/
def State.spillFailed (s : State) (core : Nat) (x : Slot) (addr : Nat) : State :=
  let own := s.threads.any (·.owns x.tag)
  let s := s.setCore core ((s.core core).putSlot { x with sf := !own, sfAddr := BitVec.ofNat 64 addr, report := true })
  if own then (s.mapTagEnt x.tag fun e => { e with sf := true }).getD s else s

/-! ### The backing region (R225) -/

/-- The shape line: flags, generation, tile number, descriptor. -/
def shapeLine (flags : BitVec 4) (gen : BitVec 8) (t : Nat) (shape : BitVec 32) : BitVec 64 :=
  0#4 ++ flags ++ gen ++ 0#7 ++ BitVec.ofNat 9 t ++ shape

/-- The bytes of the valid extent: offset in the data and length, one for each memory row. -/
def extent (d : BitVec 32) : List (Nat × Nat) := (List.range (memRows d)).map fun q => (q * slotPitch d, rowPitch d)

/-- Scale bytes rounded up to whole lines. -/
def scaleLines (d : BitVec 32) : Nat := 64 * ceilDiv (scaleBytes d) 64

/-- A read of a region piece by piece: the number that the pieces make at their offsets. The error is the cause and the address. -/
def State.readPieces (s : State) (ctx base : Nat) (l : List (Nat × Nat)) : Except (Nat × Nat) Nat :=
  l.foldlM (fun acc (off, n) =>
    match s.devReadAt ctx (base + off) n with
    | .ok b => .ok (acc ||| (ofBytes b <<< (8 * off)))
    | .error x => .error x) 0

/-- The value of a tile in its backing region, checked against the entry (R225); the error is the address that R233 reports. -/
def State.readRegion (s : State) (ctx : Nat) (base : Word) (bidx t : Nat) (gen : BitVec 8) (shape : BitVec 32) :
    Except Nat TileVal :=
  let r := regionAddr base bidx
  match s.readPieces ctx r (extent shape) with
  | .error (_, a) => .error a
  | .ok data =>
    match s.devReadAt ctx (r + 65536) (scaleLines shape) with
    | .error x => .error x.2
    | .ok sc =>
      match s.devReadAt ctx (r + 65536 + 4096) 64 with
      | .error x => .error x.2
      | .ok l =>
        let line := BitVec.ofNat 512 (ofBytes l)
        if line.extractLsb' 64 448 != 0 || line.extractLsb' 41 7 != 0 || line.extractLsb' 0 32 != shape ||
           (line.extractLsb' 32 9).toNat != t || line.extractLsb' 48 8 != gen then .error r
        else
          let v : TileVal := { shape := shape, data := BitVec.ofNat _ data, scales := BitVec.ofNat _ (ofBytes (sc.take (scaleBytes shape))) }
          .ok v.padded

/-- Write of a tile into its backing region: the valid extent, the scales, and last the shape line (R225, R184). The error is the
failing address, and the state holds what was written before it. -/
def State.writeRegion (s : State) (ctx : Nat) (base : Word) (bidx t : Nat) (gen : BitVec 8) (flags : BitVec 4) (v : TileVal) :
    State × Option Nat :=
  let r := regionAddr base bidx
  let rows := (extent v.shape).map fun (off, n) => (r + off, toBytes n (v.data.toNat >>> (8 * off)))
  let all := rows ++ [(r + 65536, toBytes (scaleLines v.shape) v.scales.toNat),
                      (r + 65536 + 4096, toBytes 64 (shapeLine flags gen t v.shape).toNat)]
  let (s, bad) := s.devWriteRuns ctx all
  (s, bad.map Prod.snd)

/-! ### Moves (R232, R235) -/

/-- The order in which the next move begins. -/
def State.nextMove (s : State) : Nat :=
  (s.cores.toList.flatMap (·.moves)).foldl (fun n m => max n m.began) 0 + 1

/-- A move begins in the engine of a core. -/
def State.addMove (s : State) (core : Nat) (m : Move) : State :=
  s.setCore core { s.core core with moves := (s.core core).moves ++ [{ m with began := s.nextMove }] }

/-- A move leaves the engine. -/
def State.dropMove (s : State) (core : Nat) (m : Move) : State :=
  s.setCore core { s.core core with moves := (s.core core).moves.filter fun x => x != m }

/-- A move of a backing region is in flight. -/
def State.regionMoves (s : State) (ctx : Nat) (base : Word) (bidx : Nat) : Bool :=
  s.cores.toArray.any fun c => c.moves.any fun x => x.tag.ctx == ctx && x.tag.base == base && x.bidx == bidx

/-- Every move of the same backing region that began earlier has ended (R232). -/
def State.moveTurn (s : State) (m : Move) : Bool :=
  !s.cores.toArray.any fun c => c.moves.any fun x =>
    x.tag.ctx == m.tag.ctx && x.tag.base == m.tag.base && x.bidx == m.bidx && x.began < m.began

/-- A move of a tile's current value is in flight on a core. -/
def State.movingTag (s : State) (g : Tag) : Bool := s.cores.toArray.any fun c => c.moves.any fun m => m.tag == g

/-- A FILL or SPILL packet and its counter in the thread that has the map installed (R397, R398, R400). -/
def State.moveEvent (s : State) (m : Move) (late : Bool) : State :=
  s.focus (fun t => t.owns m.tag) fun s =>
    let s := s.count (if m.spill then 12 else 11) 1
    let s := if late && !m.spill then s.count 13 1 else s
    s.emit (if m.spill then 7 else 6) (late.toNat * 2 ^ 57 + m.tag.tile * 2 ^ 48 + m.slot % 256 * 2 ^ 40 + s.time)

/-- A move of another generation ends (R235): a fill writes nothing; a spill writes its region and leaves the entry alone. Its slot is freed
where it still holds what is spilled, not a value that has come there since. -/
def State.endLate (s : State) (core : Nat) (m : Move) : State :=
  let s := s.dropMove core m
  let s := if m.spill then
      let s := (s.writeRegion m.tag.ctx m.tag.base m.bidx m.tag.tile m.tag.gen m.flags m.val).1
      if ((s.core core).slotAt m.slot).all fun x => x.tag == m.tag then s.freeSlot core m.slot m.toPool else s
    else s
  s.moveEvent m true

/-- The generation of a tile is about to become the tag's: the moves that carry it end first (R235). That wait affects timing only. -/
def State.finishLate (s : State) (g : Tag) : State :=
  (List.range 192).foldl (fun s c => ((s.core c).moves.filter fun m => m.tag == g).foldl (fun s m => s.endLate c m) s) s

/-- The tile of a dirty slot with a double error (R230, R377): its entry becomes ABSENT as `TDEAD` would leave it, its window is released,
and its slot is freed without a spill. -/
def State.loseTag (s : State) (core : Nat) (x : Slot) : State :=
  let s := s.finishLate { x.tag with gen := x.tag.gen + 1 }
  let s := { s with rwins := s.rwins.filter fun w => !(w.ctx == x.tag.ctx && w.tmapb == x.tag.base && w.tile == x.tag.tile) }
  let s := (s.mapTagEnt x.tag fun e => { e with state := tABSENT, flags := 0, arm := false, gen := e.gen + 1 }).getD s
  s.dropSlot core x.num

/-- Older moves of a tile's backing region end before the region is written by another way than a move (R232). -/
def State.flushRegion (s : State) (g : Tag) (bidx : Nat) : State :=
  (List.range 192).foldl (fun s c =>
    ((s.core c).moves.filter fun m => m.tag.ctx == g.ctx && m.tag.base == g.base && m.bidx == bidx && m.tag != g).foldl
      (fun s m => s.endLate c m) s) s

/-- A slot holds a double error (R377). -/
def State.slotDamaged (s : State) (core n : Nat) : Bool := s.damage.slots.contains (core, n)

/-- A double error in a dirty slot: the tile is lost (R377). -/
def State.lostTile (s : State) (t : Nat) : Bool :=
  let e := s.ent t
  e.state == tDIRTY && (s.tileSlot t).isSome && s.slotDamaged e.core.toNat e.slot.toNat

/-- The entry as a lost tile leaves it: ABSENT, as `TDEAD` would make it. -/
def TEnt.lost (e : TEnt) : TEnt := { e with state := tABSENT, flags := 0, arm := false, gen := e.gen + 1 }

/-- The lost tile's entry becomes ABSENT, as `TDEAD` would leave it. -/
def State.loseTile (s : State) (t : Nat) : State :=
  match s.tileSlot t with
  | some x => s.loseTag (s.ent t).core.toNat x
  | none => s

/-- The spill of a slot's tile, under its entry (R232). -/
def Slot.spillMove (x : Slot) (e : TEnt) (toPool : Bool) : Move :=
  { spill := true, slot := x.num, tag := x.tag, shape := x.val.shape, bidx := e.bidx.toNat, val := x.val, flags := e.flags, pref := false
    toPool := toPool, began := 0 }

/-- Chosen as a victim (R230, R232): a clean or empty tile leaves at once, a dirty one is spilled. A tile that the other thread's
fill evicts counts for its owner (R400). -/
def State.evict (s : State) (core : Nat) (x : Slot) (toPool : Bool) : State :=
  let s := if toPool then s else s.mapThreads fun t => if t.owns x.tag && t.id.slot != s.thr.id.slot then t.count 14 1 else t
  let bad := entAddr x.tag.base x.tag.tile
  if x.dirty && x.full then
    if s.slotDamaged core x.num then (s.loseTag core x).freeSlot core x.num toPool else
    match s.tagEnt x.tag with
    | some e => s.addMove core (x.spillMove e toPool)
    | none => s.spillFailed core x bad
  else
    match s.backEntry x.tag with
    | some s => s.freeSlot core x.num toPool
    | none => s.spillFailed core x bad

/-- A spill ends (R225, R230, R232, R233): the region and then the entry are written, and the slot is freed, joining the pool where it was so
promised. A slot in which a double error has come up is lost instead (R377). -/
def State.endSpill (s : State) (core : Nat) (m : Move) : State :=
  let s := s.dropMove core m
  let keep := fun (s : State) (a : Nat) =>
    match (s.core core).slotAt m.slot with
    | some x => s.spillFailed core x a
    | none => s
  match (s.core core).slotAt m.slot, s.slotDamaged core m.slot with
  | some x, true => (s.loseTag core x).freeSlot core m.slot m.toPool
  | _, _ =>
    match s.writeRegion m.tag.ctx m.tag.base m.bidx m.tag.tile m.tag.gen m.flags m.val with
    | (s, some a) => (keep s a).moveEvent m false
    | (s, none) =>
      match s.backEntry m.tag with
      | some s => (s.freeSlot core m.slot m.toPool).moveEvent m false
      | none => (keep s (entAddr m.tag.base m.tag.tile)).moveEvent m false

/-- A fill of tile `t` of the thread at turn begins if it can (R230, R232): a free general slot and one of the engine's eight
places are needed; where no slot is free a victim is evicted, and the fill begins at a later attempt, once that slot is free. -/
def State.fillStart (s : State) (t : Nat) (pref : Bool) : State :=
  let core := s.thr.id.core
  let e := s.ent t
  if e.state != tBACKED || e.bad || !descValid e.shape || 8 ≤ (s.core core).moves.length then s else
  match s.freeGeneral core with
  | some n =>
    ((s.dropSlot core n).addMove core
      { spill := false, slot := n, tag := ⟨s.thr.id.ctx, s.thr.c.tmapb, t, e.gen⟩, shape := e.shape, bidx := e.bidx.toNat
        val := TileVal.zero e.shape, flags := 0, pref := pref, toPool := false, began := 0 }).setEnt t
      { e with state := tPENDING, core := BitVec.ofNat 8 core, slot := BitVec.ofNat 8 n }
  | none =>
    if (s.core core).moves.any fun m => m.spill && !m.toPool then s else
    match s.victim core with
    | some x => s.evict core x false
    | none => s

/-- The thread at turn needs a tile whose entry names a slot of another core, or one of its own that does not hold it (R236): the named
core gives the tile up, or the entry is read again. A slot whose failed spill has still to be reported keeps its tile until then (R233). -/
def State.serveTile (s : State) (t : Nat) : State :=
  let e := s.ent t
  let core := e.core.toNat
  let g : Tag := ⟨s.thr.id.ctx, s.thr.c.tmapb, t, e.gen⟩
  if s.movingTag g || s.regionMoves g.ctx g.base e.bidx.toNat then s else
  match s.tileSlot t with
  | some x =>
    if x.report then s
    else if x.dirty && x.full then
      if s.slotDamaged core x.num then s.loseTag core x else
      match s.writeRegion g.ctx g.base e.bidx.toNat t e.gen e.flags x.val with
      | (s, some a) => s.spillFailed core x a
      | (s, none) => ((s.dropSlot core x.num).setEnt t { e with state := tBACKED }).moveEvent (x.spillMove e false) false
    else (s.dropSlot core x.num).setEnt t { e with state := tBACKED }
  | none =>
    let m := s.readEnt g.ctx g.base t
    if (m.resident || m.state == tPENDING) && m.core == e.core && m.slot == e.slot then s.setEnt t { e with state := tBACKED }
    else s.setEnt t m

/-- The tile of an entry has still to be asked for (R236). -/
def Thread.away (s : State) (t : Thread) (n : Nat) : Bool :=
  let x := t.ent n
  (x.resident || x.state == tPENDING) &&
    (x.core.toNat != t.id.core || (s.heldIn t.id.ctx t.c.tmapb n x).isNone) &&
    !s.movingTag ⟨t.id.ctx, t.c.tmapb, n, x.gen⟩

/-! ### Installation (R226) -/

/-- The entries below the tile count of the map at `base`, as memory holds them. -/
def State.readMap (s : State) (ctx : Nat) (base : Word) (tiles : Nat) : List TEnt :=
  (List.range tiles).map (s.readEnt ctx base)

/-- The core writes back the entries of an installed map; a write that fails leaves the entry in memory as it was (R226). -/
def State.writeMap (s : State) (t : Thread) : State :=
  t.tmap.zipIdx.foldl (fun s (e, n) =>
    match s.writeEnt t.id.ctx t.c.tmapb n e with
    | .ok s' => s'
    | .error _ => s) s

/-- Uninstallation of the map of the thread at turn: its slots keep what the entries say of them. -/
def State.uninstall (s : State) : State :=
  let s := if s.thr.tmapReady then s.writeMap s.thr else s
  { s with thr := { s.thr with tmap := [] } }

/-- Slots that held earlier values of a map become free (R229). -/
def State.purgeMap (s : State) (ctx : Nat) (base : Word) (tiles : Nat) : State :=
  { s with cores := s.cores.map fun c =>
      { c with slots := c.slots.filter fun x => !(x.tag.ctx == ctx && x.tag.base == base && x.tag.tile < tiles) } }

/-- R295: launch values are applied to the entries below the tile count. -/
def State.initMap (s : State) : State :=
  if s.thr.tmapReady then s else
  let t := s.thr
  let es := (s.readMap t.id.ctx t.c.tmapb t.hdr.tiles).map TEnt.launch
  let s := es.zipIdx.foldl (fun s (e, n) => s.finishLate ⟨t.id.ctx, t.c.tmapb, n, e.gen⟩) s
  let s := s.purgeMap t.id.ctx t.c.tmapb t.hdr.tiles
  { s with thr := { s.thr with tmap := es, tmapReady := true } }

/-- Another thread of the package has the map installed (R226). -/
def State.mapTaken (s : State) (base : Word) : Bool :=
  s.parked.any fun t => t.live && t.hdr.tiles != 0 && t.id.ctx == s.thr.id.ctx && t.c.tmapb == base

end Sys2Proof.Machine
end

