-- ==== Sys2Proof/Machine/Region.lean ====
section
/-! DEFINITION. The hachure region (spec/18): strokes, versions, conflicts, acceptance, the commit step, and the reads and
writes of a thread's streams, which a speculative iteration makes through its versions. -/

namespace Sys2Proof.Machine

/-! ### Finding a thread's region -/

/-- The stroke of a thread index. -/
def Region.stroke (r : Region) (tidx : Nat) : Option Stroke := r.strokes.find? fun k => k.tidx == tidx

/-- The region with a stroke changed. -/
def Region.mapStroke (r : Region) (tidx : Nat) (f : Stroke → Stroke) : Region :=
  { r with strokes := r.strokes.map fun k => if k.tidx == tidx then f k else k }

/-- The region that a thread is in: it has arrived, and the region is not IDLE, which it becomes when every participant has left (R209,
R354, R362). -/
def State.regionOf (s : State) (t : Thread) : Option Region :=
  s.regions.find? fun r => r.gid == t.id.gid && r.strokes.any fun k => k.tidx == t.id.tidx && k.arrived

/-- The region of the thread at turn. -/
def State.myRegion (s : State) : Option Region := s.regionOf s.thr

/-- Replace a region, named by its number. -/
def State.setRegion (s : State) (r : Region) : State :=
  { s with regions := s.regions.map fun x => if x.rid == r.rid then r else x }

/-- A region by its number. -/
def State.region (s : State) (rid : Nat) : Option Region := s.regions.find? fun x => x.rid == rid

/-- The region, the stroke and the iteration that the thread at turn runs. -/
def State.iteration (s : State) : Option (Region × Stroke × Nat) :=
  match s.myRegion with
  | none => none
  | some r =>
    match r.stroke s.thr.id.tidx with
    | none => none
    | some k =>
      match k.iter with
      | none => none
      | some j => if k.sst == .guessing || k.sst == .running || k.sst == .awaiting then some (r, k, j) else none

/-- The thread at turn runs a speculative iteration (R349). -/
def State.speculative (s : State) : Bool :=
  match s.iteration with
  | some (r, _, j) => j != r.i0
  | none => false

/-- The thread at turn runs a guess routine (R351). -/
def State.guessing (s : State) : Bool :=
  match s.iteration with
  | some (_, k, _) => k.sst == .guessing
  | none => false

/-- A thread that its region holds: its stroke waits for acceptance, an assignment or the end of the region (R350, R351, R353). -/
def State.strokeHeld (s : State) (t : Thread) : Bool :=
  match s.regionOf t with
  | none => false
  | some r =>
    match r.stroke t.id.tidx with
    | none => false
    | some k =>
      (r.state == .running || r.state == .committing) &&
      (match k.sst with
       | .awaiting | .committed | .rejected | .none => true
       | .guessing => k.abandoned
       | .running => false)

/-! ### Versions (R356) -/

/-- The newest version of a byte that an iteration up to `j` has written, with that iteration. -/
def Region.versionAt (r : Region) (j pa : Nat) : Option (Nat × Byte) :=
  (r.versions.filter fun v => v.pa == pa && v.iter ≤ j).foldl
    (fun b v =>
      match b with
      | none => some (v.iter, v.byte)
      | some (i, _) => if i ≤ v.iter then some (v.iter, v.byte) else b) none

/-- Versioned lines of an iteration. -/
def Region.lines (r : Region) (j : Nat) : List Nat := ((r.versions.filter fun v => v.iter == j).map fun v => v.pa / 64).dedup

/-- A store of the thread at turn would create the 1,025th versioned line of its speculative iteration (R356). -/
def State.versionsFull (s : State) (pas : List Nat) : Bool :=
  match s.iteration with
  | some (r, _, j) => j != r.i0 && 1024 < (r.lines j ++ pas.map (· / 64)).dedup.length
  | none => false

/-- Bytes that the thread at turn reads at a physical address: memory, or the versions of its region up to its own iteration.
A speculative iteration records what it read (R357). -/
def State.loadBytes (s : State) (pa n : Nat) : List Byte × State :=
  match s.iteration with
  | none => (s.mem.read pa n, s)
  | some (r, _, j) =>
    if j = r.i0 then (s.mem.read pa n, s) else
    let got := (List.range n).map fun i =>
      match r.versionAt j (pa + i) with
      | some (k, b) => (b, (pa + i, k + 1))
      | none => (s.mem.get (pa + i), (pa + i, 0))
    (got.map Prod.fst, s.setRegion (r.mapStroke s.thr.id.tidx fun k => { k with reads := k.reads ++ got.map Prod.snd }))

/-! ### Carried values and checkpoints (R350) -/

/-- The value of a tile of the thread at turn, wherever it stands: a clean slot with a double error gives way to the region (R377). -/
def State.tileNow (s : State) (t : Nat) : TileVal :=
  let e := s.ent t
  let spoilt := e.state == tRESIDENT && s.slotDamaged e.core.toNat e.slot.toNat && (s.tileSlot t).isSome
  if e.resident && !(spoilt && e.f) then s.tileVal t else
  if e.state == tBACKED || e.state == tPENDING || spoilt then
    match s.readRegion s.thr.id.ctx s.thr.c.tmapb e.bidx.toNat t e.gen e.shape with
    | .ok v => v
    | .error _ => TileVal.zero e.shape
  else TileVal.zero e.shape

/-- The carried registers of the thread at turn. -/
def State.carryOf (s : State) (r : Region) : Carry where
  g := ((List.range 64).filter fun i => r.smask.getLsbD i).map fun i => (i, vget s.thr.r.g i)
  v := ((List.range 64).filter fun i => r.vmask.getLsbD i).map fun i => (i, vget s.thr.r.v i)
  t := r.tiles.map fun i => (i, s.tileNow i, (s.ent i).flags)

/-- A receive window armed on tile `t` of the thread at turn is released (R182). -/
def State.dropWindow (s : State) (t : Nat) : State :=
  { s with rwins := s.rwins.filter fun w => !(w.ctx == s.thr.id.ctx && w.tmapb == s.thr.c.tmapb && w.tile == t) }

/-- Chosen as a victim whose slot is needed within the step: its spill ends at once. -/
def State.evictNow (s : State) (core : Nat) (x : Slot) : State :=
  let s := s.evict core x false
  ((s.core core).moves.filter fun m => m.spill && m.slot == x.num).foldl (fun s m => s.endSpill core m) s

/-- The slot of a value that is written into the tile map outside the tile queue (R230, R350): a free general slot, else a pool slot, which
is owed to the pool from then on (R234), else a victim's. -/
def State.carrySlot (s : State) (core : Nat) : Option Nat × State :=
  match s.freeGeneral core, (s.core core).pool with
  | some n, _ => (some n, s)
  | none, n :: l => (some n, s.setCore core { s.core core with pool := l })
  | none, [] =>
    match s.victim core with
    | some x =>
      let s := s.evictNow core x
      (if ((s.core core).slotAt x.num).isNone then some x.num else none, s)
    | none => (none, s)

/-- Tile `t` of the thread at turn receives a value as by a retiring write (R230, R350), under entry `e`: in the slot that it holds on the
thread's core, else in one of `carrySlot`. Where the core has none at all, it goes to its backing region (log entry 134). A tile without a
value (F = 0) takes a clean slot, with its window's fields as `e` has them. -/
def State.putTile (s : State) (t : Nat) (e : TEnt) (v : TileVal) : State :=
  let core := s.thr.id.core
  let s := (s.finishLate ⟨s.thr.id.ctx, s.thr.c.tmapb, t, e.gen⟩).dropWindow t
  let old := s.tileSlot t
  let s := match old with
    | some x => s.dropSlot (s.ent t).core.toNat x.num
    | none => s
  let (num, s) := match old with
    | some x => if (s.ent t).core.toNat = core then (some x.num, s) else s.carrySlot core
    | none => s.carrySlot core
  match num with
  | some n =>
    let x : Slot := { num := n, tag := ⟨s.thr.id.ctx, s.thr.c.tmapb, t, e.gen⟩, val := v, zmap := v.zmap, dirty := e.f, full := e.f
                      sf := false, sfAddr := 0, report := false, lastUse := s.cycle }
    (s.putSlot core x).setEnt t
      { e with state := if e.f then tDIRTY else tRESIDENT, core := BitVec.ofNat 8 core, slot := BitVec.ofNat 8 n }
  | none =>
    let (s, _) := s.writeRegion s.thr.id.ctx s.thr.c.tmapb e.bidx.toNat t e.gen e.flags v
    s.setEnt t { e with state := tBACKED }

/-- The thread's register `v n` written whole: full, dirty, its mark at 32 (R35, R41). -/
def Thread.setVFull (t : Thread) (n : Nat) (x : VReg) : Thread :=
  { t with r := { t.r with v := vset t.r.v n x, arr := vset t.r.arr n (BitVec.allOnes 32) },
           vdirty := t.vdirty ||| (1 <<< n), hwm := vset t.hwm n 32 }

/-- Write a `g` register; `g0` stays zero (R27, R93). -/
def Thread.setG (t : Thread) (r : BitVec 6) (x : Word) : Thread :=
  if r = 0 then t else { t with r := { t.r with g := vset t.r.g r.toNat x } }

/-- A `g` register of a thread slot has been written: it is sound again (R376). -/
def Damage.rewriteG (d : Damage) (core slot r : Nat) : Damage := { d with greg := d.greg.filter (· != (core, slot, r)) }

/-- Rows of a register that are written anew are sound again (R375). -/
def Damage.rewriteVec (d : Damage) (core slot r n : Nat) : Damage :=
  { d with vec := d.vec.filter fun x => !(x.1 == core && x.2.1 == slot && x.2.2.1 == r && x.2.2.2.1 < n) }

/-- Registers of the thread at turn that are written whole are sound (R375, R376). -/
def State.sound (s : State) (gs vs : List Nat) : State :=
  let c := s.thr.id.core
  let k := s.thr.id.slot
  { s with damage := vs.foldl (fun d r => d.rewriteVec c k r 32) (gs.foldl (fun d r => d.rewriteG c k r) s.damage) }

/-- The carried registers of the thread at turn take values (R350). -/
def State.applyCarry (s : State) (c : Carry) : State :=
  let s := s.sound (c.g.map Prod.fst) (c.v.map Prod.fst)
  let s := { s with thr := c.g.foldl (fun t (i, x) => t.setG (BitVec.ofNat 6 i) x) s.thr }
  let s := { s with thr := c.v.foldl (fun t (i, x) => t.setVFull i x) s.thr }
  c.t.foldl (fun s (i, v, fl) =>
    let e := s.ent i
    s.putTile i { e with shape := v.shape, flags := fl, f := true, gen := e.gen + 1, lu := false, arm := false } v) s

/-- What a checkpoint holds of a tile (R350): its map entry and its value, and the windows armed on it. A tile lost to a double error is held
as it was lost (R377). -/
def Checkpoint.note (k : Checkpoint) (s : State) (t : Nat) : Checkpoint :=
  if k.tiles.any fun x => x.1 == t then k else
  { k with
    tiles := k.tiles ++ [(t, if s.lostTile t then (s.ent t).lost else s.ent t, s.tileNow t)]
    wins := if s.lostTile t then k.wins
            else k.wins ++ s.rwins.filter fun w => w.ctx == s.thr.id.ctx && w.tmapb == s.thr.c.tmapb && w.tile == t }

/-- The value of a tile before the iteration writes it joins the stroke's checkpoint (R350, R355). -/
def State.noteTile (s : State) (t : Nat) : State :=
  match s.iteration with
  | some (r, k, _) => s.setRegion (r.mapStroke k.tidx fun k => { k with ckpt := k.ckpt.map fun ck => ck.note s t })
  | none => s

/-- The checkpoint of the thread at turn (R350). -/
def State.checkpoint (s : State) : Checkpoint :=
  let c := s.thr.c
  { r := s.thr.r, shape := c.shape, fmode := c.fmode, fstat := c.fstat, rngkey := c.rngkey, rngctr := c.rngctr, engerr := c.engerr,
    engaddr := c.engaddr, pmsel := c.pmsel, posts := s.thr.posts, tiles := [], wins := [] }

/-- The control registers that a restore brings back (R190, R350). A failure that an engine has recorded meanwhile stays, unless an
earlier record comes back in its place; INSTRET and the counters count what has been done (log entry 116). -/
def Checkpoint.csrs (k : Checkpoint) (c : Csrs) : Csrs :=
  let rec_ := k.engerr.getLsbD 8
  { c with
    shape := k.shape, fmode := k.fmode, fstat := k.fstat, rngkey := k.rngkey, rngctr := k.rngctr, pmsel := k.pmsel
    engerr := if rec_ then k.engerr else c.engerr
    engaddr := if rec_ then k.engaddr else c.engaddr }

/-- Entries of the iteration leave the tile queue: their pool slots return, their pins are dropped (R355), and those that had issued are
abandoned (R398; the mark of R397 is log entry 135). -/
def State.dropEntries (s : State) (posts : Nat) : State :=
  let gone := s.thr.tq.filter fun e => posts ≤ e.post
  let core := s.thr.id.core
  let c := s.core core
  let s := s.setCore core { c with pool := c.pool ++ gone.filterMap (·.slot) }
  let s := gone.foldl (fun s e => e.res.pins.foldl (fun s p => s.unpinPage s.tctx p) s) s
  let s := gone.foldl (fun s e =>
    if e.st == .issued || e.st == .completed then s.emit 5 (2 ^ 57 + e.post % 32768 * 2 ^ 40 + s.time) else s) s
  { s with thr := { s.thr with tq := s.thr.tq.filter fun e => e.post < posts } }

/-- The thread at turn is restored to a checkpoint: its registers, and the entries, values and windows of the tiles that the checkpoint
holds, the generations among them (R350). Whether that writes the vector registers in the sense of R41 is left open: here it does, and a
later save's VDIRTY names all of them (DESIGN CHOICE, log entry 136). -/
def State.restoreRegs (s : State) (k : Checkpoint) : State :=
  let s := k.tiles.foldl (fun s (t, e, v) =>
    if e.state == tABSENT then
      let s := match s.tileSlot t with
        | some x => s.dropSlot (s.ent t).core.toNat x.num
        | none => s
      (s.dropWindow t).setEnt t e
    else s.putTile t e v) s
  let s := s.sound (List.range 64) (List.range 64)
  let s := { s with rwins := s.rwins ++ k.wins.filter fun (w : RWin) => !(s.rwins.any fun x => x.win == w.win) }
  { s with thr := { s.thr with r := k.r, c := k.csrs s.thr.c, vq := [], wait := .none, heldX := false, held := none, fillErr := none
                               vdirty := BitVec.allOnes 64 } }

/-- The thread at turn is restored to a checkpoint, and the entries of the iteration leave the tile queue (R355). -/
def State.restore (s : State) (k : Checkpoint) : State := (s.dropEntries k.posts).restoreRegs k

/-! ### Starting an iteration (R350) -/

/-- The thread of a stroke. -/
def isStroke (gid tidx : Nat) (t : Thread) : Bool := t.live && t.id.gid == gid && t.id.tidx == tidx

/-- The address of the `XACC` (R209). -/
def Region.xaccAt (r : Region) (k : Stroke) : CodeAddr := k.xloop + BitVec.ofNat 48 (8 * r.body)

/-- The address that follows the body: the `XEND` (R209). -/
def Region.xend (r : Region) (k : Stroke) : CodeAddr := k.xloop + BitVec.ofNat 48 (8 * (r.body + 1))

/-- The thread at turn, a stroke of `r`, starts iteration `j`. -/
def State.startIteration (s : State) (r : Region) (j : Nat) : State :=
  match r.stroke s.thr.id.tidx with
  | none => s
  | some k =>
    let ck := r.tiles.foldl (fun c t => c.note s t) s.checkpoint
    let s := s.applyCarry r.carry
    let ireg := BitVec.ofNat 6 r.ireg
    if j = r.i0 then
      let s := { s with thr := { s.thr.setG ireg (BitVec.ofNat 64 j) with pc := k.xloop + 8, wait := .none, heldX := false, held := none } }
      s.setRegion (r.mapStroke k.tidx fun k =>
        { k with sst := .running, iter := some j, abandoned := false, ckpt := some ck, input := some (s.carryOf r), out := none,
                 reads := [], marks := [] })
    else
      let s := { s with thr := { s.thr.setG ireg (BitVec.ofNat 64 (j - r.i0)) with pc := k.guess, wait := .none, heldX := false, held := none } }
      s.setRegion (r.mapStroke k.tidx fun k =>
        { k with sst := .guessing, iter := some j, abandoned := false, ckpt := some ck, input := none, out := none,
                 reads := [], marks := [] })

/-- `XGRET` (R350, R351): only the carried values that the guess leaves survive, and the iteration starts on them. -/
def State.endGuess (s : State) : State :=
  match s.iteration with
  | none => s
  | some (r, k, j) =>
    let c := s.carryOf r
    let s := match k.ckpt with
      | some ck => s.restore ck
      | none => s
    let s := s.applyCarry c
    let s := { s with thr := { s.thr.setG (BitVec.ofNat 6 r.ireg) (BitVec.ofNat 64 j) with pc := k.xloop + 8 } }
    match s.myRegion with
    | none => s
    | some r => s.setRegion (r.mapStroke k.tidx fun k => { k with sst := .running, input := some (s.carryOf r) })

/-- A guess is abandoned (R351): the stroke is restored and waits until its iteration is the oldest. -/
def State.abandonGuess (s : State) : State :=
  match s.iteration with
  | none => s
  | some (r, k, _) =>
    let s := match k.ckpt with
      | some ck => s.restore ck
      | none => s
    let s := s.setRegion (r.mapStroke k.tidx fun k => { k with abandoned := true, reads := [], marks := [] })
    let s := s.count 23 1
    s.emit 11 (((r.strokes.findIdx fun x => x.tidx == k.tidx)) * 2 ^ 55 + 2 * 2 ^ 53 + s.time)

/-! ### Rejection (R355, R357, R358) -/

/-- The least mark of each handle among marks. -/
def leastMarks (l : List (Word × Nat)) : List (Word × Nat) :=
  (l.map Prod.fst).dedup.map fun h => (h, ((l.filter fun x => x.1 == h).map Prod.snd).foldl min (2 ^ 32))

/-- Appends of rejected iterations are withdrawn (R358). -/
def State.truncateMarks (s : State) (ctx : Nat) (marks : List (Word × Nat)) : State :=
  (leastMarks marks).foldl (fun s (h, len) =>
    if s.handleReason ctx h != 0 then s else
    let c := s.ctx ctx
    let e := s.hent c (handleIdx h)
    if e.len ≤ len then s else s.cutEntry c (handleIdx h) len (min e.mark len)) s

/-- A stroke's iteration in progress. -/
def Stroke.inProgress (k : Stroke) : Bool := k.sst == .guessing || k.sst == .running || k.sst == .awaiting

/-- The iterations from `j` up are rejected, with a reason of R397; their strokes stay REJECTED, to be assigned anew. -/
def State.reject (s : State) (rid : Nat) (j reason : Nat) : State :=
  match s.region rid with
  | none => s
  | some r =>
    let gid := r.gid
    let hit := r.strokes.filter fun k => k.inProgress && (match k.iter with | some i => j ≤ i | none => false)
    let marks := hit.flatMap (·.marks)
    let s := hit.foldl (fun s k =>
      s.focus (isStroke gid k.tidx) fun s =>
        let s := match k.ckpt with
          | some ck => s.restore ck
          | none => s
        let s := s.count 25 1
        s.emit 11 ((r.strokes.findIdx fun x => x.tidx == k.tidx) * 2 ^ 55 + reason * 2 ^ 53 + s.time)) s
    let ctx := match s.groups.find? fun g => g.gid == gid with
      | some g => g.ctx
      | none => s.thr.id.ctx
    let s := s.truncateMarks ctx marks
    s.setRegion { r with
      versions := r.versions.filter fun v => v.iter < j
      strokes := r.strokes.map fun k =>
        if k.inProgress && (match k.iter with | some i => j ≤ i | none => false) then
          { k with sst := .rejected, abandoned := false, ckpt := none, input := none, out := none, reads := [], marks := [] }
        else k }

/-- The iteration has not begun its body: it is guessed, or its guess was abandoned. As the oldest it starts from the carry (R351,
R353). -/
def Stroke.notStarted (k : Stroke) : Bool := k.abandoned || k.sst == .guessing

/-- Strokes that are free take their next iterations (R350, R353): the least index from i0 up that is theirs. One whose next iteration is at
or beyond the count waits at its `XACC`. -/
def State.assign (s : State) (rid : Nat) : State :=
  match s.region rid with
  | none => s
  | some r =>
    let n := r.strokes.length
    if n = 0 || r.state != .running then s else
    r.strokes.zipIdx.foldl (fun s (k, ix) =>
      let j := r.i0 + (ix + n - r.i0 % n) % n
      let startOldest := k.notStarted && k.iter == some r.i0
      if k.inProgress && !startOldest then s else
      if r.count ≤ j then s.focus (isStroke r.gid k.tidx) fun s => { s with thr := { s.thr with pc := r.xaccAt k } } else
      s.focus (isStroke r.gid k.tidx) fun s =>
        let s := match k.ckpt with
          | some ck => if k.sst == SState.guessing && !k.abandoned then s.restore ck else s
          | none => s
        match s.region rid with
        | some r => s.startIteration r j
        | none => s) s

/-! ### Writes of the thread's streams -/

/-- Iteration `j` of a region has written `n` bytes: a younger iteration that has read one of them from memory, or from the version of
an iteration no younger than `j`, is rejected with the younger ones (R357). -/
def State.conflict (s : State) (r : Region) (j pa n : Nat) : State :=
  let bad := r.strokes.filterMap fun k =>
    match k.iter with
    | some i => if k.inProgress && j < i && k.reads.any (fun (a, src) => pa ≤ a && a < pa + n && src ≤ j) then some i else none
    | none => none
  match bad with
  | [] => s
  | b :: l => (s.reject r.rid (l.foldl min b) 1).assign r.rid

/-- A write that a thread has made other than by its stores (`GSIG`, `SPAWN`, a transfer): no speculative iteration makes one (R190),
so where the thread is a stroke of a RUNNING region it counts as the oldest's (R357; log entry 117). -/
def State.wrote (s : State) (t : ThreadId) (pa n : Nat) : State :=
  match s.regions.find? fun r => r.gid == t.gid && r.state == .running && r.strokes.any fun k => k.tidx == t.tidx && k.arrived && !k.left with
  | some r => s.conflict r r.i0 pa n
  | none => s

/-- An ordinary write of the thread at turn: a scalar store goes through the core's L1, the others to L2 (R241). It may change the tables of
its context, whose translations a TLB may go on holding (R266; log entry 23). -/
def State.writeVia (s : State) (l1 : Bool) (pa : Nat) (bs : List Byte) : State :=
  let s := s.keepTables s.thr.id.ctx
  if l1 then s.storeL1 pa bs else s.storePA pa bs

/-- Bytes that the thread at turn writes at a physical address: versions in a speculative iteration, ordinary writes otherwise; a
byte that a younger iteration has read rejects it and the younger ones (R356, R357). -/
def State.storeBytes (s : State) (pa : Nat) (bs : List Byte) (l1 : Bool := false) : State :=
  match s.iteration with
  | none => s.writeVia l1 pa bs
  | some (r, _, j) =>
    let s :=
      if j = r.i0 then s.writeVia l1 pa bs else
      let fresh := bs.zipIdx.map fun (b, i) => ({ iter := j, pa := pa + i, byte := b } : Version)
      s.setRegion { r with
        versions := (r.versions.filter fun v => !(v.iter == j && pa ≤ v.pa && v.pa < pa + bs.length)) ++ fresh }
    s.conflict r j pa bs.length

/-! ### Acceptance (R352) -/

/-- The exact difference of two finite values is at most a tolerance. -/
def withinTol (a b tol : FVal) : Bool :=
  match a, b with
  | .fin .., .fin .. =>
    match addVal .rne a b.negate with
    | .num x => (match cmpVal (.fin false x.m x.e) tol with | some c => c ≤ 0 | none => false)
    | _ => false
  | _, _ => false

/-- n(x) of R352. -/
def ulpIndex (w x : Nat) : Int := if x / 2 ^ (w - 1) % 2 = 1 then -((x % 2 ^ (w - 1) : Nat) : Int) else (x % 2 ^ (w - 1) : Nat)

/-- One scalar item: its low `w` bits under ACCTY, or all 64. -/
def itemOk (mode accty : Nat) (tol : Word) (w a b : Nat) : Bool :=
  let f := fmtOfTy accty
  let a := a % 2 ^ w
  let b := b % 2 ^ w
  match mode with
  | 0 => a == b
  | 1 => (a ^^^ b) &&& tol.toNat == 0
  | 2 => a == b || withinTol (f.value a) (f.value b) (f.value (tol.toNat % 2 ^ w))
  | _ =>
    a == b ||
    (match f.value a, f.value b with
     | .fin .., .fin .. => (ulpIndex w a - ulpIndex w b).natAbs ≤ tol.toNat
     | _, _ => false)

/-- The width of the compared items. -/
def accWidth (mode accty : Nat) : Nat := if mode ≤ 1 then 64 else tyWidth accty

/-- out(j) is accepted against input(j + 1). -/
def accepted (r : Region) (a b : Carry) : Bool :=
  let w := accWidth r.accmode r.accty
  ((a.g.zip b.g).all fun ((_, x), (_, y)) => itemOk r.accmode r.accty r.tol w x.toNat y.toNat) &&
  ((a.v.zip b.v).all fun ((_, x), (_, y)) =>
    (List.range (65536 / w)).all fun n => itemOk r.accmode r.accty r.tol w (elemAt x w n) (elemAt y w n)) &&
  ((a.t.zip b.t).all fun ((_, x, _), (_, y, _)) => x == y)

/-! ### The commit step (R353) -/

/-- Versions of an iteration become ordinary writes; sectors that they cover whole have fresh check values (R381). -/
def State.releaseVersions (s : State) (vs : List Version) : State :=
  let s := vs.foldl (fun s v => s.storePA v.pa [v.byte]) s
  { s with damage := s.damage.clearRuns (vs.map fun v => (v.pa, 1)) }

/-- What the commit step decides, as data: the region after it, the iterations committed, and the first one rejected. -/
structure CommitOut where
  region : Region
  committed : List Nat
  released : List Version
  rejectFrom : Option Nat
  deriving DecidableEq, Repr

/-- The loop of R353 on the region. -/
def commitLoop : Nat → CommitOut → CommitOut
  | 0, c => c
  | fuel + 1, c =>
    let r := c.region
    let n := r.strokes.length
    let j := r.i0
    let sj := r.strokes.getD (j % n) { tidx := 0, arrived := false, left := false, sst := .none, iter := none, abandoned := false, xloop := 0,
                                       guess := 0, ckpt := none, input := none, out := none, reads := [], marks := [] }
    let r1 := r.mapStroke sj.tidx fun k => { k with sst := .committed, ckpt := none, reads := [], marks := [] }
    let out := sj.out.getD r.carry
    let c := { c with committed := c.committed ++ [j] }
    if j + 1 = r.count then { c with region := { r1 with carry := out, state := .done } } else
    match r.strokes[(j + 1) % n]? with
    | none => c
    | some k =>
      if k.iter != some (j + 1) || !k.inProgress || k.notStarted then { c with region := { r1 with i0 := j + 1, carry := out } }
      else
        match k.input with
        | none => { c with region := { r1 with i0 := j + 1, carry := out } }
        | some inp =>
          if accepted r out inp then
            let rel := r1.versions.filter fun v => v.iter == j + 1
            let r2 := { r1 with i0 := j + 1, carry := inp, versions := r1.versions.filter fun v => v.iter != j + 1 }
            let c := { c with region := r2, released := c.released ++ rel }
            if k.sst == .awaiting then commitLoop fuel c else c
          else { c with region := { r1 with i0 := j + 1, carry := out }, rejectFrom := some (j + 1) }

/-- Every participant continues at its `XEND` with the final carry and index (R361). -/
def State.finishRegion (s : State) (r : Region) (ix : Nat) : State :=
  r.strokes.foldl (fun s k =>
    if k.left then s else
    s.focus (isStroke r.gid k.tidx) fun s =>
      let s := s.applyCarry r.carry
      { s with thr := { s.thr.setG (BitVec.ofNat 6 r.ireg) (BitVec.ofNat 64 ix) with pc := r.xend k, wait := .none, heldX := false, held := none } }) s

/-- The commit step, run by the oldest iteration's stroke at its `XACC`, whose out(j) the region holds. -/
def State.commitStep (s : State) (r : Region) : State :=
  let stroke0 := r.strokes.getD (r.i0 % r.strokes.length) default_stroke
  let c := commitLoop (r.strokes.length + 1) { region := r, committed := [], released := [], rejectFrom := none }
  let s := s.setRegion { c.region with state := if c.region.state == .done then .done else .running }
  let s := s.releaseVersions c.released
  let s := c.committed.foldl (fun s j =>
    match r.strokes[j % r.strokes.length]? with
    | some k => s.focus (isStroke r.gid k.tidx) fun s => s.count 24 1
    | none => s) s
  let s := s.focus (isStroke r.gid stroke0.tidx) fun s =>
    s.emit 10 ((r.i0 % r.strokes.length) * 2 ^ 55 + min c.committed.length 32767 * 2 ^ 40 + s.time)
  let s := match c.rejectFrom with
    | some j => s.reject r.rid j 0
    | none => s
  if c.region.state == .done then s.finishRegion { c.region with state := .done } r.count
  else s.assign r.rid
where
  /-- The stroke read where a region has none. -/
  default_stroke : Stroke :=
    { tidx := 0, arrived := false, left := false, sst := .none, iter := none, abandoned := false, xloop := 0, guess := 0, ckpt := none,
      input := none, out := none, reads := [], marks := [] }

/-- The region starts (R350, R354): its carry is that of stroke 0 at its `XLOOP`; a count of 0 ends it at once. -/
def State.startRegion (s : State) (r : Region) : State :=
  match r.strokes with
  | [] => s
  | k0 :: _ =>
    let carry := match s.threads.find? (isStroke r.gid k0.tidx) with
      | some t => State.carryOf { s with thr := t } r
      | none => r.carry
    let r := { r with carry := carry, i0 := 0, state := if r.count = 0 then .done else .running }
    let s := s.setRegion r
    if r.count = 0 then s.finishRegion r 0 else s.assign r.rid

/-- `XABORT` by the oldest (R354, R361): the carried values as they stand; every speculative iteration is discarded, and what the iteration
leaves in its tile queue with it (log entry 118). -/
def State.abortRegion (s : State) : State :=
  match s.iteration with
  | none => s
  | some (r, k, j) =>
    let c := s.carryOf r
    let s := s.reject r.rid (j + 1) 3
    let s := match k.ckpt with
      | some ck => s.restore ck
      | none => s
    match s.region r.rid with
    | none => s
    | some r =>
      let r := { r with carry := c, state := .aborted, versions := [] }
      (s.setRegion r).finishRegion r j

/-- A pre-emption (R363): every speculative iteration is rejected and none restarted. -/
def State.stopRegion (s : State) (gid : Nat) : State :=
  (s.regions.filter fun r => r.gid == gid && (r.state == .running || r.state == .committing)).foldl (fun s r =>
    let s := s.reject r.rid (r.i0 + 1) 3
    { s with regions := s.regions.map fun x =>
        if x.rid == r.rid then
          { x with strokes := x.strokes.map fun k => if k.sst == .rejected then { k with sst := .none, iter := none } else k }
        else x }) s

/-- RST and SST codes (R217). -/
def RState.code : RState → Nat
  | .idle => 0 | .armed => 1 | .running => 2 | .committing => 3 | .done => 4 | .aborted => 5

def SState.code : SState → Nat
  | .none => 0 | .guessing => 1 | .running => 2 | .awaiting => 3 | .committed => 4 | .rejected => 5

/-- XSTATE of a thread (R217). -/
def State.xstate (s : State) (t : Thread) : Word :=
  match s.regionOf t with
  | none => 0
  | some r =>
    match r.stroke t.id.tidx with
    | none => 0
    | some k =>
      BitVec.ofNat 64 ((k.iter.getD 0) % 2 ^ 48 * 2 ^ 16 + k.sst.code * 64 + (r.strokes.findIdx fun x => x.tidx == k.tidx) * 8 + r.state.code)

end Sys2Proof.Machine
end

