-- ==== Sys2Proof/Machine/Device.lean ====
section
/-! DEFINITION. What the device's units share: interrupts (11 R273), arrivals on barrier words (15 R310 to R314), the dispatcher's
accesses to queue blocks and nodes (12 R281), node states, completion, faults and the error token (12 R280, R283; 13 R299), and the
end of threads and groups (14 R304). -/

namespace Sys2Proof.Machine

/-! ### Interrupts (R273) -/

/-- The context block of context `n` (R260). -/
def State.cblock (s : State) (n : Nat) : Nat := s.mgmt.cbase + 0x400 * n

/-- A field of a context block. -/
def State.cget (s : State) (n off : Nat) : Word := s.loadPA8 (s.cblock n + off)

/-- Write a field of a context block. -/
def State.cput (s : State) (n off : Nat) (v : Word) : State := s.storePA8 (s.cblock n + off) v

/-- An interrupt leaves over Turward, or is held until Turward is usable (R390). -/
def State.deliver (s : State) (v : Vec) : State :=
  if s.turward.usable then { s with irqs := s.irqs ++ [(v.addr, v.data)] } else { s with irqHeld := s.irqHeld ++ [(v.addr, v.data)] }

/-- An event on the vector at `at_` of a context block: PEND is set where MASK is, else it is delivered. -/
def State.vecEvent (s : State) (at_ : Nat) (v : Vec) : State :=
  let b := s.mem.get (at_ + 12)
  if b.getLsbD 0 then s.storePA (at_ + 12) [b ||| 2] else s.deliver v

/-- Interrupt vector `i` of context `n`. -/
def State.interrupt (s : State) (n i : Nat) : State := s.vecEvent (s.cblock n + 0x200 + 16 * i) (vget (s.ctx n).ivec i)

/-- The layout of R273: reserved bits zero, ADDR a multiple of 4. -/
def vecOk (addr hi : Word) : Bool := addr.toNat % 4 == 0 && hi.toNat / 2 ^ 34 == 0

/-- CVEC of context `n`: from the dispatcher's copy, or from the block for a FREE context (R267). -/
def State.cvecEvent (s : State) (n : Nat) : State :=
  let at_ := s.cblock n + 0x20
  if (s.ctx n).state == .free then
    if vecOk (s.cget n 0x20) (s.cget n 0x28) then s.vecEvent at_ ⟨s.cget n 0x20, (s.cget n 0x28).extractLsb' 0 32⟩ else s
  else s.vecEvent at_ (s.ctx n).cvec

/-- State codes of R270. -/
def CtxState.code : CtxState → Nat
  | .free => 0 | .active => 1 | .quiescing => 2 | .suspended => 3 | .destroying => 4

/-- DONE of a context command, then CVEC (R267). -/
def State.ctxDone (s : State) (n : Nat) (seq : BitVec 32) (status : Nat) : State :=
  (s.cput n 8 (BitVec.ofNat 64 (seq.toNat * 2 ^ 32 + status * 256 + (s.ctx n).state.code))).cvecEvent n

/-! ### Barrier words -/

/-- ERR, CAN and FRZ of R310. -/
def barERR : Word := 1 <<< 63
def barCAN : Word := 1 <<< 62
def barFRZ : Word := 1 <<< 61

/-- One arrival's effect on a word (R312). -/
def barUpdate (add : BitVec 32) (set clear w : Word) : Word :=
  (((w &&& 0xFFFFFFFF00000000) ||| (w.extractLsb' 0 32 + add).zeroExtend 64) ||| set) &&& ~~~clear

/-- An atomic update of an aligned 8-byte word with a thread's or the device's rights. -/
def State.accUpdate8 (s : State) (ctx : Nat) (sup : Bool) (va : Nat) (f : Word → Word) : Except Nat State :=
  if va % 8 != 0 then .error cMISALIGNED else
  match s.xlate ctx sup true va with
  | .error e => .error e
  | .ok pa =>
    match s.dataErr ctx true true pa with
    | some e => .error e
    | none => .ok (s.storePA8 pa (f (s.loadPA8 pa)))

/-- An arrival (R312); an agent whose barrier address is 0 makes none. -/
def State.arrive (s : State) (ctx : Nat) (sup : Bool) (bar : Word) (add : BitVec 32) (set clear : Word) : Except Nat State :=
  if bar = 0 then .ok s else s.accUpdate8 ctx sup bar.toNat (barUpdate add set clear)

/-- An arrival that is dropped where the word cannot be reached (R313). -/
def State.arriveOrDrop (s : State) (ctx : Nat) (bar : Word) (add : BitVec 32) (set clear : Word) : State :=
  match s.arrive ctx true bar add set clear with
  | .ok s' => s'
  | .error _ => s

/-! ### Queue blocks (R276, R281) -/

/-- Queue `q` of context `n`. -/
def State.queue (s : State) (n q : Nat) : Queue := vget (s.ctx n).queues q

/-- A `DESTROY` waits for the queue's threads to stop. -/
def Queue.dying (x : Queue) : Bool := x.cmdOp == 4 && x.cmdSeq.isSome

/-- Replace a queue. -/
def State.setQueue (s : State) (n q : Nat) (x : Queue) : State :=
  s.setCtx n { s.ctx n with queues := vset (s.ctx n).queues q x }

/-- Address of a queue block. -/
def State.qva (s : State) (n q : Nat) : Nat := (vget (s.ctx n).qblk q).toNat

/-- A field of a queue block. -/
def State.qget (s : State) (n q off : Nat) : Except Nat Word := s.devRead8 n (s.qva n q + off)

/-- The failure of an access to a queue block (R281): QERR and CVEC. -/
def State.qerr (s : State) (n q cause : Nat) : State :=
  let w := (s.cget n 0x300).toNat % 65536 ||| 2 ^ q
  let s := s.cput n 0x300 (BitVec.ofNat 64 (cause * 2 ^ 56 + w))
  (s.setQueue n q { s.queue n q with errd := true }).cvecEvent n

/-- A write of a queue block. -/
def State.qput (s : State) (n q off : Nat) (v : Word) : State :=
  match s.devWrite8 n (s.qva n q + off) v with
  | .ok s' => s'
  | .error e => s.qerr n q e

/-- State codes of R282. -/
def QState.code : QState → Nat
  | .destroyed => 0 | .empty => 1 | .active => 2 | .frozen => 3 | .draining => 4

/-- A queue changes state, and DONE.STATE with it. -/
def State.setQState (s : State) (n q : Nat) (st : QState) : State :=
  let s := s.setQueue n q { s.queue n q with state := st }
  match s.qget n q 0x20 with
  | .ok d => s.qput n q 0x20 (BitVec.ofNat 64 (d.toNat / 8 * 8 + st.code))
  | .error e => s.qerr n q e

/-- DONE of a queue command (R282). One that cannot be written leaves the command to be answered again. -/
def State.qDone (s : State) (n q : Nat) (seq : BitVec 32) (status : Nat) : State :=
  match s.devWrite8 n (s.qva n q + 0x20) (BitVec.ofNat 64 (seq.toNat * 2 ^ 32 + status * 256 + (s.queue n q).state.code)) with
  | .ok s' => s'
  | .error e => (s.setQueue n q { s.queue n q with taken := none }).qerr n q e

/-- The interrupt that a bit of a CTL asks for (R276). -/
def State.ctlIrq (s : State) (n : Nat) (ctl : Word) (bit : Nat) : State :=
  if ctl.getLsbD bit then s.interrupt n (ctl.extractLsb' 16 4).toNat else s

/-- The interrupt that a bit of the queue's CTL asks for. -/
def State.qIrq (s : State) (n q bit : Nat) : State := s.ctlIrq n (s.queue n q).ctl bit

/-! ### Save records and slots -/

/-- A save record becomes free (R274). -/
def State.freeRecord (s : State) (n rec : Nat) : State :=
  s.setCtx n { s.ctx n with records := (s.ctx n).records.filter (· != rec) }

/-- The transfer belongs to the thread. -/
def Transfer.of (x : Transfer) (id : ThreadId) : Bool := x.tid.gid == id.gid && x.tid.tidx == id.tidx

/-- The source of a transfer lies in the scratchpad. -/
def srcSpad : CpySp → Bool
  | .froms | .ss => true
  | .dd | .tos => false

/-- The destination of a transfer lies in the scratchpad. -/
def dstSpad : CpySp → Bool
  | .tos | .ss => true
  | .dd | .froms => false

/-- Bytes of the half of the scratchpad that a split leaves a thread (R16, R122). -/
def spadHalf (slots : Nat) : Nat := (192 - slots) * 36864

/-- Bytes of the thread's half of the scratchpad (R122). -/
def Thread.spadBytes (t : Thread) : Nat := spadHalf t.hdr.slots

/-- The scratchpad of the thread at turn outlives its slot while its transfers read or write it (R114, R192). -/
def State.keepSpad (s : State) : State :=
  let id := s.thr.id
  if s.transfers.any fun x => x.of id && (srcSpad x.sp || dstSpad x.sp) then
    { s with spads := ⟨id.gid, id.tidx, s.thr.spadBytes, s.thr.spad⟩ :: s.spads.filter fun k => !(k.gid == id.gid && k.tidx == id.tidx) }
  else s

/-- A thread's slot is released: its map is uninstalled, and the slot is empty. -/
def State.vacate (s : State) : State :=
  let s := (if s.thr.tmap.isEmpty then s else s.uninstall).keepSpad
  { s with thr := Thread.none }

/-- Replace a group. -/
def State.setGroup (s : State) (g : Group) : State :=
  { s with groups := s.groups.map fun x => if x.gid == g.gid then g else x }

/-- The group of a number. -/
def State.group (s : State) (gid : Nat) : Option Group := s.groups.find? (·.gid == gid)

/-- A group is stopped for good (R304): its saved threads leave the slots that they may still hold, and their records are freed; its
other threads stop at their next pre-emption point. Its regions are discarded as at a pre-emption, without a save (R363). -/
def State.abortGroup (s : State) (g : Group) : State :=
  if g.state == .ended || g.state == .aborted then s else
  let s := (g.threads.filter fun x => x.2.2).foldl
    (fun s x => (s.focus (isStroke g.gid x.1) State.vacate).freeRecord g.ctx x.2.1) s
  let live := g.threads.filter fun x => !x.2.2
  let s := s.stopRegion g.gid
  let s := { s with regions := s.regions.filter fun r => r.gid != g.gid }
  if live.isEmpty then { s with groups := s.groups.filter fun x => x.gid != g.gid }
  else s.setGroup { g with state := .aborted, threads := live }

/-! ### Nodes -/

/-- State codes of R277. -/
def NState.code : NState → Nat
  | .waiting => 0 | .ready => 1 | .running => 2 | .done => 3 | .faulted => 4 | .cancelled => 5

/-- WAITING, READY or RUNNING. -/
def NState.open : NState → Bool
  | .waiting | .ready | .running => true
  | _ => false

/-- The queue that has taken in a node, and the node. -/
def State.findNode (s : State) (n : Nat) (addr : Word) : Option (Nat × Node) :=
  (List.range 16).findSome? fun q => ((s.queue n q).nodes.find? fun x => x.addr == addr).map fun x => (q, x)

/-- A node of a queue. -/
def State.node (s : State) (n q : Nat) (addr : Word) : Option Node := (s.queue n q).nodes.find? (·.addr == addr)

/-- Change what the dispatcher knows of a node. -/
def State.mapNode (s : State) (n q : Nat) (addr : Word) (f : Node → Node) : State :=
  let x := s.queue n q
  s.setQueue n q { x with nodes := x.nodes.map fun y => if y.addr == addr then f y else y }

/-- Fields of a node as its take-in read them (R277). -/
def Node.word (x : Node) (i : Nat) : Word := vget x.body i
def Node.ctl (x : Node) : Word := x.word 1
def Node.opa (x : Node) : Word := x.word 2
def Node.opb (x : Node) : Word := x.word 3
def Node.count (x : Node) : Word := x.word 4
def Node.cbar (x : Node) : Word := x.word 5
def Node.limit (x : Node) : Nat := (x.word 6).toNat % 2 ^ 32
def Node.type (x : Node) : Nat := x.ctl.toNat % 16
def Node.prio (x : Node) : Nat := (x.ctl.extractLsb' 8 3).toNat
def Node.nsucc (x : Node) : Nat := min 5 (x.ctl.extractLsb' 16 3).toNat

/-- The class of a node (R277). -/
def State.nodeClass (s : State) (n q : Nat) (x : Node) : Nat :=
  min (if x.prio = 7 then (s.queue n q).ctl.toNat % 4 else x.prio) (s.ctx n).cls

/-- R283 item 1: the fault record, the freeze, the interrupt; nothing while the queue is destroyed (R23). A DRAIN that waits completes with STATUS STATE, and with its own interrupt
(R276, R282). -/
def State.freeze (s : State) (n q : Nat) (fnode fault fpc : Word) : State :=
  if (s.queue n q).errd || (s.queue n q).dying then s else
  match s.qget n q 0x30 with
  | .error e => s.qerr n q e
  | .ok f =>
    if f.getLsbD 63 then s.qput n q 0x30 (f ||| (1 <<< 62)) else
    let s := ((s.qput n q 0x28 fnode).qput n q 0x30 (fault ||| (1 <<< 63))).qput n q 0x38 fpc
    let x := s.queue n q
    let s := s.setQState n q .frozen
    let s := match x.cmdSeq with
      | some seq =>
        if x.cmdOp = 3 then
          ((s.setQueue n q { s.queue n q with cmdSeq := none, drainTo := 0 }).qDone n q seq 1).qIrq n q 21
        else s
      | none => s
    s.qIrq n q 20

/-- A fault record (R276) without V. -/
def faultWord (rec gidx tidx kind cause : Nat) : Word :=
  BitVec.ofNat 64 (rec % 4096 * 2 ^ 48 + gidx % 2 ^ 20 * 2 ^ 28 + tidx % 128 * 2 ^ 20 + kind * 2 ^ 16 + (if kind = 1 then 256 else 0) + cause)

/-- A failed access to a node (R281). -/
def State.nodeErr (s : State) (n q : Nat) (addr : Word) (cause : Nat) : State := s.freeze n q addr (faultWord 0 0 0 6 cause) 0

/-- STATE of a node's CTL. -/
def ctlState (w : Word) : Nat := (w.extractLsb' 12 3).toNat

/-- CTL with another STATE. -/
def withState (w : Word) (st : NState) : Word := (w &&& ~~~(0x7000 : Word)) ||| BitVec.ofNat 64 (st.code * 4096)

/-- AFF0 to AFF3 of a node counted (R296): for each quadrant, the lines in its L2 and the lines whose home it is (R13). A line of the slow tier
counts for no home; where a quadrant's L2 holds it, it counts there (DEDUCED, log entry 142). -/
def State.affCounts (s : State) (n : Nat) (x : Node) : List (Nat × Nat) :=
  let pas := (List.range 4).filterMap fun i =>
    let a := x.word (7 + i)
    if a = 0 then none else (s.xlate n true false a.toNat).toOption
  (List.range 4).map fun k =>
    (pas.countP fun pa => Config.inL2 s.cycle k (pa / 64), pas.countP fun pa => paKind pa = 0 && pa / 65536 % 12 / 3 = k)

/-- A node taken in changes state, in memory and then in the dispatcher; or the cause for which the write of its CTL fails. -/
def State.writeNState (s : State) (n q : Nat) (addr : Word) (st : NState) : Except Nat State :=
  match s.devUpdate8 n (addr.toNat + 8) (fun w => withState w st) with
  | .ok s' => .ok (s'.mapNode n q addr fun x =>
      if st == .ready then { x with state := st, pend := none, readyAt := s.cycle, aff := s.affCounts n x }
      else { x with state := st, pend := none })
  | .error e => .error e

/-- A node taken in changes state; where the write fails it keeps the state that memory holds, and `RESUME` repeats the write (R281). -/
def State.setNState (s : State) (n q : Nat) (addr : Word) (st : NState) : State :=
  match s.writeNState n q addr st with
  | .ok s' => s'
  | .error e => (s.mapNode n q addr fun x => { x with pend := some st }).nodeErr n q addr e

/-- What a node's completion or fault leaves to be written: its work is over. -/
def Node.over (x : Node) : Bool := x.pend.any fun st => !st.open

/-- A decrement of PREDS by `m` (R200, R280, R301): the code that `GSIG` returns, and the state. A node taken in becomes READY at 0. -/
def State.decPreds (s : State) (n : Nat) (addr : Word) (m : Nat) (sup : Bool) : Except Nat (Nat × State) :=
  let at_ := addr.toNat + 8
  match s.xlate n sup true at_ with
  | .error e => .error e
  | .ok pa =>
    match s.dataErr n true true pa with
    | some e => .error e
    | none =>
      let w := s.loadPA8 pa
      let preds := w.toNat / 2 ^ 32
      if ctlState w != 0 then .ok (1, s)
      else if preds < m then .ok (2, s)
      else
        let s := s.storePA8 pa (BitVec.ofNat 64 ((preds - m) * 2 ^ 32 + w.toNat % 2 ^ 32))
        match s.findNode n addr with
        | some (q, _) => .ok (0, if preds = m then s.setNState n q addr .ready else s)
        | none => .ok (0, s)

/-- The used successors of a node as memory holds them: address or cause. -/
def State.succ (s : State) (n : Nat) (addr : Word) (i : Nat) : Except Nat Word := s.devRead8 n (addr.toNat + 0x58 + 8 * i)

/-- A used successor is a node's place in the context (R277). -/
def State.succOk (s : State) (n : Nat) (a : Word) : Bool :=
  a != 0 && a.toNat % 128 == 0 && (s.xlate n true true a.toNat).toOption.isSome

/-- A decrement or a token is owed to the queue that `RESUME` will repeat it for (R281): the one that holds the node whose access failed,
or, where no queue has taken that node in, the one that the work comes from. The node that owes it is not retired before. -/
def State.owe (s : State) (n : Nat) (w : Owed) (at_ : Word) (cause : Nat) : State :=
  let q := match s.findNode n at_ with
    | some (q, _) => q
    | none => w.q
  let s := s.mapNode n w.q w.node fun x => { x with owed := if x.owed.contains w.i then x.owed else x.owed ++ [w.i] }
  let s := s.setQueue n q { s.queue n q with waits := (s.queue n q).waits ++ [w] }
  s.nodeErr n q at_ cause

/-- An owed decrement or token has been made. -/
def State.paid (s : State) (n : Nat) (w : Owed) : State := s.mapNode n w.q w.node fun x => { x with owed := x.owed.filter (· != w.i) }

/-- The token's next places from a node: its successors as memory holds them. A successor field that cannot be read is owed. Of a node that
no take-in has accepted, only an address that R277 lets a successor have names one (log entry 66). -/
def State.tokens (s : State) (n q : Nat) (addr : Word) (nsucc : Nat) (taken : Bool) : State × List Owed :=
  (List.range nsucc).foldl (fun (s, l) i =>
    match s.succ n addr i with
    | .ok a => (s, if taken || s.succOk n a then l ++ [⟨q, addr, i, true, some a⟩] else l)
    | .error e => (s.owe n ⟨q, addr, i, true, none⟩ addr e, l)) (s, [])

/-- R283 item 4 on one node: it becomes CANCELLED if it is WAITING or READY; its own successors follow. A failed access to it freezes its
queue, and the token is owed (R281). -/
def State.cancelOne (s : State) (n : Nat) (w : Owed) : State × List Owed :=
  match w.tgt with
  | none => (s, [])
  | some addr =>
    match s.devRead8 n (addr.toNat + 8) with
    | .error e => (s.owe n w addr e, [])
    | .ok ctl =>
      if 2 ≤ ctlState ctl then (s.paid n w, []) else
      let go := fun (s : State) (cbar : Word) (q : Nat) (taken : Bool) =>
        ((s.paid n w).arriveOrDrop n cbar 1 (barCAN ||| barERR) 0).tokens n q addr (min 5 (ctl.extractLsb' 16 3).toNat) taken
      match s.findNode n addr with
      | some (q, x) =>
        match s.writeNState n q addr .cancelled with
        | .ok s => go s x.cbar q true
        | .error e => (s.owe n w addr e, [])
      | none =>
        match s.devRead8 n (addr.toNat + 0x28), s.devWrite8 n (addr.toNat + 8) (withState ctl .cancelled) with
        | .ok c, .ok s => go (s.setCtx n { s.ctx n with cancelled := addr :: (s.ctx n).cancelled }) c w.q false
        | .error e, _ | _, .error e => (s.owe n w addr e, [])

/-- The error token spreads (R283 item 4), but not to the nodes of `skip`. -/
def State.cancelAll (n : Nat) (skip : List Word) : Nat → List Owed → State → State
  | 0, _, s => s
  | _, [], s => s
  | fuel + 1, a :: l, s =>
    if a.tgt.any skip.contains then State.cancelAll n skip fuel l (s.paid n a) else
    let (s, more) := s.cancelOne n a
    State.cancelAll n skip fuel (l ++ more) s

/-- The error token from a node. Its length is bounded by the nodes that memory holds, each with a CTL byte that is not zero. -/
def State.errorToken (s : State) (n q : Nat) (addr : Word) (nsucc : Nat) (taken : Bool) : State :=
  let (s, l) := s.tokens n q addr nsucc taken
  State.cancelAll n [] (6 * s.mem.length + 6) l s

/-- Bit 61 in the barrier of every unfinished node of a queue (R283 item 5, R285). -/
def State.frzAll (s : State) (n q : Nat) (on : Bool) : State :=
  ((s.queue n q).nodes.filter fun x => x.state.open && !x.over).foldl
    (fun s x => s.arriveOrDrop n x.cbar 0 (if on then barFRZ else 0) (if on then 0 else barFRZ)) s

/-- A node faults (R283), in one dispatcher step; item 5 is done where the queue freezes by it (R282). `bar` is false where its own
arrival has just failed (R313). -/
def State.nodeFault (s : State) (n q : Nat) (addr : Word) (fault fpc : Word) (bar : Bool) : State :=
  match s.node n q addr with
  | none => s
  | some x =>
    let frozen := (s.queue n q).state == .frozen
    let s := s.freeze n q addr fault fpc
    let s := (s.groups.filter fun g => g.ctx == n && g.q == q && g.node == addr).foldl State.abortGroup s
    let s := s.setNState n q addr .faulted
    let s := s.mapNode n q addr fun y => { y with copying := false }
    let s := if bar then s.arriveOrDrop n x.cbar 1 barERR 0 else s
    let s := s.errorToken n q addr x.nsucc (x.state != .waiting)
    if !frozen && (s.queue n q).state == .frozen then s.frzAll n q true else s

/-- A decrement of a successor (R299): where an access fails it freezes the queue and stays owed (R281). -/
def State.decOne (s : State) (n : Nat) (w : Owed) : State :=
  match s.succ n w.node w.i with
  | .error e => s.owe n { w with tgt := none } w.node e
  | .ok a =>
    match s.decPreds n a 1 true with
    | .ok (_, s) => s.paid n w
    | .error e => s.owe n { w with tgt := some a } a e

/-- The decrements of a completed node's successors (R299), in SUCC order. -/
def State.decSuccs (s : State) (n q : Nat) (addr : Word) (l : List Nat) : State :=
  l.foldl (fun s i => s.decOne n ⟨q, addr, i, false, none⟩) s

/-- What a queue owes is made (R281, R285): decrements, and tokens from where they stopped. -/
def State.repay (s : State) (n q : Nat) : State :=
  let l := (s.queue n q).waits
  let s := s.setQueue n q { s.queue n q with waits := [] }
  l.foldl (fun s w =>
    if !w.token then s.decOne n w else
    match w.tgt with
    | some _ => State.cancelAll n [] (6 * s.mem.length + 6) [w] s
    | none =>
      match s.succ n w.node w.i with
      | .ok a => State.cancelAll n [] (6 * s.mem.length + 6) [{ w with tgt := some a }] s
      | .error e => s.owe n w w.node e) s

/-- A node becomes DONE (R299): its arrival first; a failed arrival makes it FAULTED (R313). -/
def State.nodeDone (s : State) (n q : Nat) (addr : Word) : State :=
  match s.node n q addr with
  | none => s
  | some x =>
    match s.arrive n true x.cbar 1 0 barFRZ with
    | .error e => s.nodeFault n q addr (faultWord 0 0 0 5 e) 0 false
    | .ok s =>
      let s := s.setNState n q addr .done
      if (s.node n q addr).any (·.over) then s else s.decSuccs n q addr (List.range x.nsucc)

/-- The append procedure of R278 by a unit of the device or a thread: the old TAIL; the error is the access's cause. -/
def State.appendNode (s : State) (n q : Nat) (sup : Bool) (node : Word) : Except Nat State :=
  let wr := fun (s : State) (va : Nat) (v : Word) => s.accUpdate8 n sup va fun _ => v
  match s.xlate n sup true (s.qva n q + 8) with
  | .error e => .error e
  | .ok pa =>
    match s.dataErr n true true pa with
    | some e => .error e
    | none =>
      let old := s.loadPA8 pa
      let s' := s.storePA8 pa node
      if old = 0 then wr s' (s.qva n q) node else wr s' old.toNat node

end Sys2Proof.Machine
end

