-- ==== Sys2Proof/Machine/Save.lean ====
section
/-! DEFINITION. Settling, saving and resuming a thread (02 R40, R41; 11 R274), and the stream control block (06 R154). -/

namespace Sys2Proof.Machine

/-! ### The stream control block (R154) -/

/-- The linear length of a stream. -/
def Stream.len (b : Stream) : Nat := b.cnt0 * b.cnt1 * b.cnt2

/-- The address of a position. -/
def Stream.ea (b : Stream) (p : Nat) : Word :=
  b.base + BitVec.ofNat 64 (p % b.cnt0) * b.step0 + BitVec.ofNat 64 (p / b.cnt0 % b.cnt1) * b.step1 +
    BitVec.ofNat 64 (p / (b.cnt0 * b.cnt1)) * b.step2

/-- The 128 bytes of a block as a number, POS as the binding holds it. -/
def Stream.num (b : Stream) : Nat :=
  b.base.toNat + 2 ^ 64 * b.step0.toNat + 2 ^ 128 * b.step1.toNat + 2 ^ 192 * b.step2.toNat + 2 ^ 256 * b.cnt0 + 2 ^ 288 * b.cnt1 +
    2 ^ 320 * b.cnt2 + 2 ^ 352 * b.ty + 2 ^ 357 * b.spad.toNat + 2 ^ 358 * b.wrap.toNat + 2 ^ 384 * b.pos

/-- A binding from the number of a block at an address. -/
def Stream.ofNum (n : Nat) (block : Word) : Stream where
  base := BitVec.ofNat 64 n
  step0 := BitVec.ofNat 64 (n >>> 64)
  step1 := BitVec.ofNat 64 (n >>> 128)
  step2 := BitVec.ofNat 64 (n >>> 192)
  cnt0 := bitsOf 287 256 n
  cnt1 := bitsOf 319 288 n
  cnt2 := bitsOf 351 320 n
  ty := bitsOf 355 352 n
  spad := n.testBit 357
  wrap := n.testBit 358
  pos := bitsOf 447 384 n
  block := block

/-- A valid block (R154). -/
def Stream.valid (n : Nat) (b : Stream) : Bool :=
  let w := tyWidth b.ty / 8
  n / 2 ^ 448 % 2 ^ 576 == 0 && bitsOf 383 359 n == 0 && !n.testBit 356 && b.cnt0 != 0 && b.cnt1 != 0 && b.cnt2 != 0 &&
    b.ty ≤ 13 && b.len ≤ 2 ^ 48 && !(b.wrap && b.len ≤ b.pos) &&
    [b.base, b.step0, b.step1, b.step2].all fun x => x.toNat % w == 0

/-! ### Settling the streams of a stopped thread (R40) -/

/-- An `MMA` or `MMAI`. -/
def isMma : Instr → Bool
  | .mma _ | .mmai _ => true
  | _ => false

/-- The entry reads or writes memory. -/
def tMem : Instr → Bool
  | .tld _ _ | .tst _ _ | .tstp _ | .tsend _ | .trecv false _ | .tgather _ | .tappend _ => true
  | _ => false

/-- The entry accesses memory itself. -/
def tAccess (i : Instr) : Bool := tMem i && !(match i with | .tsend _ => true | _ => false)

/-- The entry has still to perform: `TRECV` does so as it retires (R182), the others as they complete. -/
def TqEnt.unperformed (e : TqEnt) : Bool :=
  !e.done && !e.skip && (e.st != .completed || (match e.ins with | .trecv _ _ => true | _ => false))

/-- A tile entry whose performance is visible before its retirement: it wrote memory, was sent, or changed a handle (R40). -/
def tqVisible : Instr → Bool
  | .tst _ _ | .tstp _ | .tsend _ | .tappend _ => true
  | _ => false

/-- The entry back to not issued, its slot returned by the caller. -/
def TqEnt.unissue (e : TqEnt) : TqEnt :=
  { e with st := .posted, slot := none, chain := none, since := 0, xheld := false, res := ⟨none, 0, none, []⟩ }

/-- What a tile entry becomes when its thread stops: issued multiplications and completed entries behind a kept one are abandoned,
completed entries whose effect is visible are marked done, held faults are discarded (R40, R373). -/
def TqEnt.settle (e : TqEnt) : TqEnt :=
  match e.st with
  | .completed => if tqVisible e.ins then { e with st := .posted, done := true, slot := none } else e.unissue
  | _ => e.unissue

/-- The thread's streams have settled: its vector queue has drained, no issued entry but a multiplication runs, and R295 has been applied
to its map. -/
def Thread.settled (t : Thread) : Bool :=
  t.tmapReady && t.vq.isEmpty && t.tq.all fun e => e.st != .issued || isMma e.ins

/-- The streams of the thread at turn settle (R40): pool slots return, pins are dropped. -/
def State.settle (s : State) : State :=
  let core := s.thr.id.core
  let c := s.core core
  let s := s.setCore core { c with pool := c.pool ++ s.thr.tq.filterMap (·.slot) }
  let s := s.thr.tq.foldl (fun s e => e.res.pins.foldl (fun s p => s.unpinPage s.tctx p) s) s
  let s := s.thr.tq.foldl (fun s e =>
    if e.st == .issued || (e.st == .completed && !tqVisible e.ins) then s.emit 5 (2 ^ 57 + e.post % 32768 * 2 ^ 40 + s.time) else s) s
  { s with thr := { s.thr with tq := s.thr.tq.map TqEnt.settle, wait := .none, heldX := false, held := none } }

/-! ### The save record (R274) -/

/-- Size of a record. -/
def recordBytes : Nat := 0x504000

/-- Physical address of a record. -/
def Ctx.recordAt (c : Ctx) (rec : Nat) : Nat := c.savebase + recordBytes * rec

/-- The control registers of a record, in order. -/
def State.saveCsrs (s : State) : List Word :=
  let t := s.thr
  let c := t.c
  let l := fun i => vget t.r.loops i
  [c.shape, c.fmode, c.fstat, c.rngkey, c.rngctr, (l 0).count, (l 1).count, (l 2).count] ++
  [(l 0).start.zeroExtend 64, (l 1).start.zeroExtend 64, (l 2).start.zeroExtend 64] ++
  [(l 0).last.zeroExtend 64, (l 1).last.zeroExtend 64, (l 2).last.zeroExtend 64] ++
  [c.instret, c.tqindex, s.xstate t, c.engerr, c.engaddr, c.tmapb, c.trappc, c.trapcause] ++
  c.trapinfo.toList ++ [c.tracectl] ++ c.pmc.toList ++ c.pmsel.toList ++ List.replicate 5 0

/-- A mask's descriptor and bitmap (R274). -/
def MaskVal.num : MaskVal → Nat
  | .bitmap b => 1 + 2 ^ 2048 * b.toNat
  | .count c w => (match w with | 8 => 0 | 16 => 2 | 32 => 4 | _ => 6) + 65536 * c

/-- A mask from its 512 bytes. -/
def MaskVal.ofNum (n : Nat) : MaskVal :=
  if n.testBit 0 then .bitmap (BitVec.ofNat _ (n >>> 2048)) else .count (bitsOf 30 16 n) (8 * 2 ^ bitsOf 2 1 n)

/-- STATUS of a record. -/
def Thread.status (t : Thread) : Nat :=
  t.sup.toNat + 2 * t.hcall.isSome.toNat + 4 * (match t.hcall with | some h => h.written.toNat | .none => 0) +
    256 * ((List.range 8).foldl (fun n i => n + (vget t.r.sb i).isSome.toNat * 2 ^ i) 0)

/-- Bytes of scratchpad image. -/
def Thread.spx (t : Thread) : Nat := ceilDiv t.spadHigh 4096 * 4096

/-- The two halves of a tile queue entry in the image. -/
def TqEnt.halves (e : TqEnt) : Nat × Nat :=
  (((encode64 e.ins).getD 0).toNat + 2 ^ 64 * e.g0.toNat, e.g1.toNat + 2 ^ 64 * e.rng.toNat)

/-- The parts of a save: offset, length, value. The done mask holds every entry that is to retire without being performed: those whose
effect has been made (R41), and one that `ERET` skipped (R372). Of the bindings only those below NSB are written (R292). -/
def State.saveParts (s : State) : List (Nat × Nat × Nat) :=
  let t := s.thr
  let ident := match t.hcall with
    | some h => t.id.ctx * 2 ^ 58 + h.seq.toNat
    | none => 0
  let w := fun (l : List Word) => packElems 64 (l.map BitVec.toNat)
  [(0, 8, t.pc.toNat), (8, 8, t.status), (0x10, 8, ident), (0x18, 8, t.vdirty.toNat), (0x20, 8, t.spx), (0x28, 24, 0)] ++
  [(0x40, 64, packElems 8 t.hwm.toList), (0x80, 512, w t.r.g.toList), (0x280, 384, w s.saveCsrs)] ++
  ((List.range 16).drop 1).map (fun k => (0x400 + 0x200 * k, 512, (vget t.r.k k).num)) ++
  (List.range (min 8 t.hdr.nsb)).map (fun n => (0x2400 + 0x80 * n, 128,
    match vget t.r.sb n with | some b => b.num + 2 ^ 448 * b.block.toNat | none => 0)) ++
  [(0x2800, 16, t.tq.length + 2 ^ 64 * (t.tq.zipIdx.foldl (fun n (e, i) => n + (e.done || e.skip).toNat * 2 ^ i) 0))] ++
  t.tq.zipIdx.flatMap (fun (e, i) => [(0x2810 + 16 * i, 16, e.halves.1), (0x2C10 + 16 * i, 16, e.halves.2)]) ++
  ((List.range 64).filter fun n => t.vdirty.getLsbD n).map (fun n => (0x4000 + 0x2000 * n, 256 * vget t.hwm n, (vget t.r.v n).toNat))

/-- The save of the thread at turn into its record (R41, R274); its trace is flushed first (R395). What the 32 bytes of a tile queue entry
have no place for, namely its instruction's address, its captured FMODE and RNGKEY and its posting number, is kept beside the record in
`State.images` (DESIGN CHOICE, log entry 28). -/
def State.saveThread (s : State) : State :=
  let s := s.traceFlush
  let at_ := s.tctx.recordAt s.thr.id.record
  let t := s.thr
  let s := s.saveParts.foldl (fun s (off, n, v) => s.storePA (at_ + off) (toBytes n v)) s
  let s := s.storePA (at_ + 0x84000) (t.spad.read 0 t.spx)
  let img : Image := { ctx := t.id.ctx, record := t.id.record, posts := t.posts,
                       ents := t.tq.map fun e => (e.post, e.pc, e.fmode, e.rngkey) }
  { s with images := img :: s.images.filter fun x => !(x.ctx == t.id.ctx && x.record == t.id.record) }

/-- An 8-byte field of a record. -/
def State.rec8 (s : State) (at_ off : Nat) : Word := s.loadPA8 (at_ + off)

/-- The bindings of a record. -/
def State.recStream (s : State) (at_ n : Nat) : Option Stream :=
  if (s.rec8 at_ 8).getLsbD (8 + n) then
    let v := s.mem.num (at_ + 0x2400 + 0x80 * n) 128
    some (Stream.ofNum v (BitVec.ofNat 64 (v >>> 448)))
  else none

/-- Entry `i` of the tile queue image, not issued. -/
def State.recEntry (s : State) (at_ : Nat) (img : Image) (done : Word) (i : Nat) : TqEnt :=
  let (post, pc, fmode, rngkey) := img.ents.getD i (img.posts, 0, 0, 0)
  { post := post, pc := pc, ins := (decode (s.rec8 at_ (0x2810 + 16 * i))).getD (.nop ⟨0, 0⟩), g0 := s.rec8 at_ (0x2818 + 16 * i),
    g1 := s.rec8 at_ (0x2C10 + 16 * i), fmode := fmode, rngkey := rngkey, rng := s.rec8 at_ (0x2C18 + 16 * i), st := .posted,
    done := done.getLsbD i, skip := false, slot := none, chain := none, unit := 0, since := 0, xheld := false, res := ⟨none, 0, none, []⟩ }

/-- The registers of a record (R41): EGs above a mark read zero. -/
def State.recRegs (s : State) (at_ : Nat) : Regs :=
  let c := fun i => s.rec8 at_ (0x280 + 8 * i)
  { g := Vector.ofFn fun i => if i.val = 0 then 0 else s.rec8 at_ (0x80 + 8 * i.val)
    v := Vector.ofFn fun i => BitVec.ofNat _ (s.mem.num (at_ + 0x4000 + 0x2000 * i.val) (256 * min 32 (s.mem.get (at_ + 0x40 + i.val)).toNat))
    arr := Vector.replicate 64 (BitVec.allOnes 32)
    k := Vector.ofFn fun i => if i.val = 0 then .count 16384 64 else MaskVal.ofNum (s.mem.num (at_ + 0x400 + 0x200 * i.val) 512)
    loops := Vector.ofFn fun i => ⟨c (5 + i.val), (c (8 + i.val)).setWidth 48, (c (11 + i.val)).setWidth 48⟩
    sb := Vector.ofFn fun i => s.recStream at_ i.val }

/-- The control registers of a record. -/
def State.recCsrs (s : State) (at_ : Nat) : Csrs :=
  let c := fun i => s.rec8 at_ (0x280 + 8 * i)
  { shape := c 0, fmode := c 1, fstat := c 2, rngkey := c 3, rngctr := c 4, instret := c 14, tqindex := c 15, engerr := c 17,
    engaddr := c 18, tmapb := c 19, trappc := c 20, trapcause := c 21, trapinfo := Vector.ofFn fun i => c (22 + i.val),
    tracectl := c 26, pmc := Vector.ofFn fun i => c (27 + i.val), pmsel := Vector.ofFn fun i => c (35 + i.val) }

/-- A thread as its save record gives it, in a slot of a core (R41). A pending call continues at its own wait (R392). -/
def State.resumed (s : State) (id : ThreadId) (hdr : Header) : Thread :=
  let at_ := (s.ctx id.ctx).recordAt id.record
  let st := s.rec8 at_ 8
  let img := (s.images.find? fun x => x.ctx == id.ctx && x.record == id.record).getD ⟨id.ctx, id.record, 0, []⟩
  let n := (s.rec8 at_ 0x2800).toNat % 65
  let done := s.rec8 at_ 0x2808
  let spx := (s.rec8 at_ 0x20).toNat
  let r := s.recRegs at_
  let pc := (s.rec8 at_ 0).setWidth 48
  let ident := s.rec8 at_ 0x10
  { Thread.none with
    live := true, id := id, hdr := hdr, r := r, c := s.recCsrs at_, pc := pc, sup := st.getLsbD 0, vdirty := 0
    hwm := Vector.ofFn fun i => min 32 (s.mem.get (at_ + 0x40 + i.val)).toNat
    spad := Mem.write [] 0 (s.mem.read (at_ + 0x84000) spx), spadHigh := spx
    tq := (List.range n).map (s.recEntry at_ img done), posts := img.posts
    hcall := if st.getLsbD 1 then some ⟨BitVec.ofNat 64 (ident.toNat % 2 ^ 58), 0, 0, st.getLsbD 2⟩ else none }

end Sys2Proof.Machine
end

