-- ==== Sys2Proof/Machine/Ops.lean ====
section
/-! DEFINITION. The operations that the instructions of a thread share: commit and loop stepping (05 R109), taking an exception and
returning from one (19 R366, R372; 08 R219, R220), the interlocks of the scalar stream (02 R34), and the writes of registers. -/

namespace Sys2Proof.Machine

/-- The outcome of a step of this machine. -/
abbrev Out := Host.Outcome State Fault Refusal

/-! ### Registers -/

/-- Read `g r`; `g0` reads zero (R27). -/
def State.g (s : State) (r : BitVec 6) : Word := if r = 0 then 0 else vget s.thr.r.g r.toNat

/-- Write `g r`; a write of `g0` is discarded (R93). -/
def State.setG (s : State) (r : BitVec 6) (x : Word) : State :=
  { s with thr := s.thr.setG r x, damage := s.damage.rewriteG s.thr.id.core s.thr.id.slot r.toNat }

/-- A change of the thread at turn. -/
def State.onThr (s : State) (f : Thread → Thread) : State := { s with thr := f s.thr }

/-- Raise flags of FSTAT: they are only ever set (R62). -/
def State.orFlags (s : State) (f : FFlags) : State :=
  s.onThr fun t => { t with c := { t.c with fstat := t.c.fstat ||| f.zeroExtend 64 } }

/-- Set the wait of the thread at turn. -/
def State.setWait (s : State) (w : Wait) : State := s.onThr fun t => { t with wait := w }

/-! ### Committing a word -/

/-- The counts of a commit: INSTRET in user mode (R216) and event 2 (R400), for `n` instructions. -/
def Thread.retire (t : Thread) (n : Nat) : Thread :=
  ({ t with c := { t.c with instret := if t.sup then t.c.instret else t.c.instret + BitVec.ofNat 64 n } }).count 2 n

/-- The loop stepping of R109 at the end word `a`, from counter `n` down; a back-edge gives the address to continue at. -/
def Thread.loopSteps (cycle : Nat) (a : CodeAddr) : List Nat → Thread → Thread × Option CodeAddr
  | [], t => (t, Option.none)
  | n :: l, t =>
    let x := vget t.r.loops n
    if x.count != 0 && x.last == a then
      let t := { t with r := { t.r with loops := vset t.r.loops n { x with count := x.count - 1 } } }
      if x.count - 1 != 0 then (t.branchBit cycle true, some x.start) else Thread.loopSteps cycle a l (t.branchBit cycle false)
    else Thread.loopSteps cycle a l t

/-- A word of `len` words of code, counted as `n` instructions, commits without a taken transfer (R109). -/
def State.commitLen (s : State) (len n : Nat) : State :=
  let t := s.thr
  let r := if t.sup then (t, none) else Thread.loopSteps s.cycle t.pc [2, 1, 0] t
  { s with thr := { r.1 with pc := r.2.getD (t.pc + BitVec.ofNat 48 (8 * len)), wait := .none, heldX := false }.retire n }

/-- A word commits in sequence. -/
def State.commit (s : State) : State := s.commitLen 1 1

/-- A taken control transfer commits: no loop is stepped (R105). -/
def State.jump (s : State) (target : CodeAddr) : State :=
  s.onThr fun t => { t with pc := target, wait := .none, heldX := false }.retire 1

/-- A result is written and the word commits. -/
def State.writeG (s : State) (d : BitVec 6) (x : Word) : State := (s.setG d x).commit

/-! ### Taking an exception -/

/-- STREAM of R365. -/
def TrapAt.stream : TrapAt → Nat
  | .scalar => 0 | .convoy => 1 | .tile _ _ => 2 | .vector _ => 3

/-- TRAPPC of a trap. -/
def TrapAt.pc (pc : CodeAddr) : TrapAt → CodeAddr
  | .scalar | .convoy => pc
  | .tile p _ => p
  | .vector p => p

/-- TRAPCAUSE (R365); SPC is the thread's own address, which is TRAPPC for STREAM 0 and 1. -/
def trapCause (spc : CodeAddr) (stream cause : Nat) : Word :=
  (spc.zeroExtend 64 <<< 16) ||| BitVec.ofNat 64 (stream * 1024 + cause % 256)

/-- The registers that trap entry writes (R366 step 3): TRAPPC, TRAPCAUSE, TRAPINFO0 to TRAPINFO3, and TQINDEX for a tile fault. -/
def Thread.trapRegs (t : Thread) (at_ : TrapAt) (f : FaultInfo) : Csrs :=
  { t.c with
    trappc := (at_.pc t.pc).zeroExtend 64
    trapcause := trapCause t.pc at_.stream f.cause
    trapinfo := #v[f.i0, f.i1, f.i2, f.i3]
    tqindex := match at_ with | .tile _ p => BitVec.ofNat 64 p | _ => t.c.tqindex }

/-- Trap entry (R366): the registers, supervisor mode, PC := TRAPVEC. The tile queue is frozen while the mode is supervisor. -/
def State.enterTrap (s : State) (at_ : TrapAt) (f : FaultInfo) : State :=
  let vec := s.tctx.trapvec.setWidth 48
  let s := s.count 20 1
  let s := s.emit 8 (f.cause * 2 ^ 50 + at_.stream * 2 ^ 48 + (at_.pc s.thr.pc).toNat / 8)
  s.onThr fun t =>
    { t with c := t.trapRegs at_ f, sup := true, pc := vec, wait := .none, heldX := false, held := none, fillErr := none }.sync s.cycle vec

/-- The group of the thread at turn has been stopped for good: no event has an effect on it any more (R304). -/
def State.groupAborted (s : State) : Bool := (s.group s.thr.id.gid).any fun g => g.state == .aborted || g.state == .ended

/-- A trap in supervisor mode (R220, R283 item 2): once the entries issued have completed, the thread is saved into its record, which
the queue holds; its slot is released, its group stops and its node faults with KIND 1. FPC is the thread's TRAPPC (R276), which a trap that
is not delivered leaves as it was. In a group that is ABORTED already it has no effect (R304). -/
def State.doubleFault (s : State) (_at : TrapAt) (f : FaultInfo) : State :=
  if s.groupAborted || !s.thr.settled then s else
  let id := s.thr.id
  let fpc := s.thr.c.trappc
  let s := s.settle.saveThread.vacate
  let s := match s.group id.gid with
    | some g => s.setGroup { g with threads := g.threads.filter fun x => x.1 != id.tidx }
    | none => s
  let s := s.setQueue id.ctx id.q { s.queue id.ctx id.q with heldRec := (s.queue id.ctx id.q).heldRec ++ [id.record] }
  s.nodeFault id.ctx id.q id.node (faultWord id.record id.gidx id.tidx 1 f.cause) fpc true

/-- A speculative iteration holds one fault (R360): that of the oldest instruction, which is the one in a convoy that has run. -/
def Thread.holdFault (t : Thread) (at_ : TrapAt) (f : FaultInfo) : Thread :=
  match t.held, at_ with
  | Option.none, _ => { t with held := some (at_, f) }
  | some (.vector _, _), _ => t
  | some _, .vector _ => { t with held := some (at_, f) }
  | some _, _ => t

/-- A fault stands in the thread: one that its iteration holds, an `XABORT` that it holds, or one held against a tile entry (R360,
R369). -/
def Thread.faulted (t : Thread) : Bool :=
  t.held.isSome || t.wait == .xabort || t.tq.any fun e => match e.st with | .held _ => true | _ => false

/-- A fault or a trap of an instruction: in a guess routine it abandons the guess (R351); in a speculative iteration it is held until
the iteration is the oldest (R360); trap entry waits until the vector queue has drained (R366 step 1). -/
def State.raiseAt (s : State) (at_ : TrapAt) (f : FaultInfo) : State :=
  if s.guessing then s.abandonGuess
  else if s.speculative then s.onThr fun t => t.holdFault at_ f
  else if !s.thr.vq.isEmpty then s
  else if s.thr.sup then s.doubleFault at_ f
  else s.enterTrap at_ f

/-- A precise trap of the scalar stream. -/
def State.raise (s : State) (f : FaultInfo) : State := s.raiseAt .scalar f

/-- The word of an instruction, as its trap record shows it. -/
def insWord (i : Instr) : Word := (encode64 i).getD 0

/-- The major of an instruction. -/
def insMajor (i : Instr) : Nat := (insWord i).toNat / 2 ^ 56

/-- ILLEGAL at a step of R73 (R74). -/
def State.illegal (s : State) (w : Word) (step : Nat) : State := s.raise { cause := cILLEGAL, i0 := w, i1 := BitVec.ofNat 64 step }

/-- ILLEGAL of a mode or state check (R189). -/
def State.illegalMode (s : State) (i : Instr) : State := s.illegal (insWord i) 7

/-- ILLEGAL of an operand value (R189). -/
def State.illegalVal (s : State) (i : Instr) (v : Word) : State :=
  s.raise { cause := cILLEGAL, i0 := insWord i, i1 := 4, i2 := v }

/-- An XSERIAL instruction in a speculative iteration (R359): held, with a TRAP packet and a count at the hold (R398, R400); in a guess
routine it abandons the guess (R351). -/
def State.xhold (s : State) : State :=
  if s.guessing then s.abandonGuess else
  if s.thr.heldX then s else
  let s := (s.count 22 1).emit 8 (cXSERIAL * 2 ^ 50 + s.thr.pc.toNat / 8)
  s.onThr fun t => { t with heldX := true }

/-! ### Returning from an exception -/

/-- An entry of a queue that is frozen no longer: its wait for a slot begins anew. -/
def TqEnt.thaw (e : TqEnt) : TqEnt := if e.st == .posted then { e with since := 0 } else e

/-- A held entry whose fault may come of the shape that the entry of a posting number, older than it, was to give md (R157). -/
def TqEnt.shapeFrom (e : TqEnt) (t : Thread) (post : Nat) : Bool :=
  tKeepsShape e.ins && (match e.st with | .held _ => true | _ => false) &&
  t.tq.any fun x => x.post % 2 ^ 64 == post && x.post < e.post && (tDests x.ins).any (tDests e.ins).contains

/-- `ERET` (R219, R372): user mode; PC from TRAPPC or SPC; with STREAM 2 the held entry issues again, or is skipped; SKIP is cleared. The cycles in
which the queue was frozen are no wait of an entry (R374). -/
def State.returnFromTrap (s : State) : State :=
  let t := s.thr
  let tc := t.c.trapcause
  let stream := (tc.extractLsb' 10 2).toNat
  let pc := if stream < 2 then t.c.trappc.setWidth 48 else tc.extractLsb' 16 48
  let tq := if stream = 2 then
      t.tq.map fun e => if e.post % 2 ^ 64 = t.c.tqindex.toNat then
        { e with st := .posted, skip := tc.getLsbD 8, slot := none, since := 0 }
      else if tc.getLsbD 8 && e.shapeFrom t t.c.tqindex.toNat then { e with st := .posted } else e
    else t.tq
  let tq := tq.map TqEnt.thaw
  s.onThr fun t =>
    { t with sup := false, pc := pc, tq := tq, c := { t.c with trapcause := tc &&& ~~~(0x100 : Word) }, wait := .none }.sync s.cycle pc

/-! ### Interlocks of the scalar stream -/

/-- The `g` register that a vector member writes at its completion. -/
def vGDest : Instr → Option (BitVec 6)
  | .kcnt o => some o.vd
  | .kfirst o => some o.vd
  | .vmovs _ o => some o.vd
  | _ => none

/-- The `g` register that a tile entry writes at its retirement (R180). -/
def tGDest : Instr → Option (BitVec 6)
  | .tflagr o => some (o.g.zeroExtend 6)
  | _ => none

/-- A posted convoy has still to write one of the registers (R136, R150). -/
def Thread.vqPending (t : Thread) (rs : List (BitVec 6)) : Bool :=
  t.vq.any fun c => c.members.any fun m =>
    match vGDest m.ins with
    | some r => r != 0 && rs.contains r
    | .none => false

/-- An entry that still moves while the queue is frozen: it had issued before the trap, and it retires when it is older than every
held fault (R366, R367). -/
def Thread.moving (t : Thread) (e : TqEnt) : Bool :=
  e.st == .issued || (e.st == .completed && t.tq.all fun x => e.post ≤ x.post || x.st == .completed)

/-- The thread waits at a tile sync point for the entries that meet `p` (R34): none when no such entry is left, else the state of the
wait, or the trap of the oldest held entry that stands no later than the last of them (R369). In supervisor mode the queue is frozen,
and the wait is only for the entries that issued before the trap (R367). -/
def State.syncOn (s : State) (p : TqEnt → Bool) : Option State :=
  if s.thr.sup then if s.thr.tq.any fun e => p e && s.thr.moving e then some s else none else
  match (s.thr.tq.filter p).getLast? with
  | none => none
  | some l =>
    match s.thr.tq.findSome? fun e =>
      match e.st with
      | .held f => if e.post ≤ l.post then some (e, f) else none
      | _ => none with
    | some (e, f) => some (s.raiseAt (.tile e.pc e.post) f)
    | none => some s

/-- The interlock on `g` registers that older convoys and `TFLAGR`s have not yet written. -/
def State.gWait (s : State) (rs : List (BitVec 6)) : Option State :=
  if s.thr.vqPending rs then some s
  else s.syncOn fun e =>
    match tGDest e.ins with
    | some r => r != 0 && rs.contains r && !e.skip && !e.done
    | none => false

/-- A double error in a `g` register that the instruction reads (R376). -/
def State.gDamaged (s : State) (rs : List (BitVec 6)) : Bool :=
  s.damage.greg.any fun (c, k, r) => c == s.thr.id.core && k == s.thr.id.slot && rs.any fun x => x.toNat == r

/-- A double error in one of the control registers that the instruction reads (R376). -/
def State.csrLost (s : State) (l : List Nat) : Bool :=
  s.damage.csr.any fun (c, k, n) => c == s.thr.id.core && k == s.thr.id.slot && l.contains n

/-- A mismatch still to come stands at an address of the thread at turn. -/
def State.mismatchAt (s : State) (at_ : CodeAddr) (x : Nat × Nat × CodeAddr × Nat × Nat) : Bool :=
  x.1 == s.thr.id.core && x.2.1 == s.thr.id.slot && x.2.2.1 == at_

/-- The mismatches that a protected thread meets at an address (R380), each with its EG and its count, and the state without them. -/
def State.mismatches (s : State) (at_ : CodeAddr) : List (Nat × Nat) × State :=
  match s.damage.mismatch.filter (s.mismatchAt at_) with
  | [] => ([], s)
  | l =>
    if s.thr.hdr.prot then
      (l.map fun x => x.2.2.2, { s with damage := { s.damage with mismatch := s.damage.mismatch.filter fun y => !s.mismatchAt at_ y } })
    else ([], s)

/-- The most mismatches of one result that a protected thread meets at its own address, and the state without them. -/
def State.takeMismatch (s : State) : Nat × State :=
  let (l, s) := s.mismatches s.thr.pc
  ((l.map Prod.snd).foldl max 0, s)

/-- A trap would wait for the vector queue to drain (R366 step 1): what it reports must stay as it is till then. -/
def State.trapWaits (s : State) : Bool := !s.guessing && !s.speculative && !s.thr.vq.isEmpty

/-- The entry writes tile `m`, or writes memory from it or sends it (R181). A `TGETR` or `TGETC` of `m` waits for the same entries (log
entry 119). -/
def tqWrites (m : BitVec 9) (e : TqEnt) : Bool :=
  match e.ins with
  | .tst _ o | .tstp o | .tsend o | .tappend o => o.ma == m
  | i => (tDests i).contains m

/-- The entries that a tile sync point waits for (R34); none for every other instruction. A handle instruction waits for its own before all
else. -/
def syncsWith (i : Instr) (e : TqEnt) : Bool :=
  match i with
  | .twait true _ | .fence _ _ | .exit _ | .xgret _ | .xacc _ => true
  | .twait false o | .tgetr o | .tgetc o => tqWrites o.ma e
  | _ => false

/-- An error of the instruction itself: at a tile sync point the fault of an older entry comes first (R371). -/
def State.raiseSynced (s : State) (i : Instr) (k : State) : State := (s.syncOn (syncsWith i)).getD k

/-- A scalar instruction reads its registers: the interlocks, the errors of R376 and R380, then its effect. `srcs` are the registers
that it reads, `dst` those that it writes. -/
def State.scalar (s : State) (i : Instr) (srcs dst : List (BitVec 6)) (f : State → Out) : Out :=
  match s.gWait (srcs ++ dst) with
  | some s' => .next s'
  | none =>
    if s.gDamaged srcs then .next (s.raiseSynced i (s.raise { cause := cUNCORRECTABLE })) else
    match s.takeMismatch with
    | (n, s') =>
      if n < 2 then f s'
      else .next (s.raiseSynced i (if s.trapWaits then s else s'.raise { cause := cPROTECT, i1 := BitVec.ofNat 64 (insMajor i) }))

/-! ### Access kinds and tile sync points -/

/-- `FENCE`, `EXIT` and `TWAIT.all` wait for every older entry. -/
def State.syncAll (s : State) : Option State := s.syncOn fun _ => true

/-- A memory fault of a scalar access (R118). -/
def State.memFault (s : State) (ea : Word) (kind cause : Nat) : State := s.raise { cause := cause, i0 := ea, i1 := BitVec.ofNat 64 kind }

end Sys2Proof.Machine
end

