-- ==== Sys2Proof/Machine/Operands.lean ====
section
/-! DEFINITION. The operand forms of the scalar instructions (05 R95, R97, R98, R115, R117, R123). -/

namespace Sys2Proof.Machine

/-- The sign-extended immediate of the I format (R97). -/
def immValue (o : IOp) : Word := o.imm.signExtend 64

/-- The shift amount of a register: bits [5:0] (R95). -/
def shAmount (b : Word) : Nat := (b.extractLsb' 0 6).toNat

/-- `BFX` (R98). -/
def bitField (sx : Bool) (a : Word) (pos w : Nat) : Word :=
  let f := bitsOf (pos + w - 1) pos a.toNat
  if sx then BitVec.ofInt 64 (sextNat w f) else BitVec.ofNat 64 f

/-- `BFI` (R98). -/
def bitInsert (d a : Word) (pos w : Nat) : Word :=
  let mask : Word := BitVec.ofNat 64 (2 ^ w - 1) <<< pos
  (d &&& ~~~mask) ||| ((a <<< pos) &&& mask)

/-- The target of a branch: its offset counts in words from the word that holds it (R71). -/
def branchTarget {n : Nat} (pc : CodeAddr) (off : BitVec n) : CodeAddr := pc + (off.signExtend 48 <<< 3)

/-- The effective address of R117. -/
def State.ea (s : State) (o : MOp) : Word := s.g o.base + (s.g o.index <<< o.scale.toNat) + o.off.signExtend 64

/-- The effective address of `AMO` and `CAS` (R117). -/
def State.eaAtomic (s : State) (o : MOp) : Word := s.g o.base + (o.off.extractLsb' 0 24).signExtend 64

/-- Registers that an address is formed from. -/
def mopRegs (o : MOp) : List (BitVec 6) := [o.base, o.index]

/-- Bytes of a size code (R115). -/
def szBytes : Size → Nat
  | .b1 => 1 | .b2 => 2 | .b4 => 4 | .b8 => 8

/-- Bytes of a load. -/
def ldBytes : LdTy → Nat
  | .n8 | .i8 => 1
  | .n16 | .i16 => 2
  | .n32 | .i32 => 4
  | .n64 => 8

/-- The load sign-extends. -/
def ldSigned : LdTy → Bool
  | .i8 | .i16 | .i32 => true
  | _ => false

/-- Bytes of an atomic. -/
def amoBytes : AmoTy → Nat
  | .n32 | .i32 => 4
  | .n64 => 8

/-- The value of `n` loaded bytes, extended (R119). -/
def extendBytes (signed : Bool) (n v : Nat) : Word :=
  if signed then BitVec.ofInt 64 (sextNat (8 * n) v) else BitVec.ofNat 64 (v % 2 ^ (8 * n))

/-- The operation of `AMO` in off28 [27:24] (R123). -/
def mopAmo (o : MOp) : AmoOp := (AmoOp.ofCode (o.off.extractLsb' 24 4).toNat).getD .swap

/-- The new value of an `AMO` at width `w` (R123). -/
def amoNew (op : AmoOp) (w old v : Nat) : Nat :=
  match op with
  | .add => (old + v) % 2 ^ w
  | .and => old &&& v
  | .or => old ||| v
  | .xor => old ^^^ v
  | .min => if sextNat w old ≤ sextNat w v then old else v
  | .max => if sextNat w old ≤ sextNat w v then v else old
  | .minn => min old v
  | .maxn => max old v
  | .swap => v

end Sys2Proof.Machine
end

