-- ==== Sys2Proof/Machine/Special.lean ====
section
/-! DEFINITION. The special functions of spec/06_isa_vector.md R140, correctly rounded: each value is enclosed between two
fixed-point numbers and handed to the one rounding of Float.lean as an exact magnitude with a sticky tail. -/

namespace Sys2Proof.Machine

/-- Fraction bits of the fixed-point work. -/
def fixP : Nat := 400

/-- One, in fixed point. -/
def fixOne : Nat := 2 ^ fixP

/-- The bound of the accumulated error of any value below, in units of the last place. -/
def fixErr : Nat := 2 ^ 16

/-- Bits dropped when a fixed-point value becomes a sticky magnitude. -/
def fixCut : Nat := 80

/-- Product of two fixed-point numbers, rounded down. -/
def fixMul (a b : Nat) : Nat := (a * b) >>> fixP

/-- Quotient of two fixed-point numbers, rounded down. -/
def fixDiv (a b : Nat) : Nat := (a <<< fixP) / b

/-- `Σ t_k` with `t_0 = t` and `t_(k+1) = t_k × y ÷ (n + k)`: the exponential series, from term `n`. -/
def expSeries (y : Nat) : Nat → Nat → Nat → Nat → Nat
  | 0, _, _, acc => acc
  | fuel + 1, n, t, acc => expSeries y fuel (n + 1) (fixMul t y / (n + 1)) (acc + t)

/-- e^y for 0 ≤ y < 2. -/
def fixExp (y : Nat) : Nat := expSeries y 160 0 fixOne 0

/-- `Σ t × s^k ÷ (2k + 1)`: the series of artanh with `s` the square of the argument. -/
def atanhSeries (s : Nat) : Nat → Nat → Nat → Nat → Nat
  | 0, _, _, acc => acc
  | fuel + 1, k, t, acc => atanhSeries s fuel (k + 1) (fixMul t s) (acc + t / (2 * k + 1))

/-- artanh of a fixed-point number up to 1/3. -/
def fixAtanh (t : Nat) : Nat := atanhSeries (fixMul t t) 160 0 t 0

/-- ln 2 = 2 artanh(1/3). -/
def fixLn2 : Nat := 2 * fixAtanh (fixOne / 3)

/-- `Σ ± 1 ÷ ((2k + 1) n^(2k+1))`, positive and negative terms apart: the series of arctan(1/n). -/
def atanSeries (n : Nat) : Nat → Nat → Nat → Int → Int
  | 0, _, _, acc => acc
  | fuel + 1, k, t, acc =>
    let d : Int := (t / (2 * k + 1) : Nat)
    atanSeries n fuel (k + 1) (t / (n * n)) (if k % 2 = 0 then acc + d else acc - d)

/-- π by Machin's formula. -/
def fixPi : Nat := (16 * atanSeries 5 200 0 (fixOne / 5) 0 - 4 * atanSeries 239 60 0 (fixOne / 239) 0).toNat

/-- The alternating series of sine (from `t = y`, `n = 1`) and cosine (from `t = 1`, `n = 0`). -/
def sinSeries (y2 : Nat) : Nat → Nat → Nat → Int → Bool → Int
  | 0, _, _, acc, _ => acc
  | fuel + 1, n, t, acc, neg =>
    sinSeries y2 fuel (n + 2) (fixMul t y2 / ((n + 1) * (n + 2))) (if neg then acc - t else acc + t) (!neg)

/-- sin y for 0 ≤ y ≤ π/2. -/
def fixSin (y : Nat) : Nat := (sinSeries (fixMul y y) 100 1 y 0 false).toNat

/-- cos y for 0 ≤ y ≤ π/2. -/
def fixCos (y : Nat) : Nat := (sinSeries (fixMul y y) 100 0 fixOne 0 false).toNat

/-- Two magnitudes between which the exact result lies; equal where it is known to the last bit kept. -/
abbrev Enclosure := ExVal × ExVal

/-- A result known exactly, or as one magnitude with a sticky tail. -/
def ExVal.known (v : ExVal) : Enclosure := (v, v)

/-- The value `v × 2^(e - fixP)` with its error bound, as magnitudes with a sticky tail. The functions below are irrational wherever they
call this, so the tail is never zero. -/
def enclose (neg : Bool) (v : Nat) (e : Int) : Enclosure :=
  let cut := fun (w : Nat) => ExVal.num { neg := neg, m := w >>> fixCut, e := e - fixP + fixCut, sticky := true }
  (cut (v - fixErr), cut (v + fixErr))

/-- A dyadic value `m × 2^e` as a fixed-point number, for values whose fraction fits. -/
def fixOf (m : Nat) (e : Int) : Nat :=
  let s := e + fixP
  if 0 ≤ s then m * 2 ^ s.toNat else m >>> (-s).toNat


/-- 1 ÷ a. -/
def rcpVal (v : FVal) : Enclosure := (divVal (.fin false 1 0) v).known

/-- 1 ÷ √a. -/
def rsqVal : FVal → Enclosure
  | .nan => ExVal.known (.nan false)
  | .inf n => ExVal.known (if n then .nan true else .num { neg := false, m := 0, e := 0 })
  | .fin n m e =>
    if m = 0 then ExVal.known (.inf n)
    else if n then ExVal.known (.nan true)
    else
      -- 1 ÷ √(m 2^e) = √(2^k ÷ m) × 2^((−e − k) ÷ 2), with k + e even
      let k : Int := 1024 + e % 2
      let n := 2 ^ k.toNat
      let q := n / m
      let r := isqrt q
      ExVal.known (.num { neg := false, m := r, e := (-e - k) / 2, sticky := r * r != q || n % m != 0 })

/-- 2^a. -/
def exp2Val : FVal → Enclosure
  | .nan => ExVal.known (.nan false)
  | .inf n => ExVal.known (if n then .num { neg := false, m := 0, e := 0 } else .inf false)
  | .fin n m e =>
    if m = 0 then ExVal.known (.num { neg := false, m := 1, e := 0 })
    else if 12 ≤ leadExp m e then
      ExVal.known (.num (if n then { neg := false, m := 2 ^ 200, e := -4096, sticky := true } else { neg := false, m := 1, e := 4096 }))
    else if 0 ≤ e then
      let k : Int := (m * 2 ^ e.toNat : Nat)
      ExVal.known (.num { neg := false, m := 1, e := if n then -k else k })
    else
      let d := 2 ^ (-e).toNat
      let i : Int := (if n then -(m : Int) else m) / d
      let f := ((if n then -(m : Int) else m) % d).toNat
      if f = 0 then ExVal.known (.num { neg := false, m := 1, e := i })
      else enclose false (fixExp (fixMul (fixOf f e) fixLn2)) i

/-- log2 a. The zero at 1 is +0 in every mode (DEDUCED, log entry 5). -/
def log2Val : FVal → Enclosure
  | .nan => ExVal.known (.nan false)
  | .inf n => ExVal.known (if n then .nan true else .inf false)
  | .fin n m e =>
    if m = 0 then ExVal.known (.inf true)
    else if n then ExVal.known (.nan true)
    else
      let l := leadExp m e
      let k := bitLen m - 1
      if m = 2 ^ k then ExVal.known (.num { neg := decide (l < 0), m := l.natAbs, e := 0 })
      else
        -- m 2^e = 2^l × (1 + f); log2 = l + ln(1 + f) ÷ ln 2; below 1 and near it, take 2^(l+1) × (1 − g)
        let one := 2 ^ k
        let up := decide (l = -1)
        let t := if up then fixDiv (2 * one - m) (2 * one + m) else fixDiv (m - one) (m + one)
        let frac := fixDiv (2 * fixAtanh t) fixLn2
        if up then enclose true frac 0
        else
          let v : Int := l * (fixOne : Nat) + (frac : Int)
          enclose (decide (v < 0)) v.natAbs 0

/-- sin(π·a) or cos(π·a), by the remainder of a modulo 2. cos(π·a) is +0 at the half-integers (log entry 5). -/
def sinpiVal (cosine : Bool) : FVal → Enclosure
  | .nan => ExVal.known (.nan false)
  | .inf _ => ExVal.known (.nan true)
  | .fin n m e =>
    let one : Bool → ExVal := fun neg => .num { neg := neg, m := 1, e := 0 }
    let zero : Bool → ExVal := fun neg => .num { neg := neg, m := 0, e := 0 }
    if m = 0 then ExVal.known (if cosine then one false else zero n)
    else if 1 ≤ e then ExVal.known (if cosine then one false else zero n)
    else
      let d := 2 ^ (-e).toNat            -- one in units of 2^e
      let r := m % (2 * d)               -- |a| mod 2
      let hi := decide (d ≤ r)           -- second half of the period: sin(π(r)) = −sin(π(r − 1))
      let r1 := r % d                    -- in [0, 1)
      if r1 = 0 then ExVal.known (if cosine then one hi else zero n)
      else if 2 * r1 = d then ExVal.known (if cosine then zero false else one (hi != n))
      else
        let refl := decide (d < 2 * r1)
        let r2 := if refl then d - r1 else r1       -- in (0, 1/2)
        let y := fixMul (fixOf r2 e) fixPi
        if cosine then enclose (hi != refl) (fixCos y) 0
        else enclose (hi != n) (fixSin y) 0

/-- tanh a. -/
def tanhVal : FVal → Enclosure
  | .nan => ExVal.known (.nan false)
  | .inf n => ExVal.known (.num { neg := n, m := 1, e := 0 })
  | .fin n m e =>
    if m = 0 then ExVal.known (.num { neg := n, m := 0, e := 0 })
    else if leadExp m e < -77 then ExVal.known (.num { neg := n, m := m * 2 ^ 128 - 1, e := e - 128, sticky := true })
    else if 6 ≤ leadExp m e then ExVal.known (.num { neg := n, m := 2 ^ 150 - 1, e := -150, sticky := true })
    else
      let x2 := 2 * fixOf m e
      let k := x2 / fixLn2
      let z := fixDiv fixOne (fixExp (x2 - k * fixLn2)) >>> k
      enclose n (fixDiv (fixOne - z) (fixOne + z)) 0

/-- The special functions of major 0x46 by FN (R137, R140). -/
def specialVal (fn : Nat) (v : FVal) : Enclosure :=
  match fn with
  | 0 => rcpVal v
  | 1 => rsqVal v
  | 2 => exp2Val v
  | 3 => log2Val v
  | 4 => sinpiVal false v
  | 5 => sinpiVal true v
  | _ => tanhVal v

/-- A special function on a code: bits and flags of the exact value rounded once. Where the two ends of the enclosure round apart, a
rounding boundary lies between them, and which side of it the exact value has is an open value (log entry 3). -/
def FpFmt.special (f : FpFmt) (fn : Nat) (c : RCtx) (x : Nat) : Nat × FFlags :=
  let v := specialVal fn (f.value (f.ftzIn c.ftz x))
  let r := f.finish c v.1
  let r' := f.finish c v.2
  if r = r' then r else if Config.undecided fn f.width x % 2 = 0 then r else r'

end Sys2Proof.Machine
end

