-- ==== Sys2Proof/Machine/Flags.lean ====
section
/-! DEFINITION. Rounding modes, FMODE and the reservation of random words (03 R56, R57, R59, R60), and the flags of scalar floating
point (03 R62, R63, R427). -/

namespace Sys2Proof.Machine

/-- FTZ and SAT of an FMODE value (R57). -/
def fmFtz (m : Word) : Bool := m.getLsbD 6
def fmSat (m : Word) : Bool := m.getLsbD 7

/-- A rounding code with `dynamic` resolved (R56). -/
def roundMode (rm : BitVec 3) (fmode : Word) : RMode :=
  match (if rm = 7 then fmode.extractLsb' 0 3 else rm).toNat with
  | 0 => .rne
  | 1 => .rtz
  | 2 => .rup
  | 3 => .rdn
  | _ => .sr

/-- The state after an instruction has reserved the Philox blocks of `n` elements (R60), if it rounds in SR mode. -/
def State.reserve (s : State) (rm : RMode) (n : Nat) : State :=
  if rm = .sr then s.onThr fun t => { t with c := { t.c with rngctr := t.c.rngctr + BitVec.ofNat 64 (ceilDiv n 4) } } else s

/-- The rounding context of a scalar instruction (R56, R57), with the word of its one element (R60). -/
def State.rctx (s : State) (rm : BitVec 3) : RCtx :=
  let m := roundMode rm s.thr.c.fmode
  { rm := m, ftz := fmFtz s.thr.c.fmode, sat := fmSat s.thr.c.fmode,
    u := if m = .sr then srWord s.thr.c.rngkey s.thr.c.rngctr.toNat 0 else 0 }

/-- A scalar floating-point result: the reservation, the flags at commit (R63), the register, zero-extended (R99). -/
def State.writeF (s : State) (d : BitVec 6) (c : RCtx) (r : Nat × FFlags) : State :=
  ((s.reserve c.rm 1).orFlags r.2).writeG d (BitVec.ofNat 64 r.1)

/-- The format of a scalar floating-point instruction (R99). -/
def fpFmt : FFmt → FpFmt
  | .f32 => fmtF32
  | .f64 => fmtF64

/-- An operand as FTZ reads it (R57): its low bits, by format. -/
def FpFmt.operand (f : FpFmt) (c : RCtx) (x : Word) : Nat := f.ftzIn c.ftz (x.toNat % 2 ^ f.width)

/-- The type code of R54 of a `FCVT` operand (R103). -/
def cvtCode : CvtTy → Nat
  | .i32 => 2 | .n32 => 6 | .i64 => 3 | .n64 => 7 | .f16 => 8 | .bf16 => 9 | .f32 => 10 | .f64 => 11

/-- The format of `FCLASS` (R104). -/
def classFmt : ClassFmt → FpFmt
  | .f16 => fmtF16 | .bf16 => fmtBF16 | .f32 => fmtF32 | .f64 => fmtF64

end Sys2Proof.Machine
end

