-- ==== Sys2Proof/Machine/Groups.lean ====
section
/-! DEFINITION. The group barrier's state (14 R306, R307) and the end of a thread, a group and a kernel's work (05 R114; 13 R299; 14 R304). -/

namespace Sys2Proof.Machine

/-- ARR OR EXITED covers every thread of the group (R307). -/
def Group.covered (g : Group) : Bool := (List.range g.n).all fun i => g.arr.getLsbD i || g.exited.getLsbD i

/-- The open instance completes when every thread has arrived or exited (R307). -/
def Group.release (g : Group) : Group := if g.covered then { g with opened := g.opened + 1, arr := 0 } else g

/-- The count c of completed `GBAR`s of a thread (R306). -/
def Group.count (g : Group) (tidx : Nat) : BitVec 32 := g.counts.getD tidx 0

/-- The arrival of R307: the group after it, and whether the thread passes. -/
def Group.arrive (g : Group) (tidx : Nat) : Group × Bool :=
  let g := if g.count tidx != g.opened then g else { g with arr := g.arr ||| (1 <<< tidx) }.release
  if g.count tidx != g.opened then ({ g with counts := g.counts.set tidx (g.count tidx + 1) }, true) else (g, false)

/-- Every live thread of a stopping group is saved: the group becomes SUSPENDED and its slots are released together (R304). -/
def State.suspendIfSaved (s : State) (gid : Nat) : State :=
  match s.group gid with
  | none => s
  | some g =>
    if g.state == .stopping && !g.threads.isEmpty && g.threads.all (fun x => x.2.2) then
      let s := g.threads.foldl (fun s x => s.focus (isStroke gid x.1) State.vacate) s
      s.setGroup { g with state := .suspended }
    else s

/-- The kernel's or the template's work of a node ends when all its groups are ENDED (R298, R300). A loop node's next iteration is a
step of its own. -/
def State.workEnded (s : State) (n q : Nat) (addr : Word) : State :=
  match s.node n q addr with
  | none => s
  | some x => if x.state == .running && x.pend.isNone && x.ended = x.groups && x.type != 4 then s.nodeDone n q addr else s

/-- A group without live threads ends (R304). -/
def State.endGroup (s : State) (g : Group) : State :=
  let s := { s with groups := s.groups.filter fun x => x.gid != g.gid, regions := s.regions.filter fun r => r.gid != g.gid }
  if g.state == .aborted then s else
  (s.mapNode g.ctx g.q g.node fun x => { x with ended := x.ended + 1 }).workEnded g.ctx g.q g.node

/-- The thread leaves its group: its record is freed; the group may end, complete its barrier instance or become SUSPENDED. -/
def State.leaveGroup (s : State) (id : ThreadId) : State :=
  let s := s.freeRecord id.ctx id.record
  match s.group id.gid with
  | none => s
  | some g =>
    let g := { g with threads := g.threads.filter fun x => x.1 != id.tidx, exited := g.exited ||| (1 <<< id.tidx) }.release
    let s := s.setGroup g
    if g.threads.isEmpty then s.endGroup g else s.suspendIfSaved g.gid

/-- The end of the thread at turn (R114 step 3): what a handler's `EXIT` leaves in the tile queue is dropped, its pins with it (R326,
R367); the trace is flushed (R395), its receive windows are released (R182), its map is uninstalled (R226), its slot is released. -/
def State.endThread (s : State) : State :=
  let id := s.thr.id
  let s := (s.dropEntries 0).traceFlush
  let s := { s with rwins := s.rwins.filter fun w => !(w.gid == id.gid && w.tidx == id.tidx) }
  s.vacate.leaveGroup id

end Sys2Proof.Machine
end

