-- ==== Sys2Proof/Machine/ScalarMem.lean ====
section
/-! DEFINITION. The scalar memory instructions (05 R115 to R127) and the timeout of a remote request (20 R385). -/

namespace Sys2Proof.Machine

/-- A member that uses the MEM unit (R79). -/
def isMem : Instr → Bool
  | .vld _ _ | .vst _ _ | .vldx _ _ | .vstx _ _ | .vlds _ _ | .vsts _ _ => true
  | _ => false

/-- An older convoy with a MEM member has still to perform its accesses (R121). -/
def Thread.memPending (t : Thread) : Bool := t.vq.any fun c => c.members.any fun m => isMem m.ins

/-- A convoy with a MEM member that is older than a tile entry has still to perform its accesses (R169 item 2, R254). -/
def Thread.memBefore (t : Thread) (e : TqEnt) : Bool :=
  t.vq.any fun c => c.younger ≤ e.post && c.members.any fun m => isMem m.ins

/-- A tile entry whose acquire orders the thread's younger accesses after it (R159, R251). -/
def tAcquires : Instr → Bool
  | .tsend o | .tgather o | .tappend o => o.na
  | _ => false

/-- An older tile entry with acq has still to perform its acquire (R251). One that a fault holds performs it once it is issued again, and in
supervisor mode, where the queue is frozen (R366), none is waited for. -/
def Thread.acqPending (t : Thread) : Bool :=
  !t.sup && t.tq.any fun e => tAcquires e.ins && !e.done && !e.skip && (e.st == .posted || e.st == .issued)

/-- A posted transfer of the thread at turn with acq has still to perform its acquire (R192, R251). A handler does not wait while the tile
queue is frozen before accesses that the engine may stand behind (log entry 10). -/
def State.acqPosted (s : State) : Bool :=
  (s.transfers.any fun x => x.acq && x.of s.thr.id) && !(s.thr.sup && s.thr.tq.any TqEnt.unperformed)

/-- An older acquire of a tile entry or of a transfer is still to be performed (R251). -/
def State.acqPending (s : State) : Bool := s.thr.acqPending || s.acqPosted

/-- A scalar access waits for the accesses of older convoys (R121), and for older acquires (R251). -/
def State.accessWaits (s : State) : Bool := s.thr.memPending || s.acqPending

/-- Bytes from `ea` cross a line. -/
def crosses (ea : Word) (n : Nat) : Bool := 64 < ea.toNat % 64 + n

/-- A request that finds no usable port waits, and fails once TMO has passed (R385). -/
def State.waitRemote (s : State) (f : FaultInfo) : State :=
  match s.thr.wait with
  | .remote _ _ => s
  | _ => s.setWait (.remote (s.cycle + s.tmo) f)

/-- The checks of R118 on a scalar access in the data space: the physical address, or the state of the trap or wait. Accesses of a
speculative iteration that reach the pod or the slow tier to write are held (R359); a store waits for a versioned line (R356). -/
def State.access (s : State) (ea : Word) (n : Nat) (natural read write : Bool) (kind : Nat) : Except State Nat :=
  if s.accessWaits then .error s else
  if (if natural then ea.toNat % n != 0 else crosses ea n) then .error (s.memFault ea kind cMISALIGNED) else
  match s.xlate s.thr.id.ctx s.thr.sup write ea.toNat with
  | .error c => .error (s.memFault ea kind c)
  | .ok pa =>
    if write && (s.guessing || (s.speculative && paKind pa != 0)) then .error s.xhold
    else if !s.podRefused s.thr.id.ctx write pa && s.noPort pa then
      .error (s.waitRemote { cause := cREMOTE, i0 := ea, i1 := BitVec.ofNat 64 kind })
    else
      match s.dataErr s.thr.id.ctx read write pa with
      | some c => .error (s.memFault ea kind c)
      | none => if write && !read && s.versionsFull [pa] then .error s else .ok pa

/-- A load (R119). -/
def State.load (s : State) (i : Instr) (ty : LdTy) (o : MOp) (natural : Bool) : Out :=
  s.scalar i (mopRegs o) [o.t] fun s =>
    match s.access (s.ea o) (ldBytes ty) natural true false 0 with
    | .error s' => .next s'
    | .ok pa =>
      let (bs, s) := s.loadBytes pa (ldBytes ty)
      .next (s.writeG o.t (extendBytes (ldSigned ty) (ldBytes ty) (ofBytes bs)))

/-- A store (R119). -/
def State.store (s : State) (i : Instr) (z : Size) (o : MOp) (natural : Bool) : Out :=
  s.scalar i (o.t :: mopRegs o) [] fun s =>
    match s.access (s.ea o) (szBytes z) natural false true 1 with
    | .error s' => .next s'
    | .ok pa => .next (s.storeBytes pa (toBytes (szBytes z) (s.g o.t).toNat) true).commit

/-- `LD` (R119). -/
def execLd (t : LdTy) (o : MOp) (s : State) : Out := s.load (.ld t o) t o false

/-- `ST` (R119). -/
def execSt (z : Size) (o : MOp) (s : State) : Out := s.store (.st z o) z o false

/-- `LDA` (R120): an acquire; every access of the model is performed in one order, so it is an aligned load. -/
def execLda (sc : Scope) (t : LdTy) (o : MOp) (s : State) : Out := s.load (.lda sc t o) t o true

/-- `STR` (R120): a release, as an aligned store. -/
def execStr (sc : Scope) (z : Size) (o : MOp) (s : State) : Out := s.store (.str sc z o) z o true

/-- The checks of a scratchpad access (R118 orders 1 and 3, R122). -/
def State.spadAccess (s : State) (ea : Word) (n kind : Nat) : Except State Nat :=
  if s.accessWaits then .error s
  else if crosses ea n then .error (s.memFault ea kind cMISALIGNED)
  else if s.thr.spadBytes < ea.toNat + n then .error (s.memFault ea kind cDATA_ACCESS)
  else .ok ea.toNat

/-- A write of the scratchpad, with its high-water mark (R274). -/
def Thread.spadWrite (t : Thread) (a : Nat) (bs : List Byte) : Thread :=
  { t with spad := t.spad.write a bs, spadHigh := max t.spadHigh (a + bs.length) }

/-- `LDS` (R122). -/
def execLds (ty : LdTy) (o : MOp) (s : State) : Out :=
  s.scalar (.lds ty o) (mopRegs o) [o.t] fun s =>
    match s.spadAccess (s.ea o) (ldBytes ty) 4 with
    | .error s' => .next s'
    | .ok a => .next (s.writeG o.t (extendBytes (ldSigned ty) (ldBytes ty) (s.thr.spad.num a (ldBytes ty))))

/-- `STS` (R122); a store in a guess routine abandons the guess (R351). -/
def execSts (z : Size) (o : MOp) (s : State) : Out :=
  s.scalar (.sts z o) (o.t :: mopRegs o) [] fun s =>
    if s.guessing then .next s.abandonGuess else
    match s.spadAccess (s.ea o) (szBytes z) 5 with
    | .error s' => .next s'
    | .ok a => .next (s.onThr fun t => t.spadWrite a (toBytes (szBytes z) (s.g o.t).toNat)).commit

/-- `AMO` (R123): one atomic access; in a speculative iteration it is held (R118 order 7). -/
def execAmo (ord : MOrd) (sc : Scope) (t : AmoTy) (o : MOp) (s : State) : Out :=
  s.scalar (.amo ord sc t o) [o.base, o.index] [o.t] fun s =>
    let n := amoBytes t
    match s.access (s.eaAtomic o) n true true true 2 with
    | .error s' => .next s'
    | .ok pa =>
      if s.speculative then .next s.xhold else
      let old := s.mem.num pa n
      let new := amoNew (mopAmo o) (8 * n) old ((s.g o.index).toNat % 2 ^ (8 * n))
      .next ((s.storeBytes pa (toBytes n new) true).writeG o.t (extendBytes (t == .i32) n old))

/-- `CAS` (R124). -/
def execCas (ord : MOrd) (sc : Scope) (t : AmoTy) (o : MOp) (s : State) : Out :=
  s.scalar (.cas ord sc t o) [o.base, o.index, o.t] [o.t] fun s =>
    let n := amoBytes t
    match s.access (s.eaAtomic o) n true true true 3 with
    | .error s' => .next s'
    | .ok pa =>
      if s.speculative then .next s.xhold else
      let old := s.mem.num pa n
      let s' := if old = (s.g o.t).toNat % 2 ^ (8 * n) then s.storeBytes pa (toBytes n (s.g o.index).toNat) true else s
      .next (s'.writeG o.t (extendBytes (t == .i32) n old))

/-- `PREF` (R126): it changes no architectural state. -/
def execPref (h : Hint) (o : MOp) (s : State) : Out := s.scalar (.pref h o) (mopRegs o) [] fun s => .next s.commit

/-- `LEA` (R127). -/
def execLea (o : MOp) (s : State) : Out := s.scalar (.lea o) (mopRegs o) [o.t] fun s => .next (s.writeG o.t (s.ea o))

/-- A request has found no usable port for TMO: it fails REMOTE (R385, R387). -/
def execRemoteRequestTimeout (s : State) : Out :=
  match s.thr.wait with
  | .remote d f => .next (if d ≤ s.cycle then s.raise f else s)
  | _ => .fault .notEnabled

end Sys2Proof.Machine
end

