-- ==== Sys2Proof/Machine/Engine.lean ====
section
/-! DEFINITION. The copy engine (08 R188 to R194). -/

namespace Sys2Proof.Machine

/-! ### Checks that the instructions of chapter 8 share (R188 to R190) -/

/-- A scalar instruction that traps XSERIAL in a speculative stroke (R190): held there, and a guess routine's guess is abandoned. -/
def State.serial (s : State) (i : Instr) (srcs dst : List (BitVec 6)) (f : State → Out) : Out :=
  s.scalar i srcs dst fun s => if s.speculative || s.guessing then .next s.xhold else f s

/-- The check of R188 on an address operand: orders 1 to 3 of R118. The error is the state of the trap. -/
def State.named (s : State) (ea : Word) (align : Nat) (write : Bool) : Except State Nat :=
  let kind := write.toNat
  if s.acqPending then .error s else
  if ea.toNat % align != 0 then .error (s.memFault ea kind cMISALIGNED) else
  match s.xlate s.thr.id.ctx s.thr.sup write ea.toNat with
  | .error c => .error (s.memFault ea kind c)
  | .ok pa => .ok pa

/-! ### Posting (R191) -/

/-- Transfers of the thread at turn that are posted and not complete. -/
def State.myTransfers (s : State) : List Transfer := s.transfers.filter fun x => x.of s.thr.id

/-- The most bytes of a transfer. -/
def maxTransfer : Nat := 2 ^ 40

/-- A transfer is posted: the length's check, the barrier's check, the place among sixteen. A posting waits for the memory accesses
of older convoys, which the transfer observes (R192). -/
def State.postTransfer (s : State) (i : Instr) (o : AOp) (total : Nat) (x : Transfer) : Out :=
  if maxTransfer < total then .next (s.illegalVal i (BitVec.ofNat 64 x.len)) else
  let go := fun (s : State) =>
    if s.accessWaits || 16 ≤ s.myTransfers.length then s else { s with transfers := s.transfers ++ [x] }.commit
  if s.g o.bar = 0 then .next (go s) else
  match s.named (s.g o.bar) 8 true with
  | .error s' => .next s'
  | .ok _ => .next (go s)

/-- The transfer that a word describes, with the operands read. -/
def State.transfer (s : State) (two : Bool) (sp : CpySp) (o : AOp) (len rows : Nat) (sp2 dp2 : Word) : Transfer where
  core := s.thr.id.core
  tslot := s.thr.id.slot
  tid := s.thr.id
  sup := s.thr.sup
  two := two
  sp := sp
  dst := s.g o.dst
  src := s.g o.src
  len := len
  rows := rows
  sp2 := sp2
  dp2 := dp2
  bar := s.g o.bar
  acq := o.acq
  rel := o.rel
  scope := o.scope
  posts := s.thr.posts
  since := 0
  err := false

/-- `CPY` (R191). -/
def execCpy (sp : CpySp) (o : AOp) (s : State) : Out :=
  s.serial (.cpy sp o) [o.dst, o.src, o.len, o.bar] [] fun s =>
    let n := (s.g o.len).toNat
    s.postTransfer (.cpy sp o) o n (s.transfer false sp o n 1 0 0)

/-- `CPY2D` (R191): gN is the row length, g(N+1) the row count, g(N+2) and g(N+3) the pitches. -/
def execCpy2d (sp : CpySp) (o : AOp) (s : State) : Out :=
  s.serial (.cpy2d sp o) [o.dst, o.src, o.len, o.len + 1, o.len + 2, o.len + 3, o.bar] [] fun s =>
    let n := (s.g o.len).toNat
    let rows := (s.g (o.len + 1)).toNat
    s.postTransfer (.cpy2d sp o) o (n * rows) (s.transfer true sp o n rows (s.g (o.len + 2)) (s.g (o.len + 3)))

/-! ### Running (R192, R193) -/

/-- The record of a thread that has been saved (R274), and the size of its scratchpad. -/
def State.savedAt (s : State) (id : ThreadId) : Option (Nat × Nat) :=
  match s.group id.gid with
  | some g =>
    if g.threads.any fun x => x.1 == id.tidx && x.2.2 then some ((s.ctx id.ctx).recordAt id.record, spadHalf g.hdr.slots) else none
  | none => none

/-- A read of the scratchpad in a record: bytes beyond SPX are zero. -/
def State.recSpad (s : State) (at_ src n : Nat) : List Byte :=
  let spx := (s.rec8 at_ 0x20).toNat
  (List.range n).map fun i => if src + i < spx then s.mem.get (at_ + 0x84000 + src + i) else 0

/-- A write of the scratchpad in a record, which SPX then covers. -/
def State.recSpadWrite (s : State) (at_ dst : Nat) (bs : List Byte) : State :=
  let spx := (s.rec8 at_ 0x20).toNat
  let need := ceilDiv (dst + bs.length) 4096 * 4096
  let s := if need ≤ spx then s else
    (s.storePA (at_ + 0x84000 + spx) (List.replicate (need - spx) 0)).storePA8 (at_ + 0x20) (BitVec.ofNat 64 need)
  s.storePA (at_ + 0x84000 + dst) bs

/-- The scratchpad of a transfer's thread (R114, R192): in the record of a saved thread, in its slot, or kept after its `EXIT`. -/
def State.spadRead (s : State) (x : Transfer) (src n : Nat) : Except Nat (List Byte) :=
  let within := fun (size : Nat) (bs : List Byte) => if size < src + n then .error cDATA_ACCESS else .ok bs
  match s.savedAt x.tid with
  | some (at_, size) => within size (s.recSpad at_ src n)
  | none =>
    match s.threads.find? (isStroke x.tid.gid x.tid.tidx) with
    | some t => within t.spadBytes (t.spad.read src n)
    | none =>
      match s.spads.find? fun k => k.gid == x.tid.gid && k.tidx == x.tid.tidx with
      | some k => within k.bytes (k.spad.read src n)
      | none => .error cDATA_ACCESS

/-- A write of that scratchpad. -/
def State.spadStore (s : State) (x : Transfer) (dst : Nat) (bs : List Byte) : Except Nat State :=
  let within := fun (size : Nat) (s : State) => if size < dst + bs.length then .error cDATA_ACCESS else .ok s
  match s.savedAt x.tid with
  | some (at_, size) => within size (s.recSpadWrite at_ dst bs)
  | none =>
    match s.threads.find? (isStroke x.tid.gid x.tid.tidx) with
    | some t => within t.spadBytes (s.focus (isStroke x.tid.gid x.tid.tidx) fun s => s.onThr fun t => t.spadWrite dst bs)
    | none =>
      match s.spads.find? fun k => k.gid == x.tid.gid && k.tidx == x.tid.tidx with
      | some k => within k.bytes { s with spads := s.spads.map fun y =>
          if y.gid == k.gid && y.tidx == k.tidx then { y with spad := y.spad.write dst bs } else y }
      | none => .error cDATA_ACCESS

/-- A read of data space by an engine, with the mode of its thread. -/
def State.engRead (s : State) (ctx : Nat) (sup : Bool) (va n : Nat) : Except Nat (List Byte) :=
  (pieces va n).foldlM (fun l (a, k) =>
    match s.xlate ctx sup false a with
    | .error e => .error e
    | .ok pa =>
      match s.dataErr ctx true false pa with
      | some e => .error e
      | none => .ok (l ++ s.mem.read pa k)) []

/-- A write of one line of data space by an engine. -/
def State.engWrite (s : State) (id : ThreadId) (sup : Bool) (va : Nat) (bs : List Byte) : Except Nat State :=
  match s.xlate id.ctx sup true va with
  | .error e => .error e
  | .ok pa =>
    match s.dataErr id.ctx false true pa with
    | some e => .error e
    | none => .ok ((s.storePA pa bs).wrote id pa bs.length)

/-- The source bytes of a chunk: from the scratchpad of the transfer's thread, or from the data space. -/
def State.chunkRead (s : State) (x : Transfer) (src n : Nat) : Except Nat (List Byte) :=
  if srcSpad x.sp then s.spadRead x src n else s.engRead x.tid.ctx x.sup src n

/-- The write of a chunk. -/
def State.chunkWrite (s : State) (x : Transfer) (dst : Nat) (bs : List Byte) : Except Nat State :=
  if dstSpad x.sp then s.spadStore x dst bs else s.engWrite x.tid x.sup dst bs

/-- Each byte of an overlap is that of before the transfer, or the one that the transfer wrote there (R192): a free choice. -/
def overlapBytes (n : Nat) (old new : List Byte) : List Byte :=
  (old.zip new).zipIdx.map fun ((a, b), i) => if (Config.freeValue n).getLsbD (i % 64) then a else b

/-- One chunk, against the state `s0` before the transfer. -/
def State.chunk (s s0 : State) (x : Transfer) (src dst n : Nat) : Except Nat State :=
  match s.chunkRead x src n with
  | .error e => .error e
  | .ok new =>
    let bytes := match s0.chunkRead x src n with
      | .ok old => overlapBytes s.drawn old new
      | .error _ => new
    { s with drawn := s.drawn + 1 }.chunkWrite x dst bytes

/-- The chunks of a row, ascending: source, destination, length. -/
def rowChunks (src dst : Word) (len : Nat) : List (Nat × Nat × Nat) :=
  (pieces dst.toNat len).map fun (a, k) => ((src + BitVec.ofNat 64 (a - dst.toNat)).toNat, (BitVec.ofNat 64 a).toNat, k)

/-- The chunks of a transfer. -/
def Transfer.chunks (x : Transfer) : List (Nat × Nat × Nat) :=
  (List.range x.rows).flatMap fun r =>
    rowChunks (x.src + BitVec.ofNat 64 r * x.sp2) (x.dst + BitVec.ofNat 64 r * x.dp2) x.len

/-- The chunks run until one fails: the cause and the chunk (R193). -/
def State.runChunks (s0 : State) (x : Transfer) : List (Nat × Nat × Nat) → State → State × Option (Nat × Nat × Nat × Nat)
  | [], s => (s, none)
  | c :: l, s =>
    match s.chunk s0 x c.1 c.2.1 c.2.2 with
    | .ok s' => State.runChunks s0 x l s'
    | .error e => (s, some (e, c))

/-- A request to one of these addresses of the data space would wait for a port (R385): the target does not refuse it (R387), and no
usable port leads there. -/
def State.portless (s : State) (ctx : Nat) (sup write : Bool) (va n : Nat) : Bool :=
  (pieces va n).any fun (a, _) =>
    match s.xlate ctx sup write a with
    | .ok pa => !s.podRefused ctx write pa && s.noPort pa
    | .error _ => false

/-- A failure enters `ENGERR` and `ENGADDR` unless V is set (R193): in the thread's slot, or in the record of a saved thread. -/
def State.engError (s : State) (id : ThreadId) (cause : Nat) (addr : Word) : State :=
  let word := BitVec.ofNat 64 (256 + cause)
  match s.savedAt id with
  | some (at_, _) =>
    if (s.rec8 at_ (0x280 + 8 * 17)).getLsbD 8 then s
    else (s.storePA8 (at_ + 0x280 + 8 * 17) word).storePA8 (at_ + 0x280 + 8 * 18) addr
  | none => s.focus (isStroke id.gid id.tidx) fun s => s.onThr fun t =>
    if t.c.engerr.getLsbD 8 then t else { t with c := { t.c with engerr := word, engaddr := addr } }

/-- The arrival of a transfer (R192, R193), a write of its thread (R357): where it cannot be made it is dropped and recorded (R313). -/
def State.engArrive (s : State) (x : Transfer) (bad : Bool) : State :=
  match s.arrive x.tid.ctx x.sup x.bar 1 (if bad then barERR else 0) 0 with
  | .ok s' =>
    if x.bar = 0 then s' else
    match s.xlate x.tid.ctx x.sup true x.bar.toNat with
    | .ok pa => s'.wrote x.tid pa 8
    | .error _ => s'
  | .error e => s.engError x.tid e x.bar

/-- The sectors that the chunks of a transfer cover together receive fresh check values (R381). -/
def State.engCover (s : State) (x : Transfer) (l : List (Nat × Nat × Nat)) : State :=
  if dstSpad x.sp || (s.damage.check.isEmpty && s.damage.uncorr.isEmpty) then s else
  let runs := l.filterMap fun (_, b, n) =>
    match s.xlate x.tid.ctx x.sup true b with
    | .ok pa => some (pa, n)
    | .error _ => none
  { s with damage := s.damage.clearRuns runs }

/-- The tile entries of a thread, in its slot or in its record. -/
def State.entriesOf (s : State) (id : ThreadId) : List TqEnt :=
  match s.savedAt id with
  | some (at_, _) =>
    let img := (s.images.find? fun x => x.ctx == id.ctx && x.record == id.record).getD ⟨id.ctx, id.record, 0, []⟩
    (List.range ((s.rec8 at_ 0x2800).toNat % 65)).map (s.recEntry at_ img (s.rec8 at_ 0x2808))
  | none =>
    match s.threads.find? (isStroke id.gid id.tidx) with
    | some t => t.tq
    | none => []

/-- A transfer with rel arrives once the accesses of its thread's older tile entries have been performed (R192); its posting has waited
for those of the older convoys. In a context that is being stopped for good or suspended, the entries of a saved thread will not be
performed before the transfer has arrived, and it waits for none (log entry 120). -/
def State.relWaits (s : State) (x : Transfer) : Bool :=
  x.rel && (s.savedAt x.tid == none || (s.ctx x.tid.ctx).state == .active) &&
    (s.entriesOf x.tid).any fun e => e.post < x.posts && tAccess e.ins && e.unperformed

/-- Scratchpads that no transfer needs any more are dropped. -/
def State.dropSpads (s : State) : State :=
  { s with spads := s.spads.filter fun k => s.transfers.any fun x =>
      x.tid.gid == k.gid && x.tid.tidx == k.tidx && (srcSpad x.sp || dstSpad x.sp) }

/-- The first transfer of its core (R30, R191). -/
def State.engineTurn (s : State) (ix : Nat) : Option Transfer :=
  match s.transfers[ix]? with
  | some x => if (s.transfers.take ix).all fun y => y.core != x.core then some x else none
  | none => none

/-- The transfer waits for a port, from now on or still (R385). -/
def State.engWaits (s : State) (ix : Nat) (x : Transfer) (remote : Bool) : Option State :=
  if !remote then none
  else if x.since = 0 then some { s with transfers := s.transfers.set ix { x with since := s.cycle + 1 } }
  else if s.cycle < x.since - 1 + s.tmo then some s
  else none

/-- The transfer may have changed the tables of its context, whose translations from before it a TLB may go on holding (R266; log entry 23). -/
def State.engTables (s s0 : State) (x : Transfer) : State := if dstSpad x.sp then s else s.keepImage x.tid.ctx s0.mem

/-- A transfer ends (R192, R193), after its acquire, which is a step of its own. Where a chunk or the arrival meets no usable port it waits, and
fails once TMO has passed (R385). -/
def execTransferComplete (ix : Nat) (s : State) : Out :=
  match s.engineTurn ix with
  | none => .fault .notEnabled
  | some x =>
    if x.acq then .next { s with transfers := s.transfers.set ix { x with acq := false } } else
    let rest := s.transfers.take ix ++ s.transfers.drop (ix + 1)
    if s.relWaits x then .next s else
    let chunks := if x.err then [] else x.chunks
    let (s1, fail) := s.runChunks x chunks s
    let bar := x.bar != 0 && s.portless x.tid.ctx x.sup true x.bar.toNat 8
    match fail with
    | some (e, a, b, n) =>
      match s.engWaits ix x (e == cREMOTE &&
          ((!srcSpad x.sp && s.portless x.tid.ctx x.sup false a n) || (!dstSpad x.sp && s.portless x.tid.ctx x.sup true b n))) with
      | some s' => .next s'
      | none =>
        let s1 := ((s1.engCover x (chunks.takeWhile (· != (a, b, n)))).engTables s x).engError x.tid e (BitVec.ofNat 64 b)
        if bar then .next { s1 with transfers := s.transfers.set ix { x with err := true, since := s.cycle + 1 } }
        else .next { s1.engArrive x true with transfers := rest }.dropSpads
    | none =>
      match s.engWaits ix x bar with
      | some s' => .next s'
      | none => .next { ((s1.engCover x chunks).engTables s x).engArrive x x.err with transfers := rest }.dropSpads

end Sys2Proof.Machine
end

