-- ==== Sys2Proof/Machine/Barrier.lean ====
section
/-! DEFINITION. Barrier words, the group barrier, and work created on the device (08 R195 to R200, 14 R307, 15, 13 R301). -/

namespace Sys2Proof.Machine

/-! ### Barrier words -/

/-- `BINIT` (R195): an 8-byte store, versioned in a speculative stroke (R190). -/
def execBinit (o : AOp) (s : State) : Out :=
  s.scalar (.binit o) [o.src, o.bar] [] fun s =>
    match s.access (s.g o.bar) 8 true false true 1 with
    | .error s' => .next s'
    | .ok pa => .next (s.storeBytes pa (toBytes 8 ((s.g o.src).extractLsb' 0 32).toNat)).commit

/-- What a form of `BARRIVE` adds, and the bit that it sets (R195). -/
def arriveAdd (s : State) (f : ArrForm) (o : AOp) : BitVec 32 :=
  match f with
  | .n => (s.g o.src).extractLsb' 0 32
  | .one | .err => 1

def arriveSet : ArrForm → Word
  | .err => barERR
  | .one | .n => 0

/-- `BARRIVE` (R195, R312): one atomic read-modify-write. -/
def execBarrive (f : ArrForm) (o : AOp) (s : State) : Out :=
  s.serial (.barrive f o) [o.src, o.bar] [] fun s =>
    match s.access (s.g o.bar) 8 true true true 1 with
    | .error s' => .next s'
    | .ok pa =>
      let w := BitVec.ofNat 64 (s.mem.num pa 8)
      .next (s.storeBytes pa (toBytes 8 (barUpdate (arriveAdd s f o) (arriveSet f) 0 w).toNat)).commit

/-- The condition on which a `BWAIT` returns (R197). -/
def barDone (w : Word) (n : Nat) : Bool := n ≤ (w.extractLsb' 0 32).toNat || w.extractLsb' 61 3 != 0

/-- One reading of a barrier word by `BWAIT` (R197): it returns, or waits. A poll returns at once. -/
def State.barWait (s : State) (poll : Bool) (d : BitVec 6) (addr : Word) (n : Nat) (wait : Wait) : State :=
  match s.access addr 8 true true false 0 with
  | .error s' => s'
  | .ok pa =>
    let (bs, s') := s.loadBytes pa 8
    let w := BitVec.ofNat 64 (ofBytes bs)
    if poll || barDone w n then s'.writeG d w else s.setWait wait

/-- The scope of an A-format word (R82). -/
def aScope (c : BitVec 3) : Scope :=
  match c.toNat with
  | 0 => .t | 1 => .c | 2 => .g | 3 => .d | _ => .s

/-- `BWAIT` (R197). -/
def execBwait (poll : Bool) (o : AOp) (s : State) : Out :=
  s.scalar (.bwait poll o) (if poll then [o.bar] else [o.bar, o.len]) [o.dst] fun s =>
    let n := ((s.g o.len).extractLsb' 0 32).toNat
    .next (s.barWait poll o.dst (s.g o.bar) n (.bwait o.dst (s.g o.bar) n (aScope o.scope)))

/-- A waiting `BWAIT` reads its word again (R197). -/
def execBwaitWake (s : State) : Out :=
  match s.thr.wait with
  | .bwait d addr n sc => .next (s.barWait false d addr n (.bwait d addr n sc))
  | _ => .fault .notEnabled

/-! ### The group barrier -/

/-- `FENCE.full` (R211): older convoys with memory accesses, every older tile entry, every older transfer. The state while it waits. -/
def State.fullFence (s : State) : Option State :=
  if s.thr.memPending then some s else
  match s.syncAll with
  | some s' => some s'
  | none => if s.myTransfers.isEmpty then none else some s

/-- `GBAR.g` (R198, R307): it traps ILLEGAL in a region (R362). -/
def execGbar (o : AOp) (s : State) : Out :=
  s.scalar (.gbar o) [] [] fun s =>
    if s.myRegion.isSome then .next (s.illegalMode (.gbar o)) else
    match s.fullFence with
    | some s' => .next s'
    | none =>
      match s.group s.thr.id.gid with
      | none => .next s.commit
      | some g =>
        let (g, pass) := g.arrive s.thr.id.tidx
        let s := s.setGroup g
        .next (if pass then s.commit else s.setWait .gbar)

/-! ### Work created on the device -/

/-- The thread at turn has written eight bytes there other than by its stores: younger iterations that have read them are rejected
(R357). -/
def State.wroteAt (s : State) (va : Nat) : State :=
  match s.xlate s.thr.id.ctx true true va with
  | .ok pa => s.wrote s.thr.id pa 8
  | .error _ => s

/-- `SPAWN`'s step (R199): the code that it returns. It appends with the dispatcher's rights; where the queue's block or its tail node
cannot be accessed, R281 applies, the queue behaves as FROZEN and the code is 1 (DESIGN CHOICE, log entry 20). -/
def State.spawnNode (s : State) (n : Nat) (q node : Word) : Nat × State :=
  if 15 < q.toNat then (3, s) else
  let k := q.toNat
  let x := s.queue n k
  if s.qva n k = 0 || x.state == .destroyed then (2, s)
  else if x.errd || x.state == .frozen || x.state == .draining then (1, s)
  else
    match s.qget n k 8 with
    | .error e => (1, s.qerr n k e)
    | .ok old =>
      match s.appendNode n k true node with
      | .ok s' => (0, (s'.wroteAt (s.qva n k + 8)).wroteAt (if old = 0 then s.qva n k else old.toNat))
      | .error e => (1, if old = 0 then s.qerr n k e else s.nodeErr n k old e)

/-- `SPAWN` (R199). -/
def execSpawn (o : AOp) (s : State) : Out :=
  s.serial (.spawn o) [o.src, o.len] [o.dst] fun s =>
    if s.accessWaits then .next s else
    match s.named (s.g o.src) 128 false with
    | .error s' => .next s'
    | .ok _ =>
      let (c, s) := s.spawnNode s.thr.id.ctx (s.g o.len) (s.g o.src)
      .next (s.writeG o.dst (BitVec.ofNat 64 c))

/-- A node stands in the list from `a` on. -/
def State.linked (s : State) (n : Nat) (node : Word) : Nat → Word → Bool
  | 0, _ => false
  | fuel + 1, a =>
    if a = 0 then false
    else if a = node then true
    else
      match s.devRead8 n a.toNat with
      | .ok b => State.linked s n node fuel b
      | .error _ => false

/-- A node is in a queue of the context (R200): taken in and not retired, or appended and not taken in. -/
def State.inQueue (s : State) (n : Nat) (node : Word) : Bool :=
  (List.range 16).any fun q =>
    let x := s.queue n q
    if s.qva n q = 0 || x.state == .destroyed then false
    else if x.nodes.any (·.addr == node) then true
    else
      let start := if x.lastTaken = 0 then s.qget n q 0 else s.devRead8 n x.lastTaken.toNat
      (match start with
       | .ok a => s.linked n node (s.mem.length + 1) a
       | .error _ => false) ||
      (match s.qget n q 8 with
       | .ok t => t == node && t != x.lastTaken
       | .error _ => false)

/-- `GSIG` (R200, R280, R301): one atomic access. -/
def execGsig (n : Bool) (o : AOp) (s : State) : Out :=
  s.serial (.gsig n o) (if n then [o.src, o.len] else [o.src]) [o.dst] fun s =>
    if s.accessWaits then .next s else
    let node := s.g o.src
    match s.named node 128 true with
    | .error s' => .next s'
    | .ok _ =>
      let m := if n then ((s.g o.len).extractLsb' 0 32).toNat else 1
      if !s.inQueue s.thr.id.ctx node then .next (s.writeG o.dst 3) else
      if s.portless s.thr.id.ctx s.thr.sup true (node.toNat + 8) 8 then
        .next (s.waitRemote { cause := cREMOTE, i0 := node, i1 := 1 }) else
      match s.decPreds s.thr.id.ctx node m s.thr.sup with
      | .error e => .next (s.memFault node 1 e)
      | .ok (c, s) => .next ((if c = 0 then s.wroteAt (node.toNat + 8) else s).writeG o.dst (BitVec.ofNat 64 c))

end Sys2Proof.Machine
end

