-- ==== Sys2Proof/Machine/Control.lean ====
section
/-! DEFINITION. Control transfers, loops, waits and the end of a thread (05 R105 to R114), and the words and fetches that trap
(04 R73, R74; 19 R364 CODE_PAGE). -/

namespace Sys2Proof.Machine

/-- A conditional branch commits with its outcome bit (R398). -/
def State.branch (s : State) (taken : Bool) (target : CodeAddr) : State :=
  let s := s.onThr fun t => t.branchBit s.cycle taken
  if taken then s.jump target else s.commit

/-- `BR` (R105). -/
def execBr (c : Cond) (o : BOp) (s : State) : Out :=
  s.scalar (.br c o) [o.a, o.b] [] fun s => .next (s.branch (condHolds c (s.g o.a) (s.g o.b)) (branchTarget s.thr.pc o.off))

/-- `BRI` (R105). -/
def execBri (c : Cond) (o : BIOp) (s : State) : Out :=
  s.scalar (.bri c o) [o.a] [] fun s =>
    .next (s.branch (condHolds c (s.g o.a) (o.imm.signExtend 64)) (branchTarget s.thr.pc o.off))

/-- `JMP` (R105). -/
def execJmp (o : BOp) (s : State) : Out :=
  s.scalar (.jmp o) [] [] fun s => .next (s.jump (branchTarget s.thr.pc o.off))

/-- The link register of calls (R105). -/
def linkReg : BitVec 6 := 62

/-- `CALL` (R105). -/
def execCall (o : BOp) (s : State) : Out :=
  s.scalar (.call o) [] [linkReg] fun s =>
    .next ((s.setG linkReg ((s.thr.pc + 8).zeroExtend 64)).jump (branchTarget s.thr.pc o.off))

/-- The target of an indirect jump, or its trap (R106). -/
def indirectFault (t : Word) : Option FaultInfo :=
  if t.extractLsb' 48 16 != 0 then some { cause := cCODE_PAGE, i0 := t }
  else if t.extractLsb' 0 3 != 0 then some { cause := cMISALIGNED, i0 := t }
  else none

/-- An indirect jump is followed by a SYNC (R398). -/
def State.jumpIndirect (s : State) (t : Word) : State :=
  (s.jump (t.setWidth 48)).onThr fun x => x.sync s.cycle (t.setWidth 48)

/-- `JR` (R106). -/
def execJr (o : SOp) (s : State) : Out :=
  s.scalar (.jr o) [o.a] [] fun s =>
    match indirectFault (s.g o.a) with
    | some f => .next (s.raise f)
    | none => .next (s.jumpIndirect (s.g o.a))

/-- `CALLR` (R106): a is read first. -/
def execCallr (o : SOp) (s : State) : Out :=
  s.scalar (.callr o) [o.a] [linkReg] fun s =>
    match indirectFault (s.g o.a) with
    | some f => .next (s.raise f)
    | none => .next ((s.setG linkReg ((s.thr.pc + 8).zeroExtend 64)).jumpIndirect (s.g o.a))

/-- The number of a loop counter. -/
def loopNum : LoopIx → Nat
  | .lc0 => 0 | .lc1 => 1 | .lc2 => 2

/-- Write a loop counter with its addresses. -/
def State.setLoop (s : State) (n : Nat) (l : Loop) : State :=
  s.onThr fun t => { t with r := { t.r with loops := vset t.r.loops n l } }

/-- `LOOP` (R108). A skipped body is a taken transfer; otherwise the word commits in sequence to LSn. -/
def execLoop (n : LoopIx) (o : BOp) (s : State) : Out :=
  s.scalar (.loop n o) [o.a] [] fun s =>
    let c := s.g o.a
    let last := branchTarget s.thr.pc o.off
    let s := s.setLoop (loopNum n) ⟨c, s.thr.pc + 8, last⟩
    let s := s.onThr fun t => t.branchBit s.cycle (c == 0)
    .next (if c = 0 then s.jump (last + 8) else s.commit)

/-- Counters `n` to 2 cleared (R110). -/
def State.clearLoops (s : State) (n : Nat) : State :=
  ((List.range 3).drop n).foldl (fun s j => s.setLoop j { vget s.thr.r.loops j with count := 0 }) s

/-- `LBRK` (R110). -/
def execLbrk (n : LoopIx) (c : Cond) (o : BOp) (s : State) : Out :=
  s.scalar (.lbrk n c o) [o.a, o.b] [] fun s =>
    if s.csrLost [0x018 + loopNum n] then .next (s.raise { cause := cUNCORRECTABLE }) else
    let l := vget s.thr.r.loops (loopNum n)
    let taken := l.count != 0 && condHolds c (s.g o.a) (s.g o.b)
    .next ((if taken then s.clearLoops (loopNum n) else s).branch taken (l.last + 8))

/-- `vn` is full (R35): every arrival bit is set. -/
def Thread.full (t : Thread) (n : Nat) : Bool := vget t.r.arr n == BitVec.allOnes 32

/-- What `WAITF` waits for (R113). -/
def Thread.waitfDone (t : Thread) (all : Bool) (n : Nat) : Bool :=
  if all then t.vq.isEmpty && (List.range 64).all t.full else t.full n

/-- `WAITF` (R113). -/
def execWaitf (all : Bool) (o : YOp) (s : State) : Out :=
  s.scalar (.waitf all o) [] [] fun s =>
    let n := (o.n12.extractLsb' 0 6).toNat
    .next (if s.thr.waitfDone all n then s.commit else s.setWait (.waitf all n))

/-- A `WAITF` finds its registers full (R113). -/
def execWaitfWake (s : State) : Out :=
  match s.thr.wait with
  | .waitf all n => .next (if s.thr.waitfDone all n then s.commit else s)
  | _ => .fault .notEnabled

/-- `YIELD` (R113): it commits, and the thread is not ready for the next n core cycles. -/
def execYield (o : YOp) (s : State) : Out :=
  s.scalar (.yield o) [] [] fun s =>
    let s := s.commit
    .next (if o.n12 = 0 then s else s.setWait (.yield (s.cycle + o.n12.toNat)))

/-- The cycles of a `YIELD` have passed (R113). -/
def execYieldExpiry (s : State) : Out :=
  match s.thr.wait with
  | .yield u => .next (if u ≤ s.cycle then s.setWait .none else s)
  | _ => .fault .notEnabled

/-- `EXIT` (R114): it traps ILLEGAL in a region (R362); it waits for the vector queue and every older tile entry, and for the map's launch
values (R295). -/
def execExit (o : YOp) (s : State) : Out :=
  s.scalar (.exit o) [] [] fun s =>
    if s.myRegion.isSome then .next (s.illegalMode (.exit o))
    else
      let s := s.setWait .exit
      if !s.thr.vq.isEmpty || !s.thr.tmapReady then .next s else
      match s.syncAll with
      | some s' => .next s'
      | none => .next (s.onThr fun t => t.retire 1).endThread

/-- `NOP` (R77). -/
def execNop (o : YOp) (s : State) : Out := s.scalar (.nop o) [] [] fun s => .next s.commit

/-- A word that fails a check of R73 (R74). -/
def execIllegalInstruction (w : Word) (step : Nat) (s : State) : Out := .next (s.illegal w step)

/-- A fetch whose code page is not mapped (R265): CODE_PAGE with the fetched address. Not enabled where the page is mapped. -/
def execCodePageFetch (s : State) : Out :=
  match s.xlateCode s.thr.id.ctx s.thr.sup (s.thr.pc.toNat / 64 * 64) with
  | some _ => .fault .notEnabled
  | none => .next (s.raise { cause := cCODE_PAGE, i0 := s.thr.pc.zeroExtend 64 })

end Sys2Proof.Machine
end

