-- ==== Sys2Proof/Machine/Episode.lean ====
section
/-! DEFINITION. Episodes: their table, entries, states, ends, the scrub, and the policy modes (17 R331 to R348). -/

namespace Sys2Proof.Machine

/-! ### Episodes and their table (R333) -/

/-- Episode `e` of context `n`, unless it is FREE. -/
def State.ep (s : State) (n e : Nat) : Option Episode := s.eps.find? fun x => x.ctx == n && x.e == e

/-- Replace an episode. -/
def State.setEp (s : State) (x : Episode) : State :=
  { s with eps := s.eps.map fun y => if y.ctx == x.ctx && y.e == x.e then x else y }

/-- An Etesian core. -/
def State.ecore (s : State) (c : Nat) : ECore := vget s.ecores c

/-- Replace an Etesian core. -/
def State.setEcore (s : State) (c : Nat) (x : ECore) : State := { s with ecores := vset s.ecores c x }

/-- Address of a table entry. -/
def State.epAt (s : State) (n e : Nat) : Nat := (s.ctx n).epcbase.toNat + 128 * e

/-- A field of a table entry; an unreadable one reads as no command. -/
def State.epGet (s : State) (n e off : Nat) : Except Nat Word := s.devRead8 n (s.epAt n e + off)

/-- Write a field of a table entry: none where the context has no table (R333); a write that fails is dropped (log entry 21). -/
def State.epPut (s : State) (n e off : Nat) (v : Word) : State :=
  if (s.ctx n).epcbase = 0 then s else
  match s.devWrite8 n (s.epAt n e + off) v with
  | .ok s' => s'
  | .error _ => s

/-- State codes of R206. -/
def EState.code : EState → Nat
  | .free => 0 | .loading => 1 | .ready => 2 | .stepping => 3 | .awaiting => 4 | .done => 5 | .killed => 6 | .stale => 7

/-- READY, STEPPING or AWAITING. -/
def EState.live : EState → Bool
  | .ready | .stepping | .awaiting => true
  | _ => false

/-- DONE, KILLED or STALE. -/
def EState.ended : EState → Bool
  | .done | .killed | .stale => true
  | _ => false

/-- STATE of DONE follows a change (R333). -/
def State.epState (s : State) (n e : Nat) (st : EState) : State :=
  match s.epGet n e 8 with
  | .ok d => s.epPut n e 8 (BitVec.ofNat 64 (d.toNat / 8 * 8 + st.code))
  | .error _ => s

/-- An episode changes state. -/
def State.setEState (s : State) (x : Episode) (st : EState) : State := (s.setEp { x with state := st }).epState x.ctx x.e st

/-- STAT (R333): the step counter and BASE. -/
def State.epStat (s : State) (x : Episode) : State :=
  s.epPut x.ctx x.e 0x48 (x.step.zeroExtend 64 <<< 32 ||| x.base.zeroExtend 64)

/-- DONE of a command (R334), then the interrupt that `icmd` asks for. The unit keeps the SEQ that it has answered: what is stored over DONE, a
read-only field (R7), changes nothing. -/
def State.epDone (s : State) (n e : Nat) (seq : BitVec 32) (status : Nat) (st : EState) (icmd : Bool) (ivec : Nat) : State :=
  let s := s.setCtx n { s.ctx n with epSeqs := (e, seq) :: (s.ctx n).epSeqs.filter (·.1 != e) }
  let s := s.epPut n e 8 (BitVec.ofNat 64 (seq.toNat * 2 ^ 32 + status * 256 + st.code))
  if icmd then s.interrupt n ivec else s

/-! ### Entries (R341) -/

/-- A tag. -/
def mkTag (gen step aux : BitVec 32) (e kind len : Nat) : BitVec 128 :=
  gen ++ step ++ aux ++ BitVec.ofNat 8 e ++ 0#4 ++ BitVec.ofNat 4 kind ++ 0#7 ++ BitVec.ofNat 9 len

/-- Fields of a tag. -/
def tagGen (t : BitVec 128) : BitVec 32 := t.extractLsb' 96 32
def tagStep (t : BitVec 128) : BitVec 32 := t.extractLsb' 64 32
def tagKind (t : BitVec 128) : Nat := (t.extractLsb' 16 4).toNat
def tagAux (t : BitVec 128) : BitVec 32 := t.extractLsb' 32 32

/-- POLICYGEN of a context, 32 bits. -/
def State.polgen (s : State) (n : Nat) : BitVec 32 := (s.ctx n).policygen.setWidth 32

/-- A payload padded with zeros to 256 bytes. -/
def pad256 (l : List Byte) : List Byte := (l ++ List.replicate 256 0).take 256

/-- The generation of an ACTION entry (R346). -/
def State.actionGen (s : State) (x : Episode) : BitVec 32 := if x.mode = 1 then x.base else s.polgen x.ctx

/-- The generation of an OBS entry (R346): that of the action the step answers, or BASE before the first. -/
def obsGen (x : Episode) : BitVec 32 :=
  if x.mode = 1 then x.base else if x.hart.taken then x.hart.egen else x.base

/-! ### The core's turn (R339) -/

/-- The episode would run: it does not wait, or what it waits for has come. -/
def Episode.runnable (x : Episode) : Bool :=
  x.state.live &&
  match x.wait with
  | .none => true
  | .take _ => !x.acts.isEmpty
  | .post _ => x.obs.length < 15

/-- Episode numbers after `e`, wrapping. -/
def afterEp (e : Nat) : List Nat := (List.range 256).map fun i => (e + 1 + i) % 256

/-- The core passes to the next of its episodes that would run (R339); where there is none it stays. -/
def State.passCore (s : State) (c : Nat) : State :=
  match (s.ecore c).running with
  | none => s
  | some (n, e) =>
    match (afterEp e).find? fun k => s.eps.any fun x => x.ctx == n && x.e == k && x.core == c && x.runnable with
    | some k => s.setEcore c { s.ecore c with running := some (n, k) }
    | none => s

/-- The episode leaves its core (R334): a core that it held passes to another of its episodes, or to none. -/
def State.unbindCore (s : State) (x : Episode) : State :=
  if (s.ecore x.core).running = some (x.ctx, x.e) then
    let others := (afterEp x.e).filter fun k => k != x.e && s.eps.any fun y => y.ctx == x.ctx && y.e == k && y.core == x.core && y.state.live
    let next := (others.find? fun k => s.eps.any fun y => y.ctx == x.ctx && y.e == k && y.runnable).or others.head?
    s.setEcore x.core { s.ecore x.core with running := next.map fun k => (x.ctx, k) }
  else s

/-- The episode no longer runs: its core passes on where it held it. -/
def State.yieldCore (s : State) (x : Episode) : State :=
  if (s.ecore x.core).running = some (x.ctx, x.e) then s.passCore x.core else s

/-! ### The end of an episode (R342, R344) -/

/-- The final entry as it is appended: STEP is the step counter and GEN is POLICYGEN (R341). -/
def State.finalEntry (s : State) (x : Episode) (f : MbEntry) : MbEntry :=
  { tag := mkTag (s.polgen x.ctx) x.step (tagAux f.tag) x.e (tagKind f.tag) 0, payload := [] }

/-- Entries that the end of an episode owes enter the observation FIFO (R342): RETURNED entries below the kept place, then the final
entry in it, once no scrub of its kill runs (R345); then IEND's interrupt. -/
def State.pump (s : State) (x : Episode) : State :=
  let room := 15 - x.obs.length
  let y := { x with obs := x.obs ++ x.returned.take room, returned := x.returned.drop room }
  match y.final with
  | some f =>
    if y.returned.isEmpty && (!y.scrubbing || y.freeAfter) then
      let s := s.setEp { y with obs := y.obs ++ [s.finalEntry y f], final := none }
      if y.iend then s.interrupt y.ctx y.ivec else s
    else s.setEp y
  | none => s.setEp y

/-- The episode ends (R344): its pending actions are discarded, or returned when it becomes STALE; LAST is written; the core passes
on; a kill starts the scrub (R345). -/
def State.endEpisode (s : State) (x : Episode) (st : EState) (kind : Nat) (aux : BitVec 32) : State :=
  let stale := st == .stale
  let back := if stale then x.acts.map fun a => { a with tag := mkTag (tagGen a.tag) (tagStep a.tag) 0 x.e 2 (a.tag.extractLsb' 0 9).toNat }
    else []
  let gone := if stale then 0 else x.acts.length
  let y := { x with state := st, acts := [], returned := back, wait := .none, scrubbing := st == .killed
                    final := some { tag := mkTag 0 0 aux x.e kind 0, payload := [] } }
  let s := (s.setEp y).epState x.ctx x.e st
  let s := s.epPut x.ctx x.e 0x50 (BitVec.ofNat 64 (aux.toNat * 2 ^ 32 + gone * 256 + kind))
  (s.yieldCore y).pump y

/-- A kill (R345). -/
def State.killEpisode (s : State) (x : Episode) (kind : Nat) (aux : BitVec 32) : State :=
  if x.state.live then s.endEpisode x .killed kind aux else s

/-! ### Step boundaries (R346, R347) -/

/-- A step boundary: a recorded mode takes effect; in drain mode a changed POLICYGEN makes the episode STALE. -/
def State.boundary (s : State) (x : Episode) : State :=
  let gen := s.polgen x.ctx
  let (s, x) := match x.modeNext with
    | some m =>
      let y := { x with mode := m, modeNext := none, base := gen }
      ((s.setEp y).epStat y, y)
    | none => (s, x)
  if x.mode = 2 && gen != x.base then s.endEpisode x .stale 6 (BitVec.ofNat 32 x.acts.length) else s

/-- The episode stands at a step boundary (R336). -/
def Episode.atBoundary (x : Episode) : Bool := x.state == .ready || x.state == .awaiting

/-- A write of POLICYGEN (R346, R347): the register, then a drain test at each episode that stands at a boundary. -/
def State.writePolicygen (s : State) (n : Nat) (v : Word) : State :=
  let s := s.setCtx n { s.ctx n with policygen := v }
  (s.eps.filter fun x => x.ctx == n && x.atBoundary).foldl (fun s x => s.boundary x) s

/-! ### The scrub (R345) -/

/-- Bytes of memory written zero. -/
def Mem.zero (m : Mem) (lo n : Nat) : Mem := m.filter fun x => !(lo ≤ x.1 && x.1 < lo + n)

/-- Zeros written to device memory, with fresh check values. -/
def State.zeroPA (s : State) (pa n : Nat) : State :=
  { s with mem := s.mem.zero pa n, damage := s.damage.clear pa n, coh := s.coh.written pa n }

/-- Bytes of a partition unit (R332). -/
def unitBytes : Nat := 32768

/-- Every byte of the partition and the window becomes zero. -/
def State.scrubEpisode (s : State) (x : Episode) : State :=
  let c := s.ecore x.core
  let s := s.setEcore x.core { c with sram := c.sram.zero (unitBytes * x.unit) (unitBytes * x.lunits) }
  x.frames.foldl (fun s f => s.zeroPA f 65536) s

/-- The episode becomes FREE: it leaves its core. -/
def State.freeEpisode (s : State) (x : Episode) : State :=
  let s := { s with eps := s.eps.filter fun y => !(y.ctx == x.ctx && y.e == x.e),
                    coh := { s.coh with watch := s.coh.watch.filter fun w => !(w.ctx == x.ctx && w.e == x.e) } }
  (s.unbindCore x).epState x.ctx x.e .free

/-- The episode at a place of a core. -/
def State.epOn (s : State) (core part : Nat) : Option Episode := s.eps.find? fun x => x.core == core && x.unit == part

/-- A scrub ends (R345): the final entry is appended and a `KILL` command answered, or the episode becomes FREE (R334). -/
def execScrubComplete (core part : Nat) (s : State) : Out :=
  match s.epOn core part with
  | none => .fault .notEnabled
  | some x =>
    if !x.scrubbing then .fault .notEnabled else
    let s := s.scrubEpisode x
    let y := { x with scrubbing := false, cmdSeq := none }
    if x.freeAfter then
      let s := s.freeEpisode x
      .next (match x.cmdSeq with
        | some q => s.epDone x.ctx x.e q 0 .free x.icmd x.ivec
        | none => s)
    else
      let s := (s.setEp y).pump y
      .next (match x.cmdSeq with
        | some q => s.epDone x.ctx x.e q 0 x.state x.icmd x.ivec
        | none => s)

/-! ### Commands (R334, R335, R428) -/

/-- The SEQ of the command that entry `e` has answered last: the unit's, and before its first command the one that the table holds. -/
def State.epAnswered (s : State) (n e : Nat) : Except Nat Nat :=
  match (s.ctx n).epSeqs.find? (·.1 == e) with
  | some x => .ok x.2.toNat
  | none => (s.epGet n e 8).map fun d => d.toNat / 2 ^ 32

/-- The pending command of entry `e`: its SEQ and its OP, with CMD's reserved bits (R334). None while another runs. -/
def State.epCommand (s : State) (n e : Nat) : Option (BitVec 32 × Nat × Bool) :=
  if (s.ctx n).state == .free || (s.ctx n).epcbase = 0 then none else
  let busy : Bool := match s.ep n e with
    | some x => x.cmdSeq.isSome || x.scrubbing || x.state == .loading
    | none => false
  if busy then none else
  match s.epGet n e 0, s.epAnswered n e with
  | .ok c, .ok d =>
    if c.toNat / 2 ^ 32 = d then none
    else some (c.extractLsb' 32 32, c.toNat % 256, c.extractLsb' 8 24 != 0)
  | _, _ => none

/-- The lowest episode of a context with a pending command that meets `p`. -/
def State.epPending (s : State) (n : Nat) (p : Nat → Bool) : Option (Nat × BitVec 32 × Nat × Bool) :=
  if (s.ctx n).epcbase = 0 then none else
  (List.range 256).findSome? fun e =>
    match s.epCommand n e with
    | some (q, op, rz) => if p op then some (e, q, op, rz) else none
    | none => none

/-- Fields of an entry as a number. -/
def State.epField (s : State) (n e off : Nat) : Nat :=
  match s.epGet n e off with
  | .ok w => w.toNat
  | .error _ => 0

/-- A command fails or ends at once, with the interrupt of the entry's CFG. -/
def State.epAnswer (s : State) (n e : Nat) (seq : BitVec 32) (status : Nat) : State :=
  let (st, icmd, ivec) := match s.ep n e with
    | some x => (x.state, x.icmd, x.ivec)
    | none =>
      let cfg := s.epField n e 0x10
      (.free, cfg.testBit 21, bitsOf 19 16 cfg)
  s.epDone n e seq status st icmd ivec

/-- The FORMAT checks of `LOAD` (R333). -/
def loadFields (cfg budget image img2 wbase wsize : Nat) (rest : List Nat) : Bool :=
  let lunits := bitsOf 52 48 cfg
  cfg / 2 ^ 53 = 0 && bitsOf 47 28 cfg = 0 && bitsOf 23 22 cfg = 0 && bitsOf 15 10 cfg = 0 && bitsOf 7 6 cfg = 0 &&
  bitsOf 9 8 cfg != 3 && 1 ≤ lunits && 1 ≤ budget && budget ≤ 2 ^ 40 && image % 64 = 0 &&
  img2 / 2 ^ 32 % 4 = 0 && img2 / 2 ^ 32 < img2 % 2 ^ 32 && 1 ≤ img2 % 2 ^ 32 && img2 % 2 ^ 32 ≤ lunits * unitBytes &&
  wbase % 65536 = 0 && wsize % 65536 = 0 && wsize ≤ 2 ^ 28 && rest.all (· = 0)

/-- The first place of a free range of units on a core (R334). -/
def State.freeUnits (s : State) (core n : Nat) : Option Nat :=
  (List.range 31).find? fun u => u + n ≤ 31 &&
    !(s.eps.any fun x => x.core == core && x.unit < u + n && u < x.unit + x.lunits)

/-- The window's frames (R332): device pages that translate writable. -/
def State.windowFrames (s : State) (n wbase pages : Nat) : Option (List Nat) :=
  (List.range pages).mapM fun k =>
    match s.xlate n true true (wbase + 65536 * k) with
    | .ok pa => if paKind pa = 0 then some pa else none
    | .error _ => none

/-- A hart as `LOAD` sets it (R335). -/
def Hart.fresh (entry e : Nat) (arg : Word) : Hart where
  x := (((Vector.replicate 32 0).set 10 (BitVec.ofNat 64 e)).set 11 arg)
  pc := BitVec.ofNat 64 entry
  resv := none
  taken := false
  estep := 0xFFFFFFFF
  egen := 0xFFFFFFFF
  instret := 0

/-- `LOAD` (R334, R335 steps 1 to 3), or the failure of a command with a bad OP (R428). -/
def State.loadEpisode (s : State) (n e : Nat) (seq : BitVec 32) (op : Nat) (rz : Bool) : State :=
  if op = 0 || 3 < op then s.epAnswer n e seq 5
  else if rz then s.epAnswer n e seq 2
  else if (s.ep n e).isSome then s.epAnswer n e seq 1
  else
    let f := s.epField n e
    let cfg := f 0x10
    let budget := f 0x18
    let image := f 0x20
    let ilen := f 0x28 % 2 ^ 32
    let wbase := f 0x30
    let wsize := f 0x38
    if !loadFields cfg budget image (f 0x28) wbase wsize ([0x58, 0x60, 0x68, 0x70, 0x78].map f) then s.epAnswer n e seq 2 else
    let core := bitsOf 5 0 cfg
    let lunits := bitsOf 52 48 cfg
    if !(s.ctx n).ecores.getLsbD core then s.epAnswer n e seq 4 else
    match s.freeUnits core lunits with
    | none => s.epAnswer n e seq 4
    | some unit =>
      match s.devReadN n image ilen, s.windowFrames n wbase (wsize / 65536) with
      | .ok bytes, some frames =>
        let c := s.ecore core
        let sram := (c.sram.zero (unitBytes * unit) (unitBytes * lunits)).write (unitBytes * unit) bytes
        let s := s.setEcore core { c with sram := sram }
        let x : Episode :=
          { ctx := n, e := e, state := .loading, core := core, unit := unit, lunits := lunits, frames := frames
            hart := Hart.fresh (f 0x28 / 2 ^ 32) e (BitVec.ofNat 64 (f 0x40)), wait := .none, step := 0, base := 0
            mode := bitsOf 9 8 cfg, modeNext := none, budget := budget, budgetNext := none, kicksCfg := bitsOf 27 24 cfg
            kicks := bitsOf 27 24 cfg, count := 0, acts := [], obs := [], returned := [], final := none, scrubbing := false
            freeAfter := false, cmdSeq := some seq, icmd := cfg.testBit 21, iend := cfg.testBit 20, ivec := bitsOf 19 16 cfg }
        { s with eps := s.eps ++ [x] }.epState n e .loading
      | _, _ => s.epAnswer n e seq 7

/-- `LOAD`, and commands whose OP is not assigned (R334). -/
def execEpisodeLoad (n : Nat) (s : State) : Out :=
  match s.epPending n fun op => op != 2 && op != 3 with
  | none => .fault .notEnabled
  | some (e, seq, op, rz) => .next (s.loadEpisode n e seq op rz)

/-- A load completes (R335 steps 4 to 6): the episode starts running at once. -/
def execEpisodeLoadComplete (core part : Nat) (s : State) : Out :=
  match s.epOn core part with
  | none => .fault .notEnabled
  | some x =>
    if x.state != .loading then .fault .notEnabled else
    let y := { x with state := .ready, base := s.polgen x.ctx, cmdSeq := none }
    let s := (s.setEp y).epStat y
    let c := s.ecore core
    let s := s.setEcore core { c with running := match c.running with
      | some (n, e) => if s.eps.any fun z => z.ctx == n && z.e == e && z.core == core && z.state.live then some (n, e) else some (y.ctx, y.e)
      | none => some (y.ctx, y.e) }
    .next (match x.cmdSeq with
      | some q => s.epDone y.ctx y.e q 0 .ready y.icmd y.ivec
      | none => s.epState y.ctx y.e .ready)

/-- `RELEASE` (R334): the scrub, then FREE. -/
def execEpisodeRelease (n : Nat) (s : State) : Out :=
  match s.epPending n (· = 2) with
  | none => .fault .notEnabled
  | some (e, seq, _, rz) =>
    if rz then .next (s.epAnswer n e seq 2) else
    match s.ep n e with
    | some x =>
      if x.state.ended then .next (s.setEp { x with scrubbing := true, freeAfter := true, cmdSeq := some seq })
      else .next (s.epAnswer n e seq 1)
    | none => .next (s.epAnswer n e seq 1)

/-- `KILL` (R334): DONE waits for the scrub and the final entry. -/
def execEpisodeKill (n : Nat) (s : State) : Out :=
  match s.epPending n (· = 3) with
  | none => .fault .notEnabled
  | some (e, seq, _, rz) =>
    if rz then .next (s.epAnswer n e seq 2) else
    match s.ep n e with
    | some x =>
      if x.state.live then .next (s.killEpisode { x with cmdSeq := some seq } 5 0xFFFFFFFF)
      else .next (s.epAnswer n e seq 1)
    | none => .next (s.epAnswer n e seq 1)

/-! ### Mailboxes from the compute side -/

/-- The oldest observation leaves the FIFO; what the end of the episode owes takes the place (R342). -/
def State.takeObs (s : State) (x : Episode) : State :=
  let y := { x with obs := x.obs.drop 1 }
  (s.setEp y).pump y

end Sys2Proof.Machine
end

