-- ==== Sys2Proof/Machine/Crypto.lean ====
section
/-! DEFINITION. The digest and the signatures of the management plane: SHA-512 (FIPS 180-4) and Ed25519 (RFC 8032), the standards that
00 R9 names for firmware images, the device identity and attestation (22 R404). -/

namespace Sys2Proof.Machine.Crypto

/-! ### SHA-512 -/

/-- The root search: the greatest r below 2^n beyond what is found with f r ≤ x. -/
def rootGo (f : Nat → Nat) (x : Nat) : Nat → Nat → Nat
  | 0, r => r
  | n + 1, r => rootGo f x n (if f (r + 2 ^ n) ≤ x then r + 2 ^ n else r)

/-- The prime numbers below 410: the first 80. -/
def primes : List Nat := (List.range 410).filter fun p => 2 ≤ p && (List.range p).all fun d => d < 2 || p % d != 0

/-- FIPS 180-4, 4.2.3: the round constants are the first 64 bits of the fractions of the cube roots of the first 80 primes. -/
def roundConsts : List (BitVec 64) := primes.map fun p => BitVec.ofNat 64 (rootGo (fun r => r * r * r) (p * 2 ^ 192) 68 0)

/-- FIPS 180-4, 5.3.5: the initial value is the first 64 bits of the fractions of the square roots of the first eight primes. -/
def initial : List (BitVec 64) := (primes.take 8).map fun p => BitVec.ofNat 64 (rootGo (fun r => r * r) (p * 2 ^ 128) 68 0)

/-- The message followed by the bit 1, zeros, and its length in bits as a 128-bit number, to a multiple of 1024 bits (5.1.2). -/
def padded (m : List Byte) : List Byte :=
  m ++ 0x80#8 :: List.replicate ((239 - m.length % 128) % 128) 0 ++ (toBytes 16 (8 * m.length)).reverse

/-- Four words of the message schedule give the next (6.4.2 step 1); the words made so far stand newest first. -/
def nextWord (ws : List (BitVec 64)) : BitVec 64 :=
  let s0 := fun (x : BitVec 64) => x.rotateRight 1 ^^^ x.rotateRight 8 ^^^ (x >>> 7)
  let s1 := fun (x : BitVec 64) => x.rotateRight 19 ^^^ x.rotateRight 61 ^^^ (x >>> 6)
  s1 (ws.getD 1 0) + ws.getD 6 0 + s0 (ws.getD 14 0) + ws.getD 15 0

/-- The eighty words of a block's schedule, in order. -/
def schedule (block : List Byte) : List (BitVec 64) :=
  let first := (List.range 16).map fun i => BitVec.ofNat 64 (ofBytes ((block.drop (8 * i)).take 8).reverse)
  ((List.range 64).foldl (fun ws _ => nextWord ws :: ws) first.reverse).reverse

/-- The eight working variables. -/
structure Vars where
  a : BitVec 64
  b : BitVec 64
  c : BitVec 64
  d : BitVec 64
  e : BitVec 64
  f : BitVec 64
  g : BitVec 64
  h : BitVec 64
  deriving DecidableEq, Repr

/-- One round (6.4.2 step 3). -/
def round (v : Vars) (kw : BitVec 64 × BitVec 64) : Vars :=
  let s1 := v.e.rotateRight 14 ^^^ v.e.rotateRight 18 ^^^ v.e.rotateRight 41
  let t1 := v.h + s1 + ((v.e &&& v.f) ^^^ (~~~v.e &&& v.g)) + kw.1 + kw.2
  let s0 := v.a.rotateRight 28 ^^^ v.a.rotateRight 34 ^^^ v.a.rotateRight 39
  let t2 := s0 + ((v.a &&& v.b) ^^^ (v.a &&& v.c) ^^^ (v.b &&& v.c))
  { a := t1 + t2, b := v.a, c := v.b, d := v.c, e := v.d + t1, f := v.e, g := v.f, h := v.g }

/-- The hash value after a block. -/
def compress (hs : List (BitVec 64)) (block : List Byte) : List (BitVec 64) :=
  let w := fun i => hs.getD i 0
  let v := (roundConsts.zip (schedule block)).foldl round ⟨w 0, w 1, w 2, w 3, w 4, w 5, w 6, w 7⟩
  [w 0 + v.a, w 1 + v.b, w 2 + v.c, w 3 + v.d, w 4 + v.e, w 5 + v.f, w 6 + v.g, w 7 + v.h]

/-- SHA-512: 64 bytes. -/
def sha512 (m : List Byte) : List Byte :=
  let p := padded m
  let hs := (List.range (p.length / 128)).foldl (fun hs i => compress hs ((p.drop (128 * i)).take 128)) initial
  hs.flatMap fun h => (toBytes 8 h.toNat).reverse

/-! ### Ed25519 -/

/-- RFC 8032, 5.1: the field's prime. -/
def fieldP : Nat := 2 ^ 255 - 19

/-- The order of the base point's group. -/
def groupL : Nat := 2 ^ 252 + 27742317777372353535851937790883648493

/-- b to the power of the n low bits of e, in the field. -/
def powP : Nat → Nat → Nat → Nat
  | 0, _, _ => 1
  | n + 1, b, e =>
    let r := powP n (b * b % fieldP) (e / 2)
    if e % 2 = 1 then b * r % fieldP else r

def invP (x : Nat) : Nat := powP 255 x (fieldP - 2)

/-- The curve's constant −121665/121666. -/
def curveD : Nat := (fieldP - 121665) * invP 121666 % fieldP

/-- A point in the extended coordinates of 5.1.4. -/
structure Pt where
  x : Nat
  y : Nat
  z : Nat
  t : Nat
  deriving DecidableEq, Repr

def Pt.zero : Pt := ⟨0, 1, 1, 0⟩

/-- The complete addition of 5.1.4. -/
def Pt.add (p q : Pt) : Pt :=
  let m := fieldP
  let a := (p.y + m - p.x) * (q.y + m - q.x) % m
  let b := (p.y + p.x) * (q.y + q.x) % m
  let c := p.t * 2 * curveD * q.t % m
  let d := p.z * 2 * q.z % m
  let e := b + m - a
  let f := d + m - c
  let g := d + c
  let h := b + a
  ⟨e * f % m, g * h % m, f * g % m, e * h % m⟩

/-- The multiple of a point by the n low bits of k. -/
def Pt.mul : Nat → Nat → Pt → Pt
  | 0, _, _ => .zero
  | n + 1, k, p =>
    let q := Pt.mul n (k / 2) (p.add p)
    if k % 2 = 1 then p.add q else q

/-- Two points are the same point (5.1.4). -/
def Pt.same (p q : Pt) : Bool := p.x * q.z % fieldP == q.x * p.z % fieldP && p.y * q.z % fieldP == q.y * p.z % fieldP

/-- The x of a given parity for y (5.1.3 steps 2 to 4). -/
def xOf (y : Nat) (sign : Nat) : Option Nat :=
  let m := fieldP
  let u := (y * y + m - 1) % m
  let v := (curveD * y * y + 1) % m
  let v3 := v * v * v % m
  let r := u * v3 * powP 252 (u * v3 * v3 * v % m) ((m - 5) / 8) % m
  let x := if v * r * r % m = u then some r
    else if v * r * r % m = (m - u) % m then some (r * powP 255 2 ((m - 1) / 4) % m) else none
  x.bind fun x => if x = 0 ∧ sign = 1 then none else some (if x % 2 = sign then x else m - x)

/-- Decoding a point (5.1.3). -/
def Pt.decode (bs : List Byte) : Option Pt :=
  let n := ofBytes bs
  let y := n % 2 ^ 255
  if bs.length ≠ 32 ∨ fieldP ≤ y then none else (xOf y (n / 2 ^ 255)).map fun x => ⟨x, y, 1, x * y % fieldP⟩

/-- Encoding a point (5.1.2). -/
def Pt.encode (p : Pt) : List Byte :=
  let i := invP p.z
  toBytes 32 (p.y * i % fieldP + (p.x * i % fieldP % 2) * 2 ^ 255)

/-- The base point: y is 4/5 and x even. -/
def Pt.base : Pt :=
  let y := 4 * invP 5 % fieldP
  let x := (xOf y 0).getD 0
  ⟨x, y, 1, x * y % fieldP⟩

/-- A digest read as a number, little endian, modulo the group's order. -/
def scalarOf (m : List Byte) : Nat := ofBytes (sha512 m) % groupL

/-- Whether a signature verifies (5.1.7), by the group equation with the cofactor. -/
def ed25519Verify (key msg sig : List Byte) : Bool :=
  match Pt.decode key, Pt.decode (sig.take 32) with
  | some a, some r =>
    let n := ofBytes (sig.drop 32)
    let k := scalarOf (sig.take 32 ++ key ++ msg)
    sig.length == 64 && n < groupL
      && Pt.same (Pt.mul 256 (8 * n) .base) ((Pt.mul 256 (8 * k) a).add (Pt.mul 4 8 r))
  | _, _ => false

/-- The signature of a message by a private key (5.1.5, 5.1.6). -/
def ed25519Sign (secret msg : List Byte) : List Byte :=
  let h := sha512 secret
  let a := ofBytes (h.take 32) / 8 * 8 % 2 ^ 254 + 2 ^ 254
  let key := (Pt.mul 256 a .base).encode
  let r := scalarOf (h.drop 32 ++ msg)
  let rs := (Pt.mul 256 r .base).encode
  rs ++ toBytes 32 ((r + scalarOf (rs ++ key ++ msg) * a) % groupL)

end Sys2Proof.Machine.Crypto
end

