-- ==== Sys2Proof/Machine/System.lean ====
section
/-! DEFINITION. Traps, events and calls of the host (08 R218 to R222; 20 R391, R392). -/

namespace Sys2Proof.Machine

/-- `TRAP` (R218). -/
def execTrap (o : YOp) (s : State) : Out :=
  s.scalar (.trap o) [o.g] [] fun s => .next (s.raise { cause := cTRAP, i0 := s.g o.g, i1 := o.n12.zeroExtend 64 })

/-- `BRK` (R218). -/
def execBrk (o : YOp) (s : State) : Out :=
  s.scalar (.brk o) [] [] fun s => .next (s.raise { cause := cBREAK, i1 := o.n12.zeroExtend 64 })

/-- `ERET` (R219, R372): in supervisor mode only. A double error in TRAPPC or TRAPCAUSE, which it reads, traps (R376). -/
def execEret (o : YOp) (s : State) : Out :=
  s.scalar (.eret o) [] [] fun s =>
    if !s.thr.sup then .next (s.illegalMode (.eret o))
    else if s.csrLost [0x102, 0x103] then .next (s.raise { cause := cUNCORRECTABLE })
    else .next (s.onThr fun t => t.retire 1).returnFromTrap

/-- `WFE` (R221): an address that cannot be translated returns at once; else the thread waits. -/
def execWfe (o : YOp) (s : State) : Out :=
  s.serial (.wfe o) [o.g] [] fun s =>
    match s.xlate s.thr.id.ctx s.thr.sup false (s.g o.g).toNat with
    | .error _ => .next s.commit
    | .ok _ => .next (s.setWait (.wfe (s.g o.g)))

/-- A wait of `WFE` ends: a wake may happen at any time (R221). -/
def execWfeWake (s : State) : Out :=
  match s.thr.wait with
  | .wfe _ => .next s.commit
  | _ => .fault .notEnabled

/-! ### Calls -/

/-- Address of a ring entry (R391). -/
def Ctx.ringAt (c : Ctx) (seq : Nat) : Nat := c.hring + 32 * (seq % 64)

/-- The identity {CTX, SEQ} of a call. -/
def callIdent (n : Nat) (seq : Word) : Word := BitVec.ofNat 64 (n * 2 ^ 58 + seq.toNat % 2 ^ 58)

/-- Calls of a context that wait, of placed and of saved threads: sequence number, and whether the entry is written. -/
def State.calls (s : State) (n : Nat) : List (Nat × Bool) :=
  (s.threads.filterMap fun t => if t.live && t.id.ctx == n then t.hcall.map fun h => (h.seq.toNat, h.written) else none) ++
  (s.groups.filter (·.ctx == n)).flatMap fun g => (g.threads.filter fun x => x.2.2).filterMap fun x =>
    let at_ := (s.ctx n).recordAt x.2.1
    let st := s.rec8 at_ 8
    if st.getLsbD 1 then some ((s.rec8 at_ 0x10).toNat % 2 ^ 58, st.getLsbD 2) else none

/-- A thread awaits the reply to the call that a ring entry holds (R392). -/
def State.awaited (s : State) (n held : Nat) : Bool := (s.calls n).any fun x => x.1 == held && x.2

/-- The entry of a ring is cleared, where it holds a reply that no thread awaits (R392). -/
def State.clearEntry (s : State) (n i : Nat) : State :=
  let at_ := (s.ctx n).ringAt i
  if !(s.loadPA8 (at_ + 16)).getLsbD 62 || s.awaited n ((s.loadPA8 at_).toNat % 2 ^ 58) then s
  else s.storePA at_ (List.replicate 32 0)

/-- The host has written these bytes: a reply in them to an entry that no thread awaits is cleared and ignored (R390, R392). -/
def State.clearStray (s : State) (pa len : Nat) : State :=
  let rings := (List.range 64).filter fun n =>
    let h := (s.ctx n).hring
    h != 0 && h < pa + len && pa < h + 2048
  rings.foldl (fun s n => ((List.range 64).filter fun i =>
    let at_ := (s.ctx n).ringAt i + 16
    at_ < pa + len && pa < at_ + 8).foldl (fun s i => s.clearEntry n i) s) s

/-- The ring entry of a call is free: it holds no call, or a reply that no thread awaits (R392). -/
def State.ringFree (s : State) (n seq : Nat) : Bool :=
  let at_ := (s.ctx n).ringAt seq
  let w := s.loadPA8 (at_ + 16)
  let held := (s.loadPA8 at_).toNat % 2 ^ 58
  (!w.getLsbD 63 || (w.getLsbD 62 && !s.awaited n held)) &&
  !(s.calls n).any fun x => !x.2 && x.1 < seq && x.1 % 64 = seq % 64

/-- The entry is written (R391, R392): it holds the call, and HVEC is delivered if HIEN asks for it. -/
def State.ringWrite (s : State) (n : Nat) (h : Hcall) (record : Nat) : State :=
  let at_ := (s.ctx n).ringAt h.seq.toNat
  let s := (s.storePA8 at_ (callIdent n h.seq)).storePA8 (at_ + 8) h.value
  let s := (s.storePA8 (at_ + 16) (BitVec.ofNat 64 (2 ^ 63 + h.code * 2 ^ 32 + record))).storePA8 (at_ + 24) 0
  if (s.ctx n).hien then s.interrupt n (s.ctx n).hvec else s

/-- The wait that a pending call stands at. -/
def Hcall.waitAt (h : Hcall) (g : BitVec 6) : Wait := if h.written then .hcallReply g else .hcallEntry g

/-- The context's call unit takes the next sequence number (R392); CTXLINK shows it (R386). -/
def State.takeSeq (s : State) (n : Nat) : Word × State :=
  let q := (s.ctx n).hseq + 1
  (q, (s.setCtx n { s.ctx n with hseq := q }).storePA8 (s.mgmt.cbase + 0x10200 + 32 * n + 16) q)

/-- `HCALL` (R222, R392): the release first, then the sequence number; a resumed thread goes on with the call that it has. -/
def execHcall (o : YOp) (s : State) : Out :=
  s.serial (.hcall o) [o.g] [o.g] fun s =>
    let n := s.thr.id.ctx
    match s.thr.hcall with
    | some h =>
      let h := { h with code := o.n12.toNat, value := s.g o.g }
      .next ((s.onThr fun t => { t with hcall := some h }).setWait (h.waitAt o.g))
    | none =>
      if s.tctx.hring = 0 then .next (s.illegalMode (.hcall o))
      else if !s.thr.vq.isEmpty then .next s
      else
        let (q, s) := s.takeSeq n
        let h : Hcall := { seq := q, code := o.n12.toNat, value := s.g o.g, written := false }
        .next ((s.onThr fun t => { t with hcall := some h }).setWait (h.waitAt o.g))

/-- A call's ring entry is free: the call is written (R392). -/
def execHcallEntryFree (s : State) : Out :=
  match s.thr.wait, s.thr.hcall with
  | .hcallEntry g, some h =>
    if !s.ringFree s.thr.id.ctx h.seq.toNat then .next s else
    let s := s.ringWrite s.thr.id.ctx h s.thr.id.record
    .next ((s.onThr fun t => { t with hcall := some { h with written := true } }).setWait (.hcallReply g))
  | _, _ => .fault .notEnabled

/-- The host has replied (R392): the reply, the entry zeroed, the commit. -/
def execHcallReply (s : State) : Out :=
  match s.thr.wait, s.thr.hcall with
  | .hcallReply g, some h =>
    let n := s.thr.id.ctx
    let at_ := s.tctx.ringAt h.seq.toNat
    if !(s.loadPA8 (at_ + 16)).getLsbD 62 || s.loadPA8 at_ != callIdent n h.seq then .next s else
    let reply := s.loadPA8 (at_ + 24)
    let s := s.storePA at_ (List.replicate 32 0)
    .next ((s.onThr fun t => { t with hcall := none }).writeG g reply)
  | _, _ => .fault .notEnabled

end Sys2Proof.Machine
end

