-- ==== Sys2Proof/Machine/VecLane.lean ====
section
/-! DEFINITION. What a vector instruction computes on registers and masks (spec/06): functions of the register files and of what its
convoy captured at commit. The memory instructions are in Vector.lean. -/

namespace Sys2Proof.Machine

/-- What a member computes from: the register files as the members before it left them, the shape and modes of its convoy, and what
it captured at commit (R129). -/
structure VEnv where
  r : Regs
  rows : Nat
  cols : Nat
  vlmax : Nat
  fmode : Word
  rngkey : Word
  x0 : Word
  rng : Word
  deriving DecidableEq, Repr

/-- What a member writes: vector registers with the EGs written (R133), a mask, a `g` register, flags. -/
structure VOut where
  v : List (BitVec 6 × VReg × Nat) := []
  k : Option (BitVec 4 × MaskVal) := none
  g : Option (BitVec 6 × Word) := none
  flags : FFlags := 0
  deriving DecidableEq, Repr, Inhabited

/-- cap(w) of R129. -/
def VEnv.cap (e : VEnv) (w : Nat) : Nat := if w = 64 then e.vlmax / 2 else e.vlmax

/-- E of R129. -/
def VEnv.count (e : VEnv) (w : Nat) : Nat := min (e.rows * e.cols) (e.cap w)

/-- The mask register of a number; `k0` is all-true (R134). -/
def VEnv.mask (e : VEnv) (k : BitVec 4) : MaskVal := if k = 0 then .count 16384 64 else vget e.r.k k.toNat

/-- active() of R135 on a mask value. -/
def MaskVal.active (m : MaskVal) (n w : Nat) : Bool :=
  match m with
  | .bitmap b => b.getLsbD n
  | .count c cw => n * w < c * cw

/-- active() of R135. -/
def VEnv.active (e : VEnv) (k : BitVec 4) (n w : Nat) : Bool := k = 0 || (e.mask k).active n w

/-- A bitmap from a predicate. -/
def bitmapOf (f : Nat → Bool) : Bitmap := BitVec.ofNat _ (packElems 1 ((List.range 2048).map fun n => (f n).toNat))

/-- A vector register. -/
def VEnv.v (e : VEnv) (r : BitVec 6) : VReg := vget e.r.v r.toNat

/-- EGs that elements 0 to E − 1 of a width lie in (R133). -/
def egs (count w : Nat) : Nat := ceilDiv (count * w) 2048

/-- A register with its elements below `count` replaced where `f` gives a value. -/
def putElems (r : VReg) (w count : Nat) (f : Nat → Option Nat) : VReg :=
  putRange r 0 (w * count) (packElems w ((List.range count).map fun n => (f n).getD (elemAt r w n)))

/-- The masked write of R131: an active element takes `f n`, another is zeroed or kept. -/
def VEnv.write (e : VEnv) (o : VOp) (w count : Nat) (f : Nat → Nat × FFlags) : VOut :=
  let act := (List.range count).filter fun n => e.active o.k n w
  let res := act.map fun n => (n, f n)
  let out := putElems (e.v o.vd) w count fun n =>
    match res.find? fun x => x.1 == n with
    | some x => some x.2.1
    | none => if o.z then some 0 else none
  { v := [(o.vd, out, egs count w)], flags := res.foldl (fun a x => a ||| x.2.2) 0 }

/-- b_operand(n) of R131. -/
def VEnv.b (e : VEnv) (o : VOp) (w n : Nat) : Nat := if o.bs then e.x0.toNat % 2 ^ w else elemAt (e.v o.vb) w n

/-- The rounding context of element `n` (R56, R57, R60). -/
def VEnv.ctx (e : VEnv) (rm : BitVec 3) (n : Nat) : RCtx :=
  let m := roundMode rm e.fmode
  { rm := m, ftz := fmFtz e.fmode, sat := fmSat e.fmode, u := if m = .sr then srWord e.rngkey e.rng.toNat n else 0 }

/-- The element width of a V-format word. -/
def vw (o : VOp) : Nat := tyWidth o.ty.toNat

/-- An operand element as a value, FTZ applied (R57). -/
def FpFmt.opVal (f : FpFmt) (c : RCtx) (x : Nat) : FVal := f.value (f.ftzIn c.ftz x)

/-- An element-wise instruction: the integer operation, and the floating-point one (R131, R137). -/
def VEnv.lanes (e : VEnv) (o : VOp) (int : Nat → Nat → Nat → Nat × FFlags) (fp : RCtx → FVal → FVal → FVal → ExVal) : VOut :=
  e.write o (tyWidth o.ty.toNat) (e.count (tyWidth o.ty.toNat)) fun n =>
    let w := tyWidth o.ty.toNat
    let a := elemAt (e.v o.va) w n
    let b := e.b o w n
    let c := elemAt (e.v o.vc) w n
    if tyIsInt o.ty.toNat then int a b c
    else
      let f := fmtOfTy o.ty.toNat
      let x := e.ctx o.rm n
      f.finish x (fp x (f.opVal x a) (f.opVal x b) (f.opVal x c))

/-- An integer result: wrapped, or clamped with SA in the saturating form (R138). -/
def intResult (o : VOp) (i : Int) : Nat × FFlags :=
  let t := o.ty.toNat
  if o.imm == 1 then
    let r := clampInt (tySigned t) (tyWidth t) i
    (wrapInt (tyWidth t) r.1, if r.2 then fSA else 0)
  else (wrapInt (tyWidth t) i, 0)

/-- An element read with its type's signedness. -/
def intOf (o : VOp) (x : Nat) : Int := readInt (tySigned o.ty.toNat) (tyWidth o.ty.toNat) x

/-- `VADD` (R137). -/
def laneVadd (e : VEnv) (o : VOp) : VOut := e.lanes o (fun a b _ => intResult o (intOf o a + intOf o b)) fun x a b _ => addVal x.rm a b

/-- `VSUB` (R137). -/
def laneVsub (e : VEnv) (o : VOp) : VOut :=
  e.lanes o (fun a b _ => intResult o (intOf o a - intOf o b)) fun x a b _ => addVal x.rm a b.negate

/-- `VMUL` (R137). -/
def laneVmul (e : VEnv) (o : VOp) : VOut := e.lanes o (fun a b _ => intResult o (intOf o a * intOf o b)) fun _ a b _ => mulVal a b

/-- `VMULH` (R137). -/
def laneVmulh (e : VEnv) (o : VOp) : VOut :=
  e.lanes o (fun a b _ => (wrapInt (vw o) (intOf o a * intOf o b / 2 ^ vw o), 0)) fun _ a b _ => mulVal a b

/-- `VFMA` (R137, R138). -/
def laneVfma (e : VEnv) (o : VOp) : VOut :=
  e.lanes o (fun a b c => (wrapInt (vw o) (intOf o a * intOf o b + intOf o c), 0)) fun x a b c => fmaVal x.rm a b c

/-- `VFMS` (R137). -/
def laneVfms (e : VEnv) (o : VOp) : VOut :=
  e.lanes o (fun a b c => (wrapInt (vw o) (intOf o a * intOf o b - intOf o c), 0)) fun x a b c => fmaVal x.rm a b c.negate

/-- `VFNMA` (R137). -/
def laneVfnma (e : VEnv) (o : VOp) : VOut :=
  e.lanes o (fun a b c => (wrapInt (vw o) (intOf o c - intOf o a * intOf o b), 0)) fun x a b c => fmaVal x.rm a.negate b c

/-- `VDIV` (R138, R139). -/
def laneVdiv (e : VEnv) (o : VOp) : VOut :=
  e.lanes o (fun a b _ => (divide (tySigned o.ty.toNat) (vw o) a b, 0)) fun _ a b _ => divVal a b

/-- `VSQRT` (R137). -/
def laneVsqrt (e : VEnv) (o : VOp) : VOut := e.lanes o (fun a _ _ => (a, 0)) fun _ a _ _ => sqrtVal a

/-- The special functions of R140, numbered as `FpFmt.special` numbers them. -/
def VEnv.special (e : VEnv) (o : VOp) (fn : Nat) : VOut :=
  e.write o (tyWidth o.ty.toNat) (e.count (tyWidth o.ty.toNat)) fun n =>
    (fmtOfTy o.ty.toNat).special fn (e.ctx o.rm n) (elemAt (e.v o.va) (tyWidth o.ty.toNat) n)

def laneVrcp (e : VEnv) (o : VOp) : VOut := e.special o 0
def laneVrsq (e : VEnv) (o : VOp) : VOut := e.special o 1
def laneVexp2 (e : VEnv) (o : VOp) : VOut := e.special o 2
def laneVlog2 (e : VEnv) (o : VOp) : VOut := e.special o 3
def laneVsin (e : VEnv) (o : VOp) : VOut := e.special o 4
def laneVcos (e : VEnv) (o : VOp) : VOut := e.special o 5
def laneVtanh (e : VEnv) (o : VOp) : VOut := e.special o 6

/-- An element-wise instruction on the bits of its elements, without flags. -/
def VEnv.bitLanes (e : VEnv) (o : VOp) (f : Nat → Nat → Nat) : VOut :=
  e.write o (tyWidth o.ty.toNat) (e.count (tyWidth o.ty.toNat)) fun n =>
    (f (elemAt (e.v o.va) (tyWidth o.ty.toNat) n) (e.b o (tyWidth o.ty.toNat) n), 0)

/-- Minimum or maximum of two elements (R137, R139): FTZ applies to floating-point operands, no flag is raised. -/
def minMaxElem (t : Nat) (ftz mx : Bool) (a b : Nat) : Nat :=
  let w := tyWidth t
  if tyIsInt t then
    if decide (readInt (tySigned t) w a < readInt (tySigned t) w b) != mx then a else b
  else (fmtOfTy t).minMax mx ((fmtOfTy t).ftzIn ftz a) ((fmtOfTy t).ftzIn ftz b)

/-- `VMIN`, `VMAX` (R137, R139). -/
def laneVmin (e : VEnv) (o : VOp) : VOut := e.bitLanes o (minMaxElem o.ty.toNat (fmFtz e.fmode) false)
def laneVmax (e : VEnv) (o : VOp) : VOut := e.bitLanes o (minMaxElem o.ty.toNat (fmFtz e.fmode) true)

/-- `VABS` (R138, R139): for floating point the sign bit alone. -/
def laneVabs (e : VEnv) (o : VOp) : VOut :=
  let w := tyWidth o.ty.toNat
  e.write o w (e.count w) fun n =>
    let a := elemAt (e.v o.va) w n
    if tyIsInt o.ty.toNat then intResult o (intOf o a).natAbs else (a % 2 ^ (w - 1), 0)

/-- `VNEG` (R138, R139). -/
def laneVneg (e : VEnv) (o : VOp) : VOut :=
  let w := tyWidth o.ty.toNat
  e.write o w (e.count w) fun n =>
    let a := elemAt (e.v o.va) w n
    if tyIsInt o.ty.toNat then intResult o (-intOf o a) else ((a + 2 ^ (w - 1)) % 2 ^ w, 0)

/-- `VAND`, `VOR`, `VXOR` (R137). -/
def laneVand (e : VEnv) (o : VOp) : VOut := e.bitLanes o (· &&& ·)
def laneVor (e : VEnv) (o : VOp) : VOut := e.bitLanes o (· ||| ·)
def laneVxor (e : VEnv) (o : VOp) : VOut := e.bitLanes o (· ^^^ ·)

/-- `VSHL`, `VSHR`, `VSAR` (R137): the amount is taken modulo the width. -/
def laneVshl (e : VEnv) (o : VOp) : VOut := e.bitLanes o fun a b => (a <<< (b % vw o)) % 2 ^ vw o
def laneVshr (e : VEnv) (o : VOp) : VOut := e.bitLanes o fun a b => a >>> (b % vw o)
def laneVsar (e : VEnv) (o : VOp) : VOut := e.bitLanes o fun a b => wrapInt (vw o) (sextNat (vw o) a >>> (b % vw o))

/-- A condition of R141 on an order, none when an operand is a NaN. -/
def vcondHolds (c : VCond) (d : Option Int) : Bool :=
  match c, d with
  | .un, none | .ne, none => true
  | _, none => false
  | .eq, some d => d == 0
  | .ne, some d => d != 0
  | .lt, some d => d < 0
  | .le, some d => d ≤ 0
  | .gt, some d => 0 < d
  | .ge, some d => 0 ≤ d
  | .un, some _ => false

/-- The order of two elements. -/
def elemOrder (t : Nat) (ftz : Bool) (a b : Nat) : Option Int :=
  if tyIsInt t then some (readInt (tySigned t) (tyWidth t) a - readInt (tySigned t) (tyWidth t) b)
  else cmpVal ((fmtOfTy t).value ((fmtOfTy t).ftzIn ftz a)) ((fmtOfTy t).value ((fmtOfTy t).ftzIn ftz b))

/-- The mask register that a 6-bit field names. -/
def kReg (r : BitVec 6) : BitVec 4 := r.extractLsb' 0 4

/-- A mask's bits, a count form expanded with its own width (R141). -/
def MaskVal.bit (m : MaskVal) (n : Nat) : Bool :=
  match m with
  | .bitmap b => b.getLsbD n
  | .count c _ => n < c

/-- `VCMP` (R141). -/
def laneVcmp (e : VEnv) (c : VCond) (o : VOp) : VOut :=
  let w := tyWidth o.ty.toNat
  let cnt := e.count w
  let old := e.mask (kReg o.vd)
  let b := bitmapOf fun n =>
    if n < cnt && e.active o.k n w then
      vcondHolds c (elemOrder o.ty.toNat (fmFtz e.fmode) (elemAt (e.v o.va) w n) (e.b o w n))
    else if o.z then false else old.bit n
  { k := some (kReg o.vd, .bitmap b) }

/-- `VSEL` (R142). -/
def laneVsel (e : VEnv) (o : VOp) : VOut :=
  let w := tyWidth o.ty.toNat
  let cnt := e.count w
  let out := putElems (e.v o.vd) w cnt fun n => some (if e.active o.k n w then elemAt (e.v o.va) w n else e.b o w n)
  { v := [(o.vd, out, egs cnt w)] }

/-- `VIOTA` (R143). -/
def laneViota (e : VEnv) (cnt : Bool) (o : VOp) : VOut :=
  let w := tyWidth o.ty.toNat
  e.write o w (e.count w) fun n =>
    ((if cnt then (List.range n).countP fun m => e.active o.k m w else n) % 2 ^ w, 0)

/-- `VCVT` (R144): TY is the destination, imm8 [3:0] the source. -/
def laneVcvt (e : VEnv) (o : VOp) : VOut :=
  let src := (o.imm.extractLsb' 0 4).toNat
  let dst := o.ty.toNat
  let cnt := min (e.count (tyWidth src)) (e.cap (tyWidth dst))
  e.write o (tyWidth dst) cnt fun n => convert dst src (e.ctx o.rm n) (elemAt (e.v o.va) (tyWidth src) n)

/-- The tile format that imm8 [4:0] names (R145). -/
def quantFmt (o : VOp) : TFmt := (tileFmt (o.imm.extractLsb' 0 5).toNat).getD ⟨32, .float fmtF32⟩

/-- EGs that a run of bytes from the start of a register lies in. -/
def byteEgs (n : Nat) : Nat := ceilDiv n 256

/-- `VQUANT` (R145, R69): blocks into vd, scales into v(d+1). -/
def laneVquant (e : VEnv) (o : VOp) : VOut :=
  let w := tyWidth o.ty.toNat
  let f := fmtOfTy o.ty.toNat
  let tf := quantFmt o
  let cnt := e.count w
  let xs := (List.range cnt).map fun n =>
    let c := e.ctx o.rm n
    (f.opVal c (elemAt (e.v o.va) w n), c.u)
  let groups := (chunks 32 (cnt + 1) xs).map fun l => l ++ List.replicate (32 - l.length) (FVal.fin false 0 0, 0)
  let rs := groups.map (quantGroup tf (roundMode o.rm e.fmode))
  let n := rs.length
  let data := packElems (32 * tf.w) (rs.map fun r => packRow tf r.2.1)
  let vd := putRange (e.v o.vd) 0 (32 * tf.w * n) data
  let vs := putRange (e.v (o.vd + 1)) 0 (8 * n) (packElems 8 (rs.map (·.1)))
  { v := [(o.vd, vd, byteEgs (4 * tf.w * n)), (o.vd + 1, vs, byteEgs n)], flags := rs.foldl (fun a r => a ||| r.2.2) 0 }

/-- `VDEQ` (R146): each element's value times its block's scale, rounded; a scale of 0xFF gives NaN with NV. -/
def laneVdeq (e : VEnv) (o : VOp) : VOut :=
  let w := tyWidth o.ty.toNat
  let f := fmtOfTy o.ty.toNat
  let tf := quantFmt o
  let row := (e.v o.va).toNat
  e.write o w (e.count w) fun n =>
    let scale := elemAt (e.v (o.va + 1)) 8 (n / 32)
    if scale = 255 then (f.nan, fNV) else f.finish (e.ctx o.rm n) (elemVal tf (codeAt tf row n) scale).exact

/-! ### Reductions and scans (R68, R147, R148) -/

/-- The context of a reduction: RNE where dynamic SR would apply (R147). -/
def VEnv.redCtx (e : VEnv) (rm : BitVec 3) : RCtx :=
  let m := roundMode rm e.fmode
  { rm := if m = .sr then .rne else m, ftz := fmFtz e.fmode, sat := fmSat e.fmode }

/-- The identity of an operation (R68, R147). For an integer minimum or maximum it is the type's greatest or least value, where the rule
names only the infinities (DESIGN CHOICE; log entry 124). -/
def redIdentity (op : RedOp) (t : Nat) (rm : RMode) : Nat :=
  let w := tyWidth t
  let f := fmtOfTy t
  match op with
  | .add => if tyIsInt t then 0 else if rm = .rdn then 0 else f.withSign true 0
  | .min => if tyIsInt t then wrapInt w (intRange (tySigned t) w).2 else f.inf false
  | .max => if tyIsInt t then wrapInt w (intRange (tySigned t) w).1 else f.inf true
  | .mul => if tyIsInt t then 1 else f.encodeMag 1 0
  | .and => 2 ^ w - 1
  | .or | .xor => 0

/-- One combination, rounded (R68). -/
def redStep (op : RedOp) (t : Nat) (c : RCtx) (a b : Nat) : Nat × FFlags :=
  let w := tyWidth t
  let f := fmtOfTy t
  match op with
  | .add => if tyIsInt t then ((a + b) % 2 ^ w, 0) else f.finish c (addVal c.rm (f.opVal c a) (f.opVal c b))
  | .mul => if tyIsInt t then (a * b % 2 ^ w, 0) else f.finish c (mulVal (f.opVal c a) (f.opVal c b))
  | .min => (minMaxElem t c.ftz false a b, 0)
  | .max => (minMaxElem t c.ftz true a b, 0)
  | .and => (a &&& b, 0)
  | .or => (a ||| b, 0)
  | .xor => (a ^^^ b, 0)

/-- Ascending combination from the identity. -/
def foldRed (op : RedOp) (t : Nat) (c : RCtx) (xs : List Nat) : Nat × FFlags :=
  xs.foldl (fun (a, fl) x =>
    let r := redStep op t c a x
    (r.1, fl ||| r.2)) (redIdentity op t c.rm, 0)

/-- One level of the tree of R68. -/
def treeLevel (op : RedOp) (t : Nat) (c : RCtx) : List Nat → List Nat × FFlags
  | a :: b :: l =>
    let r := redStep op t c a b
    let rest := treeLevel op t c l
    (r.1 :: rest.1, r.2 ||| rest.2)
  | l => (l, 0)

/-- The tree over the indices 0 to 2,047 (R68): eleven levels. -/
def treeRed (op : RedOp) (t : Nat) (c : RCtx) (xs : List Nat) : Nat × FFlags :=
  let full := xs ++ List.replicate (2048 - xs.length) (redIdentity op t c.rm)
  let r := (List.range 11).foldl (fun (l, fl) _ =>
    let n := treeLevel op t c l
    (n.1, fl ||| n.2)) (full, (0 : FFlags))
  (r.1.headD 0, r.2)

/-- Elements `lo` to `lo + n - 1` of va as a reduction takes them: inactive and outside elements are the identity. -/
def VEnv.redElems (e : VEnv) (op : RedOp) (o : VOp) (rm : RMode) (lo n : Nat) : List Nat :=
  let w := tyWidth o.ty.toNat
  (List.range n).map fun i =>
    if lo + i < e.count w && e.active o.k (lo + i) w then elemAt (e.v o.va) w (lo + i) else redIdentity op o.ty.toNat rm

/-- `VREDO` and `VREDT` (R147), by the way they combine. The `.row` form writes as many rows as the type's capacity holds elements, where
the rule's i < ROWS would go beyond the register (DESIGN CHOICE; log entry 125). -/
def VEnv.reduce (e : VEnv) (op : RedOp) (o : VOp) (f : RedOp → Nat → RCtx → List Nat → Nat × FFlags) : VOut :=
  let w := tyWidth o.ty.toNat
  let c := e.redCtx o.rm
  let rs :=
    if o.imm = 1 then
      (List.range (min e.rows (e.cap w))).map fun i => f op o.ty.toNat c (e.redElems op o c.rm (i * e.cols) e.cols)
    else [f op o.ty.toNat c (e.redElems op o c.rm 0 (e.count w))]
  let n := rs.length
  { v := [(o.vd, putElems (e.v o.vd) w n fun i => (rs[i]?).map Prod.fst, egs n w)], flags := rs.foldl (fun a r => a ||| r.2) 0 }

def laneVredo (e : VEnv) (op : RedOp) (o : VOp) : VOut := e.reduce op o foldRed
def laneVredt (e : VEnv) (op : RedOp) (o : VOp) : VOut := e.reduce op o treeRed

/-- The running values of `VSCAN` (R148): out(n) for each element, and the flags. -/
def VEnv.scanGo (e : VEnv) (op : RedOp) (o : VOp) (c : RCtx) : List Nat → Nat → List Nat × FFlags
  | [], _ => ([], 0)
  | n :: l, acc =>
    let w := tyWidth o.ty.toNat
    let id := redIdentity op o.ty.toNat c.rm
    let acc := if o.imm.getLsbD 0 && n % e.cols == 0 then id else acc
    let x := if e.active o.k n w then elemAt (e.v o.va) w n else id
    let r := redStep op o.ty.toNat c acc x
    let rest := e.scanGo op o c l r.1
    ((if o.imm.getLsbD 1 then acc else r.1) :: rest.1, r.2 ||| rest.2)

/-- `VSCAN` (R148). -/
def laneVscan (e : VEnv) (op : RedOp) (o : VOp) : VOut :=
  let w := tyWidth o.ty.toNat
  let cnt := e.count w
  let c := e.redCtx o.rm
  let s := e.scanGo op o c (List.range cnt) (redIdentity op o.ty.toNat c.rm)
  let out := e.write o w cnt fun n => (s.1.getD n 0, 0)
  { out with flags := s.2 }

/-! ### Permutes and moves (R149, R150) -/

/-- A permute: element n takes the value that `f` gives. -/
def VEnv.permute (e : VEnv) (o : VOp) (f : Nat → Nat → Nat) : VOut :=
  let w := tyWidth o.ty.toNat
  e.write o w (e.count w) fun n => (f w n, 0)

/-- `VPERM` (R149). The transposing form may name a source at or above the capacity, for a shape that exceeds it: the bits of the register
there, and 0 beyond it (DESIGN CHOICE; log entry 125). -/
def laneVperm (e : VEnv) (t : Bool) (o : VOp) : VOut :=
  e.permute o fun w n =>
    if t then elemAt (e.v o.va) w (n % e.rows * e.cols + n / e.rows)
    else
      let j := elemAt (e.v o.vb) 32 n
      if j < e.cap w then elemAt (e.v o.va) w j else 0

/-- `VBCAST` (R149): row g of va, or row 0 where there is none. A source at or above the capacity reads as `VPERM.t` has it (DESIGN
CHOICE; log entry 125). -/
def laneVbcast (e : VEnv) (row : Bool) (o : VOp) : VOut :=
  let j := if e.rows ≤ e.x0.toNat then 0 else e.x0.toNat
  e.permute o fun w n => if row then elemAt (e.v o.va) w (j * e.cols + n % e.cols) else e.x0.toNat % 2 ^ w

/-- The active elements of a mask below E, in order. -/
def VEnv.actives (e : VEnv) (o : VOp) : List Nat :=
  (List.range (e.count (tyWidth o.ty.toNat))).filter fun n => e.active o.k n (tyWidth o.ty.toNat)

/-- `VCOMPRESS` (R149): the mask governs the source. -/
def laneVcompress (e : VEnv) (o : VOp) : VOut :=
  let w := tyWidth o.ty.toNat
  let cnt := e.count w
  let l := e.actives o
  let out := putElems (e.v o.vd) w cnt fun n =>
    match l[n]? with
    | some m => some (elemAt (e.v o.va) w m)
    | none => if o.z then some 0 else none
  { v := [(o.vd, out, egs cnt w)] }

/-- `VEXPAND` (R149). -/
def laneVexpand (e : VEnv) (o : VOp) : VOut :=
  let l := e.actives o
  e.permute o fun w n => elemAt (e.v o.va) w (l.idxOf n)

/-- `VSLIDE` (R149). -/
def laneVslide (e : VEnv) (dn : Bool) (o : VOp) : VOut :=
  let sh := if o.bs then e.x0.toNat else o.imm.toNat
  e.permute o fun w n =>
    if dn then (if n + sh < e.count w then elemAt (e.v o.va) w (n + sh) else 0)
    else if sh ≤ n then elemAt (e.v o.va) w (n - sh) else 0

/-- The element index of `VMOVS` and `VINS` (R150). -/
def movIdx (hi : BitVec 3) (o : VOp) : Nat := 256 * hi.toNat + o.imm.toNat

/-- `VMOVS` (R150): sign-extended for i and F types, zero-extended for n types; 0 beyond the capacity. An e4m3 or e5m2 element, for which R150
names no extension, is sign-extended (DESIGN CHOICE, log entry 46). -/
def laneVmovs (e : VEnv) (hi : BitVec 3) (o : VOp) : VOut :=
  let w := tyWidth o.ty.toNat
  let i := movIdx hi o
  let x := if i < e.cap w then elemAt (e.v o.va) w i else 0
  { g := some (o.vd, if 4 ≤ o.ty.toNat && o.ty.toNat < 8 then BitVec.ofNat 64 x else BitVec.ofInt 64 (sextNat w x)) }

/-- `VINS` (R150). -/
def laneVins (e : VEnv) (hi : BitVec 3) (o : VOp) : VOut :=
  let w := tyWidth o.ty.toNat
  let i := movIdx hi o
  if i < e.cap w then { v := [(o.vd, elemPut (e.v o.vd) w i (e.x0.toNat % 2 ^ w), i * w / 2048 + 1)] } else {}

/-! ### Mask instructions (R136) -/

/-- A logical mask instruction. -/
def VEnv.kLogic (e : VEnv) (o : VOp) (f : Bool → Bool → Bool) : VOut :=
  let w := tyWidth o.ty.toNat
  { k := some (kReg o.vd, .bitmap (bitmapOf fun n => f (e.active (kReg o.va) n w) (e.active (kReg o.vb) n w))) }

def laneKand (e : VEnv) (o : VOp) : VOut := e.kLogic o (· && ·)
def laneKor (e : VEnv) (o : VOp) : VOut := e.kLogic o (· || ·)
def laneKxor (e : VEnv) (o : VOp) : VOut := e.kLogic o (· != ·)
def laneKandn (e : VEnv) (o : VOp) : VOut := e.kLogic o fun a b => a && !b
def laneKnot (e : VEnv) (o : VOp) : VOut := e.kLogic o fun a _ => !a

/-- `KCNT`. -/
def laneKcnt (e : VEnv) (o : VOp) : VOut :=
  let w := tyWidth o.ty.toNat
  { g := some (o.vd, BitVec.ofNat 64 ((List.range (e.count w)).countP fun n => e.active (kReg o.va) n w)) }

/-- `KFIRST`. -/
def laneKfirst (e : VEnv) (o : VOp) : VOut :=
  let w := tyWidth o.ty.toNat
  { g := some (o.vd, BitVec.ofNat 64 (((List.range (e.count w)).find? fun n => e.active (kReg o.va) n w).getD (e.count w))) }

/-- `KSET`. -/
def laneKset (e : VEnv) (f : KSetForm) (o : VOp) : VOut :=
  let w := tyWidth o.ty.toNat
  let d := kReg o.vd
  { k := some (d, match f with
      | .count => .count (min e.x0.toNat 16384) w
      | .step =>
        match e.mask d with
        | .count c cw => .count (c - min c (e.count w)) cw
        | .bitmap b => .bitmap (b >>> e.count w)
      | .ones => .count 16384 64
      | .zero => .count 0 64) }

/-- `KMOV`. -/
def laneKmov (e : VEnv) (f : KMovForm) (o : VOp) : VOut :=
  match f with
  | .move => { k := some (kReg o.vd, e.mask (kReg o.va)) }
  | .fromv => { k := some (kReg o.vd, .bitmap ((e.v o.va).extractLsb' 0 2048)) }
  | .fromg => { k := some (kReg o.vd, .bitmap (e.x0.zeroExtend 2048)) }
  | .tov =>
    let b := bitmapOf (e.mask (kReg o.va)).bit
    { v := [(o.vd, putRange (e.v o.vd) 0 2048 b.toNat, 1)] }

/-- What a member that touches no memory computes. -/
def laneOf (e : VEnv) (i : Instr) : VOut :=
  match i with
  | .vadd o => laneVadd e o
  | .vsub o => laneVsub e o
  | .vmul o => laneVmul e o
  | .vmulh o => laneVmulh e o
  | .vfma o => laneVfma e o
  | .vfms o => laneVfms e o
  | .vfnma o => laneVfnma e o
  | .vdiv o => laneVdiv e o
  | .vsqrt o => laneVsqrt e o
  | .vrcp o => laneVrcp e o
  | .vrsq o => laneVrsq e o
  | .vexp2 o => laneVexp2 e o
  | .vlog2 o => laneVlog2 e o
  | .vsin o => laneVsin e o
  | .vcos o => laneVcos e o
  | .vtanh o => laneVtanh e o
  | .vmin o => laneVmin e o
  | .vmax o => laneVmax e o
  | .vabs o => laneVabs e o
  | .vneg o => laneVneg e o
  | .vand o => laneVand e o
  | .vor o => laneVor e o
  | .vxor o => laneVxor e o
  | .vshl o => laneVshl e o
  | .vshr o => laneVshr e o
  | .vsar o => laneVsar e o
  | .vcmp c o => laneVcmp e c o
  | .vsel o => laneVsel e o
  | .viota c o => laneViota e c o
  | .vcvt o => laneVcvt e o
  | .vquant o => laneVquant e o
  | .vdeq o => laneVdeq e o
  | .vredo op o => laneVredo e op o
  | .vredt op o => laneVredt e op o
  | .vscan op o => laneVscan e op o
  | .vperm t o => laneVperm e t o
  | .vbcast t o => laneVbcast e t o
  | .vmovs h o => laneVmovs e h o
  | .vins h o => laneVins e h o
  | .vcompress o => laneVcompress e o
  | .vexpand o => laneVexpand e o
  | .vslide d o => laneVslide e d o
  | .kand o => laneKand e o
  | .kor o => laneKor e o
  | .kxor o => laneKxor e o
  | .kandn o => laneKandn e o
  | .knot o => laneKnot e o
  | .kcnt o => laneKcnt e o
  | .kset f o => laneKset e f o
  | .kfirst o => laneKfirst e o
  | .kmov f o => laneKmov e f o
  | _ => {}

end Sys2Proof.Machine
end

