-- ==== Sys2Proof/Machine/Vector.lean ====
section
/-! DEFINITION. The vector stream (02 R31 to R38, R44; 04 R78 to R81; spec/06): posting a convoy, its checks at commit (19 R368), its
completion with the deferred faults of 19 R370, the arrival of loads, and one definition for each vector and mask instruction. -/

namespace Sys2Proof.Machine

/-! ### SHAPE (R128) -/

/-- VLMAX. -/
def Thread.vlmax (t : Thread) : Nat := if t.hdr.prot then 1024 else 2048

/-- ROWS and COLS of a shape. -/
def shapeRows (w : Word) : Nat := (w.extractLsb' 12 12).toNat
def shapeCols (w : Word) : Nat := (w.extractLsb' 0 12).toNat

/-- A legal shape without reserved bits. -/
def shapeLegal (vlmax : Nat) (w : Word) : Bool :=
  w.toNat / 2 ^ 24 == 0 && 1 ≤ shapeRows w && 1 ≤ shapeCols w && shapeRows w * shapeCols w ≤ vlmax

/-! ### Fields of members -/

/-- The VM fields of a MEM member. -/
def vmOp : Instr → Option VMOp
  | .vld _ o | .vst _ o | .vldx _ o | .vstx _ o | .vlds _ o | .vsts _ o => some o
  | _ => none

/-- A store. -/
def vmStore : Instr → Bool
  | .vst _ _ | .vstx _ _ | .vsts _ _ => true
  | _ => false

/-- A stream access (R156). -/
def vmStream : Instr → Bool
  | .vld .sb _ | .vst .sb _ => true
  | _ => false

/-- The V fields of a member. -/
def vOp : Instr → Option VOp
  | .vadd o | .vsub o | .vmul o | .vmulh o | .vfma o | .vfms o | .vfnma o | .vdiv o | .vsqrt o | .vrcp o | .vrsq o | .vexp2 o => some o
  | .vlog2 o | .vsin o | .vcos o | .vtanh o | .vmin o | .vmax o | .vabs o | .vneg o | .vand o | .vor o | .vxor o | .vshl o => some o
  | .vshr o | .vsar o | .vcmp _ o | .vsel o | .viota _ o | .vcvt o | .vquant o | .vdeq o | .vredo _ o | .vredt _ o => some o
  | .vscan _ o | .vperm _ o | .vbcast _ o | .vmovs _ o | .vins _ o | .vcompress o | .vexpand o | .vslide _ o => some o
  | .kand o | .kor o | .kxor o | .kandn o | .knot o | .kcnt o | .kset _ o | .kfirst o | .kmov _ o => some o
  | _ => none

/-- Registers `g` that a member captures at commit (R129, R151). -/
def vGSources (i : Instr) : List (BitVec 6) :=
  match vOp i, vmOp i with
  | some o, _ => if o.bs then [o.vb] else []
  | none, some o =>
    match i with
    | .vld .sb _ | .vst .sb _ => []
    | .vld .str _ | .vst .str _ | .vlds .str _ | .vsts .str _ => [o.base, o.sx]
    | .vld .d2 _ | .vst .d2 _ | .vlds .d2 _ | .vsts .d2 _ => [o.base, o.sx, o.s2]
    | _ => [o.base]
  | none, none => []

/-- The mask register that a member writes. -/
def kDest : Instr → Option (BitVec 4)
  | .vcmp _ o | .kand o | .kor o | .kxor o | .kandn o | .knot o | .kset _ o => some (kReg o.vd)
  | .kmov .move o | .kmov .fromv o | .kmov .fromg o => some (kReg o.vd)
  | _ => none

/-- The mask registers that a member reads. -/
def kSources (i : Instr) : List (BitVec 4) :=
  match vOp i, vmOp i, i with
  | _, _, .kand o | _, _, .kor o | _, _, .kxor o | _, _, .kandn o => [kReg o.va, kReg o.vb]
  | _, _, .knot o | _, _, .kcnt o | _, _, .kfirst o | _, _, .kmov _ o => [kReg o.va]
  | _, _, .kset _ o => [kReg o.vd]
  | some o, _, _ => [o.k]
  | none, some o, _ => [o.k]
  | none, none, _ => []

/-- The unit of a member (R79): 0 ALU, 1 FMA/SFU, 2 MEM, 3 PERM; none for an instruction that may not be a member. -/
def vecUnit : Instr → Option Nat
  | .vadd _ | .vsub _ | .vmin _ | .vmax _ | .vabs _ | .vneg _ | .vand _ | .vor _ | .vxor _ | .vshl _ | .vshr _ | .vsar _ => some 0
  | .vcmp _ _ | .vsel _ | .viota _ _ | .kand _ | .kor _ | .kxor _ | .kandn _ | .knot _ | .kcnt _ | .kset _ _ | .kfirst _ => some 0
  | .kmov _ _ => some 0
  | .vmul _ | .vmulh _ | .vfma _ | .vfms _ | .vfnma _ | .vdiv _ | .vsqrt _ | .vrcp _ | .vrsq _ | .vexp2 _ | .vlog2 _ => some 1
  | .vsin _ | .vcos _ | .vtanh _ | .vcvt _ | .vquant _ | .vdeq _ => some 1
  | .vld _ _ | .vst _ _ | .vldx _ _ | .vstx _ _ | .vlds _ _ | .vsts _ _ => some 2
  | .vredo _ _ | .vredt _ _ | .vscan _ _ | .vperm _ _ | .vbcast _ _ | .vmovs _ _ | .vins _ _ | .vcompress _ | .vexpand _ => some 3
  | .vslide _ _ => some 3
  | _ => none

/-- Elements for which an instruction reserves Philox blocks (R60, R132, R144, R145), by the widths of its capacity; none where it has
no rounding step, as an exact `VCVT` has none (DEDUCED, log entry 11). -/
def vRounds (i : Instr) : Option (BitVec 3 × List Nat) :=
  match i with
  | .vadd o | .vsub o | .vmul o | .vfma o | .vfms o | .vfnma o | .vdiv o =>
    if tyIsInt o.ty.toNat then none else some (o.rm, [tyWidth o.ty.toNat])
  | .vsqrt o | .vrcp o | .vrsq o | .vexp2 o | .vlog2 o | .vsin o | .vcos o | .vtanh o | .vquant o | .vdeq o =>
    some (o.rm, [tyWidth o.ty.toNat])
  | .vcvt o =>
    let src := (o.imm.extractLsb' 0 4).toNat
    if exactConversion o.ty.toNat src then none else some (o.rm, [tyWidth src, tyWidth o.ty.toNat])
  | _ => none

/-! ### Capturing a convoy -/

/-- The environment of a member of a convoy, over register files. -/
def Convoy.env (c : Convoy) (vlmax : Nat) (r : Regs) (m : Member) : VEnv :=
  { r := r, rows := c.rows, cols := c.cols, vlmax := vlmax, fmode := c.fmode, rngkey := c.rngkey, x0 := m.x0, rng := m.rng }

/-- The type of a vector access: its ty field, or the binding's TY (R156). -/
def Member.ty (m : Member) (o : VMOp) : Nat :=
  match m.stream with
  | some b => b.ty
  | none => o.ty.toNat

/-- Blocks that a member reserves. -/
def Convoy.blocks (c : Convoy) (vlmax : Nat) (i : Instr) : Nat :=
  match vRounds i with
  | some (rm, ws) =>
    if roundMode rm c.fmode = .sr then ceilDiv (ws.foldl (fun n w => min n (if w = 64 then vlmax / 2 else vlmax)) (c.rows * c.cols)) 4 else 0
  | none => 0

/-- POS after an access of `n` elements (R156). -/
def Stream.advance (b : Stream) (n : Nat) : Stream :=
  { b with pos := if b.wrap then (b.pos + n) % b.len else min (b.pos + n) b.len }

/-- A member captured at commit: the state after it has moved RNGCTR, POS and the arrival bits (R35, R60, R156). -/
def State.captureMember (s : State) (c : Convoy) (i : Instr) : State × Member :=
  let t := s.thr
  let vl := t.vlmax
  let rng := t.c.rngctr
  let s := s.onThr fun t => { t with c := { t.c with rngctr := rng + BitVec.ofNat 64 (c.blocks vl i) } }
  match vmOp i with
  | none => (s, ⟨i, (match vOp i with | some o => if o.bs then s.g o.vb else 0 | none => 0), 0, 0, rng, none, 0⟩)
  | some o =>
    let sb := (o.base.extractLsb' 0 3).toNat
    let b := if vmStream i then vget t.r.sb sb else none
    let m : Member := ⟨i, if vmStream i then 0 else s.g o.base, s.g o.sx, s.g o.s2, rng, b, 0⟩
    let w := tyWidth (m.ty o)
    let e := (c.env vl t.r m).count w
    let s := s.onThr fun t =>
      { t with r := { t.r with sb := match b with | some b => vset t.r.sb sb (some (b.advance e)) | none => t.r.sb } }
    let s := if vmStore i then s else s.onThr fun t =>
      let keep : BitVec 32 := BitVec.ofNat 32 (2 ^ 32 - 2 ^ egs e w)
      { t with r := { t.r with arr := vset t.r.arr o.vt.toNat (vget t.r.arr o.vt.toNat &&& keep) } }
    (s, m)

/-- The members of a convoy captured in order. -/
def State.captureAll (s : State) (c : Convoy) : List Instr → State × List Member
  | [] => (s, [])
  | i :: l =>
    let (s, m) := s.captureMember c i
    let (s, ms) := State.captureAll s c l
    (s, m :: ms)

/-! ### Vector accesses (R151, R152, R156) -/

/-- What a vector access does with an element. -/
inductive VAcc where
  | skip
  | zero
  | at (a : Word)
  deriving DecidableEq, Repr

/-- The byte address of element `n` of an access that is no stream's (R151). -/
def vmAddr (e : VEnv) (m : Member) (o : VMOp) (b n : Nat) : Word :=
  let off : Word := BitVec.ofInt 64 ((b : Int) * o.off.toInt)
  let i : Word := BitVec.ofNat 64 n
  let ix : Word := BitVec.ofInt 64 (sextNat 32 (elemAt (e.v o.sx) 32 n))
  match m.ins with
  | .vldx by_ _ | .vstx by_ _ => m.x0 + off + (if by_ then ix else BitVec.ofNat 64 b * ix)
  | .vld .str _ | .vst .str _ | .vlds .str _ | .vsts .str _ => m.x0 + off + i * m.x1
  | .vld .d2 _ | .vst .d2 _ | .vlds .d2 _ | .vsts .d2 _ =>
    m.x0 + off + BitVec.ofNat 64 (n / e.cols) * m.x1 + BitVec.ofNat 64 (n % e.cols) * (if o.s2 = 0 then BitVec.ofNat 64 b else m.x2)
  | _ => m.x0 + off + BitVec.ofNat 64 b * i

/-- The elements of an access, in order. -/
def vmElems (e : VEnv) (m : Member) (o : VMOp) : List VAcc :=
  let w := tyWidth (m.ty o)
  (List.range (e.count w)).map fun n =>
    if !e.active o.k n w then .skip else
    match m.stream with
    | none => .at (vmAddr e m o (w / 8) n)
    | some b =>
      let p := b.pos + n
      if b.wrap then .at (b.ea (p % b.len)) else if b.len ≤ p then .zero else .at (b.ea p)

/-- The access goes to the scratchpad. -/
def Member.spad (m : Member) : Bool :=
  match m.ins with
  | .vlds _ _ | .vsts _ _ => true
  | _ => match m.stream with | some b => b.spad | none => false

/-- Orders 1 to 3 of R118 for one element (R152): its physical address or scratchpad offset, or the cause. -/
def State.vmCheck (s : State) (store spad : Bool) (b : Nat) (a : Word) : Except Nat Nat :=
  if a.toNat % b != 0 then .error cMISALIGNED
  else if spad then (if s.thr.spadBytes < a.toNat + b then .error cDATA_ACCESS else .ok a.toNat)
  else s.xlate s.thr.id.ctx s.thr.sup store a.toNat

/-- TRAPINFO of a vector memory fault (R152). -/
def vmFault (m : Member) (slot w n cause : Nat) (a : Word) : FaultInfo :=
  { cause := cause, i0 := a, i1 := BitVec.ofNat 64 ((if vmStore m.ins then 7 else 6) + slot * 256 + n * w / 2048 * 65536) }

/-- The elements of an access with their places, or the fault of the lowest one that fails. -/
def State.vmPlaces (s : State) (m : Member) (slot w : Nat) : List VAcc → Nat → Except FaultInfo (List (Nat × Word × Nat))
  | [], _ => .ok []
  | .at a :: l, n =>
    match s.vmCheck (vmStore m.ins) m.spad (w / 8) a with
    | .error c => .error (vmFault m slot w n c a)
    | .ok p =>
      match State.vmPlaces s m slot w l (n + 1) with
      | .error f => .error f
      | .ok r => .ok ((n, a, p) :: r)
  | _ :: l, n => State.vmPlaces s m slot w l (n + 1)

/-! ### What a member writes -/

/-- The register files after a member's output. -/
def Regs.apply (r : Regs) (o : VOut) : Regs :=
  let r := { r with v := o.v.foldl (fun v (d, x, _) => vset v d.toNat x) r.v }
  let r := match o.k with
    | some (d, m) => if d = 0 then r else { r with k := vset r.k d.toNat m }
    | none => r
  match o.g with
  | some (d, x) => if d = 0 then r else { r with g := vset r.g d.toNat x }
  | none => r

/-- The thread after a member's output: the registers, their dirtiness and their marks (R41, R133). -/
def Thread.applyOut (t : Thread) (o : VOut) : Thread :=
  { t with
    r := t.r.apply o
    vdirty := o.v.foldl (fun d (x, _, n) => if n = 0 then d else d ||| (1 <<< x.toNat)) t.vdirty
    hwm := o.v.foldl (fun h (x, _, n) => vset h x.toNat (max (vget h x.toNat) n)) t.hwm }

/-- The register files as the MEM member of a convoy finds them: the members before it touch no memory. -/
def Convoy.before (c : Convoy) (vlmax : Nat) : List Member → Regs → Regs
  | [], r => r
  | m :: l, r => if isMem m.ins then r else Convoy.before c vlmax l (r.apply (laneOf (c.env vlmax r m) m.ins))

/-! ### Posting (R31, R32, R35, R36, R38, R368) -/

/-- Sources whose trap bit is set: the field's number and the register (R36). Whether the bit of a field that names a pair, as that of `VDEQ`
does (R146), covers the second register too is left open: here it covers the register that the field names, and an empty second one is waited
for (DESIGN CHOICE, log entry 139). -/
def trapBits (i : Instr) : List (Nat × BitVec 6) :=
  match vOp i with
  | none => []
  | some o =>
    (if o.ea then [(0, o.va)] else []) ++ (if o.eb && !o.bs then [(1, o.vb)] else []) ++ (if o.ec then [(2, o.vc)] else [])

/-- The VEC_EMPTY fault of the first member whose marked source is empty. -/
def Thread.emptyFault (t : Thread) (ms : List Instr) : Option FaultInfo :=
  (ms.zipIdx.flatMap fun (i, slot) => (trapBits i).map fun (f, r) => (slot, f, r)).findSome? fun (slot, f, r) =>
    if t.full r.toNat then .none
    else some { cause := cVEC_EMPTY, i0 := r.zeroExtend 64, i1 := BitVec.ofNat 64 (f + 256 * slot) }

/-- A VEC_EMPTY trap: it stands while the vector queue drains (R366). -/
def State.raiseEmpty (s : State) (at_ : TrapAt) (f : FaultInfo) : State :=
  if s.guessing || s.speculative || s.thr.vq.isEmpty then s.raiseAt at_ f else s.setWait (.emptyTrap f)

/-- A load of the vector queue that writes a register has still to complete. -/
def Thread.loading (t : Thread) (r : BitVec 6) : Bool :=
  t.vq.any fun c => c.members.any fun m => isMem m.ins && (vDests m.ins).contains r

/-- A tile entry that has not issued reads one of the registers (R32). One whose fault is held holds no later write back: after `ERET` it reads
what the register holds when it issues again (DESIGN CHOICE, log entry 88). -/
def Thread.tileReads (t : Thread) (rs : List (BitVec 6)) : Bool :=
  t.tq.any fun e => e.st == .posted && !e.done && !e.skip && (t.vReads (t.olderEnts e) e.ins).any rs.contains

/-- The convoy's sources that are empty with no producer pending: it waits (R36); and destinations whose producer is pending (R38). -/
def Thread.vecStalled (t : Thread) (ms : List Instr) : Bool :=
  let srcs := ms.flatMap vSources
  let dsts := ms.flatMap vDests
  4 ≤ t.vq.length || t.tileReads dsts ||
    (srcs.any fun r => !t.full r.toNat && !t.loading r) ||
    (dsts.any fun r => !t.full r.toNat && t.loading r)

/-- A member names a stream binding at or above NSB (R292). -/
def Thread.badStream (t : Thread) (i : Instr) : Bool :=
  vmStream i && (match vmOp i with | some o => t.hdr.nsb ≤ (o.base.extractLsb' 0 3).toNat | .none => false)

/-- A convoy with its members still to be captured. -/
def State.emptyConvoy (s : State) : Convoy :=
  let t := s.thr
  ⟨t.pc, s.cycle, t.posts, shapeRows t.c.shape, shapeCols t.c.shape, t.c.fmode, t.c.rngkey, []⟩

/-- The convoy joins the vector queue and its words commit. -/
def State.enqueueConvoy (s : State) (c : Convoy) (len n : Nat) : State :=
  (s.onThr fun t => { t with vq := t.vq ++ [c] }).commitLen len n

/-- A convoy of the queue has still to write what the addresses of a MEM member follow from: the member's mask and index register, and
whatever the members before it read. -/
def Thread.addrPending (t : Thread) (ms : List Member) (m : Member) (o : VMOp) : Bool :=
  let before := (ms.takeWhile fun x => !isMem x.ins).map (·.ins)
  let vs := (match m.ins with | .vldx _ _ | .vstx _ _ => [o.sx] | _ => []) ++ before.flatMap vSources
  let ks := o.k :: before.flatMap kSources
  t.vq.any fun c => c.members.any fun x =>
    (vDests x.ins).any vs.contains || (match kDest x.ins with | some k => k != 0 && ks.contains k | .none => false)

/-- The checks of the MEM member at commit (R152, R156, R368): the convoy is posted, or traps, or waits for the convoys that its addresses
follow from, and for older acquires (R251). -/
def State.postMem (s : State) (c : Convoy) (s' : State) (slot : Nat) (m : Member) (o : VMOp) (len n : Nat) : State :=
  if s.acqPending || s.thr.addrPending c.members m o then s else
  if vmStream m.ins && m.stream.isNone then
    s.raiseAt .convoy { cause := cDATA_ACCESS, i0 := (o.base.extractLsb' 0 3).zeroExtend 64, i1 := 8 }
  else
    let w := tyWidth (m.ty o)
    let r := c.before s.thr.vlmax c.members s.thr.r
    match s.vmPlaces m slot w (vmElems (c.env s.thr.vlmax r m) m o) 0 with
    | .error f => s.raiseAt .convoy f
    | .ok l =>
      if vmStore m.ins && (s.guessing || (s.speculative && !m.spad && l.any fun x => paKind x.2.2 != 0)) then s.xhold
      else s'.enqueueConvoy c len n

/-- The control registers that a convoy captures at its commit (R32, R60, R129): `SHAPE`; `FMODE` for members that work on floating-point
elements; the random words' registers where one reserves blocks. -/
def State.convoyCsrs (s : State) (ms : List Instr) : List Nat :=
  0x010 ::
    (if ms.any fun i => (vRounds i).isSome || (match vOp i with | some o => !tyIsInt o.ty.toNat | none => false) then [0x011] else []) ++
    (if ms.any fun i => s.emptyConvoy.blocks s.thr.vlmax i != 0 then [0x013, 0x014] else [])

/-- A convoy reaches commit (R129, R368). `len` is its words, `n` the instructions that it counts for. -/
def State.postConvoy (s : State) (ms : List Instr) (len n : Nat) : Out :=
  match s.thr.wait with
  | .emptyTrap f => .next (s.raiseAt .convoy f)
  | _ =>
  match s.gWait (ms.flatMap fun i => vGSources i ++ (vGDest i).toList) with
  | some s' => .next s'
  | none =>
    if s.gDamaged (ms.flatMap vGSources) || s.csrLost (s.convoyCsrs ms) then .next (s.raiseAt .convoy { cause := cUNCORRECTABLE }) else
    match ms.find? s.thr.badStream with
    | some i => .next (s.raiseAt .convoy { cause := cILLEGAL, i0 := insWord i, i1 := 7 })
    | none =>
      match s.thr.emptyFault ms with
      | some f => .next (s.raiseEmpty .convoy f)
      | none =>
        if s.thr.vecStalled ms then .next s else
        let c := s.emptyConvoy
        let (s', l) := s.captureAll c ms
        let c := { c with members := l }
        match l.zipIdx.find? fun x => isMem x.1.ins with
        | none => .next (s'.enqueueConvoy c len n)
        | some (m, slot) =>
          match vmOp m.ins with
          | some o => .next (s.postMem c s' slot m o len n)
          | none => .next s

/-- A single vector word: a convoy of one (R81). -/
def State.postOne (s : State) (i : Instr) : Out := s.postConvoy [i] 1 1

/-! ### The convoy header (R78, R80) -/

/-- The instruction block that holds an address: the cache's copy, or memory's (R72, R242). -/
def State.codeBlock (s : State) (pc : CodeAddr) : Option (BitVec 512) :=
  match s.icache.find? fun b => b.core == s.thr.id.core && b.ctx == s.thr.id.ctx && b.block == pc.extractLsb' 6 42 with
  | some b => some b.data
  | none => (s.xlateCode s.thr.id.ctx s.thr.sup (pc.toNat / 64 * 64)).map fun pa => BitVec.ofNat 512 (s.mem.num pa 64)

/-- Word `n` of a block. -/
def blockWord (b : BitVec 512) (n : Nat) : Word := b.extractLsb' (64 * (n % 8)) 64

/-- The u fields of a header, in order. -/
def convoyUnits (o : COp) : List Nat := [o.u0.toNat, o.u1.toNat, o.u2.toNat, o.u3.toNat]

/-- The members of a convoy, where R80 allows the header. -/
def State.convoyMembers (s : State) (o : COp) : Option (List Instr) :=
  let n := o.cnt.toNat + 1
  let w := (s.thr.pc.extractLsb' 3 3).toNat
  if o.cnt = 0 || 7 < w + n || o.ch0 || (n < 4 && (o.u3 != 0 || o.ch3)) || (n < 3 && (o.u2 != 0 || o.ch2)) then none else
  match s.codeBlock s.thr.pc with
  | none => none
  | some b =>
    match (List.range n).mapM fun i => decode (blockWord b (w + 1 + i)) with
    | none => none
    | some ms =>
      let us := (convoyUnits o).take n
      if ms.map vecUnit == us.map some && us.dedup == us && ms.all (regsOk s.thr.hdr.vregs s.thr.hdr.tiles) then some ms else none

/-- `CONVOY` (R78, R80, R368). -/
def execConvoy (o : COp) (s : State) : Out :=
  match s.convoyMembers o with
  | none => .next (s.raiseAt .convoy { cause := cILLEGAL, i0 := insWord (.convoy o), i1 := 6 })
  | some ms => s.postConvoy ms (ms.length + 1) ms.length

/-! ### Errors of the vector file (R375, R376) -/

/-- The first bit, within an EG, of the element of width `w` that a lane's slice belongs to; a slice holds whole elements of the narrower types. -/
def laneBit (w lane : Nat) : Nat := 32 * lane / max w 32 * max w 32

/-- The elements, of width `w`, in lanes of a row written zero. -/
def zeroLanes (x : VReg) (w eg : Nat) (lanes : List Nat) : VReg :=
  lanes.foldl (fun x l => putRange x (2048 * eg + laneBit w l) (max w 32) 0) x

/-- A row of a vector register is written: its lanes, its dirtiness and its mark (R41). -/
def Thread.loseLanes (t : Thread) (r w eg : Nat) (lanes : List Nat) : Thread :=
  { t with r := { t.r with v := vset t.r.v r (zeroLanes (vget t.r.v r) w eg lanes) }
           vdirty := t.vdirty ||| (1 <<< r), hwm := vset t.hwm r (max (vget t.hwm r) (eg + 1)) }

/-- A fault of a convoy's member, with the element that fails: the lowest is reported (R370). -/
abbrev VFault := Nat × FaultInfo

/-- Of two faults of one member, that of the lower element; of one element, the first (R370, R371). -/
def lowerFault (a b : Option VFault) : Option VFault :=
  match a, b with
  | some x, some y => if y.1 < x.1 then some y else some x
  | some x, none => some x
  | none, y => y

/-- A source that a member reads: the register, how many EGs of it, and the width of its elements. -/
abbrev VRead := BitVec 6 × Nat × Nat

/-- Registers are read: single slices are rebuilt, and a row that cannot be gives zeros (R375, R376). The elements that are lost, the first of
each row, are answered with their EGs. -/
def State.vecDamage (s : State) (srcs : List VRead) : State × List (Nat × Nat) :=
  let src := fun (x : Nat × Nat × Nat × Nat × List Nat) =>
    if x.1 == s.thr.id.core && x.2.1 == s.thr.id.slot then srcs.find? fun r => r.1.toNat == x.2.2.1 && x.2.2.2.1 < r.2.1 else none
  match s.damage.vec.filter fun x => (src x).isSome with
  | [] => (s, [])
  | l =>
    let s := { s with damage := { s.damage with vec := s.damage.vec.filter fun x => !(src x).isSome } }
    l.foldl (fun (s, f) x =>
      let (_, _, r, eg, lanes) := x
      if lanes.length ≤ 1 then (s.count 17 1, f) else
      let w := match src x with | some y => y.2.2 | none => 32
      (s.onThr fun t => t.loseLanes r w eg lanes, f ++ [((2048 * eg + (lanes.map (laneBit w)).foldl min 2048) / w, eg)])) (s, [])

/-- A member's output takes effect, and the rows written are sound. -/
def State.applyOut (s : State) (o : VOut) : State :=
  let d := o.v.foldl (fun d (r, _, n) => d.rewriteVec s.thr.id.core s.thr.id.slot r.toNat n) s.damage
  let d := match o.g with | some (r, _) => d.rewriteG s.thr.id.core s.thr.id.slot r.toNat | none => d
  { s with thr := s.thr.applyOut o, damage := d }

/-- The width of a member's elements. -/
def Member.width (m : Member) : Nat :=
  match vmOp m.ins, vOp m.ins with
  | some o, _ => tyWidth (m.ty o)
  | none, some o => tyWidth o.ty.toNat
  | none, none => 32

/-- The sources that a member reads (R149, R129), of `n` EGs of its shape: all of a register for a PERM member other than `VSLIDE`; the
index, at 32 bits, for an indexed access; what the source type takes for a conversion; the blocks for `VDEQ`, and the EG of their scales;
one EG for a mask that moves. -/
def Convoy.reads (c : Convoy) (vlmax : Nat) (r : Regs) (m : Member) (n : Nat) : List VRead :=
  let e := c.env vlmax r m
  let w := m.width
  match m.ins with
  | .vldx _ o => [(o.sx, egs (e.count w) 32, 32)]
  | .vstx _ o => [(o.sx, egs (e.count w) 32, 32), (o.vt, n, w)]
  | .vcvt o =>
    let ws := tyWidth (o.imm.extractLsb' 0 4).toNat
    [(o.va, egs (min (e.count ws) (e.count w)) ws, ws)]
  | .vquant o => [(o.va, n, w)]
  | .vdeq o =>
    let blocks := ceilDiv (e.count w) 32
    [(o.va, byteEgs (4 * (quantFmt o).w * blocks), (quantFmt o).w), (o.va + 1, byteEgs blocks, 8)]
  | .vslide _ o => [(o.va, n, w)]
  | .kmov .fromv o => [(o.va, 1, 32)]
  | i => (vSources i).map fun x => (x, if vecUnit i = some 3 then 32 else n, w)

/-- The fault of a member that is no memory access: a source lost at an element (R376). -/
def lostFault (slot : Nat) (l : List (Nat × Nat)) : Option VFault :=
  l.foldl (fun b (n, eg) => lowerFault b (some (n, { cause := cUNCORRECTABLE, i1 := BitVec.ofNat 64 (slot * 256 + eg * 65536) }))) none

/-- Mismatches of a protected thread at a member (R380): the EGs whose second compare fails too. -/
def State.vecMismatch (s : State) (m : Member) (at_ : CodeAddr) (slot : Nat) : State × Option VFault :=
  let (l, s) := s.mismatches at_
  (s, (l.filter (2 ≤ ·.2)).foldl (fun b (eg, _) =>
    lowerFault b (some (eg % 32 * (2048 / m.width),
      { cause := cPROTECT, i1 := BitVec.ofNat 64 (insMajor m.ins + slot * 256 + eg % 32 * 65536) }))) none)

/-! ### Completion (R44, R132, R370) -/

/-- The first of two faults. -/
def firstFault (a b : Option VFault) : Option VFault :=
  match a with
  | some x => some x
  | none => b

/-- A load's elements arrive: those whose line fails are zero (R370). -/
def State.loadElems (s : State) (m : Member) (slot w : Nat) : List (Nat × Word × Nat) → List (Nat × Nat) × State × Option VFault
  | [] => ([], s, none)
  | (n, a, p) :: l =>
    let (v, s, f) :=
      if m.spad then (s.thr.spad.num p (w / 8), s, none) else
      match s.dataErr s.thr.id.ctx true false p with
      | some c => (0, s, some (n, vmFault m slot w n c a))
      | none =>
        let (bs, s) := s.loadBytes p (w / 8)
        (ofBytes bs, s, none)
    let (r, s, f') := State.loadElems s m slot w l
    ((n, v) :: r, s, firstFault f f')

/-- A store's elements are performed, ascending: the highest index wins an overlap (R153). -/
def State.storeElems (s : State) (m : Member) (slot w : Nat) (x : VReg) : List (Nat × Word × Nat) → State × Option VFault
  | [] => (s, none)
  | (n, a, p) :: l =>
    let bs := toBytes (w / 8) (elemAt x w n)
    let (s, f) :=
      if m.spad then (s.onThr fun t => t.spadWrite p bs, none) else
      match s.dataErr s.thr.id.ctx false true p with
      | some c => (s, some (n, vmFault m slot w n c a))
      | none => (s.storeBytes p bs, none)
    let (s, f') := State.storeElems s m slot w x l
    (s, firstFault f f')

/-- The places of a MEM member. A translation that fails here, after the checks at commit, is a failed line. -/
def State.memberPlaces (s : State) (c : Convoy) (m : Member) (o : VMOp) (slot : Nat) : List (Nat × Word × Nat) × Option VFault :=
  let w := tyWidth (m.ty o)
  let l := vmElems (c.env s.thr.vlmax s.thr.r m) m o
  match s.vmPlaces m slot w l 0 with
  | .ok l => (l, none)
  | .error f => ([], some (l.findIdx (· == .at f.i0), f))

/-- The fault of a MEM member whose source is lost at an element: the record of the lowest of those elements that it accesses (R152, R370,
R376). -/
def State.memLost (s : State) (c : Convoy) (m : Member) (o : VMOp) (slot : Nat) (lost : List (Nat × Nat)) : Option VFault :=
  let w := tyWidth (m.ty o)
  lost.foldl (fun b (n, _) =>
    let a := match (vmElems (c.env s.thr.vlmax s.thr.r m) m o)[n]? with | some (.at a) => a | _ => 0
    lowerFault b (some (n, vmFault m slot w n cUNCORRECTABLE a))) none

/-- A MEM member performs its accesses. -/
def State.runMem (s : State) (c : Convoy) (slot : Nat) (m : Member) (o : VMOp) : State × Option VFault :=
  let w := tyWidth (m.ty o)
  let e := c.env s.thr.vlmax s.thr.r m
  let cnt := e.count w
  if vmStore m.ins then
    let (l, f) := s.memberPlaces c m o slot
    let versioned := s.speculative
    let (s, f') := s.storeElems m slot w (e.v o.vt) l
    let s := if m.spad || versioned then s else { s with damage := s.damage.clearRuns (l.map fun x => (x.2.2, w / 8)) }
    (s, firstFault f f')
  else
    let done := fun (s : State) => s.onThr fun t => { t with r := { t.r with arr := vset t.r.arr o.vt.toNat (BitVec.allOnes 32) } }
    if m.early != 0 then (done s, none) else
    let (l, f) := s.memberPlaces c m o slot
    let (vs, s, f') := s.loadElems m slot w l
    let zeros := (vmElems e m o).zipIdx.filterMap fun (x, n) => if x = .zero then some (n, 0) else none
    let out := putElems (e.v o.vt) w cnt fun n => ((vs ++ zeros).find? fun x => x.1 == n).map Prod.snd
    (done (s.applyOut { v := [(o.vt, out, egs cnt w)] }), firstFault f f')

/-- EGs that a member processes (R400 event 6). -/
def Convoy.memberEgs (c : Convoy) (vlmax : Nat) (r : Regs) (m : Member) : Nat :=
  match vmOp m.ins, vOp m.ins with
  | some o, _ => egs ((c.env vlmax r m).count (tyWidth (m.ty o))) (tyWidth (m.ty o))
  | none, some o => egs ((c.env vlmax r m).count (tyWidth o.ty.toNat)) (tyWidth o.ty.toNat)
  | none, none => 0

/-- One member of a convoy runs. A store whose compare has failed twice issues no side effect (R258, R379). -/
def State.runMember (s : State) (c : Convoy) (slot : Nat) (m : Member) : State × FFlags × Option VFault :=
  let n := c.memberEgs s.thr.vlmax s.thr.r m
  let (s, lost) := s.vecDamage (c.reads s.thr.vlmax s.thr.r m n)
  let (s, f1) := s.vecMismatch m (c.pc + BitVec.ofNat 48 (if c.members.length = 1 then 0 else 8 * (slot + 1))) slot
  let s := s.count 6 n
  match vmOp m.ins with
  | some o =>
    let f0 := s.memLost c m o slot lost
    if vmStore m.ins && f1.isSome then (s, 0, lowerFault f0 f1) else
    let (s, f2) := s.runMem c slot m o
    (s, 0, lowerFault f0 (lowerFault f1 f2))
  | none =>
    let out := laneOf (c.env s.thr.vlmax s.thr.r m) m.ins
    (s.applyOut out, out.flags, lowerFault (lostFault slot lost) f1)

/-- The members of a convoy run in order. -/
def State.runMembers (s : State) (c : Convoy) : List (Member × Nat) → State × FFlags × Option VFault
  | [] => (s, 0, none)
  | (m, slot) :: l =>
    let (s, fl, f) := s.runMember c slot m
    let (s, fl', f') := State.runMembers s c l
    (s, fl ||| fl', firstFault f f')

/-- A convoy as it stands after its last EG: flags, counters, the CONVOY packet with the cycles since it began (R63, R397, R400). -/
def State.runConvoy (s : State) (c : Convoy) : State × Option FaultInfo :=
  let (s, fl, f) := s.runMembers c c.members.zipIdx
  let s := (s.orFlags fl).count 5 1
  (s.emit 3 ((c.members.length - 1) * 2 ^ 56 + min (s.cycle - c.began) 65535 * 2 ^ 40 + s.time), f.map Prod.snd)

/-- A store of the convoy waits for a versioned line (R356), or an access for a usable port until TMO (R385). -/
def State.convoyWaits (s : State) (c : Convoy) : Bool :=
  let r := c.before s.thr.vlmax c.members s.thr.r
  match c.members.zipIdx.find? fun x => isMem x.1.ins with
  | none => false
  | some (m, slot) =>
    match vmOp m.ins with
    | none => false
    | some o =>
      let s0 := s.onThr fun t => { t with r := r }
      let pas := ((s0.memberPlaces c m o slot).1.map fun x => x.2.2)
      !m.spad &&
        ((vmStore m.ins && s.versionsFull pas) ||
         (s.cycle < c.began + s.tmo && pas.any fun p => !s.podRefused s.thr.id.ctx (vmStore m.ins) p && s.noPort p))

/-- The oldest convoy leaves the vector queue, and the next one begins (R44). -/
def Thread.dropConvoy (t : Thread) (cycle : Nat) : Thread :=
  { t with vq := match t.vq.tail with | [] => [] | c :: l => { c with began := cycle } :: l }

/-- The convoys of the vector queue are discarded (R370): the registers that their loads had marked empty are full again, with what they held,
since no producer is left (R36). -/
def Thread.discardVq (t : Thread) : Thread :=
  let loads := t.vq.flatMap fun c => c.members.flatMap fun m => if isMem m.ins then vDests m.ins else []
  { t with r := { t.r with arr := loads.foldl (fun a d => vset a d.toNat (BitVec.allOnes 32)) t.r.arr }, vq := [] }

/-- The oldest convoy completes (R44). A fault in it is a deferred vector fault (R370): younger convoys are discarded and the trap is
taken; a speculative iteration holds it (R360), and a handler's is a double fault. -/
def execConvoyComplete (s : State) : Out :=
  match s.thr.vq with
  | [] => .fault .notEnabled
  | c :: _ =>
    if s.convoyWaits c then .next s else
    match s.runConvoy c with
    | (s', none) => .next (s'.onThr fun t => t.dropConvoy s'.cycle)
    | (s', some f) =>
      if s.guessing then .next s.abandonGuess
      else if s.thr.sup && !(s.thr.tq.all fun e => e.st != .issued || isMma e.ins) then .next s
      else .next ((s'.onThr Thread.discardVq).raiseAt (.vector c.pc) f)

/-- An EG of a load arrives before its convoy completes (R35): the load of the oldest convoy at a slot, where no member before it
uses its register. The first arrival performs the accesses; each one sets the next arrival bit. -/
def execVecEgArrival (member : Nat) (s : State) : Out :=
  match s.thr.vq with
  | [] => .fault .notEnabled
  | c :: rest =>
    match c.members[member]? with
    | none => .fault .notEnabled
    | some m =>
      match vmOp m.ins with
      | none => .fault .notEnabled
      | some o =>
        let n := c.memberEgs s.thr.vlmax s.thr.r m
        let clash := (c.members.take member).any fun x => (vSources x.ins ++ vDests x.ins).contains o.vt
        if vmStore m.ins || clash || n ≤ m.early || s.convoyWaits c then .fault .notEnabled else
        let old := s.thr.r
        let s1 := s.onThr fun t => { t with r := c.before s.thr.vlmax c.members t.r }
        let r := if m.early = 0 then s1.runMem c member m o else (s1, none)
        match r with
        | (_, some _) => .fault .notEnabled
        | (s', none) =>
          let bits := vget old.arr o.vt.toNat ||| (1 <<< m.early)
          let v := if m.early = 0 then vset old.v o.vt.toNat (vget s'.thr.r.v o.vt.toNat) else old.v
          let c' := { c with members := c.members.set member { m with early := m.early + 1 } }
          .next (s'.onThr fun t => { t with r := { old with v := v, arr := vset old.arr o.vt.toNat bits }, vq := c' :: rest })

/-! ### SHAPE and the stream bindings (R130, R155) -/

/-- A solo instruction, whose effect is made at its commit, joins the vector queue as a convoy of one (R79). -/
def State.postSolo (s : State) (i : Instr) : State :=
  s.onThr fun t => { t with vq := t.vq ++ [{ s.emptyConvoy with members := [⟨i, 0, 0, 0, 0, none, 0⟩] }] }

/-- `VSHAPE` (R130). -/
def execVshape (n : Bool) (o : VOp) (s : State) : Out :=
  s.scalar (.vshape n o) [o.vb] [] fun s =>
    if 4 ≤ s.thr.vq.length then .next s else
    let g := s.g o.vb
    let w : Word := if n then (g &&& ~~~(0xFFF000 : Word)) ||| 0x1000 else g
    if g.toNat / 2 ^ 24 != 0 || !shapeLegal s.thr.vlmax w then
      .next (s.illegalVal (.vshape n o) g)
    else .next ((s.postSolo (.vshape n o)).onThr fun t => { t with c := { t.c with shape := w } }).commit

/-- The number of a binding. -/
def sbNum (r : BitVec 6) : Nat := (r.extractLsb' 0 3).toNat

/-- A binding instruction runs in the vector stream's order: it waits until the queue is empty (R155); a number at or above NSB traps
(R292). -/
def State.binding (s : State) (i : Instr) (n : Nat) (srcs dst : List (BitVec 6)) (f : State → Out) : Out :=
  s.scalar i srcs dst fun s =>
    if s.thr.hdr.nsb ≤ n then .next (s.illegalMode i)
    else if !s.thr.vq.isEmpty then .next s
    else f s

/-- Set or clear a binding. -/
def State.setSb (s : State) (n : Nat) (b : Option Stream) : State :=
  s.onThr fun t => { t with r := { t.r with sb := vset t.r.sb n b } }

/-- A binding instruction's request waits for a usable port until TMO has passed (R385). -/
def State.bindWaits (s : State) (write : Bool) (pas : List Nat) : Option State :=
  if pas.all fun p => s.podRefused s.thr.id.ctx write p || !s.noPort p then none else
  match s.thr.wait with
  | .bindPort d => if d ≤ s.cycle then none else some s
  | _ => some (s.setWait (.bindPort (s.cycle + s.tmo)))

/-- The first error of a binding instruction's lines as their data moves (R118 orders 4 to 6). -/
def State.bindError (s : State) (write : Bool) (pas : List Nat) : Option Nat :=
  pas.findSome? fun p => s.dataErr s.thr.id.ctx (!write) write p

/-- An error of the data of a binding instruction: a deferred vector fault (R364, R370), with the binding left unbound (log entry 77). -/
def State.bindFault (s : State) (n : Nat) (f : FaultInfo) : State :=
  let at_ := s.thr.pc
  (s.setSb n none).commit.raiseAt (.vector at_) f

/-- `VBIND` (R155): its block is read as a vector load reads 128 bytes. A block that is not valid traps and leaves the binding unbound. -/
def execVbind (o : VMOp) (s : State) : Out :=
  let n := sbNum o.vt
  s.binding (.vbind o) n [o.base] [] fun s =>
    if s.acqPending then .next s else
    let a := s.g o.base
    let fault := fun (c : Nat) => ({ cause := c, i0 := a, i1 := 6 } : FaultInfo)
    if a.toNat % 128 != 0 then .next (s.raiseAt .convoy (fault cMISALIGNED)) else
    match s.xlate s.thr.id.ctx s.thr.sup false a.toNat with
    | .error c => .next (s.raiseAt .convoy (fault c))
    | .ok pa =>
      match s.bindWaits false [pa, pa + 64], s.bindError false [pa, pa + 64] with
      | some s', _ => .next s'
      | none, some c => .next (s.bindFault n (fault c))
      | none, none =>
        let (bs, s) := s.loadBytes pa 128
        let v := ofBytes bs
        let b := Stream.ofNum v a
        if Stream.valid v b then .next ((s.postSolo (.vbind o)).setSb n (some b)).commit
        else .next ((s.setSb n none).raiseAt .convoy { cause := cDATA_ACCESS, i0 := a, i1 := 8 })

/-- `VUNBIND` (R155): POS goes back to the block, at bit 384. -/
def execVunbind (nw : Bool) (o : VMOp) (s : State) : Out :=
  let n := sbNum o.vt
  s.binding (.vunbind nw o) n [] [] fun s =>
    match vget s.thr.r.sb n with
    | none => .next (s.postSolo (.vunbind nw o)).commit
    | some b =>
      if nw then .next ((s.postSolo (.vunbind nw o)).setSb n none).commit else
      let a := b.block + 48
      if s.acqPending then .next s else
      match s.vmCheck true false 8 a with
      | .error c => .next (s.raiseAt .convoy { cause := c, i0 := a, i1 := 7 })
      | .ok pa =>
        if s.guessing || (s.speculative && paKind pa != 0) then .next s.xhold
        else if s.versionsFull [pa] then .next s
        else
          match s.bindWaits true [pa], s.bindError true [pa] with
          | some s', _ => .next s'
          | none, some c => .next (s.bindFault n { cause := c, i0 := a, i1 := 7 })
          | none, none => .next (((s.storeBytes pa (toBytes 8 b.pos)).postSolo (.vunbind nw o)).setSb n none).commit

/-- `VSPOS` (R155). -/
def execVspos (r : Bool) (o : VMOp) (s : State) : Out :=
  let n := sbNum o.base
  s.binding (.vspos r o) n (if r then [] else [o.sx]) (if r then [o.vt] else []) fun s =>
    match r, vget s.thr.r.sb n with
    | true, some b => .next ((s.postSolo (.vspos r o)).writeG o.vt (BitVec.ofNat 64 b.pos))
    | true, none => .next ((s.postSolo (.vspos r o)).writeG o.vt 0)
    | false, some b =>
      let p := (s.g o.sx).toNat
      .next ((s.postSolo (.vspos r o)).setSb n (some { b with pos := if b.wrap && b.len ≤ p then p % b.len else p })).commit
    | false, none => .next (s.postSolo (.vspos r o)).commit

/-! ### The instructions that post a convoy of one (R81) -/

/-- `VADD` (R137). -/
def execVadd (o : VOp) (s : State) : Out := s.postOne (.vadd o)

/-- `VSUB` (R137). -/
def execVsub (o : VOp) (s : State) : Out := s.postOne (.vsub o)

/-- `VMUL` (R137). -/
def execVmul (o : VOp) (s : State) : Out := s.postOne (.vmul o)

/-- `VMULH` (R137). -/
def execVmulh (o : VOp) (s : State) : Out := s.postOne (.vmulh o)

/-- `VFMA` (R137). -/
def execVfma (o : VOp) (s : State) : Out := s.postOne (.vfma o)

/-- `VFMS` (R137). -/
def execVfms (o : VOp) (s : State) : Out := s.postOne (.vfms o)

/-- `VFNMA` (R137). -/
def execVfnma (o : VOp) (s : State) : Out := s.postOne (.vfnma o)

/-- `VDIV` (R137). -/
def execVdiv (o : VOp) (s : State) : Out := s.postOne (.vdiv o)

/-- `VSQRT` (R137). -/
def execVsqrt (o : VOp) (s : State) : Out := s.postOne (.vsqrt o)

/-- `VRCP` (R140). -/
def execVrcp (o : VOp) (s : State) : Out := s.postOne (.vrcp o)

/-- `VRSQ` (R140). -/
def execVrsq (o : VOp) (s : State) : Out := s.postOne (.vrsq o)

/-- `VEXP2` (R140). -/
def execVexp2 (o : VOp) (s : State) : Out := s.postOne (.vexp2 o)

/-- `VLOG2` (R140). -/
def execVlog2 (o : VOp) (s : State) : Out := s.postOne (.vlog2 o)

/-- `VSIN` (R140). -/
def execVsin (o : VOp) (s : State) : Out := s.postOne (.vsin o)

/-- `VCOS` (R140). -/
def execVcos (o : VOp) (s : State) : Out := s.postOne (.vcos o)

/-- `VTANH` (R140). -/
def execVtanh (o : VOp) (s : State) : Out := s.postOne (.vtanh o)

/-- `VMIN` (R137). -/
def execVmin (o : VOp) (s : State) : Out := s.postOne (.vmin o)

/-- `VMAX` (R137). -/
def execVmax (o : VOp) (s : State) : Out := s.postOne (.vmax o)

/-- `VABS` (R137). -/
def execVabs (o : VOp) (s : State) : Out := s.postOne (.vabs o)

/-- `VNEG` (R137). -/
def execVneg (o : VOp) (s : State) : Out := s.postOne (.vneg o)

/-- `VAND` (R137). -/
def execVand (o : VOp) (s : State) : Out := s.postOne (.vand o)

/-- `VOR` (R137). -/
def execVor (o : VOp) (s : State) : Out := s.postOne (.vor o)

/-- `VXOR` (R137). -/
def execVxor (o : VOp) (s : State) : Out := s.postOne (.vxor o)

/-- `VSHL` (R137). -/
def execVshl (o : VOp) (s : State) : Out := s.postOne (.vshl o)

/-- `VSHR` (R137). -/
def execVshr (o : VOp) (s : State) : Out := s.postOne (.vshr o)

/-- `VSAR` (R137). -/
def execVsar (o : VOp) (s : State) : Out := s.postOne (.vsar o)

/-- `VSEL` (R142). -/
def execVsel (o : VOp) (s : State) : Out := s.postOne (.vsel o)

/-- `VCVT` (R144). -/
def execVcvt (o : VOp) (s : State) : Out := s.postOne (.vcvt o)

/-- `VQUANT` (R145). -/
def execVquant (o : VOp) (s : State) : Out := s.postOne (.vquant o)

/-- `VDEQ` (R146). -/
def execVdeq (o : VOp) (s : State) : Out := s.postOne (.vdeq o)

/-- `VCOMPRESS` (R149). -/
def execVcompress (o : VOp) (s : State) : Out := s.postOne (.vcompress o)

/-- `VEXPAND` (R149). -/
def execVexpand (o : VOp) (s : State) : Out := s.postOne (.vexpand o)

/-- `KAND` (R136). -/
def execKand (o : VOp) (s : State) : Out := s.postOne (.kand o)

/-- `KOR` (R136). -/
def execKor (o : VOp) (s : State) : Out := s.postOne (.kor o)

/-- `KXOR` (R136). -/
def execKxor (o : VOp) (s : State) : Out := s.postOne (.kxor o)

/-- `KANDN` (R136). -/
def execKandn (o : VOp) (s : State) : Out := s.postOne (.kandn o)

/-- `KNOT` (R136). -/
def execKnot (o : VOp) (s : State) : Out := s.postOne (.knot o)

/-- `KCNT` (R136). -/
def execKcnt (o : VOp) (s : State) : Out := s.postOne (.kcnt o)

/-- `KFIRST` (R136). -/
def execKfirst (o : VOp) (s : State) : Out := s.postOne (.kfirst o)

/-- `VCMP` (R141). -/
def execVcmp (c : VCond) (o : VOp) (s : State) : Out := s.postOne (.vcmp c o)

/-- `VIOTA` (R143). -/
def execViota (c : Bool) (o : VOp) (s : State) : Out := s.postOne (.viota c o)

/-- `VREDO` (R147). -/
def execVredo (op : RedOp) (o : VOp) (s : State) : Out := s.postOne (.vredo op o)

/-- `VREDT` (R147). -/
def execVredt (op : RedOp) (o : VOp) (s : State) : Out := s.postOne (.vredt op o)

/-- `VSCAN` (R148). -/
def execVscan (op : RedOp) (o : VOp) (s : State) : Out := s.postOne (.vscan op o)

/-- `VPERM` (R149). -/
def execVperm (t : Bool) (o : VOp) (s : State) : Out := s.postOne (.vperm t o)

/-- `VBCAST` (R149). -/
def execVbcast (row : Bool) (o : VOp) (s : State) : Out := s.postOne (.vbcast row o)

/-- `VMOVS` (R150). -/
def execVmovs (hi : BitVec 3) (o : VOp) (s : State) : Out := s.postOne (.vmovs hi o)

/-- `VINS` (R150). -/
def execVins (hi : BitVec 3) (o : VOp) (s : State) : Out := s.postOne (.vins hi o)

/-- `VSLIDE` (R149). -/
def execVslide (dn : Bool) (o : VOp) (s : State) : Out := s.postOne (.vslide dn o)

/-- `KSET` (R136). -/
def execKset (f : KSetForm) (o : VOp) (s : State) : Out := s.postOne (.kset f o)

/-- `KMOV` (R136). -/
def execKmov (f : KMovForm) (o : VOp) (s : State) : Out := s.postOne (.kmov f o)

/-- `VLD` (R151, R152, R156). -/
def execVld (f : VMForm) (o : VMOp) (s : State) : Out := s.postOne (.vld f o)

/-- `VST` (R151, R152, R156). -/
def execVst (f : VMForm) (o : VMOp) (s : State) : Out := s.postOne (.vst f o)

/-- `VLDX` (R151, R152, R156). -/
def execVldx (b : Bool) (o : VMOp) (s : State) : Out := s.postOne (.vldx b o)

/-- `VSTX` (R151, R152, R156). -/
def execVstx (b : Bool) (o : VMOp) (s : State) : Out := s.postOne (.vstx b o)

/-- `VLDS` (R151, R152, R156). -/
def execVlds (f : VSForm) (o : VMOp) (s : State) : Out := s.postOne (.vlds f o)

/-- `VSTS` (R151, R152, R156). -/
def execVsts (f : VSForm) (o : VMOp) (s : State) : Out := s.postOne (.vsts f o)

end Sys2Proof.Machine
end

