-- ==== Sys2Proof/Machine/TileQueue.lean ====
section
/-! DEFINITION. The tile queue (02 R31 to R36, R45, R46; 07 R157 to R162; 09 R230 to R236): what an entry reads and writes, its
readiness, the faults of R162, issue and retirement. -/

namespace Sys2Proof.Machine

/-! ### Units, faults (R45, R397, R162) -/

/-- Array cycles of a body (R45). -/
def mmaBody (fmt k : Nat) : Nat :=
  match fmt with
  | 0 => 4 * k
  | 1 | 2 => k
  | 9 => ceilDiv k 4
  | 10 | 11 | 12 | 13 | 14 | 15 | 16 => ceilDiv k 8 * ceilDiv (fmt - 8) 2
  | _ => ceilDiv k 2

/-- Unit 6 of R397: the fill/spill engine or the link; 7 every other. -/
def tUnit (i : Instr) : Nat := if tMem i then 6 else 7

/-- The trap record of a tile-stream fault: its cause, reason, tile, and TRAPINFO0. -/
def TqEnt.fault (e : TqEnt) (cause reason tile : Nat) (i0 : Word) : FaultInfo :=
  { cause := cause, i0 := i0, i1 := BitVec.ofNat 64 (insMajor e.ins + tile * 256 + reason * 2 ^ 20), i2 := e.g0, i3 := e.g1 }

/-- A descriptor as TRAPINFO0. -/
def descWord (d : BitVec 32) : Word := d.zeroExtend 64

/-- A TILE_FORMAT fault of an operand, 0 ma, 1 mb, 2 md, with the descriptor that program order gives it. -/
def State.fmtFault (s : State) (e : TqEnt) (f : TFault) : FaultInfo :=
  match tOp e.ins with
  | some o =>
    let t := match f.operand with | 0 => o.ma | 1 => o.mb | _ => o.md
    e.fault cTILE_FORMAT f.reason t.toNat (descWord (s.thr.shapeAt e t))
  | none => e.fault cTILE_FORMAT f.reason 0 0

/-! ### The lines that an entry touches (R160, R169) -/

/-- The runs of bytes of an image: one for each memory row, `width` bytes long, then the scales. -/
def imageRuns (d : BitVec 32) (a p : Word) (width : Nat) : List (Nat × Nat) :=
  ((List.range (memRows d)).map fun q => ((a + BitVec.ofNat 64 q * p).toNat, width)) ++
    (if scaleBytes d = 0 then [] else [((a + BitVec.ofNat 64 (memRows d) * p).toNat, scaleBytes d)])

/-- The runs of a memory entry's images, and whether it writes them (R166, R168, R182). -/
def Thread.entRuns (t : Thread) (e : TqEnt) : Bool × List (Nat × Nat) :=
  match e.ins with
  | .tld p o =>
    let d := t.shapeAt e o.md
    (false, imageRuns d e.g0 (if p then e.g1 else BitVec.ofNat 64 (rowPitch d)) (rowBytes d))
  | .tst p o =>
    let d := t.shapeAt e o.ma
    (true, imageRuns d e.g0 (if p then e.g1 else BitVec.ofNat 64 (rowPitch d)) (rowPitch d))
  | .tstp o =>
    let d := t.shapeAt e o.ma
    let dt := transposedDesc false d
    (true, imageRuns d e.g0 (BitVec.ofNat 64 (rowPitch d)) (rowPitch d) ++ imageRuns dt e.g1 (BitVec.ofNat 64 (rowPitch dt)) (rowPitch dt))
  | .trecv false _ => (true, [(e.g0.toNat, 8)])
  | _ => (false, [])

/-- Physical address of page row `r` of a handle's list. -/
def State.rowAddr (s : State) (c : Ctx) (h : HEnt) (r : Nat) : Nat := s.pageRows c (s.listPage h (r / 128)) + 512 * (r % 128)

/-- The first byte of each line of a row. -/
def rowLines (pa n : Nat) : List Nat := (List.range (ceilDiv n 64)).map fun k => pa + 64 * k

/-- The page that an append's first row stands in, where it is SHARED and a copy must be made first (R329). -/
def State.sharedPage (s : State) (c : Ctx) (h : HEnt) : Option Nat :=
  let p := s.listPage h (h.len / 128)
  if h.cap ≤ h.len || (s.prec c p).state != pSHARED then none else some p

/-- The rows that an append writes (R186). -/
def Thread.appendCount (t : Thread) (e : TqEnt) : Nat :=
  match e.ins with
  | .tappend o => if e.g1 = 0 then descRows (t.shapeAt e o.ma) else e.g1.toNat
  | _ => 0

/-- The lines of the rows that a gather or an append touches (R185, R186, R329): a gather's up to the capacity, since older appends may still
lengthen the list; an append's after those of the older appends to its handle, with both pages of a copy. -/
def State.rowsTouched (s : State) (e : TqEnt) : List Nat :=
  let c := s.ctx s.thr.id.ctx
  if s.handleReason s.thr.id.ctx e.g0 != 0 then [] else
  let h := s.hent c (handleIdx e.g0)
  match e.ins with
  | .tgather o =>
    let d := s.thr.shapeAt e o.md
    ((List.range' e.g1.toNat (descRows d)).filter (· < h.cap)).flatMap fun r => rowLines (s.rowAddr c h r) (rowBytes d)
  | .tappend _ =>
    let before := (((s.thr.olderEnts e).filter fun x => x.unperformed && x.g0 == e.g0).map s.thr.appendCount).sum
    let at_ := h.len + before
    let rows := ((List.range' at_ (s.thr.appendCount e)).filter (· < h.cap)).map (s.rowAddr c h)
    let copied := match s.sharedPage c { h with len := at_ } with
      | none => []
      | some p =>
        (match s.takePage c h.cur with | some (q, _, _) => [p, q] | none => [p]).flatMap fun p =>
          (List.range 128).map fun r => s.pageRows c p + 512 * r
    (rows ++ copied).flatMap fun p => rowLines p 512
  | _ => []

/-- The lines of memory that an entry touches: of its images (R160), and of the rows of a handle. -/
def State.entLines (s : State) (e : TqEnt) : List Nat :=
  let r := s.thr.entRuns e
  (r.2.flatMap fun x => (pieces x.1 x.2).filterMap fun (a, _) =>
    ((s.xlate s.thr.id.ctx false r.1 (a % 2 ^ 64)).toOption).map (· / 64)) ++ (s.rowsTouched e).map (· / 64)

/-- Two entries act on rows of one handle, of which one appends them (R185, R186). -/
def sameHandle (e x : TqEnt) : Bool :=
  e.g0 == x.g0 &&
  match e.ins, x.ins with
  | .tappend _, .tappend _ | .tappend _, .tgather _ | .tgather _, .tappend _ => true
  | _, _ => false

/-- The entry's rel flag: every older access of the thread is performed before it (R183, R186). -/
def tRelease : Instr → Bool
  | .tsend o | .tappend o => o.nb
  | _ => false

/-- The entry has still to perform its acquire (R251). One that a fault holds performs it once it is issued again. -/
def TqEnt.acquiring (e : TqEnt) : Bool := tAcquires e.ins && !e.done && !e.skip && (e.st == .posted || e.st == .issued)

/-- An older unperformed entry keeps its place before `e`: they touch a common line or one handle's rows (R169 item 3), they are sends to
one context (R183), the older acquires, or the younger releases. -/
def State.keepsOrder (s : State) (e x : TqEnt) : Bool :=
  (x.acquiring && tMem e.ins) || (tRelease e.ins && tAccess x.ins) || sameHandle e x ||
  (match e.ins, x.ins with
   | .tsend _, .tsend _ => x.g0.extractLsb' 48 16 == e.g0.extractLsb' 48 16
   | _, _ => tAccess e.ins && tAccess x.ins && (let l := s.entLines x; !l.isEmpty && (s.entLines e).any l.contains))

/-- The older entries whose place is before the entry's have performed. It is a condition of issue, so that no entry that has issued waits
for one that has not (R40). -/
def State.memTurn (s : State) (e : TqEnt) : Bool :=
  !tMem e.ins || !((s.thr.olderEnts e).filter TqEnt.unperformed).any (s.keepsOrder e)

/-! ### Readiness of a source (R161, R224, R230, R236) -/

/-- What a source tile answers. -/
inductive Probe where
  | ok
  | wait
  | empty
  | fault (f : FaultInfo)
  deriving DecidableEq, Repr

/-- The tag of tile `t` of the thread at turn. -/
def State.tagOf (s : State) (t : Nat) : Tag := ⟨s.thr.id.ctx, s.thr.c.tmapb, t, (s.ent t).gen⟩

/-- Entry `t` follows what has become of its slot: a PENDING entry whose fill has ended is RESIDENT where its slot holds it; a double
error in a clean slot sends the tile back to its region (R377). -/
def State.settleEnt (s : State) (t : Nat) : State :=
  let e := s.ent t
  let core := e.core.toNat
  if e.state == tPENDING && (s.tileSlot t).isSome && !s.movingTag (s.tagOf t) then s.setEnt t { e with state := tRESIDENT, lu := false }
  else if e.state == tRESIDENT && e.f && s.slotDamaged core e.slot.toNat && (s.tileSlot t).isSome then
    (s.dropSlot core e.slot.toNat).setEnt t { e with state := tBACKED }
  else s

/-- A tile that is needed and does not stand in its core's store: its slot is asked for, or its fill begins (R230, R236). -/
def State.wantTile (s : State) (t : Nat) (pref : Bool) : State :=
  let s := s.settleEnt t
  if s.thr.away s t then s.serveTile t else s.fillStart t pref

/-- A source tile as it stands for an entry. -/
def State.probe (s : State) (e : TqEnt) (t : Nat) (trap : Bool) : Probe :=
  let x := s.ent t
  if x.bad then .fault (e.fault cTILE_FILL 2 t (descWord x.shape))
  else if x.state == tABSENT then .fault (e.fault cTILE_FILL 1 t (descWord x.shape))
  else if !x.f then if trap then .empty else .wait
  else if x.state == tBACKED then
    if descValid x.shape then .wait else .fault (e.fault cTILE_FORMAT 1 t (descWord x.shape))
  else if x.state == tPENDING then .wait
  else if s.lostTile t then .fault (e.fault cUNCORRECTABLE 0 t (descWord x.shape))
  else if s.thr.away s t then .wait
  else .ok

/-- The tiles that an entry names (R224, R233). -/
def tNames (i : Instr) : List Nat :=
  ((tReads i).map (·.1) ++ tDests i ++ (match i with | .tflagr o | .tpref o => [o.ma] | _ => [])).map BitVec.toNat

/-- An older entry of the queue that names the tile may still report its failed spill (R233): it has not performed visibly. -/
def Thread.namedBefore (t : Thread) (e : TqEnt) (tile : Nat) : Bool :=
  (t.olderEnts e).any fun x =>
    !x.done && !x.skip && !(tqVisible x.ins && x.st == .completed) && (tNames x.ins).contains tile

/-- The report of a failed spill at the oldest entry that names the tile (R233): its record, once. -/
def State.spillReport (s : State) (e : TqEnt) (t : Nat) : Option (FaultInfo × State) :=
  match s.tileSlot t with
  | some x =>
    if x.report && !s.thr.namedBefore e t then
      let core := (s.ent t).core.toNat
      some (e.fault cTILE_FILL 2 t x.sfAddr, s.setCore core ((s.core core).putSlot { x with report := false }))
    else none
  | none => none

/-! ### Changing entries -/

/-- Replace the entry of a posting number. -/
def State.setTq (s : State) (e : TqEnt) : State :=
  s.onThr fun t => { t with tq := t.tq.map fun x => if x.post == e.post then e else x }

/-- The entry of a posting number. -/
def State.tqAt (s : State) (post : Nat) : Option TqEnt := s.thr.tq.find? (·.post == post)

/-- A pool slot returns (R234). -/
def State.freePool (s : State) (n : Option Nat) : State :=
  match n with
  | some n =>
    let core := s.thr.id.core
    s.setCore core { s.core core with pool := (s.core core).pool ++ [n] }
  | none => s

/-- The entry is held with a fault (R369): its slot and pins return. -/
def State.hold (s : State) (e : TqEnt) (f : FaultInfo) : State :=
  let s := s.freePool e.slot
  let s := e.res.pins.foldl (fun s p => s.unpinPage s.tctx p) s
  s.setTq { e with st := .held f, slot := none, chain := none, since := 0, res := ⟨none, 0, none, []⟩ }

/-- The last-use hint of a tile (R224). -/
def State.setLu (s : State) (t : Nat) (b : Bool) : State := s.setEnt t { s.ent t with lu := b }

/-- An entry reads a tile (R224, R232). -/
def State.useTile (s : State) (t : Nat) : State :=
  let s := s.setLu t false
  let e := s.ent t
  match s.tileSlot t with
  | some x => s.setCore e.core.toNat ((s.core e.core.toNat).putSlot { x with lastUse := s.cycle })
  | none => s

/-! ### Issue (R33) -/

/-- The entry, once it retires, gives its destination a new value, or takes the one it has (R33, R157). -/
def TqEnt.writes (e : TqEnt) : Bool :=
  !e.done && !e.skip && (tRenames e.ins || (match e.ins with | .tdead _ => true | _ => false))

/-- An older entry still to retire writes tile `t`. -/
def Thread.olderWriter (t : Thread) (e : TqEnt) (m : BitVec 9) : Bool :=
  (t.olderEnts e).any fun x => x.writes && (tDests x.ins).contains m

/-- The predecessor of a chained `MMA` (R46, R234): the youngest older writer of md, an issued multiplication that nothing chains to,
with no reader of md between. One that multiplies md itself reads its value, and waits for the drain (R157, R234). -/
def Thread.chainTo (t : Thread) (e : TqEnt) : Option TqEnt :=
  match tOp e.ins with
  | .none => .none
  | some o =>
    if !isMma e.ins || o.nacc || o.ma == o.md || o.mb == o.md then .none else
    match ((t.olderEnts e).filter fun x => (tDests x.ins).contains o.md).getLast? with
    | .none => .none
    | some p =>
      let between := t.tq.filter fun x => p.post < x.post && x.post < e.post
      if isMma p.ins && p.st == .issued && !(t.tq.any fun x => x.chain == some p.post) &&
         !(between.any fun x => (tReads x.ins).any fun y => y.1 == o.md)
      then some p else .none

/-- Arrays of a core that multiplications hold (R45). -/
def State.arraysUsed (s : State) (core : Nat) : List Nat :=
  (s.threads.filter fun t => t.live && t.id.core == core).flatMap fun t =>
    (t.tq.filter fun e => isMma e.ins && e.st == .issued).flatMap fun e => if t.hdr.prot then [e.unit, e.unit + 1] else [e.unit]

/-- The lowest free array, or pair in protected mode (R45). -/
def State.freeArray (s : State) : Option Nat :=
  let used := s.arraysUsed s.thr.id.core
  if s.thr.hdr.prot then [0, 2, 4].find? fun a => !used.contains a && !used.contains (a + 1)
  else (List.range 6).find? fun a => !used.contains a

/-- What comes of an attempt to issue an entry. -/
inductive Issue where
  | wait
  | held (s : State) (f : FaultInfo)
  | issued (s : State)

/-- The vector source of a put or a `TZMAP` is full and no older convoy writes it (R161). -/
def Thread.vecReady (t : Thread) (e : TqEnt) : Bool :=
  (t.vReads (t.olderEnts e) e.ins).all fun r => t.full r.toNat && !(t.vq.any fun c => c.members.any fun m => (vDests m.ins).contains r)

/-- The faults of the tiles that an entry names: a bad entry (R224), a failed spill (R233). -/
def State.nameFault (s : State) (e : TqEnt) : Option (State × FaultInfo) :=
  match (tNames e.ins).find? fun t => (s.ent t).bad with
  | some t => some (s, e.fault cTILE_FILL 2 t (descWord (s.ent t).shape))
  | none => ((tNames e.ins).findSome? (s.spillReport e)).map fun (f, s') => (s', f)

/-- The faults of the sources, in order (R161, R175, R230). -/
def State.sourceFault (s : State) (e : TqEnt) (srcs : List (BitVec 9 × Bool)) : Option (State × FaultInfo) :=
  match s.nameFault e with
  | some x => some x
  | none =>
      srcs.findSome? fun (t, _) =>
        if s.thr.olderWriter e t then none else
        match s.probe e t.toNat false with
        | .fault f => some (if s.lostTile t.toNat then s.loseTile t.toNat else s, f)
        | _ => none

/-- A prefetch of a tile (R165, R230): a fill that cannot begin yet is tried again until it does, and one that would fail is dropped. -/
def State.prefetch (s : State) (t : Nat) : State :=
  if !(s.ent t).f then s else
  let s := s.wantTile t true
  let e := s.ent t
  if (e.state == tBACKED && !e.bad && descValid e.shape) || s.thr.away s t then
    s.onThr fun u => { u with prefs := u.prefs.filter (· != t) ++ [t] }
  else s.onThr fun u => { u with prefs := u.prefs.filter (· != t) }

/-- The next multiplication's operands are prefetched (R175), where the memory that they come from is settled (R169 item 2). -/
def State.prefetchNext (s : State) (e : TqEnt) (o : TOp) : State :=
  if !o.pf then s else
  match s.thr.tq.find? fun x => e.post < x.post && isMma x.ins with
  | some x => if s.thr.memBefore x then s else ((tSources x.ins).map BitVec.toNat).foldl State.prefetch s
  | none => s

/-- An entry issues (R33, R45, R397, R400), with its unit and its slot. -/
def State.issueEnt (s : State) (e : TqEnt) (unit : Nat) (slot : Option Nat) (chain : Option Nat) : State :=
  let core := s.thr.id.core
  let s := match slot with
    | some n => s.setCore core { s.core core with pool := (s.core core).pool.filter (· != n) }
    | none => s
  let s := ((tReads e.ins).map fun x => x.1.toNat).foldl (fun s t => if (s.tileSlot t).isSome then s.useTile t else s) s
  let s := (s.count 7 1).emit 4 (unit * 2 ^ 55 + e.post % 32768 * 2 ^ 40 + s.time)
  s.setTq { e with st := .issued, slot := slot, unit := unit, chain := chain, since := 0 }

/-- Pool slots of a core that are out: neither in the pool, nor held by an entry, nor on their way from a spill (R232, R234). -/
def State.poolOwed (s : State) (core : Nat) : Nat :=
  16 - ((s.core core).pool.length + (s.inFlight core).length + ((s.core core).moves.filter (·.toPool)).length)

/-- A pool slot that is owed is paid (R234): by a free general slot, or by a victim's, where there is one. -/
def State.repayPool (s : State) : State :=
  let core := s.thr.id.core
  if s.poolOwed core = 0 then s else
  match s.freeGeneral core with
  | some n => s.freeSlot core n true
  | none =>
    if 8 ≤ (s.core core).moves.length then s else
    match s.victim core with
    | some x => s.evict core x true
    | none => s

/-- The entry waits for a slot: everything else that it waits for is given, and one of its sources wants a fill or its result a pool slot
(R33, R230). A wait that the program controls, such as one for an empty source, is none (R374). -/
def State.wantsSlot (s : State) (e : TqEnt) : Bool :=
  let given := ((tReads e.ins).all fun x => !s.thr.olderWriter e x.1 && (s.ent x.1.toNat).f) && s.thr.vecReady e && !s.thr.memBefore e && s.memTurn e
  given && (((tReads e.ins).any fun x => (s.ent x.1.toNat).state == tBACKED) || (tRenames e.ins && (s.core s.thr.id.core).pool.isEmpty))

/-- The entry waits for a slot, and no candidate for a victim exists (R232, R374). -/
def State.slotless (s : State) (e : TqEnt) : Bool :=
  s.wantsSlot e && (s.freeGeneral s.thr.id.core).isNone && (s.victim s.thr.id.core).isNone

/-- The entry has waited for a slot since this cycle (R374). -/
def State.starve (s : State) (e : TqEnt) (on : Bool) : State :=
  if on then (if e.since = 0 then s.setTq { e with since := s.cycle + 1 } else s)
  else if e.since = 0 then s else s.setTq { e with since := 0 }

/-- The unit, the pool slot and the predecessor of an entry that issues (R33, R45, R46, R234); none while one of them is not free. -/
def State.unitFor (s : State) (e : TqEnt) : Option (Nat × Option Nat × Option Nat) :=
  if isMma e.ins then
    match s.thr.chainTo e with
    | some p => some (p.unit, none, some p.post)
    | none =>
      match s.freeArray, (s.core s.thr.id.core).pool with
      | some u, n :: _ => some (u, some n, none)
      | _, _ => none
  else if !tRenames e.ins then some (tUnit e.ins, none, none)
  else (s.core s.thr.id.core).pool.head?.map fun n => (tUnit e.ins, some n, none)

/-- A multiplication's checks of R175, made as it issues; its prefetch and its counts (R400). -/
def State.startMma (s : State) (e : TqEnt) (o : TOp) (int chained : Bool) : Except FaultInfo State :=
  let a := s.thr.shapeAt e o.ma
  match mmaCheck (mmaMods int o) a (s.thr.shapeAt e o.mb) (s.thr.shapeAt e o.md) with
  | some f => .error (s.fmtFault e f)
  | none =>
    let s := (s.prefetchNext e o).count 9 (mmaBody (descFmt a) (mmaDims (mmaMods int o) a (s.thr.shapeAt e o.mb)).2.1)
    .ok (if chained then s.count 10 1 else s)

/-- An attempt to issue an entry of the thread at turn, its fills begun (R33, R230). TILE_EMPTY is the fault of an entry that could issue
otherwise (R161). The vector-reading entries compute their value here, by `early` (R32). -/
def State.tryIssue (early : State → TqEnt → State × Except FaultInfo TileResult) (s : State) (e : TqEnt) : Issue :=
  let t := s.thr
  let chain := (t.chainTo e).isSome
  let srcs := (tReads e.ins).filter fun x => !(chain && (tDests e.ins).contains x.1)
  match s.sourceFault e srcs with
  | some (s, f) => .held s f
  | none =>
    if srcs.any fun x => t.olderWriter e x.1 then .wait
    else if srcs.any fun x => s.probe e x.1.toNat x.2 == .wait then .wait
    else if !t.vecReady e then .wait
    else if !s.memTurn e then .wait
    else
      match s.unitFor e with
      | none => .wait
      | some (unit, slot, pred) =>
        match srcs.find? fun x => s.probe e x.1.toNat x.2 == .empty with
        | some x => .held s (e.fault cTILE_EMPTY 0 x.1.toNat (descWord (s.ent x.1.toNat).shape))
        | none =>
          let mma := fun (o : TOp) (int : Bool) =>
            match s.startMma e o int pred.isSome with
            | .error f => Issue.held s f
            | .ok s => .issued (s.issueEnt e unit slot pred)
          match e.ins with
          | .mma o => mma o false
          | .mmai o => mma o true
          | i =>
            if (vSources i).isEmpty then .issued (s.issueEnt e unit slot none) else
            match early s e with
            | (s, .error f) => .held s f
            | (s, .ok r) => .issued (s.issueEnt { e with res := r } unit slot none)

/-- The sources of an entry that are full and not in the store are asked for (R230, R236), once the memory accesses of older convoys have
been performed (R169 item 2). -/
def State.startFills (s : State) (e : TqEnt) : State :=
  (tReads e.ins).foldl (fun s x =>
    if s.thr.olderWriter e x.1 || !(s.ent x.1.toNat).f then s
    else if s.thr.memBefore e then s.settleEnt x.1.toNat
    else s.wantTile x.1.toNat false) s

/-- The entries tried in order: the first that can issues (R33). Faults met on the way are held against their entries. -/
def State.issueScan (early : State → TqEnt → State × Except FaultInfo TileResult) : List TqEnt → State → State
  | [], s => s
  | e :: l, s =>
    if e.st != .posted || e.done || e.skip then State.issueScan early l s else
    match s.nameFault e with
    | some (s', f) => s'.hold e f
    | none =>
    let s := s.startFills e
    match s.tryIssue early e with
    | .issued s' => s'
    | .held s' f => s'.hold e f
    | .wait =>
      let s := s.repayPool
      State.issueScan early l (s.starve e (s.slotless e))

/-! ### Retirement (R33, R230, R234, R235) -/

/-- An advance of GEN of tile `t` would meet a move in flight (R235). -/
def State.genBlocked (s : State) (t : Nat) : Bool :=
  let g : Tag := { s.tagOf t with gen := (s.ent t).gen + 1 }
  s.cores.toArray.any fun c => c.moves.any fun m => m.tag == g

/-- The slot of the thread's core that tile `t` holds. -/
def State.oldSlot (s : State) (t : Nat) : Option Slot :=
  if (s.ent t).core.toNat = s.thr.id.core && (s.ent t).resident then s.tileSlot t else none

/-- The old slot of a renamed tile goes to the pool, after a spill from it (R234). With no old slot the pool is owed a general one. -/
def State.releaseOld (s : State) (t : Nat) : State :=
  let core := s.thr.id.core
  match s.oldSlot t with
  | some x =>
    let c := s.core core
    if c.moves.any fun m => m.spill && m.slot == x.num then
      s.setCore core { c with moves := c.moves.map fun m => if m.spill && m.slot == x.num then { m with toPool := true } else m }
    else
      s.freeSlot core x.num true
  | none => s

/-- The instruction clears md's old flags (R163, R174). -/
def tClearsFlags : Instr → Bool
  | .tzero _ => true
  | .mma o | .mmai o => o.nacc
  | _ => false

/-- A writing entry retires into slot `n` (R230, R238): the entry, the slot, GEN + 1. -/
def State.placeTile (s : State) (t n : Nat) (ent : TEnt) (v : TileVal) (dirty : Bool) : State :=
  let core := s.thr.id.core
  let x : Slot := { num := n, tag := { s.tagOf t with gen := ent.gen }, val := v, zmap := v.zmap, dirty := dirty, full := ent.f, sf := false
                    sfAddr := 0, report := false, lastUse := s.cycle }
  (s.putSlot core x).setEnt t { ent with core := BitVec.ofNat 8 core, slot := BitVec.ofNat 8 n }

/-- The value of a retiring entry is written into md (R230, R234). A chained entry writes the slot its chain already holds. -/
def State.retireWrite (s : State) (e : TqEnt) (t : Nat) (v : TileVal) : Option State :=
  if s.genBlocked t then none else
  let s := (s.noteTile t).dropWindow t
  let x := s.ent t
  let fl := (if tClearsFlags e.ins then 0 else x.flags) ||| e.res.flags
  let ent := { x with shape := v.shape, state := tDIRTY, f := true, gen := x.gen + 1, flags := fl, lu := false, arm := false }
  match e.slot with
  | none =>
    match s.oldSlot t, (s.core s.thr.id.core).pool with
    | some y, _ => some (s.placeTile t y.num ent v true)
    | none, n :: l => some ((s.setCore s.thr.id.core { s.core s.thr.id.core with pool := l }).placeTile t n ent v true)
    | none, [] => none
  | some n => some ((s.releaseOld t).placeTile t n ent v true)

/-- A checkpoint may bring the window back (R350), so it is not free. -/
def State.windowNoted (s : State) (n : Nat) : Bool :=
  s.regions.any fun r => r.strokes.any fun k => k.ckpt.any fun c => c.wins.any fun w => w.win == n

/-- The lowest free window of the context, if its quota allows one (R182, R261): the spec leaves the choice open (log entry 8). -/
def State.freeWindow (s : State) (ctx : Nat) : Option Nat :=
  if (s.ctx ctx).rwq ≤ (s.rwins.filter fun w => w.ctx == ctx).length then none
  else (List.range 4096).find? fun n => !(s.rwins.any fun w => w.win == n) && !s.windowNoted n

/-- Generation of a window: advanced on each reuse (R182). -/
def State.windowGen (s : State) (n : Nat) : BitVec 8 :=
  match s.wgen.find? fun x => x.1 == n with
  | some x => x.2
  | none => 0

/-- A window's token (R182). -/
def State.token (s : State) (ctx win : Nat) (gen : BitVec 8) : Word :=
  BitVec.ofNat 10 s.pkgid ++ BitVec.ofNat 6 ctx ++ BitVec.ofNat 12 win ++ gen ++ 0#28

/-- `TRECV` retires (R182, R230): the window is armed and the token stored; the fault where a step of it fails. None: it waits, for the
memory accesses of older convoys (R254) among others. -/
def State.retireRecv (s : State) (e : TqEnt) (t n : Nat) : Except FaultInfo (Option State) :=
  let ctx := s.thr.id.ctx
  let x := s.ent t
  match s.freeWindow ctx with
  | none => .error (e.fault cLIMIT 0 t (descWord x.shape))
  | some w =>
    if !descValid x.shape then .error (s.fmtFault e ⟨1, 2⟩)
    else if e.g0.toNat % 8 != 0 then .error (e.fault cMISALIGNED 0 t e.g0) else
    match s.xlate ctx false true e.g0.toNat with
    | .error c => .error (e.fault c 0 t e.g0)
    | .ok pa =>
      if s.genBlocked t || s.thr.memBefore e || s.versionsFull [pa] || (s.speculative && paKind pa != 0) then .ok none else
      match s.dataErr ctx false true pa with
      | some c => .error (e.fault c 0 t e.g0)
      | none =>
        let gen := s.windowGen w + 1
        let s := (s.noteTile t).dropWindow t
        let x := s.ent t
        let ent := { x with state := tRESIDENT, f := false, arm := true, win := BitVec.ofNat 12 w, gen := x.gen + 1, lu := false }
        let s := (s.releaseOld t).placeTile t n ent (TileVal.zero x.shape) false
        let win : RWin :=
          { win := w, gen := gen, ctx := ctx, tmapb := s.thr.c.tmapb, tile := t, tgen := x.gen + 1, shape := x.shape
            gid := s.thr.id.gid, tidx := s.thr.id.tidx }
        let s := { s with rwins := s.rwins ++ [win], wgen := (w, gen) :: s.wgen.filter fun y => y.1 != w }
        .ok (some (s.storeBytes pa (toBytes 8 (s.token ctx w gen).toNat)))

/-- `TDEAD` retires (R165, R230): the old slot returns to the general slots. -/
def State.retireDead (s : State) (t : Nat) : Option State :=
  if s.genBlocked t then none else
  let s := (s.noteTile t).dropWindow t
  let s := match s.oldSlot t with
    | some x => if (s.core s.thr.id.core).moves.any fun m => m.spill && m.slot == x.num then s
                else s.dropSlot s.thr.id.core x.num
    | none => s
  let x := s.ent t
  some (s.setEnt t { x with state := tABSENT, flags := 0, arm := false, gen := x.gen + 1 })

/-- The effect of an entry's retirement, before it leaves the queue. -/
def State.retireEffect (s : State) (e : TqEnt) : Except FaultInfo (Option State) :=
  match e.ins with
  | .tdead o => .ok (s.retireDead o.md.toNat)
  | .tflagc o => .ok (some ((s.noteTile o.md.toNat).setEnt o.md.toNat { s.ent o.md.toNat with flags := 0 }))
  | .tflagr o => .ok (some (s.setG (o.g.zeroExtend 6) ((fstatFlags (s.ent o.ma.toNat).flags).zeroExtend 64)))
  | .trecv true o => .ok (some (((s.noteTile o.md.toNat).dropWindow o.md.toNat).setEnt o.md.toNat { s.ent o.md.toNat with arm := false }))
  | .trecv false o =>
    match e.slot with
    | some n => s.retireRecv e o.md.toNat n
    | none => .ok none
  | i =>
    match tDests i, e.res.val with
    | md :: _, some v => .ok (s.retireWrite e md.toNat v)
    | _, _ => .ok (some s)

/-- la and lb mark their tiles as first victims at retirement (R175). -/
def State.hintLast (s : State) (i : Instr) : State :=
  match tOp i with
  | some o =>
    let s := if o.la && (tReads i).any (fun x => x.1 == o.ma) then s.setLu o.ma.toNat true else s
    if o.lb && (tReads i).any (fun x => x.1 == o.mb) then s.setLu o.mb.toNat true else s
  | none => s

/-- The oldest entry leaves the queue. -/
def State.popTq (s : State) (e : TqEnt) : State :=
  let s := e.res.pins.foldl (fun s p => s.unpinPage s.tctx p) s
  let s := s.onThr fun t => { t with tq := t.tq.filter fun x => x.post != e.post }
  (s.count 8 1).emit 5 (e.post % 32768 * 2 ^ 40 + s.time)

/-- A completed entry is to issue again: its slot and pins return. -/
def State.reissue (s : State) (e : TqEnt) : State :=
  e.res.pins.foldl (fun s p => s.unpinPage s.tctx p) ((s.freePool e.slot).setTq e.unissue)

/-- The multiplications chained to an entry of the posting numbers, of which the last has been abandoned, issue again (R234). -/
def Thread.unchain (t : Thread) (post : Nat) : Thread :=
  { t with tq := (t.tq.foldl (fun (acc : List Nat × List TqEnt) x =>
      if x.chain.any acc.1.contains then (acc.1 ++ [x.post], acc.2 ++ [x.unissue]) else (acc.1, acc.2 ++ [x])) ([post], [])).2 }

/-- The shape that a load, a clearing or a gather took for md is not the one md has: an older entry that was to give it has been skipped
(R372). -/
def State.shapeStale (s : State) (e : TqEnt) : Bool :=
  tKeepsShape e.ins && (match tDests e.ins, e.res.val with
    | md :: _, some v => v.shape != (s.ent md.toNat).shape
    | _, _ => false)

/-- The oldest entry retires (R33), or its retirement faults; none where it cannot yet. A failed spill of a tile that it names is reported
before (R233), unless it has performed visibly. -/
def State.retireOne (s : State) : Option State :=
  match s.thr.tq with
  | [] => none
  | e :: _ =>
    if e.done || e.skip then if s.thr.sup then none else some (s.popTq e)
    else if e.st != .completed then none
    else if s.shapeStale e then some (s.reissue e)
    else
      match if tqVisible e.ins then none else s.nameFault e with
      | some (s, f) => some ((s.hold e f).onThr fun t => t.unchain e.post)
      | none =>
      match s.retireEffect e with
      | .error f => some (s.hold e f)
      | .ok none => none
      | .ok (some s) => some (((s.orFlags (fstatFlags e.res.flags)).hintLast e.ins).popTq e)

/-- The oldest entries retire together (R33, R234), up to one that a fault holds; none where one of them cannot yet. -/
def State.retireMany : Nat → State → Option State
  | 0, s => some s
  | n + 1, s =>
    match s.retireOne with
    | none => none
    | some s' => if s'.thr.tq.length = s.thr.tq.length then some s' else State.retireMany n s'

/-- How many entries the oldest one's chain spans. -/
def Thread.chainSpan (t : Thread) : Nat :=
  match t.tq with
  | [] => 0
  | e :: l => (l.foldl (fun (acc : List Nat × Nat × Nat) x =>
      let (posts, i, last) := acc
      match x.chain with
      | some p => if posts.contains p then (posts ++ [x.post], i + 1, i + 1) else (posts, i + 1, last)
      | .none => (posts, i + 1, last)) ([e.post], 0, 0)).2.2 + 1

end Sys2Proof.Machine
end

