-- ==== Sys2Proof/Machine/Link.lean ====
section
/-! DEFINITION. The link: ports and Turward, requests of other packages, tile sends, the host's accesses (20 R383 to R390; 07 R183, R184;
19 R382; 10 R258, R259). -/

namespace Sys2Proof.Machine

/-! ### Ports (R384, R386) -/

/-- Lanes of port `p`: four for a UALink port, 32 for Turward, which counts as port 24. -/
def allLanes (p : Nat) : Nat := if p = 24 then 32 else 4

/-- Port `p`, Turward for 24. -/
def State.port (s : State) (p : Nat) : Port := if p = 24 then s.turward else vget s.ports p

/-- State codes of R386. -/
def PState.code : PState → Nat
  | .down => 0 | .training => 1 | .up => 2 | .degraded => 3 | .fenced => 4

/-- PORTST or TWST (R386). -/
def Port.status (x : Port) : Word :=
  BitVec.ofNat 64 (x.replays.toNat * 2 ^ 32 + (if x.usable then Nat.log2 x.lanes else 0) * 256 + x.state.code)

/-- The link block (R386). -/
def State.linkBlock (s : State) : Nat := s.mgmt.cbase + 0x10000

/-- Where the status of a port stands. -/
def State.portAt (s : State) (p : Nat) : Nat := s.linkBlock + (if p = 24 then 0x100 else 0x40 + 8 * p)

/-- Interrupts held while Turward was not usable leave in order (R390). -/
def State.flushIrqs (s : State) : State :=
  if s.turward.usable then { s with irqs := s.irqs ++ s.irqHeld, irqHeld := [] } else s

/-- Replace a port, and its status in the link block. -/
def State.setPort (s : State) (p : Nat) (x : Port) : State :=
  let s := if p = 24 then { s with turward := x } else { s with ports := vset s.ports p x }
  (s.storePA8 (s.portAt p) x.status).flushIrqs

/-- A port enters a state. -/
def State.portTo (s : State) (p : Nat) (st : PState) (lanes : Nat) : State :=
  s.setPort p { s.port p with state := st, lanes := lanes, since := s.cycle }

/-- 10 ms in core cycles. -/
def retrainCycles : Nat := 17000000

/-- Write the EN bits as PORTCTL (R386). -/
def State.putPortctl (s : State) : State :=
  s.storePA8 (s.linkBlock + 8) (BitVec.ofNat 64 ((List.range 24).foldl (fun a p => a + if (s.port p).en then 2 ^ p else 0) 0))

/-- EN is set (R384). -/
def State.enablePort (s : State) (p : Nat) : State :=
  let x := s.port p
  let s := (s.setPort p { x with en := true }).putPortctl
  if !x.en && x.state == .down then s.portTo p .training (allLanes p) else s

/-- EN is cleared (R384). -/
def State.disablePort (s : State) (p : Nat) : State :=
  let x := s.port p
  let s := (s.setPort p { x with en := false }).putPortctl
  if x.state == .down then s else s.portTo p .down 0

/-- EN of a port is set. -/
def execPortEnable (p : Nat) (s : State) : Out := if 24 ≤ p then .fault .notEnabled else .next (s.enablePort p)

/-- EN of a port is cleared. -/
def execPortDisable (p : Nat) (s : State) : Out := if 24 ≤ p then .fault .notEnabled else .next (s.disablePort p)

/-- 10 ms have passed in DOWN with EN set (R384). -/
def execTrainingRetry (p : Nat) (s : State) : Out :=
  let x := s.port p
  if 24 ≤ p || x.state != .down || !x.en || s.cycle < x.since + retrainCycles then .fault .notEnabled
  else .next (s.portTo p .training (allLanes p))

/-- Turward retrains on its own after 10 ms in DOWN (R384). -/
def execTurwardRetrain (s : State) : Out :=
  if s.turward.state != .down || s.cycle < s.turward.since + retrainCycles then .fault .notEnabled
  else .next (s.portTo 24 .training 32)

/-- Training ends (R384); REPLAYS counts from here. -/
def execTrainingEnd (p : Nat) (r : TrainResult) (s : State) : Out :=
  let x := s.port p
  if 25 ≤ p || x.state != .training then .fault .notEnabled else
  let s := s.setPort p { x with replays := 0 }
  .next (match r with
    | .full => s.portTo p .up (allLanes p)
    | .half => s.portTo p .degraded (allLanes p / 2)
    | .quarter => s.portTo p .degraded (allLanes p / 4)
    | .failed => s.portTo p .down 0)

/-- A lane is lost (R384): the port keeps the others, if there are any. -/
def execLaneLost (p lane : Nat) (s : State) : Out :=
  let x := s.port p
  if 25 ≤ p || allLanes p ≤ lane || !(x.usable || x.state == .training) then .fault .notEnabled
  else .next (if x.lanes ≤ 1 then s.portTo p .down 0
    else if x.state == .training then s.setPort p { x with lanes := x.lanes - 1 }
    else s.portTo p .degraded (x.lanes - 1))

/-- A port is fenced (R384). -/
def State.fencePort (s : State) (p : Nat) : State :=
  let x := s.port p
  if x.usable || x.state == .training then s.portTo p .fenced 0 else s

/-- More than 1,024 flits replayed within 1 ms (R384); how many is not known. -/
def execReplayLimit (p : Nat) (s : State) : Out :=
  let x := s.port p
  if 25 ≤ p || !(x.usable || x.state == .training) then .fault .notEnabled else
  let (v, s) := s.draw
  .next ((s.setPort p { x with replays := BitVec.ofNat 32 (min (2 ^ 32 - 1) (x.replays.toNat + 1025 + v.toNat % 2 ^ 32)) }).fencePort p)

/-- A write of PODCFG is applied (R386): one that is made while PODEN is 1 keeps PKGID. -/
def State.applyPodcfg (s : State) (v : Word) : State :=
  let pkg := if s.podcfg.getLsbD 16 then s.podcfg.extractLsb' 0 10 else v.extractLsb' 0 10
  let w : Word := v.extractLsb' 48 16 ++ 0#31 ++ v.extractLsb' 16 1 ++ 0#6 ++ pkg
  { s with podcfg := w }.storePA8 s.linkBlock w

/-- A write of PODCFG. -/
def execPodcfgWrite (v : Word) (s : State) : Out := .next (s.applyPodcfg v)

/-! ### The host's accesses (R259, R382, R390) -/

/-- A 64-byte sector that a read of `n` bytes touches does not give good data (R377, R382). -/
def State.poisoned (s : State) (pa n : Nat) : Bool :=
  (pieces pa n).any fun (a, _) => s.damage.fails (a / 64) || s.damage.uncorr.contains (a / 64)

/-- The bits of byte `o` of a vector that the host's write changes, and those that it reads as they are stored (R7, R273): PEND is RO. -/
def vecMasks (o : Nat) : Byte × Byte := if o < 12 then (0xFF, 0xFF) else if o = 12 then (0xFD, 3) else (0xFF, 0)

/-- The same of byte `o` of a context block (R261, R262, R273): DONE is RO. -/
def ctxMasks (o : Nat) : Byte × Byte :=
  if o < 8 then (0xFF, if o = 0 || 4 ≤ o then 0xFF else 0)
  else if o < 0x10 then (0, 0xFF)
  else if 0x20 ≤ o ∧ o < 0x30 ∨ 0x200 ≤ o ∧ o < 0x300 then vecMasks (o % 16)
  else if 0x78 ≤ o ∧ o < 0x80 then (0xFF, if o = 0x78 then 0x1F else 0)
  else if 0x40 ≤ o ∧ o < 0x48 then (0xFF, [3, 0xFF, 0, 0, 0xFF, 0x1F, 0xFF, 0xFF].getD (o - 0x40) 0)
  else if 0x100 ≤ o ∧ o < 0x200 then (0xFF, [3, 0, 0xFF, 0xFF, 0xFF, 0xFF, 0xFF, 0, 0, 0, 0xFF, 0xFF, 0xFF, 0xFF, 0xFF, 0].getD (o % 16) 0)
  else if 0x302 ≤ o ∧ o < 0x307 ∨ 0x308 ≤ o then (0xFF, 0)
  else (0xFF, 0xFF)

/-- The same of byte `o` of the link block (R386): PORTST, TWST and HSEQ are RO. -/
def linkMasks (o : Nat) : Byte × Byte :=
  if 0x40 ≤ o ∧ o < 0x108 then (0, 0xFF)
  else if 0xA00 ≤ o then (0, 0)
  else if o < 0x200 then (0xFF, 0xFF)
  else if o % 32 = 2 then (0xFF, 0xF1)
  else if 16 ≤ o % 32 ∧ o % 32 < 24 then (0, 0xFF)
  else if 3 ≤ o % 32 ∧ o % 32 < 8 ∨ 24 ≤ o % 32 then (0xFF, 0)
  else (0xFF, 0xFF)

/-- The same of byte `o` of a trace block (R393). -/
def traceMasks (o : Nat) : Byte × Byte := if o < 8 then (0xFF, 0xFF) else if o = 8 then (0xFF, 0x1F) else (0xFF, 0)

/-- The same of byte `o` of a pool block (R318): DONE and PCUR are RO. -/
def poolMasks (o : Nat) : Byte × Byte :=
  if o < 8 then (0xFF, if o = 0 || 4 ≤ o then 0xFF else 0)
  else if o < 0x10 then (0, 0xFF)
  else if o < 0x38 then (0xFF, if 0x35 ≤ o then 0 else 0xFF)
  else ([0xFF, 0, 0, 0, 0, 0, 0xFF, 0xFF].getD (o - 0x38) 0xFF, [0x1F, 0, 0, 0, 0xFF, 0, 0xFF, 0xFF].getD (o - 0x38) 0xFF)

/-- The same of byte `o` of the entries of a call ring (R391): the host writes RPL and REPLY. -/
def ringMasks (o : Nat) : Byte × Byte :=
  if o < 16 then (0, 0xFF)
  else if o < 24 then (if o = 23 then 0x40 else 0, [0xFF, 0x0F, 0, 0, 0xFF, 0x0F, 0, 0xC0].getD (o - 16) 0)
  else (0xFF, 0xFF)

/-- The same of the byte at an address: of the fixed part of the control region (R260), of a context's pool block or call ring, and of its
pool's work area, which only the device writes (R319). -/
def State.hostMasks (s : State) (a : Nat) : Byte × Byte :=
  if s.mgmt.cbase ≤ a ∧ a < s.mgmt.cbase + 0x12000 then
    let o := a - s.mgmt.cbase
    if o < 0x10000 then ctxMasks (o % 0x400) else if o < 0x11000 then linkMasks (o - 0x10000) else traceMasks (o % 64)
  else
    match (List.range 64).find? fun n => (s.ctx n).state != .free && (s.ctx n).pblk != 0 && (s.ctx n).pblk ≤ a && a < (s.ctx n).pblk + 64 with
    | some n => poolMasks (a - (s.ctx n).pblk)
    | none =>
      match (List.range 64).find? fun n => (s.ctx n).state != .free && (s.ctx n).hring != 0 && (s.ctx n).hring ≤ a && a < (s.ctx n).hring + 2048 with
      | some n => ringMasks ((a - (s.ctx n).hring) % 32)
      | none =>
      if (List.range 64).any fun n =>
        let c := s.ctx n
        c.state != .free && c.pblk != 0 && c.tableAt ≤ a && a < c.tableAt + workBytes c.log2n c.ndev c.nslow c.maxpg
      then (0, 0xFF) else (0xFF, 0xFF)

/-- The byte that a write of the host leaves at an address: bits that are RO keep their value (R7). -/
def State.hostByte (s : State) (a : Nat) (b : Byte) : Byte :=
  let m := (s.hostMasks a).1
  (s.mem.get a &&& ~~~m) ||| (b &&& m)

/-- The bytes that the host reads: bits that are RZ read zero (R7). -/
def State.hostSees (s : State) (pa n : Nat) : List Byte := (List.range n).map fun i => s.mem.get (pa + i) &&& (s.hostMasks (pa + i)).2

/-- The host writes; a stray reply is cleared (R392); what it wrote over PODCFG and PORTCTL is applied (R386). -/
def State.hostWrite (s : State) (pa : Nat) (bs : List Byte) : State :=
  let s := (((List.range 64).foldl State.keepTables s).storePA pa (bs.zipIdx.map fun (b, i) => s.hostByte (pa + i) b)).clearStray pa bs.length
  let hit := fun a => pa < a + 8 && a < pa + bs.length
  let s := if hit s.linkBlock then s.applyPodcfg (s.loadPA8 s.linkBlock) else s
  if !hit (s.linkBlock + 8) then s else
  let ctl := s.loadPA8 (s.linkBlock + 8)
  (List.range 24).foldl (fun s p =>
    if ctl.getLsbD p = (s.port p).en then s else if ctl.getLsbD p then s.enablePort p else s.disablePort p) s.putPortctl

/-- The run of bytes lies in device memory, reached over Turward, or in the slow tier, which is the host's own. -/
def hostMay (pa n : Nat) : Bool :=
  paValid pa && paValid (pa + n - 1) && paKind pa == paKind (pa + n - 1) && paKind pa ≤ 1

/-- A host access waits for Turward. -/
def State.hostWaits (s : State) (pa : Nat) : Bool := paKind pa == 0 && !s.turward.usable

/-- Flits that usable ports have replayed since they were looked at last (R386): how many is left free (log entry 98). -/
def State.replayed (s : State) : State :=
  (List.range 25).foldl (fun s p =>
    let x := s.port p
    if !x.usable then s else
    let (v, s) := s.draw
    s.setPort p { x with replays := BitVec.ofNat 32 (min (2 ^ 32 - 1) (x.replays.toNat + v.toNat % 2 ^ 32)) }) s

/-- What the host is given for a read: none for poisoned data (R382). -/
def State.hostGiven (s : State) (pa n : Nat) : Option (List Byte) := if s.poisoned pa n then none else some (s.hostSees pa n)

/-- A host access (R259, R390): a read of damaged data is answered as poisoned (R382), and one of the link block's status words shows what
has been replayed meanwhile; the base and the size of the control region are read on request (R403). -/
def execTurwardHostAccess (a : HostAccess) (s : State) : Out :=
  match a with
  | .read pa n =>
    if n = 0 || !hostMay pa n then .fault .noSuchAddress
    else if s.hostWaits pa then .fault .notEnabled
    else
      let s := if pa < s.linkBlock + 0x108 && s.linkBlock + 0x40 < pa + n then s.replayed else s
      .next { s with hostOut := s.hostOut ++ [s.hostGiven pa n] }
  | .boot =>
    if !s.turward.usable then .fault .notEnabled
    else .next { s with hostOut := s.hostOut ++ [bootReport s.mgmt.cbase s.mgmt.csize] }
  | .write pa bs =>
    if bs.isEmpty || !hostMay pa bs.length then .fault .noSuchAddress
    else if s.hostWaits pa then .fault .notEnabled
    else .next (s.hostWrite pa bs)
  | .atomicAdd pa v =>
    if pa % 8 != 0 || !hostMay pa 8 then .fault .noSuchAddress
    else if s.hostWaits pa then .fault .notEnabled
    else .next { s.hostWrite pa (toBytes 8 (BitVec.ofNat 64 (ofBytes (s.hostSees pa 8)) + v).toNat) with
      hostOut := s.hostOut ++ [s.hostGiven pa 8] }

/-! ### Requests of other packages (R385, R387, R388) -/

/-- A context joined to a pod tenant number has a valid window over the line, writable for a write (R387). -/
def State.podCovers (s : State) (ptid : Nat) (write : Bool) (pa : Nat) : Bool :=
  ptid != 0 && (List.range 64).any fun n =>
    (s.ctx n).state != .free && (s.ctx n).ptid == ptid && (s.ctx n).covers write (pa / 64 * 64) (pa / 64 * 64 + 64)

/-- The bytes of a request, and whether it writes and reads. -/
def RemoteOp.shape : RemoteOp → Nat × Bool × Bool
  | .read n => (n, false, true)
  | .write bs => (bs.length, true, false)
  | .amo _ wide _ => (if wide then 8 else 4, true, true)
  | .cas wide _ _ => (if wide then 8 else 4, true, true)

/-- A request that is not an access of at most 64 bytes inside one line, aligned where it is atomic. -/
def remoteForm (pa : Nat) (op : RemoteOp) : Bool :=
  let (n, w, r) := RemoteOp.shape op
  1 ≤ n && pa % 64 + n ≤ 64 && (!(w && r) || pa % n == 0)

/-- The effect of a request at its home, and the bytes that it returns (R388). -/
def State.performRemote (s : State) (pa : Nat) (op : RemoteOp) : State × List Byte :=
  match op with
  | .read n => (s, s.mem.read pa n)
  | .write bs => (s.storePA pa bs, [])
  | .amo op wide v =>
    let n := if wide then 8 else 4
    let old := s.mem.num pa n
    (s.storePA pa (toBytes n (amoNew op (8 * n) old (v.toNat % 2 ^ (8 * n)))), toBytes n old)
  | .cas wide e v =>
    let n := if wide then 8 else 4
    let old := s.mem.num pa n
    (if old = e.toNat % 2 ^ (8 * n) then s.storePA pa (toBytes n v.toNat) else s, toBytes n old)

/-- A request arrives (R387, R388): it is performed once, and a repeated one is recognised by its sequence (R385). -/
def execRemoteRequest (r : RemoteReq) (s : State) : Out :=
  let pa := r.pa % 2 ^ 42
  if paKind r.pa != 2 || !paValid r.pa || paPkg r.pa != s.pkgid || r.fromPkg == s.pkgid || !s.podcfg.getLsbD 16 ||
     !s.ports.toArray.any Port.usable || !remoteForm pa r.op then .fault .notEnabled
  else if s.remoteSeen.contains (r.fromPkg, 2 * r.seq) then .next s else
  let (n, w, rd) := RemoteOp.shape r.op
  let (cause, s', bs) :=
    if !s.podCovers r.ptid w pa then (cREMOTE, s, [])
    else if rd && s.damage.fails (pa / 64) then (cCHECK, s, [])
    else if rd && s.damage.uncorr.contains (pa / 64) then (cUNCORRECTABLE, s, [])
    else
      let (t, bs) := s.performRemote pa r.op
      (0, t, bs)
  .next { s' with remoteSeen := (r.fromPkg, 2 * r.seq) :: s'.remoteSeen, remoteOut := s'.remoteOut ++ [(r.seq, cause, bs.take n)] }

/-! ### Tile sends (07 R183, R184; R389) -/

/-- Fields of a token (R182). -/
def tokPkg (w : Word) : Nat := (w.extractLsb' 54 10).toNat
def tokWin (w : Word) : Nat := (w.extractLsb' 36 12).toNat
def tokGen (w : Word) : BitVec 8 := w.extractLsb' 28 8

/-- The window that a token names, if it is armed (R184). -/
def State.window (s : State) (tok : Word) : Option RWin := s.rwins.find? fun w => w.win == tokWin tok && w.gen == tokGen tok

/-- The entry of a window's tile: in the map that a thread has installed, else in memory. -/
def State.winEnt (s : State) (w : RWin) : TEnt :=
  let g : Tag := ⟨w.ctx, w.tmapb, w.tile, w.tgen⟩
  match s.threads.find? (·.owns g) with
  | some t => t.ent w.tile
  | none => s.readEnt w.ctx w.tmapb w.tile

/-- Write that entry. None where memory refuses it. -/
def State.putWinEnt (s : State) (w : RWin) (e : TEnt) : Option State :=
  let g : Tag := ⟨w.ctx, w.tmapb, w.tile, w.tgen⟩
  if s.threads.any (·.owns g) then some (s.mapThreads fun t => if t.owns g then t.setEnt w.tile e else t)
  else (s.writeEnt w.ctx w.tmapb w.tile e).toOption

/-- The window is released. -/
def State.releaseWin (s : State) (w : RWin) : State := { s with rwins := s.rwins.filter fun x => x.win != w.win }

/-- The data of an accepted send (R184, R230): into the slot where a thread has the map installed and the tile is resident; else into the
backing region, as for a receiving thread that has been switched out, and a slot that still stands for the tile is dropped. False for a
NAK. -/
def State.receive (s : State) (w : RWin) (v : TileVal) : State × Bool :=
  let e := s.winEnt w
  let g : Tag := ⟨w.ctx, w.tmapb, w.tile, e.gen⟩
  let held := if e.resident then s.heldIn w.ctx w.tmapb w.tile e else none
  match (if s.threads.any (·.owns g) then held else none) with
  | some x =>
    match s.putWinEnt w { e with state := tDIRTY, f := true, arm := false } with
    | some s =>
      ((s.putSlot e.core.toNat { x with val := v, zmap := v.zmap, dirty := true, full := true }).releaseWin w, true)
    | none => (s, false)
  | none =>
    match (s.flushRegion g e.bidx.toNat).writeRegion w.ctx w.tmapb e.bidx.toNat w.tile e.gen e.flags v with
    | (s, some _) => (s, false)
    | (s, none) =>
      match s.putWinEnt w { e with state := tBACKED, f := true, arm := false } with
      | some s =>
        (match held with
         | some x => (s.dropSlot e.core.toNat x.num).releaseWin w
         | none => s.releaseWin w, true)
      | none => (s, false)

/-- The table of R184 on a send that has arrived whole: the state, and ACK or NAK. -/
def State.decideSend (s : State) (m : SendMsg) : State × Bool :=
  match s.window m.token with
  | none => (s, false)
  | some w =>
    let own := m.fromPkg == s.pkgid && m.ctx == w.ctx
    if !own && (m.ptid == 0 || m.ptid != (s.ctx w.ctx).ptid) then (s, false)
    else if m.tile.shape != w.shape then (s, false)
    else if (s.winEnt w).gen != w.tgen then (s.releaseWin w, false)
    else s.receive w m.tile

/-- The receiving thread of a token, as its map. -/
def State.receiver (s : State) (tok : Word) : Option (Nat × Word) :=
  (s.rwins.find? fun w => w.win == tokWin tok).map fun w => (w.ctx, w.tmapb)

/-- An older send of the same thread to the same receiving thread has not arrived (R183). -/
def State.sendBefore (s : State) (x : Send) : Bool :=
  (s.sends.takeWhile fun y => y.id != x.id).any fun y =>
    y.answer.isNone && y.tid == x.tid && tokPkg y.token == s.pkgid && (s.receiver y.token).isSome && s.receiver y.token == s.receiver x.token

/-- A send of this package that stays on its I/O die (R389), as the receiver meets it. -/
def State.localMsg (s : State) (x : Send) : SendMsg where
  id := x.id
  token := x.token
  fromPkg := s.pkgid
  ctx := x.tid.ctx
  ptid := (s.ctx x.tid.ctx).ptid
  intact := true
  tile := x.tile

/-- A send arrives (R184, R389): of this package, or over the link, where a repeated one is recognised by its sequence. -/
def execSendArrival (m : SendMsg) (s : State) : Out :=
  if m.fromPkg = s.pkgid then
    match s.sends.find? fun x => x.id == m.id with
    | none => .fault .notEnabled
    | some x =>
      if x.answer.isSome || tokPkg x.token != s.pkgid || { m with intact := true } != s.localMsg x || s.sendBefore x
      then .fault .notEnabled else
      let (s, ack) := if m.intact then s.decideSend m else (s, false)
      .next { s with sends := s.sends.map fun y => if y.id == m.id then { y with answer := some ack } else y }
  else if tokPkg m.token != s.pkgid || !s.podcfg.getLsbD 16 || !s.ports.toArray.any Port.usable then .fault .notEnabled
  else if s.remoteSeen.contains (m.fromPkg, 2 * m.id + 1) then .next s
  else
    let (s, ack) := if m.intact then s.decideSend m else (s, false)
    .next { s with remoteSeen := (m.fromPkg, 2 * m.id + 1) :: s.remoteSeen, remoteOut := s.remoteOut ++ [(m.id, if ack then 0 else 1, [])] }

/-- The arrival of a send on its barrier (R312); one that cannot reach the word is dropped (R313). -/
def State.sendArrives (s : State) (x : Send) (ack : Bool) : State :=
  let s := { s with sends := s.sends.filter fun y => y.id != x.id }
  match s.arrive x.tid.ctx false x.bar 1 (if ack then 0 else barERR) 0 with
  | .ok s' => s'
  | .error _ => s

/-- The barrier word of a send lies where no usable port leads (R385). -/
def State.barWaits (s : State) (x : Send) : Bool :=
  x.bar != 0 &&
  match s.xlate x.tid.ctx false true x.bar.toNat with
  | .ok pa => !s.podRefused x.tid.ctx true pa && s.noPort pa
  | .error _ => false

/-- A send has its outcome: it arrives on its barrier, or waits TMO for a port to it (R312, R385). -/
def State.sendEnds (s : State) (x : Send) (ack : Bool) : State :=
  if !s.barWaits x then s.sendArrives x ack else
  { s with sends := s.sends.map fun y =>
      if y.id == x.id && !y.waiting then { y with answer := some ack, waiting := true, deadline := s.cycle + s.tmo } else y }

/-- The answer to a send reaches the sender (R183, R312). -/
def execSendResponse (id : Nat) (ack : Bool) (s : State) : Out :=
  match s.sends.find? fun x => x.id == id with
  | none => .fault .notEnabled
  | some x =>
    let ok := if x.waiting || tokPkg x.token = s.pkgid then x.answer == some ack else s.podcfg.getLsbD 16 && s.ports.toArray.any Port.usable
    if ok then .next (s.sendEnds x ack) else .fault .notEnabled

/-- A send has had no answer for TMO (R389), or its arrival no port (R385). -/
def execSendTimeout (id : Nat) (s : State) : Out :=
  match s.sends.find? fun x => x.id == id with
  | none => .fault .notEnabled
  | some x =>
    if s.cycle < x.deadline then .fault .notEnabled
    else if x.waiting then .next (s.sendArrives x (x.answer == some true))
    else .next (s.sendEnds x false)

end Sys2Proof.Machine
end

