-- ==== Sys2Proof/Machine/Manage.lean ====
section
/-! DEFINITION. The management plane and the margin planner (22 R403 to R406; 01 R18, R19, R22, R23). -/

namespace Sys2Proof.Machine

/-- A management event. -/
def Mgmt.event (m : Mgmt) (e : String) : Mgmt := { m with events := m.events ++ [e] }

/-- An answer over the management port. -/
def State.answer (s : State) (bs : List Byte) : State := { s with mgmt := { s.mgmt with out := s.mgmt.out ++ [bs] } }

/-- One 25 MHz step down, to no less than 600 MHz (R18), on every array at once (R19). -/
def Mgmt.clockDown (m : Mgmt) : Mgmt := { m with arrayClk := max 600 (m.arrayClk - 25) }

/-- What a measurement does to the array clock (R405). -/
def Mgmt.replan (m : Mgmt) (x : Margin) : Mgmt :=
  match x with
  | .failing => if m.arrayClk ≤ 600 then m.event "critical margin" else m.clockDown.event "margin"
  | .holds => m
  | .stepUp => { m with arrayClk := min 850 (m.arrayClk + 25) }

/-- The SHA-512 digests of the images that ran since reset, in boot order (R404). -/
def State.measurements (s : State) : List (List Byte) := (Config.bootImages ++ s.mgmt.running.toList).map Crypto.sha512

/-! ### SPDM messages (R9, R403, R404) -/

/-- Version 1.2 of SPDM in the first byte of its messages (log entry 106). -/
def spdmVersion : Byte := 0x12

/-- The blocks of a measurement record: index, the DMTF specification, size, the type of a digest of firmware, its size, the digest. -/
def spdmRecord (ds : List (List Byte)) : List Byte :=
  (ds.zipIdx 1).flatMap fun (d, i) =>
    [BitVec.ofNat 8 i, 1] ++ toBytes 2 (d.length + 3) ++ [1] ++ toBytes 2 d.length ++ d

/-- 32 random bytes of a response. -/
def spdmRandom (n : Nat) : List Byte := (List.range 4).flatMap fun i => toBytes 8 (Config.freeValue (n + i)).toNat

/-- MEASUREMENTS, with every block and no signature. -/
def spdmMeasurements (ds : List (List Byte)) (random : List Byte) : List Byte :=
  [spdmVersion, 0x60, 0, 0, BitVec.ofNat 8 ds.length] ++ toBytes 3 (spdmRecord ds).length ++ spdmRecord ds ++ random ++ [0, 0]

/-- CHALLENGE for slot 0 and all measurements, with the requester's nonce. -/
def spdmChallenge (nonce : List Byte) : List Byte := [spdmVersion, 0x83, 0, 0xFF] ++ nonce

/-- CHALLENGE_AUTH without its signature: the digest of the certificate chain, the responder's nonce, the digest of all measurements. -/
def spdmAuth (ds : List (List Byte)) (random : List Byte) : List Byte :=
  [spdmVersion, 0x03, 0, 1] ++ Crypto.sha512 Config.identity ++ random ++ Crypto.sha512 (spdmRecord ds) ++ [0, 0]

/-- ASCII text. -/
def ascii (t : String) : List Byte := t.toList.map fun c => BitVec.ofNat 8 c.toNat

/-- What the responder signs: the prefix of SPDM 1.2, its context, and the digest of the transcript. -/
def spdmSigned (transcript : List Byte) : List Byte :=
  (List.replicate 4 (ascii "dmtf-spdm-v1.2.*")).flatten ++ [0, 0, 0, 0] ++ ascii "responder-challenge_auth signing" ++ Crypto.sha512 transcript

/-- The answer to a challenge: CHALLENGE_AUTH, signed with the device identity key over the messages exchanged so far, the challenge and
itself. -/
def spdmAnswer (ds : List (List Byte)) (nonce random : List Byte) : List Byte :=
  spdmAuth ds random ++ Crypto.ed25519Sign Config.deviceKey (spdmSigned (Config.spdmNegotiated ++ spdmChallenge nonce ++ spdmAuth ds random))

/-- The settings of R403 as a read over the port shows them: the minimum quantum, the base of the control region, its size and the size set
for the next reset. -/
def Mgmt.settings (m : Mgmt) : List Byte := toBytes 8 m.minQuantum ++ toBytes 8 m.cbase ++ toBytes 8 m.csize ++ toBytes 8 m.csizeNext

/-- A firmware image's signature, over its SHA-512 digest, verifies against a key in the fuses (R404). -/
def imageSigned (image sig : List Byte) : Bool := Config.fusedKeys.any fun k => Crypto.ed25519Verify k (Crypto.sha512 image) sig

/-- The effect of a request: a measurement of the margins (R405); a firmware update, staged if its signature verifies and its version is
not below the anti-rollback count (R404); the identity chain; the measurements; a challenge, answered with the device identity key; the
telemetry of rails and temperatures, ARRAYCLK and the settings; the settings of R403, where a value outside the range is not taken. -/
def State.perform (s : State) (r : Request) : State :=
  match r with
  | .margin m => { s with mgmt := s.mgmt.replan m }
  | .firmware i g =>
    if imageSigned i g && s.mgmt.rollback ≤ Config.imageVersion i then { s with mgmt := { s.mgmt with staged := some i } } else s
  | .identity => s.answer Config.identity
  | .measurement => { s.answer (spdmMeasurements s.measurements (spdmRandom s.drawn)) with drawn := s.drawn + 4 }
  | .challenge n => { s.answer (spdmAnswer s.measurements n (spdmRandom s.drawn)) with drawn := s.drawn + 4 }
  | .telemetry => { s.answer (Config.telemetry s.drawn ++ toBytes 8 s.mgmt.arrayClk ++ s.mgmt.settings) with drawn := s.drawn + 1 }
  | .minQuantum us => if 10 ≤ us && us ≤ 10000 then { s with mgmt := { s.mgmt with minQuantum := us } } else s
  | .fence p => s.fencePort p
  | .regionSize g => if 1 ≤ g && g ≤ 256 then { s with mgmt := { s.mgmt with csizeNext := g } } else s

/-- A context is being destroyed: requests of the management plane wait (R23). -/
def State.tearing (s : State) : Bool := s.ctxs.toArray.any fun c => c.state == .destroying

/-- A command of some context is under way (R267): it has been taken and is not answered yet. -/
def State.commanding (s : State) : Bool := s.ctxs.toArray.any fun c => c.cmdSeq.isSome

/-- A request waits: while a context is being destroyed (R23), and a change of the array clock while any context command is under way
(R406). -/
def State.blocks (s : State) (r : Request) : Bool :=
  s.tearing || match r with | .margin _ => s.commanding | _ => false

/-- A request takes effect now, or is kept until it may. -/
def State.onRequest (s : State) (r : Request) : State :=
  if s.blocks r then { s with mgmt := { s.mgmt with held := s.mgmt.held ++ [r] } } else s.perform r

/-- A request of the management plane. -/
def State.manage (s : State) (r : Request) : Out := .next (s.onRequest r)

/-- The requests that waited take effect in their order, as far as they may (R23). -/
def State.releaseHeld (s : State) : State := s.mgmt.held.foldl State.onRequest { s with mgmt := { s.mgmt with held := [] } }

/-- The measurement that a request is. -/
def Request.margin? : Request → Option Margin
  | .margin x => some x
  | _ => none

/-- The measurements that waited act on the array clock, and the other requests go on waiting. -/
def Mgmt.releaseClock (m : Mgmt) : Mgmt :=
  (m.held.filterMap Request.margin?).foldl Mgmt.replan { m with held := m.held.filter (·.margin?.isNone) }

/-- A context command has ended: the changes of the array clock that waited for it are performed (R406). -/
def State.releaseClock (s : State) : State := if s.commanding || s.tearing then s else { s with mgmt := s.mgmt.releaseClock }

/-- A measurement of the margin planner (R405, R406). -/
def execMarginMeasurement (m : Margin) (s : State) : Out := s.manage (.margin m)

/-- A junction above 105 °C forces one step down at once (R405). -/
def execJunctionOvertemp (s : State) : Out := .next { s with mgmt := s.mgmt.clockDown }

/-- A firmware update (R404). -/
def execFirmwareUpdate (image signature : List Byte) (s : State) : Out := s.manage (.firmware image signature)

/-- The identity certificate chain (R403). -/
def execSpdmIdentity (s : State) : Out := s.manage .identity

/-- An SPDM measurement (R403, R404). -/
def execSpdmMeasurement (s : State) : Out := s.manage .measurement

/-- An SPDM challenge (R403, R404). -/
def execSpdmChallenge (nonce : List Byte) (s : State) : Out := s.manage (.challenge nonce)

/-- A telemetry read (R403). -/
def execTelemetryRead (s : State) : Out := s.manage .telemetry

/-- The minimum quantum in microseconds, from the next placement on (R403). -/
def execMinimumQuantumSet (us : Nat) (s : State) : Out := s.manage (.minQuantum us)

/-- The control region's size in GiB, from the next package reset on (R403). -/
def execControlRegionSizeSet (gib : Nat) (s : State) : Out := s.manage (.regionSize gib)

/-- A fence by the management plane (R384, R403). -/
def execPortFence (p : Nat) (s : State) : Out := if 25 ≤ p then .fault .notEnabled else s.manage (.fence p)

/-- The package is reset (R403, R404): the region takes its new size at the top of device memory (log entry 25), and a staged image
runs. The fuses and the numbers of free values go on. -/
def execPackageReset (s : State) : Out :=
  let m := s.mgmt
  let r := State.reset
  .next { r with
    drawn := s.drawn
    mgmt := { r.mgmt with
      csize := m.csizeNext, csizeNext := m.csizeNext, cbase := deviceBytes - m.csizeNext * 2 ^ 30
      running := match m.staged with
        | some i => some i
        | none => m.running
      rollback := m.rollback }
    hostOut := [bootReport (deviceBytes - m.csizeNext * 2 ^ 30) m.csizeNext] }

end Sys2Proof.Machine
end

