-- ==== Sys2Proof/Machine/Context.lean ====
section
/-! DEFINITION. The context: its block, its commands, quiescing, teardown, interrupts (11 R260 to R273; 16 R317 to R319; 19 R428). -/

namespace Sys2Proof.Machine

/-! ### Areas of the control region (R260) -/

/-- Size of the fixed part. -/
def fixedBytes : Nat := 0x12000

/-- An area lies wholly in the control region and outside its fixed part. -/
def State.inRegion (s : State) (base len : Nat) : Bool :=
  s.mgmt.cbase + fixedBytes ≤ base && base + len ≤ s.mgmt.cbase + s.mgmt.csize * 2 ^ 30

/-- The areas that a context has there: save records, pool block, work area, call ring. -/
def Ctx.areas (c : Ctx) : List (Nat × Nat) :=
  [(c.savebase, c.livemax * recordBytes)] ++
  (if c.pblk = 0 then [] else [(c.pblk, 64), (c.work * 65536, workBytes c.log2n c.ndev c.nslow c.maxpg)]) ++
  (if c.hring = 0 then [] else [(c.hring, 2048)])

/-- Two ranges have a byte in common. -/
def meets (a b : Nat × Nat) : Bool := a.1 < b.1 + b.2 && b.1 < a.1 + a.2

/-- No two ranges of a list have a byte in common. -/
def apart : List (Nat × Nat) → Bool
  | [] => true
  | a :: l => l.all (fun b => !meets a b) && apart l

/-- The other contexts that are not FREE. -/
def State.others (s : State) (n : Nat) : List Ctx :=
  ((List.range 64).filter fun k => k != n && (s.ctx k).state != .free).map s.ctx

/-- The valid windows as ranges. -/
def Ctx.windows (c : Ctx) : List (Nat × Nat) :=
  (c.wins.toList.filter (·.valid)).map fun w => (w.base * 65536, (w.last - w.base) * 65536)

/-! ### Reading the block (R261, R262, R273, R317, R318, R386, R393) -/

/-- A vector of a context block. -/
def State.readVec (s : State) (n off : Nat) : Vec := ⟨s.cget n off, (s.cget n (off + 8)).extractLsb' 0 32⟩

/-- A vector of a context block keeps to its layout. -/
def State.vecFormat (s : State) (n off : Nat) : Bool := vecOk (s.cget n off) (s.cget n (off + 8))

/-- A window of a context block (R262). -/
def State.readWin (s : State) (n i : Nat) : Window :=
  let lo := (s.cget n (0x100 + 16 * i)).toNat
  { valid := lo.testBit 0, w := lo.testBit 1, base := bitsOf 55 16 lo, last := bitsOf 55 16 (s.cget n (0x108 + 16 * i)).toNat }

/-- Reserved bits of a window. -/
def State.winReserved (s : State) (n i : Nat) : Bool :=
  let lo := (s.cget n (0x100 + 16 * i)).toNat
  let hi := (s.cget n (0x108 + 16 * i)).toNat
  lo / 2 ^ 56 == 0 && bitsOf 15 2 lo == 0 && hi / 2 ^ 56 == 0 && bitsOf 15 0 hi == 0

/-- A window is valid under R262. -/
def Window.ok (w : Window) : Bool :=
  !w.valid || (w.base < w.last && paValid (w.base * 65536) && paValid (w.last * 65536 - 1) &&
    paKind (w.base * 65536) == paKind (w.last * 65536 - 1) &&
    (paKind (w.base * 65536) != 2 || paPkg (w.base * 65536) == paPkg (w.last * 65536 - 1)))

/-- Address of a context's entry of the link block. -/
def State.linkAt (s : State) (n : Nat) : Nat := s.mgmt.cbase + 0x10200 + 32 * n

/-- Address of a context's trace block. -/
def State.traceAt (s : State) (n : Nat) : Nat := s.mgmt.cbase + 0x11000 + 64 * n

/-- A context with the pool block that its PBLK names. -/
def State.readPool (s : State) (c : Ctx) : Ctx :=
  if c.pblk = 0 then { c with ndev := 0, devbase := 0, nslow := 0, slowbase := 0, work := 0, maxpg := 0, log2n := 0 } else
  let f := fun off => (s.loadPA8 (c.pblk + off)).toNat
  { c with ndev := bitsOf 63 40 (f 0x20), devbase := bitsOf 39 0 (f 0x20), nslow := bitsOf 63 40 (f 0x28), slowbase := bitsOf 39 0 (f 0x28),
           work := bitsOf 39 0 (f 0x30), maxpg := bitsOf 63 48 (f 0x38), log2n := bitsOf 4 0 (f 0x38) }

/-- A context with the fields that every reading of its block takes; its pool, its save area and its registers stay. -/
def State.takeBlock (s : State) (n : Nat) (c : Ctx) : Ctx :=
  let sched := (s.cget n 0x40).toNat
  let link := (s.loadPA8 (s.linkAt n)).toNat
  { c with
    droot := s.cget n 0x30, croot := s.cget n 0x38, cls := bitsOf 1 0 sched, weight := bitsOf 15 8 sched, rwq := bitsOf 44 32 sched
    ecores := s.cget n 0x68, qblk := Vector.ofFn fun i => s.cget n (0x80 + 8 * i.val), wins := Vector.ofFn fun i => s.readWin n i.val
    ivec := Vector.ofFn fun i => s.readVec n (0x200 + 16 * i.val), cvec := s.readVec n 0x20
    pblk := (s.cget n 0x70).toNat, pien := (s.cget n 0x78).getLsbD 4, pivec := bitsOf 3 0 (s.cget n 0x78).toNat
    blkTrapvec := s.cget n 0x50, blkEpcbase := s.cget n 0x58, blkPolgen := s.cget n 0x60
    ptid := bitsOf 15 0 link, hvec := bitsOf 23 20 link, hien := link.testBit 16, hring := (s.loadPA8 (s.linkAt n + 8)).toNat
    tbase := s.loadPA8 (s.traceAt n), log2sz := bitsOf 4 0 (s.loadPA8 (s.traceAt n + 8)).toNat }

/-! ### The checks (R268, R428) -/

/-- Roots of the tables. -/
def Ctx.rootsOk (c : Ctx) : Bool :=
  c.droot.toNat / 2 ^ 56 == 0 && c.droot.toNat % 2048 == 0 && c.croot.toNat / 2 ^ 56 == 0 && c.croot.toNat % 4096 == 0

/-- SCHED but for LIVEMAX and RWQ. -/
def State.schedOk (s : State) (n : Nat) (c : Ctx) : Bool :=
  let x := (s.cget n 0x40).toNat
  bitsOf 47 45 x == 0 && bitsOf 31 16 x == 0 && bitsOf 7 2 x == 0 && 1 ≤ c.weight

/-- A value of EPCBASE (R333). -/
def epcbaseOk (v : Word) : Bool := v.toNat % 32768 == 0 && v.toNat / 2 ^ 56 == 0

/-- The windows. -/
def State.winsOk (s : State) (n : Nat) (c : Ctx) : Bool := c.wins.toList.all Window.ok && (List.range 16).all (s.winReserved n)

/-- A queue block's address (R276). -/
def qblkOk (a : Word) : Bool := a.toNat % 64 == 0 && a.toNat / 2 ^ 56 == 0

/-- HTAB and the pool block (R317 to R319). -/
def State.poolOk (s : State) (n : Nat) (c : Ctx) : Bool :=
  (s.cget n 0x78).toNat / 32 == 0 &&
  (c.pblk == 0 ||
    (let f := fun off => (s.loadPA8 (c.pblk + off)).toNat
     let dev := c.devbase * 65536
     let slow := c.slowbase * 65536
     c.pblk % 64 == 0 && s.inRegion c.pblk 64 && c.ndev ≤ 12582912 && f 0x30 / 2 ^ 40 == 0 && bitsOf 47 40 (f 0x38) == 0 &&
     bitsOf 31 5 (f 0x38) == 0 && 1 ≤ c.maxpg && 4 ≤ c.log2n && c.log2n ≤ 24 &&
     (c.ndev == 0 || (dev % 12582912 == 0 && paKind dev == 0 && c.covers true dev (dev + c.ndev * 65536))) &&
     (c.nslow == 0 || (paKind slow == 1 && c.covers true slow (slow + c.nslow * 65536))) &&
     s.inRegion (c.work * 65536) (workBytes c.log2n c.ndev c.nslow c.maxpg)))

/-- The entry of the link block. -/
def State.linkOk (s : State) (n : Nat) (c : Ctx) : Bool :=
  let w := (s.loadPA8 (s.linkAt n)).toNat
  w / 2 ^ 24 == 0 && bitsOf 19 17 w == 0 && s.loadPA8 (s.linkAt n + 24) == 0 &&
  (c.hring == 0 || (c.hring % 2048 == 0 && s.inRegion c.hring 2048))

/-- The trace block. -/
def State.traceOk (s : State) (n : Nat) (c : Ctx) : Bool :=
  (s.loadPA8 (s.traceAt n + 8)).toNat / 32 == 0 && ((List.range 6).all fun i => s.loadPA8 (s.traceAt n + 16 + 8 * i) == 0) &&
  (c.tbase == 0 || (12 ≤ c.log2sz && c.log2sz ≤ 24 && c.tbase.toNat % 2 ^ c.log2sz == 0 && c.tbase.toNat / 2 ^ 56 == 0))

/-- The vectors. -/
def State.vecsOk (s : State) (n : Nat) : Bool := s.vecFormat n 0x20 && (List.range 16).all fun i => s.vecFormat n (0x200 + 16 * i)

/-- The FORMAT checks of `CREATE`. -/
def State.createFormat (s : State) (n : Nat) (c : Ctx) : Bool :=
  s.vecsOk n && c.rootsOk && s.schedOk n c && c.rwq ≤ 4096 && 1 ≤ c.livemax && c.livemax ≤ 4096 && c.savebase % 4096 == 0 &&
  s.inRegion c.savebase (c.livemax * recordBytes) && c.blkTrapvec.toNat % 8 == 0 && epcbaseOk c.blkEpcbase &&
  c.blkPolgen.toNat / 2 ^ 32 == 0 && c.qblk.toList.all qblkOk && s.winsOk n c && s.poolOk n c && s.linkOk n c && s.traceOk n c &&
  (s.cget n 0x300).extractLsb' 16 40 == 0 && (List.range 31).all fun i => s.cget n (0x308 + 8 * i) == 0

/-- No window meets the control region or a valid window of another context that is not FREE (R260, R262). -/
def State.winsApart (s : State) (n : Nat) (c : Ctx) : Bool :=
  c.windows.all fun w => !meets w (s.mgmt.cbase, s.mgmt.csize * 2 ^ 30) && (s.others n).all fun o => o.windows.all fun x => !meets w x

/-- The areas of a context are apart from one another and from those of every other context that is not FREE (R260). -/
def State.areasApart (s : State) (n : Nat) (c : Ctx) : Bool :=
  apart c.areas && c.areas.all fun a => (s.others n).all fun o => o.areas.all fun b => !meets a b

/-- The receive-window quotas together (R268). -/
def State.quotaOk (s : State) (n : Nat) (c : Ctx) : Bool := (s.others n).foldl (fun a o => a + o.rwq) c.rwq ≤ 4096

/-- No bit of ECORES is held by another context. -/
def State.ecoresFree (s : State) (n : Nat) (e : Word) : Bool := (s.others n).all fun o => o.ecores &&& e == 0

/-! ### Commands (R267) -/

/-- The pending command of a context: SEQ, OP, whether an RZ bit is set. None while another command runs. -/
def State.ctxCommand (s : State) (n : Nat) : Option (BitVec 32 × Nat × Bool) :=
  if 64 ≤ n || (s.ctx n).cmdSeq.isSome then none else
  let c := s.cget n 0
  if c.toNat / 2 ^ 32 = (s.cget n 8).toNat / 2 ^ 32 then none
  else some (c.extractLsb' 32 32, c.toNat % 256, c.extractLsb' 8 24 != 0)

/-- A command of one OP: its RZ check, then its effect. -/
def State.ctxOp (s : State) (n op : Nat) (f : BitVec 32 → State) : Out :=
  match s.ctxCommand n with
  | none => .fault .notEnabled
  | some (seq, o, rz) => if o != op then .fault .notEnabled else .next (if rz then s.ctxDone n seq 2 else f seq)

/-- The bytes of a bitmap of `n` bits, every bit set. -/
def onesBytes (n : Nat) : List Byte := (List.range (ceilDiv n 8)).map fun i => BitVec.ofNat 8 (2 ^ min 8 (n - 8 * i) - 1)

/-- A pool is initialised (R319). -/
def State.initPool (s : State) (c : Ctx) : State :=
  if c.pblk = 0 then s else
  let s := s.zeroPA c.tableAt (32 * 2 ^ c.log2n)
  let s := s.zeroPA c.recsAt (16 * (c.ndev + c.nslow))
  let s := s.storePA c.devMap (onesBytes c.ndev)
  let s := s.storePA c.slowMap (onesBytes c.nslow)
  let recs := fun (a : Nat) => c.recsAt ≤ a && a < c.recsAt + 16 * (c.ndev + c.nslow)
  { s.storePA (c.pblk + 0x3C) [0] with promoted := s.promoted.filter fun a => !recs a }

/-- `CREATE` (R267, R270, R428). HSEQ goes on from its last value. -/
def State.createCtx (s : State) (n : Nat) (seq : BitVec 32) : State :=
  if (s.ctx n).state != .free then s.ctxDone n seq 1 else
  let base := { Ctx.reset with livemax := bitsOf 63 48 (s.cget n 0x40).toNat, savebase := (s.cget n 0x48).toNat, hseq := (s.ctx n).hseq }
  let c := s.readPool (s.takeBlock n base)
  if !s.createFormat n c then s.ctxDone n seq 2
  else if !(s.winsApart n c && s.areasApart n c) then s.ctxDone n seq 3
  else if !(s.quotaOk n c && s.ecoresFree n c.ecores) then s.ctxDone n seq 4
  else
    let s := s.initPool c
    let c := { c with state := .active, trapvec := c.blkTrapvec, epcbase := c.blkEpcbase, policygen := c.blkPolgen, seen := s.mem, stale := [], gone := [] }
    (s.setCtx n c).ctxDone n seq 0

/-- `CREATE`, and commands whose OP is not assigned. -/
def execContextCreate (n : Nat) (s : State) : Out :=
  match s.ctxCommand n with
  | none => .fault .notEnabled
  | some (seq, op, rz) =>
    if op = 0 || 6 < op then .next (s.ctxDone n seq 5)
    else if op != 1 then .fault .notEnabled
    else .next (if rz then s.ctxDone n seq 2 else s.createCtx n seq)

/-- The threads of a group whose barrier instance has completed, and whose `GBAR` is still to commit (R307). -/
def Group.pass (g : Group) : BitVec 96 :=
  (List.range g.n).foldl (fun m i => if g.count i != g.opened then m ||| (1 <<< i) else m) 0

/-- A RUNNING group is ordered to stop (R304); its regions stop at a commit boundary (R363). -/
def State.stopGroup (s : State) (g : Group) : State :=
  if g.state == .running then (s.setGroup { g with state := .stopping, passing := g.pass }).stopRegion g.gid else s

/-- A thread of the context stands in a slot. -/
def State.ctxPlaced (s : State) (n : Nat) : Bool := s.threads.any fun t => t.live && t.id.ctx == n

/-- A copy node of the context runs (R300). -/
def State.ctxCopies (s : State) (n : Nat) : Bool := (s.ctx n).queues.toArray.any fun q => q.nodes.any (·.copying)

/-- Engine transfers of a context in flight. -/
def State.ctxTransfers (s : State) (n : Nat) : Bool := s.transfers.any (fun x => x.tid.ctx == n) || s.ctxCopies n

/-- `SUSPEND` (R271): quiescing begins. -/
def execContextSuspend (n : Nat) (s : State) : Out :=
  s.ctxOp n 2 fun seq =>
    match (s.ctx n).state with
    | .active =>
      let s := s.setCtx n { s.ctx n with state := .quiescing, cmdSeq := some seq }
      (s.groups.filter (·.ctx == n)).foldl State.stopGroup s
    | .suspended => s.ctxDone n seq 0
    | .free | .quiescing | .destroying => s.ctxDone n seq 1

/-- Quiescing completes (R271). -/
def execQuiesceComplete (n : Nat) (s : State) : Out :=
  let c := s.ctx n
  if c.state != .quiescing || s.ctxPlaced n || s.ctxTransfers n then .fault .notEnabled else
  let s := (s.setCtx n { c with state := .suspended, cmdSeq := none }).releaseClock
  .next (match c.cmdSeq with
    | some seq => s.ctxDone n seq 0
    | none => s)

/-- `RESUME` (R270). -/
def execContextResume (n : Nat) (s : State) : Out :=
  s.ctxOp n 3 fun seq =>
    match (s.ctx n).state with
    | .active => s.ctxDone n seq 0
    | .suspended => (s.setCtx n { s.ctx n with state := .active }).ctxDone n seq 0
    | .free | .quiescing | .destroying => s.ctxDone n seq 1

/-- `DESTROY` (R272): teardown begins, and the groups stop for good. -/
def execContextDestroy (n : Nat) (s : State) : Out :=
  s.ctxOp n 4 fun seq =>
    if (s.ctx n).state != .active && (s.ctx n).state != .suspended then s.ctxDone n seq 1
    else if (s.cget n 0x10).toNat / 2 != 0 then s.ctxDone n seq 2
    else
      let s := s.setCtx n { s.ctx n with state := .destroying, cmdSeq := some seq, scrub := (s.cget n 0x10).getLsbD 0 }
      (s.groups.filter (·.ctx == n)).foldl State.abortGroup s

/-- A page of the context's pool is pinned. -/
def State.ctxPinned (s : State) (c : Ctx) : Bool :=
  c.pblk != 0 && (List.range (c.ndev + c.nslow)).any fun p => (s.prec c p).pins != 0

/-- A handle of the context is allocated. -/
def State.ctxHandles (s : State) (c : Ctx) : List Nat :=
  if c.pblk = 0 then [] else (List.range (2 ^ c.log2n)).filter fun i => (s.hent c i).v

/-- The queues of a context become DESTROYED (R272 item 2). -/
def State.dropQueues (s : State) (n : Nat) : State :=
  (List.range 16).foldl (fun s q =>
    if (s.queue n q).state == .destroyed then s else (s.setQueue n q Queue.reset).setQState n q .destroyed) s

/-- The episodes of a context are scrubbed and FREE, without final entries (R272 item 4); one in LOADING is abandoned as it stands, so
that its window stays as it was (R335, R336). -/
def State.dropEpisodes (s : State) (n : Nat) : State :=
  (s.eps.filter (·.ctx == n)).foldl (fun s x => (if x.state == .loading then s else s.scrubEpisode x).freeEpisode x) s

/-- Slots, transfers of the tile engine, cached code and images of a context are dropped, and no send of it arrives on a barrier any
more (R272 item 6). -/
def State.dropTiles (s : State) (n : Nat) : State :=
  { s with
    cores := s.cores.map fun c =>
      { c with slots := c.slots.filter (fun x => x.tag.ctx != n), moves := c.moves.filter (fun m => m.tag.ctx != n) }
    icache := s.icache.filter fun b => b.ctx != n
    images := s.images.filter fun x => x.ctx != n
    rwins := s.rwins.filter fun w => w.ctx != n
    sends := s.sends.map fun x => if x.tid.ctx == n then { x with bar := 0 } else x
    promotions := s.promotions.filter fun p => p.ctx != n
    groups := s.groups.filter fun g => g.ctx != n }

/-- The scrub of a `DESTROY` (R272 item 8): the valid windows over device memory. -/
def State.scrubWindows (s : State) (c : Ctx) : State :=
  (c.windows.filter fun w => paKind w.1 == 0).foldl (fun s w => s.zeroPA w.1 w.2) s

/-- Teardown completes (R272): the context is FREE. -/
def execTeardownComplete (n : Nat) (s : State) : Out :=
  let c := s.ctx n
  if c.state != .destroying || s.ctxPlaced n || s.ctxTransfers n || s.ctxPinned c then .fault .notEnabled else
  let s := (s.dropQueues n).dropEpisodes n
  let s := (s.ctxHandles c).foldl (fun s i => s.freeEntry c i) s
  let s := s.dropTiles n
  let s := if c.hring = 0 then s else s.storePA c.hring (List.replicate 2048 0)
  let s := if c.scrub then s.scrubWindows c else s
  let s := (s.setCtx n { Ctx.reset with hseq := c.hseq }).releaseHeld
  .next (match c.cmdSeq with
    | some seq => (s.cput n 8 (BitVec.ofNat 64 (seq.toNat * 2 ^ 32))).vecEvent (s.cblock n + 0x20) c.cvec
    | none => s)

/-! ### `UPDATE` (R267, R269) -/

/-- The first refusal of a list of checks. -/
def firstStatus : List (Bool × Nat) → Nat
  | [] => 0
  | (bad, st) :: l => if bad then st else firstStatus l

/-- A frame of the pool, or a window page of an episode, that a context's windows no longer cover (R269). -/
def State.uncovered (s : State) (n : Nat) (c c' : Ctx) : Bool :=
  let frames := (List.range c.ndev).map (fun k => (c.devbase + k) * 65536) ++ (List.range c.nslow).map (fun k => (c.slowbase + k) * 65536) ++
    (s.eps.filter (·.ctx == n)).flatMap (·.frames)
  frames.any fun f => !c'.covers true f (f + 65536)

/-- Receive windows that a context has armed. -/
def State.armed (s : State) (n : Nat) : Nat := s.rwins.countP fun w => w.ctx == n

/-- The refusals of an `UPDATE` in SUSPENDED, in the order of R269. -/
def State.updateStatus (s : State) (n : Nat) (c c' : Ctx) : Nat :=
  let eps := s.eps.filter (·.ctx == n)
  let win := c'.wins != c.wins
  let pool := c'.pblk != c.pblk
  let ring := c'.hring != c.hring
  firstStatus
    [((c'.droot != c.droot || c'.croot != c.croot) && !c'.rootsOk, 2),
     (win && s.uncovered n c c', 1), (!s.winsOk n c', 2), (win && !s.winsApart n c', 3),
     (!s.schedOk n c', 2),
     (c'.rwq != c.rwq && (c'.rwq < s.armed n || !s.quotaOk n c'), 4),
     (c'.blkTrapvec != c.blkTrapvec && c'.blkTrapvec.toNat % 8 != 0, 2),
     (c'.blkEpcbase != c.blkEpcbase && !eps.isEmpty, 1), (c'.blkEpcbase != c.blkEpcbase && !epcbaseOk c'.blkEpcbase, 2),
     (c'.blkPolgen != c.blkPolgen && (c'.blkPolgen.toNat / 2 ^ 32 != 0 || c'.blkPolgen.toNat < c.policygen.toNat), 2),
     (!s.ecoresFree n (c'.ecores &&& ~~~c.ecores), 4), (eps.any fun x => !c'.ecores.getLsbD x.core, 1),
     (pool && (!(s.ctxHandles c).isEmpty || s.ctxPinned c), 1), ((s.cget n 0x78).toNat / 32 != 0 || (pool && !s.poolOk n c'), 2),
     (pool && !s.areasApart n c', 3),
     ((List.range 16).any fun q => vget c'.qblk q != vget c.qblk q && (vget c.queues q).state != .destroyed, 1),
     (!c'.qblk.toList.all qblkOk, 2),
     (!s.vecsOk n, 2),
     (ring && !(s.calls n).isEmpty, 1), (!s.linkOk n c', 2), (ring && !s.areasApart n c', 3),
     (!s.traceOk n c', 2)]

/-- A context with the changes of an `UPDATE` in SUSPENDED. Changed roots drop every translation of the context; another pool block drops
the old pool, with its promotions. -/
def State.applyUpdate (s : State) (n : Nat) (c c' : Ctx) : State :=
  let c2 := { c' with
    trapvec := if c'.blkTrapvec = c.blkTrapvec then c.trapvec else c'.blkTrapvec
    epcbase := if c'.blkEpcbase = c.blkEpcbase then c.epcbase else c'.blkEpcbase
    seen := if c'.droot = c.droot ∧ c'.croot = c.croot then c.seen else s.mem
    stale := if c'.droot = c.droot ∧ c'.croot = c.croot then c.stale else []
    gone := if c'.droot = c.droot ∧ c'.croot = c.croot then c.gone else []
    queues := Vector.ofFn fun i => if vget c'.qblk i.val = vget c.qblk i.val then vget c.queues i.val else Queue.reset }
  let s := if c'.pblk = c.pblk then s else { s.initPool c2 with promotions := s.promotions.filter fun p => p.ctx != n }
  let s := s.setCtx n c2
  if c'.blkPolgen != c.blkPolgen && c.policygen.toNat < c'.blkPolgen.toNat then s.writePolicygen n c'.blkPolgen else s

/-- `UPDATE` in a state that allows it. -/
def State.updateCtx (s : State) (n : Nat) (seq : BitVec 32) : State :=
  let c := s.ctx n
  match c.state with
  | .active =>
    let c' := s.takeBlock n c
    if !s.vecsOk n || c'.weight = 0 then s.ctxDone n seq 2
    else (s.setCtx n { c with cvec := c'.cvec, ivec := c'.ivec, cls := c'.cls, weight := c'.weight }).ctxDone n seq 0
  | .suspended =>
    let c' := s.takeBlock n c
    let c' := if c'.pblk = c.pblk then c' else s.readPool c'
    let st := s.updateStatus n c c'
    if st != 0 then s.ctxDone n seq st else (s.applyUpdate n c c').ctxDone n seq 0
  | .free | .quiescing | .destroying => s.ctxDone n seq 1

/-- `UPDATE`. -/
def execContextUpdate (n : Nat) (s : State) : Out := s.ctxOp n 5 fun seq => s.updateCtx n seq

/-! ### `TLBINV` (R266, R267) -/

/-- The context's old translations of a range of pages are gone (R266, R270). -/
def State.invalidate (s : State) (n : Nat) (code : Bool) (va pages : Nat) : State :=
  let c := s.ctx n
  s.setCtx n { c with gone := (code, va, va + 65536 * pages, c.stale.length) :: c.gone }

/-- A fill or spill of a tile of the context is in flight. -/
def State.ctxMoves (s : State) (n : Nat) : Bool := s.cores.toArray.any fun c => c.moves.any fun m => m.tag.ctx == n

/-- The translations that a `TLBINV` names are gone. -/
def State.tlbDrop (s : State) (n : Nat) (a0 a1 : Word) : State :=
  if a1 = 0 then s.setCtx n { s.ctx n with seen := s.mem, stale := [], gone := [] }
  else s.invalidate n (a0.getLsbD 63) (bitsOf 55 16 a0.toNat * 65536) a1.toNat

/-- The end of a `TLBINV` that waits: the accesses in flight have been performed. -/
def State.tlbFinish (s : State) (n : Nat) (a0 a1 : Word) : State :=
  let seq := (s.ctx n).cmdSeq
  let s := (s.setCtx n { (s.tlbDrop n a0 a1).ctx n with cmdSeq := none, inv := none }).releaseClock
  match seq with
  | some q => s.ctxDone n q 0
  | none => s

/-- `TLBINV`: it waits until the engine transfers, fills and spills of the context in flight are performed; meanwhile it is the context's
one command. -/
def execTlbinv (n : Nat) (s : State) : Out :=
  match (s.ctx n).inv with
  | some (a0, a1) => if 64 ≤ n || s.ctxTransfers n || s.ctxMoves n then .fault .notEnabled else .next (s.tlbFinish n a0 a1)
  | none =>
  match s.ctxCommand n with
  | none => .fault .notEnabled
  | some (seq, op, rz) =>
    if op != 6 then .fault .notEnabled else
    let a0 := s.cget n 0x10
    let a1 := s.cget n 0x18
    if rz then .next (s.ctxDone n seq 2)
    else if (s.ctx n).state == .free then .next (s.ctxDone n seq 1)
    else if bitsOf 62 56 a0.toNat != 0 || bitsOf 15 0 a0.toNat != 0 || a1.toNat / 2 ^ 40 != 0 then .next (s.ctxDone n seq 2)
    else if s.ctxTransfers n || s.ctxMoves n then .next (s.setCtx n { s.ctx n with cmdSeq := some seq, inv := some (a0, a1) })
    else .next ((s.tlbDrop n a0 a1).ctxDone n seq 0)

/-! ### Interrupts (R273) -/

/-- The vectors of a context, as addresses with the dispatcher's copies. A FREE context has CVEC alone, from its block. -/
def State.vectors (s : State) (n : Nat) : List (Nat × Vec) :=
  let c := s.ctx n
  if c.state == .free then (if s.vecFormat n 0x20 then [(s.cblock n + 0x20, s.readVec n 0x20)] else [])
  else (s.cblock n + 0x20, c.cvec) :: (List.range 16).map fun i => (s.cblock n + 0x200 + 16 * i, vget c.ivec i)

/-- A write has cleared MASK while PEND is set: PEND is cleared, and one interrupt is delivered. -/
def execInterruptUnmask (n : Nat) (s : State) : Out :=
  if 64 ≤ n then .fault .notEnabled else
  match (s.vectors n).find? fun v => s.mem.get (v.1 + 12) &&& 3 == 2 with
  | none => .fault .notEnabled
  | some (at_, v) => .next ((s.storePA (at_ + 12) [s.mem.get (at_ + 12) &&& ~~~2]).deliver v)

end Sys2Proof.Machine
end

