-- ==== Sys2Proof/Machine/Mailbox.lean ====
section
/-! DEFINITION. The mailbox instructions of the compute side (08 R203 to R207). -/

namespace Sys2Proof.Machine

/-- A MAILBOX fault (R207). -/
def State.mailFault (s : State) (g : Word) (reason : Nat) : State :=
  s.raise { cause := cMAILBOX, i0 := g, i1 := BitVec.ofNat 64 reason }

/-- Check 1 of R207: the episode number. -/
def State.episodeNumber (s : State) (g : Word) : Option Nat :=
  if g.toNat / 256 != 0 || s.tctx.epcbase = 0 then none else some g.toNat

/-- Checks 1 and 2 of R207: the episode, or the reason of the fault. -/
def State.mailbox (s : State) (g : Word) : Except Nat Episode :=
  match s.episodeNumber g with
  | none => .error 1
  | some e =>
    match s.ep s.thr.id.ctx e with
    | none => .error 2
    | some x => if x.state == .free || x.state == .loading then .error 2 else .ok x

/-- A MBOX packet (R397). -/
def State.mboxPacket (s : State) (take : Bool) (kind e : Nat) : State :=
  s.emit 9 (take.toNat * 2 ^ 57 + kind * 2 ^ 48 + e * 2 ^ 40 + s.time)

/-- An action is appended (R204, R346). -/
def State.appendAction (s : State) (x : Episode) (payload : List Byte) : State :=
  let a : MbEntry := { tag := mkTag (s.actionGen x) x.step 0 x.e 0 payload.length, payload := payload }
  let y := { x with acts := x.acts ++ [a], step := x.step + 1 }
  ((s.setEp y).epStat y).mboxPacket false 0 x.e

/-- The steps of `MBPOST` (R204). The post follows the older convoys, which may still write va. A row of va that cannot be rebuilt faults, and
nothing is posted (R376; log entry 138). -/
def State.mbpost (s : State) (o : VOp) : State :=
  let g := s.g o.vb
  match s.mailbox g with
  | .error r => s.mailFault g r
  | .ok x =>
    if x.state.ended then s.mailFault g 3
    else if o.ea && !s.thr.full o.va.toNat then s.raiseEmpty .scalar { cause := cVEC_EMPTY, i0 := o.va.zeroExtend 64 }
    else if !s.thr.vq.isEmpty || !s.thr.full o.va.toNat then s
    else if 16 ≤ x.acts.length then s.setWait (.mbpost o)
    else
      let n := o.imm.toNat + 1
      match s.vecDamage [(o.va, byteEgs n, 32)] with
      | (s, _ :: _) => s.raise { cause := cUNCORRECTABLE }
      | (s, []) =>
      (s.appendAction x (toBytes n (vget s.thr.r.v o.va.toNat).toNat)).commit

/-- `MBPOST` (R203, R204). -/
def execMbpost (o : VOp) (s : State) : Out :=
  s.serial (.mbpost o) [o.vb] [] fun s =>
    match s.thr.wait with
    | .emptyTrap f => .next (s.raise f)
    | _ => .next (s.mbpost o)

/-- A `MBPOST` that waits for room tries again (R204). -/
def execMbpostWake (s : State) : Out :=
  match s.thr.wait with
  | .mbpost o => .next (s.mbpost o)
  | _ => .fault .notEnabled

/-- The number that `MBTAKE` leaves in EGs 0 and 1 (R205): the payload padded to 256 bytes, then the tag. -/
def takenNum (a : MbEntry) : Nat := ofBytes (pad256 a.payload) + 2 ^ 2048 * a.tag.toNat

/-- The steps of `MBTAKE` (R205). While it waits the arrival bits of the EGs that it writes, 0 and 1, are clear (R35). It follows the older convoys and the tile entries that have still to read vd. A take that
waits when the episode ends is satisfied by what the end delivers, and so is one that comes while the scrub of a kill runs, whose end appends the
final entry (R342, R345, R426); one of an ended episode that owes nothing faults while the FIFO is empty (R207). -/
def State.mbtake (s : State) (o : VOp) : State :=
  let g := s.g o.vb
  match s.mailbox g with
  | .error r => s.mailFault g r
  | .ok x =>
    if x.state.ended && x.obs.isEmpty && x.final.isNone then s.mailFault g 3
    else if !s.thr.vq.isEmpty || s.thr.tileReads [o.vd] then s
    else
      match x.obs with
      | [] =>
        (s.onThr fun t => { t with r := { t.r with arr := vset t.r.arr o.vd.toNat (vget t.r.arr o.vd.toNat &&& ~~~3) } }).setWait (.mbtake o)
      | a :: _ =>
        let s := (s.takeObs x).mboxPacket true (tagKind a.tag) x.e
        let v := putRange (vget s.thr.r.v o.vd.toNat) 0 4096 (takenNum a)
        let s := s.applyOut { v := [(o.vd, v, 2)] }
        (s.onThr fun t => { t with r := { t.r with arr := vset t.r.arr o.vd.toNat (vget t.r.arr o.vd.toNat ||| 3) } }).commit

/-- `MBTAKE` (R203, R205). -/
def execMbtake (o : VOp) (s : State) : Out := s.serial (.mbtake o) [o.vb] [] fun s => .next (s.mbtake o)

/-- A `MBTAKE` that waits for an entry tries again (R205). -/
def execMbtakeWake (s : State) : Out :=
  match s.thr.wait with
  | .mbtake o => .next (s.mbtake o)
  | _ => .fault .notEnabled

/-- What `MBPOLL` reads (R206): a FREE episode has empty FIFOs. -/
def State.pollWord (s : State) (e : Nat) : Word :=
  match s.ep s.thr.id.ctx e with
  | none => 16
  | some x => BitVec.ofNat 64 (x.state.code * 2 ^ 16 + x.obs.length * 256 + (16 - x.acts.length))

/-- `MBPOLL` (R206). In a guess routine it abandons the guess (R351). -/
def execMbpoll (o : SOp) (s : State) : Out :=
  s.scalar (.mbpoll o) [o.a] [o.d] fun s =>
    if s.guessing then .next s.xhold else
    match s.episodeNumber (s.g o.a) with
    | none => .next (s.mailFault (s.g o.a) 1)
    | some e => .next (s.writeG o.d (s.pollWord e))

/-- A form of `MBCTL` that sets something of an episode that has not ended (R206, R207): `bad` is check 4. -/
def State.mbctl (s : State) (o : SOp) (bad : Bool) (f : Episode → State) : State :=
  let g := s.g o.a
  match s.mailbox g with
  | .error r => s.mailFault g r
  | .ok x => if x.state.ended then s.mailFault g 3 else if bad then s.mailFault g 4 else (f x).commit

/-- `MBCTL.mode` (R206, R346): an episode at a step boundary takes the mode at once. -/
def execMbctlMode (o : SOp) (s : State) : Out :=
  s.serial (.mbctlMode o) [o.a, o.b] [] fun s =>
    let m := (s.g o.b).toNat
    .next <| s.mbctl o (2 < m) fun x =>
      let y := { x with modeNext := some m }
      if y.atBoundary then (s.setEp y).boundary y else s.setEp y

/-- `MBCTL.budget` (R206, R345): it takes effect when the next step starts. -/
def execMbctlBudget (o : SOp) (s : State) : Out :=
  s.serial (.mbctlBudget o) [o.a, o.b] [] fun s =>
    let b := (s.g o.b).toNat
    .next <| s.mbctl o (b = 0 || 2 ^ 40 < b) fun x => s.setEp { x with budgetNext := some b }

/-- `MBCTL.kill` (R206, R344): an episode that has ended is left as it is. -/
def execMbctlKill (o : SOp) (s : State) : Out :=
  s.serial (.mbctlKill o) [o.a] [] fun s =>
    let g := s.g o.a
    match s.mailbox g with
    | .error r => .next (s.mailFault g r)
    | .ok x => .next (s.killEpisode x 5 0xFFFFFFFF).commit

end Sys2Proof.Machine
end

