-- ==== Sys2Proof/Machine/Csr.lean ====
section
/-! DEFINITION. The control registers (08 R215 to R217) and the writes that have effects of their own: `POLICYGEN` (17 R347), `TMAPB`
(09 R226), `TRACECTL` (21 R394). -/

namespace Sys2Proof.Machine

/-- The value of a control register (R216). -/
def State.csr (s : State) (n : Nat) : Word :=
  let t := s.thr
  let c := t.c
  match n with
  | 0x000 => BitVec.ofNat 64 (t.id.gidx * 256 + t.id.tidx)
  | 0x001 => BitVec.ofNat 64 (t.id.core % 48)
  | 0x002 => BitVec.ofNat 64 (t.id.core / 48)
  | 0x003 => BitVec.ofNat 64 s.pkgid
  | 0x004 => BitVec.ofNat 64 t.id.ctx
  | 0x005 => if t.hdr.prot then 1 else 0
  | 0x006 => BitVec.ofNat 64 s.mgmt.arrayClk
  | 0x010 => c.shape
  | 0x011 => c.fmode
  | 0x012 => c.fstat
  | 0x013 => c.rngkey
  | 0x014 => c.rngctr
  | 0x018 => (vget t.r.loops 0).count
  | 0x019 => (vget t.r.loops 1).count
  | 0x01A => (vget t.r.loops 2).count
  | 0x020 => BitVec.ofNat 64 s.cycle
  | 0x021 => c.instret
  | 0x022 => c.tqindex
  | 0x028 => s.xstate t
  | 0x030 => s.tctx.policygen
  | 0x031 => c.engerr
  | 0x032 => c.engaddr
  | 0x100 => c.tmapb
  | 0x101 => s.tctx.trapvec
  | 0x102 => c.trappc
  | 0x103 => c.trapcause
  | 0x108 => s.tctx.epcbase
  | 0x109 => c.tracectl
  | _ =>
    if 0x040 ≤ n && n ≤ 0x047 then vget c.pmc (n - 0x040)
    else if 0x048 ≤ n && n ≤ 0x04F then vget c.pmsel (n - 0x048)
    else if 0x104 ≤ n && n ≤ 0x107 then vget c.trapinfo (n - 0x104)
    else 0

/-- Access that the mode does not allow (R215, R216). -/
def csrModeOk (sup write : Bool) (n : Nat) : Bool :=
  sup || !((0x101 ≤ n && n ≤ 0x108) || (write && ((0x040 ≤ n && n ≤ 0x047) || n = 0x100 || n = 0x109)))

/-- A value that a register may take (R216 and the rules that lay the registers out). TRAPVEC and TRAPPC must be multiples of 8; bits
[63:48], of which the table says nothing, may hold anything, and a PC taken from them drops those (DESIGN CHOICE; log entry 123). -/
def State.csrValueOk (s : State) (n : Nat) (v : Word) : Bool :=
  let x := v.toNat
  match n with
  | 0x010 => shapeLegal s.thr.vlmax v
  | 0x011 => x / 256 == 0 && bitsOf 5 3 x == 0 && bitsOf 2 0 x ≤ 4
  | 0x012 => x / 32 == 0
  | 0x030 => x / 2 ^ 32 == 0 && s.tctx.policygen.toNat < x
  | 0x031 => x / 512 == 0
  | 0x100 => x % 16384 == 0 && x / 2 ^ 56 == 0
  | 0x101 | 0x102 => x % 8 == 0
  | 0x103 => bitsOf 15 12 x == 0 && !x.testBit 9 && bitsOf 7 0 x < 0x16 && bitsOf 18 16 x == 0
  | 0x108 => x % 32768 == 0 && x / 2 ^ 56 == 0
  | 0x109 => bitsOf 31 29 x == 0 && bitsOf 23 16 x == 0 && bitsOf 3 2 x == 0 && !(x.testBit 0 && s.tctx.tbase == 0)
  | _ => if 0x048 ≤ n && n ≤ 0x04F then x / 65536 == 0 && bitsOf 13 8 x == 0 && bitsOf 7 0 x ≤ 25 else true

/-- A change of the thread's own control registers. -/
def State.onCsrs (s : State) (f : Csrs → Csrs) : State := s.onThr fun t => { t with c := f t.c }

/-- Registers of the trace unit after a write of `TRACECTL` (R394): ERR is cleared by writing 1, LOG2SZ is that of TCFG, the enables of
SYNC and LOST read 1. -/
def traceValue (old v : Word) (log2sz : Nat) : Word :=
  (v &&& 0xFFFFFFFF00007FE1) ||| 0x8010 ||| (old &&& 2 &&& ~~~v) ||| BitVec.ofNat 64 (log2sz * 2 ^ 24)

/-- A write of `TRACECTL` (R394, R395): clearing EN flushes; another WPTR starts another line. -/
def State.writeTracectl (s : State) (v : Word) : State :=
  let old := s.thr.c.tracectl
  let s := if (old.getLsbD 0 && !v.getLsbD 0) || v.extractLsb' 32 32 != old.extractLsb' 32 32 then
      s.traceFlush.onThr fun t => { t with trace := { t.trace with line := [], written := 0 } }
    else s
  s.onCsrs fun c => { c with tracectl := traceValue c.tracectl v (if s.tctx.tbase = 0 then 0 else s.tctx.log2sz) }

/-- The maps change hands at a write of `TMAPB` (R226). -/
def State.writeTmapb (s : State) (v : Word) : State :=
  let s := s.initMap.uninstall
  let m := s.readMap s.thr.id.ctx v s.thr.hdr.tiles
  s.onThr fun t => { t with c := { t.c with tmapb := v }, tmap := m }

/-- A control register takes a value (R216). -/
def State.csrPut (s : State) (n : Nat) (v : Word) : State :=
  match n with
  | 0x010 => s.onCsrs fun c => { c with shape := v }
  | 0x011 => s.onCsrs fun c => { c with fmode := v }
  | 0x012 => s.onCsrs fun c => { c with fstat := v }
  | 0x013 => s.onCsrs fun c => { c with rngkey := v }
  | 0x014 => s.onCsrs fun c => { c with rngctr := v }
  | 0x018 | 0x019 | 0x01A =>
    s.onThr fun t => { t with r := { t.r with loops := vset t.r.loops (n - 0x018) { vget t.r.loops (n - 0x018) with count := v } } }
  | 0x030 => s.writePolicygen s.thr.id.ctx v
  | 0x031 => s.onCsrs fun c => { c with engerr := c.engerr &&& ~~~(v &&& 0x100) }
  | 0x100 => s.writeTmapb v
  | 0x101 => s.setCtx s.thr.id.ctx { s.tctx with trapvec := v }
  | 0x102 => s.onCsrs fun c => { c with trappc := v }
  | 0x103 => s.onCsrs fun c => { c with trapcause := v }
  | 0x108 => s.setCtx s.thr.id.ctx { s.tctx with epcbase := v }
  | 0x109 => s.writeTracectl v
  | _ =>
    if 0x040 ≤ n && n ≤ 0x047 then s.onCsrs fun c => { c with pmc := vset c.pmc (n - 0x040) v }
    else if 0x048 ≤ n && n ≤ 0x04F then s.onCsrs fun c => { c with pmsel := vset c.pmsel (n - 0x048) v }
    else if 0x104 ≤ n && n ≤ 0x107 then s.onCsrs fun c => { c with trapinfo := vset c.trapinfo (n - 0x104) v }
    else s

/-- What holds a write of `TMAPB` (R215, R226, R362, R367): an illegal state, a wait, or nothing. A frozen queue lets the entries issued
before the trap retire; with the queue empty nothing is frozen. -/
inductive TmapbWrite where
  | illegal
  | wait
  | ready
  deriving DecidableEq, Repr

/-- The state that a write of `TMAPB` meets. -/
def State.tmapbState (s : State) (v : Word) : TmapbWrite :=
  let moves := s.cores.toArray.any fun c => c.moves.any fun m => m.tag.ctx == s.thr.id.ctx && m.tag.base == s.thr.c.tmapb
  if s.myRegion.isSome || (s.thr.sup && s.thr.tq.any fun e => !s.thr.moving e) then .illegal
  else if !s.thr.tq.isEmpty || moves then .wait
  else if s.mapTaken v then .illegal
  else .ready

/-- The control register of a thread slot holds a double error (R376). -/
def State.csrDamaged (s : State) (n : Nat) : Bool := s.csrLost [n]

/-- A control register has been written: it is sound again (R376). -/
def Damage.rewriteCsr (d : Damage) (core slot n : Nat) : Damage := { d with csr := d.csr.filter (· != (core, slot, n)) }

/-- A write with its mode checked: the value is checked, the register written, and the old value kept in `dst`. A write that sets EN of
`TRACECTL` is followed by a SYNC pair (R394). -/
def State.csrWrite (s : State) (i : Instr) (n : Nat) (src : BitVec 6) (dst : Option (BitVec 6)) : State :=
  let v := s.g src
  if !s.csrValueOk n v then s.illegalVal i v else
  let old := s.csr n
  let go := fun (s : State) =>
    let s := { s.csrPut n v with damage := s.damage.rewriteCsr s.thr.id.core s.thr.id.slot n }
    let s := match dst with
      | some d => s.writeG d old
      | none => s.commit
    if n = 0x109 && !old.getLsbD 0 && v.getLsbD 0 then s.onThr fun t => t.sync s.cycle t.pc else s
  if n = 0x012 && !s.thr.vq.isEmpty then s
  else if n = 0x100 then
    match s.tmapbState v with
    | .illegal => s.illegalMode i
    | .wait => s
    | .ready => go s
  else go s

/-- A write of a register by `CSRW` or `CSRX` (R190, R215). -/
def State.csrWriting (s : State) (i : Instr) (o : YOp) (dst : Option (BitVec 6)) : Out :=
  let n := o.n12.toNat
  s.scalar i [o.g] dst.toList fun s =>
    if (n = 0x030 || n = 0x109) && (s.speculative || s.guessing) then .next s.xhold
    else if !csrModeOk s.thr.sup true n then .next (s.illegalMode i)
    else if dst.isSome && s.csrDamaged n then .next (s.raise { cause := cUNCORRECTABLE })
    else .next (s.csrWrite i n o.g dst)

/-- `CSRR` (R215); a read of `FSTAT` waits for the vector queue (R63); a double error in the register read traps UNCORRECTABLE (R376). -/
def execCsrr (o : YOp) (s : State) : Out :=
  let n := o.n12.toNat
  s.scalar (.csrr o) [] [o.g] fun s =>
    if !csrModeOk s.thr.sup false n then .next (s.illegalMode (.csrr o))
    else if s.csrDamaged n then .next (s.raise { cause := cUNCORRECTABLE })
    else if n = 0x012 && !s.thr.vq.isEmpty then .next s
    else .next (s.writeG o.g (s.csr n))

/-- `CSRW` (R215). -/
def execCsrw (o : YOp) (s : State) : Out := s.csrWriting (.csrw o) o none

/-- `CSRX` (R215): the old value is read in the same step. -/
def execCsrx (o : YOp) (s : State) : Out := s.csrWriting (.csrx o) o (some o.g)

/-- `CSRW POLICYGEN` (R216, R347). -/
def execPolicygenWrite (o : YOp) (s : State) : Out := s.csrWriting (.policygenWrite o) { o with n12 := 0x030 } none

/-- `CSRW TMAPB` (R215, R226). -/
def execTmapbWrite (o : YOp) (s : State) : Out := s.csrWriting (.tmapbWrite o) { o with n12 := 0x100 } none

/-- `CSRW TRACECTL` (R394). It takes effect at the commit, at which the thread stands at a commit boundary. -/
def execTracectlWrite (o : YOp) (s : State) : Out := s.csrWriting (.tracectlWrite o) { o with n12 := 0x109 } none

end Sys2Proof.Machine
end

