-- ==== Sys2Proof/Machine/Fence.lean ====
section
/-! DEFINITION. Fences, cache operations, instruction synchronisation and random numbers (08 R211 to R214). -/

namespace Sys2Proof.Machine

/-- `FENCE` (R211): it waits for the vector accesses and the tile entries before it; `.rel` and `.full` also for the thread's
transfers. Every access of the model is performed in one order, so nothing else is left to do. -/
def execFence (k : FenceKind) (o : AOp) (s : State) : Out :=
  s.scalar (.fence k o) [] [] fun s =>
    if s.thr.memPending then .next s else
    match s.syncAll with
    | some s' => .next s'
    | none =>
      .next (match k with
        | .rel | .full => if s.myTransfers.isEmpty then s.commit else s
        | .ldld | .ldst | .stld | .stst | .acq => s.commit)

/-- The lines of a range of code or data addresses (R212). -/
def rangeLines (d len : Nat) : List Nat :=
  if len = 0 then [] else (List.range ((d + len - 1) / 64 - d / 64 + 1)).map fun i => (d / 64 + i) * 64

/-- The dirty copies of a line are written to a level (R212): to L2, and from there, at the levels `.d` and `.s`, to the line's home. -/
def State.cleanLine (s : State) (level : Nat) (line : Nat) : State :=
  let l1 := if 2 ≤ level then s.coh.l1.filter fun x => x.line != line else s.coh.l1
  let home := if 3 ≤ level then s.coh.home.write (line * 64) (s.mem.read (line * 64) 64) else s.coh.home
  { s with coh := { s.coh with l1 := l1, home := home } }

/-- What a line reads as once the copies above a level are gone (R212): the value that the level holds, where they had not been written to
it before; whether they had is left free. L2 holds what a dirty line hides; a home holds what was last written to it (log entry 122). -/
def State.belowLine (s : State) (level : Nat) (line : Nat) : List Byte × State :=
  let now := s.mem.read (line * 64) 64
  if level < 2 then (now, s) else
  let (v, s) := s.draw
  let l2 := toBytes 64 (s.lineBelow line).toNat
  (if v.getLsbD 0 then now else if level = 2 || v.getLsbD 1 then l2 else s.coh.home.read (line * 64) 64, s)

/-- The copies of a line above a level are discarded, dirty or not (R212). -/
def State.invalLine (s : State) (level : Nat) (line : Nat) : State :=
  let (b, s) := s.belowLine level line
  { s with mem := s.mem.write (line * 64) b
           coh := { s.coh with l1 := if 2 ≤ level then s.coh.l1.filter fun x => x.line != line else s.coh.l1 } }

/-- The effect of `CMO` on a line. -/
def State.cmoLine (s : State) (op : CmoOp) (level line : Nat) : State :=
  match op with
  | .clean => s.cleanLine level line
  | .inval => s.invalLine level line
  | .cinv => (s.cleanLine level line).invalLine level line

/-- The lines of a range, in ascending order, up to the first whose check fails (R118 orders 2 and 3): its address and the cause. R188
makes the check a write check. -/
def State.cmoLines (op : CmoOp) (level : Nat) : List Nat → State → State × Option (Nat × Nat)
  | [], s => (s, none)
  | a :: l, s =>
    match s.xlate s.thr.id.ctx s.thr.sup true (a % 2 ^ 64) with
    | .ok pa => State.cmoLines op level l (s.cmoLine op level (pa / 64))
    | .error c => (s, some (a % 2 ^ 64, c))

/-- `CMO` (R212). Its scope code is the level: 1 L1, 2 L2, 3 device, 4 system. TRAPINFO0 of a failing line is the line's address, where
the spec does not say whether it is that or g(D) (DESIGN CHOICE; log entry 122). -/
def execCmo (op : CmoOp) (o : AOp) (s : State) : Out :=
  s.serial (.cmo op o) [o.dst, o.len] [] fun s =>
    let len := (s.g o.len).toNat
    if 2 ^ 40 < len then .next (s.illegalVal (.cmo op o) (s.g o.len))
    else if s.accessWaits then .next s
    else
      match State.cmoLines op o.scope.toNat (rangeLines (s.g o.dst).toNat len) s with
      | (s, some (a, c)) => .next (s.memFault (BitVec.ofNat 64 a) 1 c)
      | (s, none) => .next s.commit

/-- A block of the instruction cache meets a range. -/
def IBlock.meets (b : IBlock) (d len : Nat) : Bool := b.block.toNat * 64 < d + len && d < b.block.toNat * 64 + 64

/-- `ISYNC` (R213): the cached blocks of the range, or all, are discarded. -/
def execIsync (all : Bool) (o : AOp) (s : State) : Out :=
  s.scalar (.isync all o) (if all then [] else [o.dst, o.len]) [] fun s =>
    let mine := fun (b : IBlock) => b.core == s.thr.id.core && b.ctx == s.thr.id.ctx
    let d := (s.g o.dst).toNat
    let len := (s.g o.len).toNat
    .next { s with icache := s.icache.filter fun b => !(mine b && (all || b.meets d len)) }.commit

/-- `RNG` (R214): one Philox block. -/
def execRng (w32 : Bool) (o : SOp) (s : State) : Out :=
  s.scalar (.rng w32 o) [] [o.d] fun s =>
    if s.csrLost [0x013, 0x014] then .next (s.raise { cause := cUNCORRECTABLE }) else
    let b := philoxBlock s.thr.c.rngkey s.thr.c.rngctr.toNat
    let s := s.onThr fun t => { t with c := { t.c with rngctr := t.c.rngctr + 1 } }
    .next (s.writeG o.d (BitVec.ofNat 64 (if w32 then b.1 else b.2.1 * 2 ^ 32 + b.1)))

end Sys2Proof.Machine
end

