-- ==== Sys2Proof/Machine/Hachure.lean ====
section
/-! DEFINITION. The hachure instructions (08 R208 to R210; 18). -/

namespace Sys2Proof.Machine

/-! ### The region block (R208) -/

/-- A region as its 64 bytes describe it, not yet armed by anyone. -/
def Region.ofBlock (rid gid : Nat) (block : Word) (count : Nat) (b : BitVec 512) : Region where
  rid := rid
  gid := gid
  block := block
  count := count
  state := .armed
  part := b.extractLsb' 384 96
  tol := b.extractLsb' 320 64
  body := (b.extractLsb' 280 24).toNat
  accty := (b.extractLsb' 276 4).toNat
  accmode := (b.extractLsb' 272 4).toNat
  ireg := (b.extractLsb' 264 8).toNat
  tiles := (List.range 4).filterMap fun i =>
    if b.getLsbD (192 + 16 * i + 15) then some (b.extractLsb' (192 + 16 * i) 9).toNat else none
  vmask := b.extractLsb' 128 64
  smask := b.extractLsb' 64 64
  i0 := 0
  carry := ⟨[], [], []⟩
  versions := []
  strokes := ((List.range 96).filter fun i => b.getLsbD (384 + i)).map fun i =>
    { tidx := i, arrived := false, left := false, sst := .none, iter := none, abandoned := false, xloop := 0, guess := 0,
      ckpt := none, input := none, out := none, reads := [], marks := [] }

/-- Bits set in a mask. -/
def popCount {n : Nat} (b : BitVec n) : Nat := (List.range n).countP fun i => b.getLsbD i

/-- ACCTY suits ACCMODE (R208): a float type of R54 in the tolerance modes, 0 in the others. -/
def accTyOk (mode ty : Nat) : Bool := if mode ≤ 1 then ty = 0 else mode ≤ 3 && 8 ≤ ty && ty ≤ 11

/-- The block is valid for a thread with this header (R208). -/
def blockOk (b : BitVec 512) (r : Region) (h : Header) : Bool :=
  b.extractLsb' 480 32 == 0 && b.extractLsb' 304 16 == 0 && b.extractLsb' 0 64 == 0 &&
  ((List.range 4).all fun i => b.extractLsb' (192 + 16 * i + 9) 6 == 0) &&
  1 ≤ r.body && accTyOk r.accmode r.accty && 1 ≤ r.ireg && r.ireg ≤ 61 && !r.smask.getLsbD r.ireg &&
  (let n := (b.extractLsb' 256 8).toNat
   2 ≤ n && n ≤ 8 && n == popCount r.part) &&
  popCount r.vmask ≤ 4 && ((List.range 64).all fun i => !r.vmask.getLsbD i || i < h.vregs) &&
  popCount r.smask ≤ 16 && !r.smask.getLsbD 0 && !r.smask.getLsbD 62 && !r.smask.getLsbD 63 &&
  r.tiles.all fun t => t < h.tiles

/-- A LIMIT fault of `XLOOP` (R209). -/
def State.xlimit (s : State) (reason : Nat) : State := s.raise { cause := cLIMIT, i1 := BitVec.ofNat 64 reason }

/-- The thread at turn joins an ARMED region at its `XLOOP`; the last participant starts it (R209, R354). -/
def State.joinRegion (s : State) (r : Region) (guess : CodeAddr) : State :=
  let r := r.mapStroke s.thr.id.tidx fun k => { k with arrived := true, xloop := s.thr.pc, guess := guess }
  let s := (s.onThr fun t => { t with heldX := false }.retire 1).setRegion r
  if r.strokes.all (·.arrived) then s.startRegion r else s

/-- An older tile entry has still to write one of the tiles, and no held fault stands in its way: like a register that an older
instruction has still to write, the tile is waited for. It is no tile sync point (R34; log entry 118). -/
def Thread.tilesPending (t : Thread) (tiles : List Nat) : Bool :=
  (t.tq.any fun e => !e.skip && !e.done && (tDests e.ins).any fun d => tiles.contains d.toNat) &&
  t.tq.all fun e => match e.st with | .held _ => false | _ => true

/-- A carried tile in whose dirty slot a double error has come up is lost, and the instruction that takes the carried values faults, as the
reader does (R377; its record is log entry 134). -/
def State.carryLost (s : State) (i : Instr) (tiles : List Nat) : Option State :=
  (tiles.find? s.lostTile).map fun t =>
    ((s.noteTile t).loseTile t).raise
      { cause := cUNCORRECTABLE, i0 := (s.ent t).shape.zeroExtend 64, i1 := BitVec.ofNat 64 (insMajor i + t * 256) }

/-- Tile entries of the iteration are still to retire: none is held with a fault, and the queue moves (R40). -/
def Thread.leaving (t : Thread) (posts : Nat) : Bool :=
  !t.sup && (t.tq.any fun e => posts ≤ e.post) && t.tq.all fun e => match e.st with | .held _ => false | _ => true

/-- The checks of `XLOOP` and the arrival. The guess routine's address is only checked for its alignment (R209): its fetch checks the rest. -/
def State.enterRegion (s : State) (o : SOp) (g b c : Word) : State :=
    if g.toNat % 8 != 0 then s.raise { cause := cMISALIGNED, i0 := g }
    else if b.toNat % 64 != 0 then s.memFault b 0 cMISALIGNED
    else if !s.thr.hdr.hach then s.xlimit 1
    else if s.myRegion.isSome then s.xlimit 2
    else
      match s.access b 64 true true false 0 with
      | .error s' => s'
      | .ok pa =>
        let blk := BitVec.ofNat 512 (s.mem.num pa 64)
        let r := Region.ofBlock s.nextRid s.thr.id.gid b c.toNat blk
        if !blockOk blk r s.thr.hdr || !r.part.getLsbD s.thr.id.tidx then s.xlimit 3
        else if s.thr.tilesPending r.tiles then s else
        match s.carryLost (.xloop o) r.tiles with
        | some s' => s'
        | none =>
        match s.regions.find? fun x => x.gid == s.thr.id.gid && x.state == .armed && x.part.getLsbD s.thr.id.tidx with
        | some x => if x.block != b || x.count != c.toNat then s.xlimit 4 else s.joinRegion x (g.setWidth 48)
        | none => { s with regions := s.regions ++ [r], nextRid := s.nextRid + 1 }.joinRegion r (g.setWidth 48)

/-- A participant that has arrived waits at its `XLOOP` (R209). -/
def State.atXloop (s : State) : Bool :=
  match s.myRegion with
  | some r => r.state == .armed && r.strokes.any fun k => k.tidx == s.thr.id.tidx && k.xloop == s.thr.pc
  | none => false

/-- `XLOOP` (R209). The carried values are those that every older instruction leaves, so it waits for the older convoys, and for tile
entries that write a carried tile; in a guess routine it abandons the guess (R351). -/
def execXloop (o : SOp) (s : State) : Out :=
  s.scalar (.xloop o) [o.a, o.b, o.c] [] fun s =>
    if s.guessing then .next s.abandonGuess
    else if s.atXloop || !s.thr.vq.isEmpty then .next s
    else .next (s.enterRegion o (s.g o.a) (s.g o.b) (s.g o.c))

/-- `XGRET` (R210, R351). -/
def execXgret (o : YOp) (s : State) : Out :=
  s.scalar (.xgret o) [] [] fun s =>
    if !s.guessing then .next (s.illegalMode (.xgret o))
    else if !s.thr.vq.isEmpty then .next s
    else
      match s.syncAll with
      | some s' => .next s'
      | none =>
        match s.carryLost (.xgret o) ((s.myRegion.map (·.tiles)).getD []) with
        | some s' => .next s'
        | none => .next (s.onThr fun t => t.retire 1).endGuess

/-- The thread at turn runs the body of a RUNNING region: the region, its stroke, its iteration. -/
def State.inBody (s : State) : Option (Region × Stroke × Nat) :=
  match s.iteration with
  | some (r, k, j) => if r.state == .running && k.sst == .running then some (r, k, j) else none
  | none => none

/-- The end of an iteration at its `XACC` (R210, R352, R353): out(j) is taken; a speculative stroke waits for acceptance, the oldest
runs the commit step. -/
def State.endIteration (s : State) (r : Region) (k : Stroke) (j : Nat) : State :=
  let s := s.onThr fun t => { t with heldX := false }.retire 1
  let r := r.mapStroke k.tidx fun k => { k with out := some (s.carryOf r), sst := if j = r.i0 then k.sst else .awaiting }
  let s := s.setRegion r
  if j = r.i0 then s.commitStep r else s

/-- `XACC` (R210). -/
def execXacc (o : SOp) (s : State) : Out :=
  s.scalar (.xacc o) [] [] fun s =>
    if s.guessing then .next s.abandonGuess else
    match s.inBody with
    | none => .next (s.illegalMode (.xacc o))
    | some (r, k, j) =>
      if r.xaccAt k != s.thr.pc then .next (s.illegalMode (.xacc o))
      else if !s.thr.vq.isEmpty || !((List.range 64).all fun n => !r.vmask.getLsbD n || s.thr.full n) then .next s
      else
        match s.syncAll with
        | some s' => .next s'
        | none =>
          match s.carryLost (.xacc o) r.tiles with
          | some s' => .next s'
          | none => .next (s.endIteration r k j)

/-- The thread at turn leaves its region, which becomes IDLE when every participant has left (R210, R354). -/
def State.leaveRegion (s : State) (r : Region) : State :=
  let r := r.mapStroke s.thr.id.tidx fun k => { k with left := true, sst := .none, iter := none, ckpt := none }
  if r.strokes.all (·.left) then { s with regions := s.regions.filter fun x => x.rid != r.rid } else s.setRegion r

/-- `XEND` (R210). -/
def execXend (o : YOp) (s : State) : Out :=
  s.scalar (.xend o) [] [] fun s =>
    if s.guessing then .next s.abandonGuess else
    match s.myRegion with
    | none => .next (s.illegalMode (.xend o))
    | some r =>
      let here := r.strokes.any fun k => k.tidx == s.thr.id.tidx && r.xend k == s.thr.pc
      if here && (r.state == .done || r.state == .aborted) then .next (s.leaveRegion r).commit
      else .next (s.illegalMode (.xend o))

/-- `XABORT` (R210, R354, R361): held in a speculative stroke, as a fault (R360). The oldest's waits until its iteration's convoys and tile
entries have ended, up to one that a fault holds: they are older than the `XABORT` (log entry 118). -/
def execXabort (o : YOp) (s : State) : Out :=
  s.scalar (.xabort o) [] [] fun s =>
    if s.guessing then .next s.abandonGuess
    else
      match s.inBody with
      | none => .next (s.illegalMode (.xabort o))
      | some (r, k, _) =>
        if s.speculative then .next (s.onThr fun t => { t with heldX := true, wait := .xabort })
        else if !s.thr.vq.isEmpty || k.ckpt.any (fun c => s.thr.leaving c.posts) then .next s
        else
          match s.carryLost (.xabort o) r.tiles with
          | some s' => .next s'
          | none => .next (s.onThr fun t => { t with heldX := false, wait := .none }.retire 1).abortRegion

end Sys2Proof.Machine
end

