-- ==== Sys2Proof/Machine/Hart.lean ====
section
/-! DEFINITION. The hart of an Etesian core and the base instructions that it runs: RV64IMAC with Zicsr and Zifencei in U-mode
(00 R9; 17 R331, R332, R340, R345). -/

namespace Sys2Proof.Machine

/-! ### The hart at turn -/

/-- The episode that runs on the Etesian core at turn. -/
def State.hartEp (s : State) : Option Episode :=
  match (s.ecore s.ecur).running with
  | some (n, e) =>
    match s.ep n e with
    | some x => if x.state.live && x.core == s.ecur then some x else none
    | none => none
  | none => none

/-- Read `x r`; `x0` reads zero. -/
def Hart.get (h : Hart) (r : BitVec 5) : Word := if r = 0 then 0 else vget h.x r.toNat

/-- Write `x r`; a write of `x0` is discarded. -/
def Hart.put (h : Hart) (r : BitVec 5) (v : Word) : Hart := if r = 0 then h else { h with x := vset h.x r.toNat v }

/-- One Etesian cycle of a core. -/
def State.etesianCycle (s : State) (core : Nat) : State :=
  let c := s.ecore core
  s.setEcore core { c with cycles := c.cycles + 1 }

/-- An instruction of an episode retires: its cycle is charged to the step (R345), and `pc` is the next instruction. -/
def State.hartNext (s : State) (x : Episode) (pc : Word) : State :=
  (s.etesianCycle x.core).setEp { x with count := x.count + 1, hart := { x.hart with pc := pc, instret := x.hart.instret + 1 } }

/-- An instruction retires in sequence with a result; `len` is its length in bytes. -/
def State.hartWrite (s : State) (x : Episode) (len : Nat) (rd : BitVec 5) (v : Word) : State :=
  s.hartNext { x with hart := x.hart.put rd v } (x.hart.pc + BitVec.ofNat 64 len)

/-- An exception goes to the monitor, which kills the episode with AUX the cause (R331). -/
def State.hartTrap (s : State) (x : Episode) (cause : Nat) : State := s.killEpisode x 5 (BitVec.ofNat 32 cause)

/-! ### Its memory (R332) -/

/-- Where a byte of the episode's memory lies: in its partition, at a byte of the core's SRAM, or in its window, at a physical address. -/
inductive HartByte where
  | part (a : Nat)
  | win (pa : Nat)
  deriving DecidableEq, Repr

/-- First address of the window. -/
def windowBase : Nat := 0x40000000

/-- The byte at a local address. -/
def Episode.byteAt (x : Episode) (a : Nat) : Option HartByte :=
  if a < unitBytes * x.lunits then some (.part (unitBytes * x.unit + a))
  else if a < windowBase then none
  else (x.frames[(a - windowBase) / 65536]?).map fun f => .win (f + (a - windowBase) % 65536)

/-- The places of `n` bytes from an address, none where one of them has no place. -/
def Episode.bytesAt (x : Episode) (a : Word) (n : Nat) : Option (List HartByte) :=
  (List.range n).mapM fun i => x.byteAt (a + BitVec.ofNat 64 i).toNat

/-- A byte can be read: its sector's check value agrees (R332). -/
def State.hartReadable (s : State) : HartByte → Bool
  | .part _ => true
  | .win pa => !s.damage.fails (pa / 64) && !s.damage.uncorr.contains (pa / 64)

/-- The value of a byte. -/
def State.hartByte (s : State) (core : Nat) : HartByte → Byte
  | .part a => (s.ecore core).sram.get a
  | .win pa => s.mem.get pa

/-- A read of `n` bytes; none is an access fault. -/
def State.hartRead (s : State) (x : Episode) (a : Word) (n : Nat) : Option (List Byte) :=
  match x.bytesAt a n with
  | none => none
  | some l => if l.all s.hartReadable then some (l.map (s.hartByte x.core)) else none

/-- One byte written. -/
def State.hartSetByte (s : State) (core : Nat) : HartByte × Byte → State
  | (.part a, b) => s.setEcore core { s.ecore core with sram := (s.ecore core).sram.set a b }
  | (.win pa, b) => s.storePA pa [b]

/-- The device addresses among places. -/
def windowRuns (l : List HartByte) : List (Nat × Nat) :=
  l.filterMap fun | .win pa => some (pa, 1) | .part _ => none

/-- A write; none is an access fault. A window write that covers sectors whole gives them fresh check values (R381); the hart's own
write leaves its reservation, as RV64A allows. -/
def State.hartStore (s : State) (x : Episode) (a : Word) (bs : List Byte) : Option State :=
  (x.bytesAt a bs.length).map fun l =>
    let own := s.coh.watch.filter fun w => w.ctx == x.ctx && w.e == x.e
    let s := (l.zip bs).foldl (fun s p => s.hartSetByte x.core p) s
    let others := s.coh.watch.filter fun w => !(w.ctx == x.ctx && w.e == x.e)
    { s with damage := s.damage.clearRuns (windowRuns l), coh := { s.coh with watch := own ++ others } }

/-- A fetch of `n` bytes: only the partition may be executed. -/
def State.hartFetch (s : State) (x : Episode) (a : Word) (n : Nat) : Option Nat :=
  if a.toNat + n ≤ unitBytes * x.lunits then some (ofBytes ((s.ecore x.core).sram.read (unitBytes * x.unit + a.toNat) n)) else none

/-- The instruction at the hart's PC, or the exception that its fetch or its decoding raises (R331, R332, R337). -/
def State.hartFetched (s : State) (x : Episode) : Except Nat Instr :=
  match s.hartFetch x x.hart.pc 2 with
  | none => .error 1
  | some h =>
    if h % 4 != 3 then
      match decodeEtesian (BitVec.ofNat 32 h) with
      | some i => .ok i
      | none => .error 2
    else
      match s.hartFetch x x.hart.pc 4 with
      | none => .error 1
      | some w =>
        match decodeEtesian (BitVec.ofNat 32 w) with
        | some i => .ok i
        | none => .error 2

/-! ### Arithmetic -/

/-- A 32-bit result, sign-extended. -/
def sx32 (v : Word) : Word := (v.setWidth 32).signExtend 64

/-- The operations of RV64I on 64 bits. -/
def rvAlu (f : RvAlu) (a b : Word) : Word :=
  let sh := b.toNat % 64
  match f with
  | .add => a + b
  | .sub => a - b
  | .sll => a <<< sh
  | .slt => if a.toInt < b.toInt then 1 else 0
  | .sltu => if a.toNat < b.toNat then 1 else 0
  | .xor => a ^^^ b
  | .srl => a >>> sh
  | .sra => a.sshiftRight sh
  | .or => a ||| b
  | .and => a &&& b

/-- The 32-bit operations. -/
def rvAluW (f : RvAlu) (a b : Word) : Word :=
  let x := a.setWidth 32
  let sh := b.toNat % 32
  match f with
  | .sll => (x <<< sh).signExtend 64
  | .srl => (x >>> sh).signExtend 64
  | .sra => (x.sshiftRight sh).signExtend 64
  | .add => sx32 (a + b)
  | .sub => sx32 (a - b)
  | .slt | .sltu | .xor | .or | .and => sx32 (rvAlu f a b)

/-- The M operations at width `w`: a division by zero gives all ones and leaves the dividend; an overflow wraps. -/
def rvMulW (w : Nat) (f : RvMul) (a b : BitVec w) : BitVec w :=
  match f with
  | .mul => a * b
  | .mulh => BitVec.ofInt w (a.toInt * b.toInt / 2 ^ w)
  | .mulhsu => BitVec.ofInt w (a.toInt * b.toNat / 2 ^ w)
  | .mulhu => BitVec.ofNat w (a.toNat * b.toNat / 2 ^ w)
  | .div => if b = 0 then BitVec.allOnes w else BitVec.ofInt w (a.toInt.tdiv b.toInt)
  | .divu => if b = 0 then BitVec.allOnes w else BitVec.ofNat w (a.toNat / b.toNat)
  | .rem => if b = 0 then a else BitVec.ofInt w (a.toInt.tmod b.toInt)
  | .remu => if b = 0 then a else BitVec.ofNat w (a.toNat % b.toNat)

/-- The read-modify-writes of the A extension at width `w`. -/
def rvAmoNew (w : Nat) (f : RvAmo) (old v : BitVec w) : BitVec w :=
  match f with
  | .swap => v
  | .add => old + v
  | .xor => old ^^^ v
  | .and => old &&& v
  | .or => old ||| v
  | .min => if old.toInt ≤ v.toInt then old else v
  | .max => if old.toInt ≤ v.toInt then v else old
  | .minu => if old.toNat ≤ v.toNat then old else v
  | .maxu => if old.toNat ≤ v.toNat then v else old

/-- The branch conditions. -/
def rvTaken (c : RvBr) (a b : Word) : Bool :=
  match c with
  | .eq => a == b
  | .ne => a != b
  | .lt => a.toInt < b.toInt
  | .ge => b.toInt ≤ a.toInt
  | .ltu => a.toNat < b.toNat
  | .geu => b.toNat ≤ a.toNat

/-- Bytes of a load, and whether it sign-extends. -/
def rvLdSize : RvLd → Nat × Bool
  | .b => (1, true) | .h => (2, true) | .w => (4, true) | .d => (8, true) | .bu => (1, false) | .hu => (2, false) | .wu => (4, false)

/-- Bytes of a store. -/
def rvStSize : RvSt → Nat
  | .b => 1 | .h => 2 | .w => 4 | .d => 8

/-! ### Loads, stores, reservations -/

/-- A misaligned access of the base instructions raises an exception, where the core does not perform it (log entry 12). -/
def rvMisaligned (a : Word) (n : Nat) : Bool := a.toNat % n != 0 && !Config.misaligned

/-- The episode's reservation is at bytes of these places, and a reservation in its window is watched (R9). -/
def State.watchResv (s : State) (x : Episode) (l : List HartByte) : State :=
  let others := s.coh.watch.filter fun w => !(w.ctx == x.ctx && w.e == x.e)
  { s with coh := { s.coh with watch := match l with
      | .win pa :: _ => ⟨x.ctx, x.e, pa, l.length⟩ :: others
      | _ => others } }

/-- No other agent has written the reserved bytes since the `lr`: the partition is the hart's alone; a window is watched. -/
def State.resvHolds (s : State) (x : Episode) (l : List HartByte) : Bool :=
  match l with
  | .win pa :: _ => s.coh.watch.contains ⟨x.ctx, x.e, pa, l.length⟩
  | _ => true

/-- A load. -/
def State.rvLoad (s : State) (x : Episode) (len : Nat) (f : RvLd) (rd : BitVec 5) (a : Word) : State :=
  let (n, sx) := rvLdSize f
  if rvMisaligned a n then s.hartTrap x 4 else
  match s.hartRead x a n with
  | none => s.hartTrap x 5
  | some l => s.hartWrite x len rd (if sx then BitVec.ofInt 64 (sextNat (8 * n) (ofBytes l)) else BitVec.ofNat 64 (ofBytes l))

/-- A store. -/
def State.rvStore (s : State) (x : Episode) (len n : Nat) (a v : Word) : State :=
  if rvMisaligned a n then s.hartTrap x 6 else
  match s.hartStore x a (toBytes n v.toNat) with
  | none => s.hartTrap x 7
  | some s => s.hartNext x (x.hart.pc + BitVec.ofNat 64 len)

/-- Bytes of an atomic. -/
def rvAtomBytes (dbl : Bool) : Nat := if dbl then 8 else 4

/-- A value of an atomic's width, sign-extended. -/
def rvAtomValue (dbl : Bool) (l : List Byte) : Word := BitVec.ofInt 64 (sextNat (8 * rvAtomBytes dbl) (ofBytes l))

/-- `lr`: the reservation names the bytes. -/
def State.rvLr (s : State) (x : Episode) (len : Nat) (dbl : Bool) (rd : BitVec 5) (a : Word) : State :=
  let n := rvAtomBytes dbl
  if a.toNat % n != 0 then s.hartTrap x 4 else
  match x.bytesAt a n, s.hartRead x a n with
  | some places, some l =>
    (s.watchResv x places).hartWrite { x with hart := { x.hart with resv := some (a.toNat, n) } } len rd (rvAtomValue dbl l)
  | _, _ => s.hartTrap x 5

/-- `sc`: without a reservation of these bytes, or where another agent has written them since, it fails; otherwise the core may still
fail it, which the model leaves free (log entry 22). -/
def State.rvSc (s : State) (x : Episode) (len : Nat) (dbl : Bool) (rd : BitVec 5) (a v : Word) : State :=
  let n := rvAtomBytes dbl
  if a.toNat % n != 0 then s.hartTrap x 6 else
  match x.bytesAt a n with
  | none => s.hartTrap x 7
  | some places =>
    let y := { x with hart := { x.hart with resv := none } }
    if x.hart.resv = some (a.toNat, n) ∧ s.resvHolds x places then
      let lucky := Config.freeBit s.drawn
      let s := { s with drawn := s.drawn + 1 }
      if lucky then
        match s.hartStore x a (toBytes n v.toNat) with
        | some s => s.hartWrite y len rd 0
        | none => s.hartTrap x 7
      else s.hartWrite y len rd 1
    else s.hartWrite y len rd 1

/-- An atomic read-modify-write. -/
def State.rvAmoRun (s : State) (x : Episode) (len : Nat) (f : RvAmo) (dbl : Bool) (rd : BitVec 5) (a v : Word) : State :=
  let n := rvAtomBytes dbl
  if a.toNat % n != 0 then s.hartTrap x 6 else
  match s.hartRead x a n with
  | none => s.hartTrap x 7
  | some l =>
    let new := rvAmoNew (8 * n) f (BitVec.ofNat _ (ofBytes l)) (BitVec.ofNat _ v.toNat)
    match s.hartStore x a (toBytes n new.toNat) with
    | none => s.hartTrap x 7
    | some s => s.hartWrite x len rd (rvAtomValue dbl l)

/-! ### Control and status registers (R331, R340) -/

/-- The registers that U-mode reads: the counters, and those of R340. -/
def State.hartCsr (s : State) (x : Episode) (n : Nat) : Option Word :=
  match n with
  | 0xC00 => some (s.ecore x.core).cycles
  | 0xC02 => some x.hart.instret
  | 0xCC0 => some (BitVec.ofNat 64 x.e)
  | 0xCC1 => some (x.hart.estep.setWidth 64)
  | 0xCC2 => some (x.hart.egen.setWidth 64)
  | 0xCC3 => some (BitVec.ofNat 64 (x.budget - x.count))
  | 0xCC4 => some (BitVec.ofNat 64 x.kicks)
  | 0xCC5 => some (BitVec.ofNat 64 x.mode)
  | _ => none

/-- A form of Zicsr that writes: every `csrrw`, and the others but where they name `x0` or the immediate 0. -/
def rvCsrWrites (f : RvCsr) (rs1 : BitVec 5) : Bool :=
  match f with
  | .rw => true
  | .rs | .rc => rs1 != 0

/-! ### The base instructions -/

/-- The effect of a base instruction of `len` bytes. Fences, and `wfi` in U-mode, only advance: the core performs its accesses in
order and takes no interrupt. -/
def State.rvRun (s : State) (x : Episode) (len : Nat) (i : RvI) : State :=
  let h := x.hart
  let pc := h.pc
  let w := s.hartWrite x len
  match i with
  | .lui rd imm => w rd ((imm ++ 0#12 : BitVec 32).signExtend 64)
  | .auipc rd imm => w rd (pc + (imm ++ 0#12 : BitVec 32).signExtend 64)
  | .jal rd off => s.hartNext { x with hart := h.put rd (pc + BitVec.ofNat 64 len) } (pc + (off.signExtend 64 <<< 1))
  | .jalr rd rs1 imm =>
    s.hartNext { x with hart := h.put rd (pc + BitVec.ofNat 64 len) } ((h.get rs1 + imm.signExtend 64) &&& ~~~(1 : Word))
  | .branch c rs1 rs2 off =>
    s.hartNext x (if rvTaken c (h.get rs1) (h.get rs2) then pc + (off.signExtend 64 <<< 1) else pc + BitVec.ofNat 64 len)
  | .load f rd rs1 imm => s.rvLoad x len f rd (h.get rs1 + imm.signExtend 64)
  | .store f rs1 rs2 imm => s.rvStore x len (rvStSize f) (h.get rs1 + imm.signExtend 64) (h.get rs2)
  | .opImm f rd rs1 imm => w rd (rvAlu f (h.get rs1) (imm.signExtend 64))
  | .opImm32 f rd rs1 imm => w rd (rvAluW f (h.get rs1) (imm.signExtend 64))
  | .op f rd rs1 rs2 => w rd (rvAlu f (h.get rs1) (h.get rs2))
  | .op32 f rd rs1 rs2 => w rd (rvAluW f (h.get rs1) (h.get rs2))
  | .mul f rd rs1 rs2 => w rd (rvMulW 64 f (h.get rs1) (h.get rs2))
  | .mul32 f rd rs1 rs2 => w rd ((rvMulW 32 f ((h.get rs1).setWidth 32) ((h.get rs2).setWidth 32)).signExtend 64)
  | .fence _ _ _ _ _ | .fenceI _ _ _ | .wfi => s.hartNext x (pc + BitVec.ofNat 64 len)
  | .ecall => s.hartTrap x 8
  | .ebreak => s.hartTrap x 3
  | .csr f _ rd rs1 n =>
    match s.hartCsr x n.toNat with
    | none => s.hartTrap x 2
    | some v => if rvCsrWrites f rs1 then s.hartTrap x 2 else w rd v
  | .lr dbl _ _ rd rs1 => s.rvLr x len dbl rd (h.get rs1)
  | .sc dbl _ _ rd rs1 rs2 => s.rvSc x len dbl rd (h.get rs1) (h.get rs2)
  | .amo f dbl _ _ rd rs1 rs2 => s.rvAmoRun x len f dbl rd (h.get rs1) (h.get rs2)

/-- A base instruction, of 32 bits or a compressed parcel. -/
def execBaseRiscv (i : Rv) (s : State) : Out :=
  match s.hartEp with
  | none => .fault .noHart
  | some x =>
    match i with
    | .full i => .next (s.rvRun x 4 i)
    | .compressed h =>
      match RvI.expand h with
      | some i => .next (s.rvRun x 2 i)
      | none => .next (s.hartTrap x 2)

/-! ### The Etesian extension (R337 to R339) -/

/-- A new step starts: a recorded budget takes effect, and the kicks and the count start anew (R338, R345). -/
def Episode.newStep (x : Episode) : Episode :=
  { x with budget := x.budgetNext.getD x.budget, budgetNext := none, kicks := x.kicksCfg, count := 0 }

/-- `etake` with its buffer checked: it removes the oldest action, or waits. Its own cycle is not charged. -/
def State.etakeTry (s : State) (x : Episode) (o : ROp) : State :=
  match x.acts with
  | [] => (s.setEp { x with wait := .take o }).passCore x.core
  | a :: rest =>
    let buf := x.hart.get o.rs1
    match s.hartStore x buf (pad256 a.payload ++ toBytes 16 a.tag.toNat) with
    | none => s.hartTrap x 7
    | some s =>
      let h := { x.hart with taken := true, estep := tagStep a.tag, egen := tagGen a.tag, pc := x.hart.pc + 4, instret := x.hart.instret + 1 }
      let y := { x with acts := rest, wait := .none, hart := h.put o.rd (a.tag.setWidth 64) }.newStep
      (s.etesianCycle x.core).setEState y .stepping

/-- `etake` (R338). -/
def execEtake (o : ROp) (s : State) : Out :=
  match s.hartEp with
  | none => .fault .noHart
  | some x =>
    let a := x.hart.get o.rs1
    if a.toNat % 16 != 0 || (x.bytesAt a 272).isNone then .next (s.hartTrap x 7) else .next (s.etakeTry x o)

/-- `epost` with its operands checked: it appends the observation, or waits (R338, R342). -/
def State.epostTry (s : State) (x : Episode) (o : ROp) : State :=
  if 15 ≤ x.obs.length then (s.setEp { x with wait := .post o }).passCore x.core else
  let b := x.hart.get o.rs2
  let n := b.toNat % 512
  match s.hartRead x (x.hart.get o.rs1) n with
  | none => s.hartTrap x 5
  | some l =>
    let m : MbEntry := { tag := mkTag (obsGen x) x.hart.estep (b.extractLsb' 32 32) x.e 1 n, payload := l }
    let y := { x with obs := x.obs ++ [m], wait := .none, hart := x.hart.put o.rd (x.hart.estep.setWidth 64) }
    let s := s.hartNext y (x.hart.pc + 4)
    match s.ep x.ctx x.e with
    | none => s
    | some z =>
      if z.state == .stepping then
        let z := { z with state := .awaiting }
        (s.setEState z .awaiting).boundary z
      else s

/-- `epost` (R338). -/
def execEpost (o : ROp) (s : State) : Out :=
  match s.hartEp with
  | none => .fault .noHart
  | some x =>
    let b := x.hart.get o.rs2
    let n := b.toNat % 512
    if n = 0 || 256 < n || bitsOf 31 9 b.toNat != 0 then .next (s.hartTrap x 2)
    else if (s.hartRead x (x.hart.get o.rs1) n).isNone then .next (s.hartTrap x 5)
    else .next (s.epostTry x o)

/-- `ewdkick` (R339): its own cycle is not charged where it acts. -/
def execEwdkick (o : ROp) (s : State) : Out :=
  match s.hartEp with
  | none => .fault .noHart
  | some x =>
    if x.state == .stepping && x.kicks != 0 then
      let k := x.kicks - 1
      let h := { x.hart with pc := x.hart.pc + 4, instret := x.hart.instret + 1 }
      .next ((s.etesianCycle x.core).setEp { x with kicks := k, count := 0, hart := h.put o.rd (BitVec.ofNat 64 k) })
    else .next (s.hartWrite x 4 o.rd (BitVec.allOnes 64))

/-- `eyield` (R339). -/
def execEyield (_ : ROp) (s : State) : Out :=
  match s.hartEp with
  | none => .fault .noHart
  | some x => .next ((s.hartNext x (x.hart.pc + 4)).passCore x.core)

/-- `eexit` (R339): the episode is DONE, with a final entry of KIND FINAL. -/
def execEexit (o : ROp) (s : State) : Out :=
  match s.hartEp with
  | none => .fault .noHart
  | some x => .next ((s.etesianCycle x.core).endEpisode { x with count := x.count + 1 } .done 3 ((x.hart.get o.rs1).setWidth 32))

/-- A waiting `etake` finds an action (R338), or the core passes on (R339). -/
def execEtakeWake (s : State) : Out :=
  match s.hartEp with
  | none => .fault .noHart
  | some x =>
    match x.wait with
    | .take o => .next (if x.acts.isEmpty then s.passCore x.core else s.etakeTry x o)
    | _ => .fault .notEnabled

/-- The kill of a step that would exceed its budget (R345). -/
def State.timeout (s : State) (x : Episode) : State := s.killEpisode x 4 (BitVec.ofNat 32 (x.kicksCfg - x.kicks))

/-- A waiting `epost` finds room (R338), or the core passes on (R339). It retires in a charged cycle: a step that has executed its budget
ends there (R345). -/
def execEpostWake (s : State) : Out :=
  match s.hartEp with
  | none => .fault .noHart
  | some x =>
    match x.wait with
    | .post o =>
      .next (if 15 ≤ x.obs.length then s.passCore x.core else if x.budget ≤ x.count then s.timeout x else s.epostTry x o)
    | _ => .fault .notEnabled

/-- The next instruction of the episode executes in a cycle that is charged (R345): not an `etake`, nor an `epost` that waits, nor an
`ewdkick` that acts. -/
def State.charged (s : State) (x : Episode) : Bool :=
  match s.hartFetched x with
  | .ok (.etake o) =>
    let a := x.hart.get o.rs1
    a.toNat % 16 != 0 || (x.bytesAt a 272).isNone
  | .ok (.epost o) =>
    let b := x.hart.get o.rs2
    let n := b.toNat % 512
    n = 0 || 256 < n || bitsOf 31 9 b.toNat != 0 || (s.hartRead x (x.hart.get o.rs1) n).isNone || x.obs.length < 15
  | .ok (.ewdkick _) => !(x.state == .stepping && x.kicks != 0)
  | _ => true

/-- The step has executed its budget (R345): the next instruction that is charged does not retire, and the episode is killed with KIND
TIMEOUT. -/
def execBudgetExceeded (core : Nat) (s : State) : Out :=
  match (s.ecore core).running with
  | none => .fault .notEnabled
  | some (n, e) =>
    match s.ep n e with
    | none => .fault .notEnabled
    | some x =>
      if x.state.live && x.core == core && x.wait == .none && x.budget ≤ x.count && s.charged x then .next (s.timeout x)
      else .fault .notEnabled

/-- An exception of the hart at turn (R331): of a fetch, or of a word that is no instruction. -/
def execEpisodeException (cause : Nat) (s : State) : Out :=
  match s.hartEp with
  | none => .fault .noHart
  | some x => .next (s.hartTrap x cause)

end Sys2Proof.Machine
end

