-- ==== Sys2Proof/Machine/Pages.lean ====
section
/-! DEFINITION. The handle instructions (08 R201, R202; 16 R320 to R325). -/

namespace Sys2Proof.Machine

/-- A tile entry that acts on a handle. -/
def isHandleEntry : Instr → Bool
  | .tappend _ | .tgather _ => true
  | _ => false

/-- The wait of R202: every older `TAPPEND` and `TGATHER` has retired. -/
def State.afterHandles (s : State) (f : State → Out) : Out :=
  match s.syncOn fun e => isHandleEntry e.ins with
  | some s' => .next s'
  | none => f s

/-- A handle instruction (R202): its step is an acquire and a release, so it waits for the memory accesses of older convoys (R251); and it
waits at the tile sync point before it reads its registers, so that an older entry's fault is the one taken (R371). One that changes the
table traps XSERIAL in a speculative stroke (R190). -/
def State.handleOp (s : State) (i : Instr) (srcs dst : List (BitVec 6)) (f : State → Out) : Out :=
  if s.thr.memPending then .next s
  else if s.speculative || s.guessing then s.serial i srcs dst f
  else s.afterHandles fun s => s.serial i srcs dst f

/-- A HANDLE fault (R202). -/
def State.handleFault (s : State) (h : Word) (reason : Nat) : State :=
  s.raise { cause := cHANDLE, i0 := h, i1 := BitVec.ofNat 64 reason }

/-- Checks 1 to 3 of R202 on a handle operand, then the step on its entry. -/
def State.onHandle (s : State) (h : Word) (f : Nat → HEnt → State) : State :=
  let r := s.handleReason s.thr.id.ctx h
  if r != 0 then s.handleFault h r else f (handleIdx h) (s.hent s.tctx (handleIdx h))

/-- `PGALLOC`'s step (R201, R322, R324): the new capacity, or 0 with nothing changed. -/
def State.allocPages (s : State) (c : Ctx) (i n : Nat) (e : HEnt) : Nat × State :=
  if c.maxpg < e.cap / 128 + n then (0, s) else
  match s.takePages c e n with
  | none => (0, s)
  | some (e', s') => (e'.cap, s'.setHent c i e')

/-- `PGALLOC` (R201). -/
def execPgalloc (o : SOp) (s : State) : Out :=
  s.handleOp (.pgalloc o) [o.a, o.b] [o.d] fun s =>
    .next <| s.onHandle (s.g o.a) fun i e =>
      let n := (s.g o.b).toNat
      if n = 0 || 64 < n then s.handleFault (s.g o.a) 4 else
      let (v, s) := s.allocPages s.tctx i n e
      s.writeG o.d (BitVec.ofNat 64 v)

/-- `PGFREE` (R201, R321). -/
def execPgfree (o : SOp) (s : State) : Out :=
  s.handleOp (.pgfree o) [o.a] [o.d] fun s =>
    .next <| s.onHandle (s.g o.a) fun i e =>
      let s := if e.refs ≤ 1 then s.freeEntry s.tctx i else s.setHent s.tctx i { e with refs := e.refs - 1 }
      s.writeG o.d (BitVec.ofNat 64 (e.refs - 1))

/-- `HMAKE` without a page (R201): the new handle, or 0. -/
def State.makeHandle (s : State) (n : Nat) : Word × State :=
  let c := s.ctx n
  match s.freeHandle c with
  | none => (0, s)
  | some i => (mkHandle n i (s.hent c i).gen, s.setHent c i (s.newHent c i))

/-- The pages that a fork shares gain a reference and enter the new list (R201, R325). -/
def State.sharePages (s : State) (c : Ctx) (from_ to_ : HEnt) (n : Nat) : State :=
  (List.range n).foldl (fun s q => (s.gainRef c (s.listPage from_ q)).setListPage to_ q (s.listPage from_ q)) s

/-- `HMAKE.fork`'s step (R201): the new handle, or 0 with nothing changed. -/
def State.forkHandle (s : State) (n : Nat) (a : HEnt) (len : Nat) : Word × State :=
  let c := s.ctx n
  match s.freeHandle c with
  | none => (0, s)
  | some i =>
    let e := { s.newHent c i with len := len, mark := len, cap := 128 * (len / 128) }
    if len % 128 = 0 then (mkHandle n i e.gen, (s.sharePages c a e (len / 128)).setHent c i e) else
    match s.takePage c e.cur with
    | none => (0, s)
    | some (p, cur, s) =>
      let s := s.sharePages c a e (len / 128)
      let s := s.copyRows (s.pageRows c (s.listPage a (len / 128))) (s.pageRows c p) (len % 128)
      let s := s.setListPage e (len / 128) p
      (mkHandle n i e.gen, s.setHent c i { e with cap := e.cap + 128, cur := cur })

/-- The rows that a fork copies lie in the slow tier, or go there, and Turward is not usable (R390). -/
def State.forkPort (s : State) (c : Ctx) (e : HEnt) (len : Nat) : Bool :=
  len % 128 != 0 &&
  match s.freeHandle c with
  | none => false
  | some i =>
    match s.takePage c (s.newHent c i).cur with
    | none => false
    | some (p, _, s') => s.noPort (s.pageRows c (s.listPage e (len / 128))) || s.noPort (s'.pageRows c p)

/-- `HMAKE` and `HMAKE.fork` (R201). A copy that needs Turward waits for it, and fails REMOTE once TMO has passed (R390; log entry 121). -/
def execHmake (fork : Bool) (o : SOp) (s : State) : Out :=
  s.handleOp (.hmake fork o) (if fork then [o.a, o.b] else []) [o.d] fun s =>
    if fork then
      .next <| s.onHandle (s.g o.a) fun _ e =>
        if e.len < (s.g o.b).toNat then s.handleFault (s.g o.a) 5
        else if s.forkPort s.tctx e (s.g o.b).toNat then s.waitRemote { cause := cREMOTE, i0 := s.g o.a, i1 := 1 }
        else
        let (h, s) := s.forkHandle s.thr.id.ctx e (s.g o.b).toNat
        s.writeG o.d h
    else
      let (h, s) := s.makeHandle s.thr.id.ctx
      .next (s.writeG o.d h)

/-- What a form of `HCHK` reads (R201). -/
def hchkValue (w : HchkWhat) (e : HEnt) : Nat :=
  match w with
  | .length => e.len
  | .cap => e.cap
  | .mark => e.mark

/-- `HCHK` (R201): all ones for a handle that is not valid; it never faults HANDLE. In a guess routine it abandons the guess (R351). -/
def execHchk (w : HchkWhat) (o : SOp) (s : State) : Out :=
  if s.thr.memPending then .next s else
  let go := fun (s : State) => s.scalar (.hchk w o) [o.a] [o.d] fun s =>
    if s.guessing then .next s.xhold else
    let h := s.g o.a
    .next <| s.writeG o.d <|
      if s.handleReason s.thr.id.ctx h != 0 then BitVec.allOnes 64
      else BitVec.ofNat 64 (hchkValue w (s.hent s.tctx (handleIdx h)))
  if s.guessing then go s else s.afterHandles go

/-- `HMARK` (R201). -/
def execHmark (o : SOp) (s : State) : Out :=
  s.handleOp (.hmark o) [o.a] [o.d] fun s =>
    .next <| s.onHandle (s.g o.a) fun i e => (s.setHent s.tctx i { e with mark := e.len }).writeG o.d (BitVec.ofNat 64 e.len)

/-- `HTRUNC` (R201). -/
def execHtrunc (o : SOp) (s : State) : Out :=
  s.handleOp (.htrunc o) [o.a, o.b] [] fun s =>
    .next <| s.onHandle (s.g o.a) fun i e =>
      let len := (s.g o.b).toNat
      if e.mark < len then s.handleFault (s.g o.a) 5 else (s.cutEntry s.tctx i len len).commit

end Sys2Proof.Machine
end

