-- ==== Sys2Proof/Machine/Queue.lean ====
section
/-! DEFINITION. The queue: its commands, appends, take-in, retirement, limits (12 R276 to R286). -/

namespace Sys2Proof.Machine

/-! ### Commands (R282) -/

/-- The context keeps its queues at work: it is neither FREE nor torn down. -/
def CtxState.takes : CtxState → Bool
  | .active | .quiescing | .suspended => true
  | .free | .destroying => false

/-- The dispatcher watches the block of a queue (R279, R281). -/
def State.watched (s : State) (n q : Nat) : Bool :=
  n < 64 && q < 16 && (s.ctx n).state.takes && s.qva n q != 0 && !(s.queue n q).errd

/-- The pending command of a queue: SEQ, OP, whether an RZ bit is set; or the cause for which its block cannot be read. Its SEQ is not
that of the last command taken, which the dispatcher keeps, or, of a queue that has had none, of DONE. None while a `DESTROY` runs. -/
def State.queueCommand (s : State) (n q : Nat) : Except Nat (Option (BitVec 32 × Nat × Bool)) :=
  let x := s.queue n q
  if !s.watched n q || (x.cmdSeq.isSome && x.cmdOp != 3) then .ok none else
  match s.qget n q 0x18, s.qget n q 0x20 with
  | .ok c, .ok d =>
    let seq := c.extractLsb' 32 32
    .ok (if seq = x.taken.getD (d.extractLsb' 32 32) then none
      else some (seq, c.toNat % 256, c.extractLsb' 8 24 != 0))
  | .error e, _ | _, .error e => .error e

/-- The states in which a command of an OP is not refused with STATUS STATE (R282). -/
def queueAllows (op : Nat) (st : QState) : Bool :=
  match op, st with
  | 2, .destroyed | 2, .draining | 3, .destroyed | 3, .frozen => false
  | _, _ => true

/-- A command is taken: the dispatcher keeps its SEQ. -/
def State.takeCommand (s : State) (n q : Nat) (seq : BitVec 32) : State :=
  s.setQueue n q { s.queue n q with taken := some seq }

/-- A legal CTL. -/
def ctlOk (w : Word) : Bool := w.toNat / 2 ^ 22 == 0 && bitsOf 15 2 w.toNat == 0

/-- The interrupt at the end of a `DRAIN` (R276), under the CTL that was read with it. -/
def State.drainIrq (s : State) (n op : Nat) (ctl : Word) : State := if op = 3 && ctlOk ctl then s.ctlIrq n ctl 21 else s

/-- A command of one OP: CTL is read (R276), the RZ check, the check of the state and that of CTL are made (R428), then the effect. A block
that cannot be read is a failed access (R281). -/
def State.queueOp (s : State) (n q op : Nat) (f : State → BitVec 32 → State) : Out :=
  match s.queueCommand n q with
  | .error e => .next (s.qerr n q e)
  | .ok none => .fault .notEnabled
  | .ok (some (seq, o, rz)) =>
    if o != op then .fault .notEnabled else
    match s.qget n q 0x10 with
    | .error e => .next (s.qerr n q e)
    | .ok ctl =>
      let s := s.takeCommand n q seq
      .next (if rz then s.qDone n q seq 2
        else if !queueAllows op (s.queue n q).state then (s.qDone n q seq 1).drainIrq n op ctl
        else if !ctlOk ctl then s.qDone n q seq 2
        else f (s.setQueue n q { s.queue n q with ctl := ctl }) seq)

/-- `CREATE` (R282). -/
def State.createQueue (s : State) (n q : Nat) (seq : BitVec 32) (ctl : Word) : State :=
  if (s.queue n q).state != .destroyed then s.qDone n q seq 1 else
  match s.qget n q 0, s.qget n q 8 with
  | .ok h, .ok t =>
    if h != 0 || t != 0 || !ctlOk ctl then s.qDone n q seq 2
    else ((s.setQueue n q { Queue.reset with ctl := ctl, taken := (s.queue n q).taken }).setQState n q .empty).qDone n q seq 0
  | .error e, _ | _, .error e => s.qerr n q e

/-- `CREATE`, and commands whose OP is not assigned. -/
def execQueueCreate (n q : Nat) (s : State) : Out :=
  match s.queueCommand n q with
  | .error e => .next (s.qerr n q e)
  | .ok none => .fault .notEnabled
  | .ok (some (seq, op, rz)) =>
    if 1 < op && op ≤ 4 then .fault .notEnabled else
    match s.qget n q 0x10 with
    | .error e => .next (s.qerr n q e)
    | .ok ctl =>
      let s := s.takeCommand n q seq
      if op != 1 then .next (s.qDone n q seq 5)
      else .next (if rz then s.qDone n q seq 2 else s.createQueue n q seq ctl)

/-- `RESUME` repeats the write of a node's state that failed (R281); a node that becomes DONE by it has its successors decremented. -/
def State.repeatNode (n q : Nat) (s : State) (x : Node) : State :=
  match x.pend with
  | none => s
  | some st =>
    let s := s.setNState n q x.addr st
    if st == .done && !(s.node n q x.addr).any (·.over) then s.decSuccs n q x.addr (List.range x.nsucc) else s

/-- No node of the queue is unretired: neither one taken in nor one that HEAD names. -/
def State.noNode (s : State) (n q : Nat) : Bool :=
  (s.queue n q).nodes.isEmpty &&
  match s.qget n q 0 with
  | .ok h => h == 0
  | .error _ => true

/-- `RESUME` of a frozen queue (R285). -/
def State.resumeQueue (s : State) (n q : Nat) (seq : BitVec 32) : State :=
  let x := s.queue n q
  let s := match s.qget n q 0x30 with
    | .ok f => s.qput n q 0x30 (f &&& 0x3FFFFFFFFFFFFFFF)
    | .error e => s.qerr n q e
  let s := x.heldRec.foldl (fun s r => s.freeRecord n r) s
  let s := s.setQueue n q { s.queue n q with heldRec := [], owedTake := false, owedRetire := false }
  let s := s.frzAll n q false
  let s := (s.setQState n q (if s.noNode n q then .empty else .active)).qDone n q seq 0
  ((s.queue n q).nodes.foldl (State.repeatNode n q) s).repay n q

/-- `RESUME` (R282). -/
def execQueueResume (n q : Nat) (s : State) : Out :=
  s.queueOp n q 2 fun s seq =>
    match (s.queue n q).state with
    | .destroyed | .draining => s.qDone n q seq 1
    | .empty | .active => s.qDone n q seq 0
    | .frozen => s.resumeQueue n q seq

/-- A queue becomes DESTROYED and answers its command. What it still owed falls away. -/
def State.endQueue (s : State) (n q : Nat) (seq : BitVec 32) : State :=
  let s := (s.queue n q).waits.foldl (fun s w => s.paid n w) s
  let x := s.queue n q
  ((s.setQueue n q { Queue.reset with ctl := x.ctl, taken := x.taken }).setQState n q .destroyed).qDone n q seq 0

/-- The nodes of a list, from an address on. -/
def State.chain (s : State) (n : Nat) : Nat → Word → List Word
  | 0, _ => []
  | fuel + 1, a =>
    if a = 0 then [] else
    a :: (match s.devRead8 n a.toNat with
      | .ok b => State.chain s n fuel b
      | .error _ => [])

/-- The last node linked into the queue's list, 0 for none: from the last one taken in, or from HEAD. -/
def State.lastLinked (s : State) (n q : Nat) : Word :=
  let from_ := match (s.queue n q).lastTaken, s.qget n q 0 with
    | 0, .ok h => h
    | 0, .error _ => 0
    | a, _ => a
  ((s.chain n (s.mem.length + 1) from_).getLast?).getD 0

/-- `DRAIN` (R282): the nodes linked before it finish. -/
def execQueueDrain (n q : Nat) (s : State) : Out :=
  s.queueOp n q 3 fun s seq =>
    match (s.queue n q).state with
    | .destroyed | .frozen => (s.qDone n q seq 1).qIrq n q 21
    | .draining => (s.qDone n q seq 0).qIrq n q 21
    | .empty => (s.endQueue n q seq).qIrq n q 21
    | .active =>
      let last := s.lastLinked n q
      if last = 0 && (s.queue n q).nodes.isEmpty then (s.endQueue n q seq).qIrq n q 21 else
      (s.setQueue n q { s.queue n q with drainTo := last, cmdSeq := some seq, cmdOp := 3 }).setQState n q .draining

/-- The nodes of a queue that it has not retired, taken in or not. -/
def State.ownNodes (s : State) (n q : Nat) : List Word :=
  (s.queue n q).nodes.map (·.addr) ++
  match s.qget n q 0 with
  | .ok h => s.chain n (s.mem.length + 1) h
  | .error _ => []

/-- The copy of a copy node or template (R300): the chunks of R192, with the dispatcher's rights. It belongs to no thread: its thread index
is beyond those of a group. The state, and the cause of the first failed chunk, with the chunk. -/
def State.copyWork (s : State) (n : Nat) (x : Node) : State × Option (Nat × Nat × Nat × Nat) :=
  let w := fun i => vget x.wbody i
  let t : Transfer :=
    { core := 0, tslot := 0, tid := { ctx := n, q := 0, node := 0, gid := 0, gidx := 0, tidx := 96, record := 0, core := 0, slot := 0 }, sup := true, two := false, sp := .dd, dst := w 3, src := w 2
      len := (w 4).toNat, rows := 1, sp2 := 0, dp2 := 0, bar := 0, acq := true, rel := true, scope := 4, posts := 0, since := 0, err := false }
  s.runChunks t t.chunks s

/-- Destruction of a queue that has unfinished nodes begins (R286): its groups stop, its copies run to their end, held records are freed,
and the error token cancels successors in other queues. From here on a fault of the queue is discarded (R23). -/
def State.destroyQueue (s : State) (n q : Nat) (seq : BitVec 32) : State :=
  let x := s.queue n q
  let own := s.ownNodes n q
  let s := s.setQueue n q { x with cmdSeq := some seq, cmdOp := 4 }
  let s := (s.groups.filter fun g => g.ctx == n && g.q == q).foldl State.abortGroup s
  let s := (x.nodes.filter (·.copying)).foldl (fun s y => (s.copyWork n y).1) s
  let s := x.heldRec.foldl (fun s r => s.freeRecord n r) s
  let s := own.foldl (fun s a =>
    let nsucc := match x.nodes.find? (·.addr == a) with
      | some y => if y.state.open then y.nsucc else 0
      | none =>
        match s.devRead8 n (a.toNat + 8) with
        | .ok w => if ctlState w < 3 then min 5 (w.extractLsb' 16 3).toNat else 0
        | .error _ => 0
    let (s, l) := s.tokens n q a nsucc (x.nodes.any (·.addr == a))
    State.cancelAll n own (6 * s.mem.length + 6) l s) s
  let s := s.setQueue n q { s.queue n q with nodes := [], heldRec := [] }
  let s := (s.queue n q).waits.foldl (fun s w => s.paid n w) s
  s.setQueue n q { s.queue n q with waits := [] }

/-- A thread of the queue stands in a slot. -/
def State.queuePlaced (s : State) (n q : Nat) : Bool := s.threads.any fun t => t.live && t.id.ctx == n && t.id.q == q

/-- `DESTROY` (R282, R286); DONE is written once every thread of the queue has stopped. -/
def execQueueDestroy (n q : Nat) (s : State) : Out :=
  let x := s.queue n q
  match x.dying, x.cmdSeq with
  | true, some seq => if s.watched n q && !s.queuePlaced n q then .next (s.endQueue n q seq) else .fault .notEnabled
  | _, _ =>
    s.queueOp n q 4 fun s seq =>
      match (s.queue n q).state with
      | .destroyed => s.qDone n q seq 0
      | .empty => s.endQueue n q seq
      | .active | .frozen | .draining => s.destroyQueue n q seq

/-- The host clears a bit of QERR (R281): the block is accessed again, and the queue continues in its recorded state; unless that is
FROZEN, what it owes is made. In the teardown of its context it does nothing more (R272). -/
def execQerrClear (n q : Nat) (s : State) : Out :=
  if 64 ≤ n || !(s.ctx n).state.takes || 16 ≤ q || !(s.queue n q).errd || (s.cget n 0x300).getLsbD q then .fault .notEnabled else
  match s.qget n q 0 with
  | .error e => .next (s.qerr n q e)
  | .ok _ =>
    let x := s.queue n q
    let s := (s.setQueue n q { x with errd := false }).setQState n q x.state
    .next (if x.state == .frozen || (s.queue n q).errd then s else s.repay n q)

/-! ### Nodes: append, take-in, retirement (R277 to R279) -/

/-- The host or a thread appends a node (R278). -/
def execNodeAppend (n q : Nat) (node : Word) (s : State) : Out :=
  if 64 ≤ n || 16 ≤ q || s.qva n q = 0 then .fault .notEnabled else
  match s.appendNode n q true node with
  | .ok s' => .next s'
  | .error _ => .fault .notEnabled

/-- A COUNT that a node's type allows, and its addresses (R277, R300). -/
def Node.typeOk (x : Node) : Bool :=
  let c := x.count.toNat
  match x.type with
  | 1 => x.opa.toNat % 256 == 0 && x.opb.toNat % 8 == 0 && 1 ≤ c && c ≤ 2 ^ 20
  | 2 => 1 ≤ c && c ≤ 2 ^ 40
  | 3 => x.opa.toNat % 8 == 0 && c == 0
  | 4 => x.opa.toNat % 8 == 0 && c ≤ 2 ^ 32
  | 5 => x.opa.toNat % 8 == 0 && 1 ≤ c && c ≤ 256
  | 6 => x.opa == 0 && x.opb == 0 && c == 0
  | _ => false

/-- The fields of a node that a take-in judges by themselves (R277). -/
def Node.bodyOk (x : Node) : Bool :=
  let c := x.ctl.toNat
  x.addr.toNat % 128 == 0 && bitsOf 31 19 c == 0 && !c.testBit 15 && !c.testBit 11 && bitsOf 7 4 c == 0 && ctlState x.ctl == 0 &&
  (x.prio ≤ 3 || x.prio == 7) && bitsOf 18 16 c ≤ 5 && x.cbar.toNat % 8 == 0 && (x.word 6).toNat / 2 ^ 32 == 0 &&
  ((List.range 5).all fun i => i < x.nsucc || x.word (11 + i) == 0) && x.typeOk

/-- A node as its take-in read it. -/
def Node.ofWords (addr : Word) (bs : List Byte) : Node :=
  let w : Vector Word 16 := Vector.ofFn fun i => BitVec.ofNat 64 (ofBytes ((bs.drop (8 * i.val)).take 8))
  { addr := addr, body := w, state := .waiting, readyAt := 0, work := addr, wbody := w, hdr := none
    groups := if (vget w 1).toNat % 16 = 1 then (vget w 4).toNat else 0, placed := 0, ended := 0, iters := 0, copying := false, since := 0, failed := none, ran := 0
    aff := [], owed := [], pend := none }

/-- A node joins the queue's unretired nodes. -/
def State.pushNode (s : State) (n q : Nat) (x : Node) : State :=
  let s := if (s.queue n q).state == .empty then s.setQState n q .active else s
  s.setQueue n q { s.queue n q with lastTaken := x.addr, nodes := (s.queue n q).nodes ++ [x] }

/-- A node is taken in (R277, R279, R301): cancelled before (R283), rejected with KIND 3, READY or WAITING. -/
def State.takeIn (s : State) (n q : Nat) (addr : Word) : State :=
  match s.devReadN n addr.toNat 128 with
  | .error e => (s.setQueue n q { s.queue n q with owedTake := true }).nodeErr n q addr e
  | .ok bs =>
    let x := Node.ofWords addr bs
    if (s.ctx n).cancelled.contains addr then
      let s := s.setCtx n { s.ctx n with cancelled := (s.ctx n).cancelled.filter (· != addr) }
      s.pushNode n q { x with state := .cancelled }
    else
      let s := s.pushNode n q x
      if !x.bodyOk || !((List.range x.nsucc).all fun i => s.succOk n (x.word (11 + i))) then
        s.nodeFault n q addr (faultWord 0 0 0 3 0) 0 true
      else if x.ctl.toNat / 2 ^ 32 = 0 then s.setNState n q addr .ready
      else s

/-- A queue takes nodes in (R282). -/
def Queue.takes (x : Queue) : Bool :=
  !x.dying && !x.owedTake &&
  match x.state with
  | .destroyed => false
  | .draining => x.lastTaken != x.drainTo
  | .empty | .active | .frozen => true

/-- The next node of the list is taken in (R279): NEXT of the last one is watched only while TAIL differs from it. -/
def execNodeTakeIn (n q : Nat) (s : State) : Out :=
  let x := s.queue n q
  if !s.watched n q || !x.takes then .fault .notEnabled
  else if x.lastTaken = 0 then
    match s.qget n q 0 with
    | .error e => .next (s.qerr n q e)
    | .ok a => if a = 0 then .fault .notEnabled else .next (s.takeIn n q a)
  else
    match s.qget n q 8 with
    | .error e => .next (s.qerr n q e)
    | .ok tail =>
      if tail = x.lastTaken then .fault .notEnabled else
      match s.devRead8 n x.lastTaken.toNat with
      | .error e => .next ((s.setQueue n q { x with owedTake := true }).nodeErr n q x.lastTaken e)
      | .ok a => if a = 0 then .fault .notEnabled else .next (s.takeIn n q a)

/-- The node at HEAD leaves: the queue becomes EMPTY after its last node, and a drained queue DESTROYED (R282). -/
def State.popNode (s : State) (n q : Nat) (addr next : Word) : State :=
  let x := s.queue n q
  let y := { x with nodes := x.nodes.drop 1, lastTaken := if x.lastTaken = addr then 0 else x.lastTaken }
  let s := s.setQueue n q y
  if x.state == .draining && addr = x.drainTo then
    match x.cmdSeq with
    | some seq => (s.endQueue n q seq).qIrq n q 21
    | none => s.setQState n q .destroyed
  else if x.state == .active && y.nodes.isEmpty && next = 0 then s.setQState n q .empty
  else s

/-- A write of HEAD or TAIL; where it fails the retirement is held (R281). -/
def State.qMove (s : State) (n q off : Nat) (v : Word) : Except State State :=
  match s.devWrite8 n (s.qva n q + off) v with
  | .ok s' => .ok s'
  | .error e => .error (s.qerr n q e)

/-- The node at HEAD retires (R279). Where it is the last of the list, HEAD becomes 0 and TAIL too, unless another node has been appended:
then the retirement waits for the link. -/
def execNodeRetire (n q : Nat) (s : State) : Out :=
  let x := s.queue n q
  match x.nodes with
  | [] => .fault .notEnabled
  | h :: _ =>
    if !s.watched n q || h.state.open || !h.owed.isEmpty || x.owedRetire then .fault .notEnabled else
    match s.devRead8 n h.addr.toNat with
    | .error e => .next ((s.setQueue n q { x with owedRetire := true }).nodeErr n q h.addr e)
    | .ok next =>
      match s.qMove n q 0 next with
      | .error s => .next s
      | .ok s =>
        if next != 0 then .next (s.popNode n q h.addr next) else
        match s.qget n q 8 with
        | .error e => .next (s.qerr n q e)
        | .ok t =>
          if t != h.addr then .next s else
          match s.qMove n q 8 0 with
          | .error s => .next s
          | .ok s => .next (s.popNode n q h.addr 0)

/-- A node's run time has passed its LIMIT (R284; 1,700 core cycles in a microsecond, R18). -/
def execNodeLimitExpiry (n q : Nat) (node : Word) (s : State) : Out :=
  match s.node n q node with
  | none => .fault .notEnabled
  | some x =>
    if x.state != .running || x.pend.isSome || !(s.ctx n).state.takes || x.limit = 0 || x.ran ≤ 1700 * x.limit then .fault .notEnabled
    else .next (s.nodeFault n q node (faultWord 0 0 0 2 0) 0 true)

/-! ### Nodes that the dispatcher runs (13 R300) -/

/-- The queue lets the dispatcher start work (R281, R282). -/
def Queue.starts (x : Queue) : Bool := !x.errd && !x.dying && x.state != .frozen && x.state != .destroyed

/-- A template node: TYPE 1 or 2, and zero in every field that R300 makes zero. -/
def Node.templateOk (x : Node) : Bool :=
  x.addr.toNat % 128 == 0 && x.word 0 == 0 && x.ctl.toNat / 16 == 0 && (x.type == 1 || x.type == 2) && x.typeOk && x.cbar == 0 &&
  x.word 6 == 0 && (List.range 5).all fun i => x.word (11 + i) == 0

/-- A template starts as work of the controlling node: a malformed one faults it with KIND 3, a failed read with KIND 5. -/
def State.runTemplate (s : State) (n q : Nat) (node tmpl : Word) : State :=
  match s.devReadN n tmpl.toNat 128 with
  | .error e => s.nodeFault n q node (faultWord 0 0 0 5 e) 0 true
  | .ok bs =>
    let t := Node.ofWords tmpl bs
    if !t.templateOk then s.nodeFault n q node (faultWord 0 0 0 3 0) 0 true
    else s.mapNode n q node fun x =>
      { x with work := tmpl, wbody := t.body, hdr := none, groups := t.groups, placed := 0, ended := 0, iters := x.iters + 1
               copying := t.type == 2, since := 0 }

/-- The control word of a node; a failed read faults it with KIND 5. -/
def State.controlWord (s : State) (n q : Nat) (x : Node) (f : Nat → State) : State :=
  match s.devRead8 n x.opa.toNat with
  | .error e => s.nodeFault n q x.addr (faultWord 0 0 0 5 e) 0 true
  | .ok w => f w.toNat

/-- The work of a node that runs without a thread of its own. -/
def State.startWork (s : State) (n q : Nat) (x : Node) : State :=
  match x.type with
  | 2 => s.mapNode n q x.addr fun y => { y with copying := true }
  | 3 => s.controlWord n q x fun w => if w = 0 then s.nodeDone n q x.addr else s.runTemplate n q x.addr x.opb
  | 4 => s.controlWord n q x fun w => if w = 0 then s.nodeDone n q x.addr else s.runTemplate n q x.addr x.opb
  | 5 => s.controlWord n q x fun w =>
      if x.count.toNat ≤ w then s.nodeDone n q x.addr else
      match s.devReadN n (x.opb + BitVec.ofNat 64 (8 * w)).toNat 8 with
      | .error e => s.nodeFault n q x.addr (faultWord 0 0 0 5 e) 0 true
      | .ok bs => s.runTemplate n q x.addr (BitVec.ofNat 64 (ofBytes bs))
  | _ => s.nodeDone n q x.addr

/-- The dispatcher starts a copy, conditional, loop, switch or barrier node: it is RUNNING, and its work begins. Where that cannot be
written it stays READY, and is started again after a `RESUME` (R281). -/
def execDispatcherNodeStart (n q : Nat) (node : Word) (s : State) : Out :=
  match s.node n q node with
  | none => .fault .notEnabled
  | some x =>
    if x.state != .ready || x.pend.isSome || x.type = 1 || (s.ctx n).state != .active || !(s.queue n q).starts then .fault .notEnabled
    else
      match s.writeNState n q node .running with
      | .ok s => .next (s.startWork n q x)
      | .error e => .next (s.nodeErr n q node e)

/-- A chunk of a copy has failed because no port is usable (R385). -/
def State.copyRemote (s : State) (n : Nat) : Option (Nat × Nat × Nat × Nat) → Bool
  | some (e, a, b, k) => e == cREMOTE && (s.portless n true false a k || s.portless n true true b k)
  | none => false

/-- The copy of a node, or of its template, ends or fails (R300). A chunk that meets no usable port waits, and fails once TMO has passed
(R385). In the teardown of its context it runs to its end, and completes nothing (R272 item 2). -/
def execCopyNodeComplete (n q : Nat) (node : Word) (s : State) : Out :=
  match s.node n q node with
  | none => .fault .notEnabled
  | some x =>
    if !x.copying || x.state != .running then .fault .notEnabled else
    match x.failed with
    | some e =>
      let s := s.mapNode n q node fun y => { y with copying := false, since := 0, failed := none }
      .next (if !(s.ctx n).state.takes then s else s.nodeFault n q node (faultWord 0 0 0 5 e) 0 true)
    | none =>
    let (s1, fail) := s.copyWork n x
    let remote := s.copyRemote n fail
    if remote && x.since = 0 then .next (s.mapNode n q node fun y => { y with since := s.cycle + 1 })
    else if remote && s.cycle < x.since - 1 + s.tmo then .next s
    else if remote && x.cbar != 0 && s.portless n true true x.cbar.toNat 8 then
      .next (s1.mapNode n q node fun y => { y with failed := fail.map Prod.fst })
    else
      let s := s1.mapNode n q node fun y => { y with copying := false, since := 0 }
      .next (if !(s.ctx n).state.takes then s else
        match fail with
        | some (e, _) => s.nodeFault n q node (faultWord 0 0 0 5 e) 0 true
        | none => if x.type = 4 then s else s.nodeDone n q node)

/-- An iteration of a loop node has ended (R300): the control word is read again. The next iteration's copy starts in a QUIESCING or
SUSPENDED context too, of which the spec says only that no group is placed (DESIGN CHOICE, log entry 132). -/
def execLoopIterationEnd (n q : Nat) (node : Word) (s : State) : Out :=
  match s.node n q node with
  | none => .fault .notEnabled
  | some x =>
    if x.type != 4 || x.state != .running || x.pend.isSome || !(s.ctx n).state.takes || x.copying || x.ended != x.groups then .fault .notEnabled else
    .next (s.controlWord n q x fun w =>
      if w = 0 || (x.count != 0 && x.count.toNat ≤ x.iters) then s.nodeDone n q node else s.runTemplate n q node x.opb)

end Sys2Proof.Machine
end

