-- ==== Sys2Proof/Machine/Place.lean ====
section
/-! DEFINITION. Launch and placement of groups, pre-emption, and the save of stopped threads (12 R287, R288; 13 R291 to R296; 14 R303 to
R305; 01 R16, R17). -/

namespace Sys2Proof.Machine

/-! ### READY groups (R287) -/

/-- A group that waits for slots: its class and context, its queue and node, the group if it is SUSPENDED, its live threads and its split,
which a node whose header has not been read does not yet have. -/
structure Ready where
  cls : Nat
  ctx : Nat
  q : Nat
  node : Node
  group : Option Group
  n : Nat
  hdr : Option Header
  deriving DecidableEq, Repr

/-- The queue places groups. -/
def State.places (s : State) (n q : Nat) : Bool := (s.ctx n).state == .active && (s.queue n q).starts

/-- The node has groups of a kernel still to create. -/
def Node.unplaced (x : Node) : Bool :=
  x.placed < x.groups && !x.copying && x.pend.isNone && (x.state == .running || (x.state == .ready && x.type = 1))

/-- The older of two READY nodes comes first (R287 item 1); nodes of one queue keep their list order. -/
def insertReady (x : Ready) : List Ready → List Ready
  | [] => [x]
  | y :: l => if x.node.readyAt < y.node.readyAt then x :: y :: l else y :: insertReady x l

/-- Groups in the order of their indices. -/
def insertGidx (g : Group) : List Group → List Group
  | [] => [g]
  | x :: l => if g.gidx < x.gidx then g :: x :: l else x :: insertGidx g l

/-- The READY groups of a context, oldest first (R287): pre-empted groups ahead of all others, each kind by the order of their nodes, then
by group index; of a node's groups that are still to be created, the first. -/
def State.readyOf (s : State) (n : Nat) : List Ready :=
  if (s.ctx n).state != .active then [] else
  let order := fun (l : List Ready) => l.foldl (fun l x => insertReady x l) []
  let susp := (List.range 16).flatMap fun q =>
    if !s.places n q then [] else (s.queue n q).nodes.flatMap fun x =>
      ((s.groups.filter fun g => g.ctx == n && g.q == q && g.node == x.addr && g.state == .suspended).foldl (fun l g => insertGidx g l) []).map
        fun g => ⟨s.nodeClass n q x, n, q, x, some g, g.threads.length, some g.hdr⟩
  let fresh := (List.range 16).flatMap fun q =>
    if !s.places n q then [] else ((s.queue n q).nodes.filter (·.unplaced)).map fun x =>
      ⟨s.nodeClass n q x, n, q, x, none, (x.hdr.map (·.group)).getD 0, x.hdr⟩
  order susp ++ order fresh

/-- The oldest READY group of a context when a class is served (R287): of its groups of that class and of the classes above, which hold
the younger ones back whatever they wait for. A group of a lower class, whose turn has not come, holds none back (DEDUCED, log entry 133). -/
def State.oldest (s : State) (cls n : Nat) : Option Ready :=
  match (s.readyOf n).find? fun r => cls ≤ r.cls with
  | some r => if r.cls = cls then some r else none
  | none => none

/-- The highest class with a READY group. -/
def State.topClass (s : State) : Option Nat :=
  [3, 2, 1, 0].find? fun c => (List.range 64).any fun n => (s.oldest c n).isSome

/-! ### The kernel header (R290, R291, R293) -/

/-- What the header of a kernel gives: the header, or the KIND and CAUSE of the fault. -/
def State.readHeader (s : State) (n : Nat) (x : Node) : Except (Nat × Nat) Header :=
  let w := fun i => vget x.wbody i
  match s.devReadN n (w 2).toNat 256 with
  | .error e => .error (5, e)
  | .ok bs =>
    let f := fun (i : Nat) => ofBytes ((bs.drop (8 * i)).take 8)
    let regs := f 2
    let misc := f 3
    let tiles := bitsOf 41 32 regs
    let vregs := bitsOf 22 16 regs
    let slots := bitsOf 15 8 regs
    let group := bitsOf 6 0 regs
    let nsb := bitsOf 11 8 misc
    let ok := f 0 = 0x4B524E4C * 2 ^ 32 + 1 && f 1 / 2 ^ 48 == 0 && f 1 % 8 == 0 && regs / 2 ^ 42 == 0 && bitsOf 31 23 regs == 0 &&
      !regs.testBit 7 && misc / 2 ^ 12 == 0 && bitsOf 7 3 misc == 0 && ((bs.drop 32).all fun b => b == 0) && tiles ≤ 512 && vregs ≤ 64 &&
      64 ≤ slots && slots ≤ 192 && slots % 16 == 0 && 1 ≤ group && group ≤ 96 && nsb ≤ 8 && group ≤ (s.ctx n).livemax
    if !ok then .error (4, 0) else
    let h : Header :=
      { entry := BitVec.ofNat 64 (f 1), group := group, slots := slots, vregs := ceilDiv vregs 8 * 8, nsb := nsb
        tiles := ceilDiv tiles 16 * 16, trace := misc.testBit 2, hach := misc.testBit 1, prot := misc.testBit 0, mapbase := 0 }
    if tiles = 0 then .ok h else
    match s.devRead8 n (w 3).toNat with
    | .error e => .error (5, e)
    | .ok b => if b.toNat % 16384 != 0 || b.toNat / 2 ^ 56 != 0 then .error (4, 0) else .ok { h with mapbase := b }

/-- The header is read when the dispatcher first tries to place a group of the node; a rejected launch faults the node. -/
def State.takeHeader (s : State) (r : Ready) : State :=
  match s.readHeader r.ctx r.node with
  | .ok h => s.mapNode r.ctx r.q r.node.addr fun x => { x with hdr := some h }
  | .error (kind, cause) => s.nodeFault r.ctx r.q r.node.addr (faultWord 0 0 0 kind cause) 0 true

/-! ### The choice of a quadrant and of slots (R17, R26, R296) -/

/-- Slots in use: core and thread slot. -/
def State.busySlots (s : State) : List (Nat × Nat) := (s.threads.filter (·.live)).map fun t => (t.id.core, t.id.slot)

/-- The slots of a quadrant that a group with a split can take, in the order of R296: both slots of empty cores, then single free slots. -/
def State.freeSlots (s : State) (busy : List (Nat × Nat)) (split quad : Nat) : List (Nat × Nat) :=
  let cores := (List.range 48).map fun c => 48 * quad + c
  let used := fun c => (busy.filter fun b => b.1 = c).map Prod.snd
  cores.flatMap (fun c => if (used c).isEmpty then [(c, 0), (c, 1)] else []) ++
  cores.filterMap fun c =>
    match used c with
    | [k] => if (s.core c).split = split then some (c, 1 - k) else none
    | _ => none

/-- The slots that the threads of a group take among `freeSlots` (R296): TIDX 2j and 2j + 1 the slots of the j-th empty core; the others,
in order, what is then free: whole cores first, then single slots. -/
def State.seats (s : State) (busy : List (Nat × Nat)) (split quad : Nat) (tidxs : List Nat) : List (Nat × Nat) :=
  let free := s.freeSlots busy split quad
  let empties := ((List.range 48).map fun c => 48 * quad + c).filter fun c => !busy.any fun b => b.1 = c
  let taken := tidxs.filterMap fun t => (empties[t / 2]?).map fun c => (c, t % 2)
  let rest := free.filter fun p => !taken.contains p
  let whole := rest.filter fun p => empties.contains p.1 && !taken.any fun t => t.1 = p.1
  let single := ((List.range 48).map fun c => 48 * quad + c).flatMap fun c => rest.filter fun p => p.1 = c && !whole.contains p
  (tidxs.foldl (fun (l, left) t =>
    match empties[t / 2]? with
    | some c => (l ++ [(c, t % 2)], left)
    | none =>
      match left with
      | p :: left => (l ++ [p], left)
      | [] => (l, [])) (([] : List (Nat × Nat)), whole ++ single)).1

/-- Free thread slots of a quadrant (R296). -/
def quadFree (busy : List (Nat × Nat)) (quad : Nat) : Nat := 96 - busy.countP fun b => b.1 / 48 = quad

/-- Save records of a context that are free. -/
def State.freeRecords (s : State) (n : Nat) : List Nat :=
  (List.range (s.ctx n).livemax).filter fun i => !(s.ctx n).records.contains i

/-- The quadrant that R296 takes for a group, where one qualifies. -/
def State.quadrantFor (s : State) (busy : List (Nat × Nat)) (r : Ready) (split : Nat) : Option Nat :=
  let key := fun k =>
    let a := r.node.aff.getD k (0, 0)
    [a.1, a.2, quadFree busy k]
  ((List.range 4).filter fun k => r.n ≤ (s.freeSlots busy split k).length).foldl
    (fun b k =>
      match b with
      | none => some k
      | some j => if keyLt (key j) (key k) then some k else b) none

/-- A group has the records and the quota that R296 asks for. -/
def State.admitted (s : State) (r : Ready) : Bool :=
  (r.group.isSome || r.n ≤ (s.freeRecords r.ctx).length) && s.armed r.ctx ≤ (s.ctx r.ctx).rwq

/-- The quadrant on which a group can be placed now. -/
def State.fits (s : State) (busy : List (Nat × Nat)) (r : Ready) : Option Nat :=
  match r.hdr with
  | none => none
  | some h => if s.admitted r then s.quadrantFor busy r h.slots else none

/-- A READY group waits for slots, and for nothing else (R287). -/
def State.waitsSlots (s : State) (r : Ready) : Bool :=
  match r.hdr with
  | none => false
  | some h => s.admitted r && (s.quadrantFor s.busySlots r h.slots).isNone

/-- A READY group of a class waits for slots. -/
def State.classWaits (s : State) (cls : Nat) : Bool :=
  (List.range 64).any fun n =>
    match s.oldest cls n with
    | some r => s.waitsSlots r
    | none => false

/-- A tile leaves a slot before the split changes (R17): a dirty one is spilled; where that fails it is dropped all the same. A slot
whose tag is of an older generation is free (R227), and is dropped as it is. R17 names tiles of uninstalled maps; one whose map a thread of
another core has installed leaves in the same way, and its installed entry becomes BACKED (DESIGN CHOICE, log entry 126). -/
def State.emptySlot (core : Nat) (s : State) (x : Slot) : State :=
  if !s.liveSlot core x then s.dropSlot core x.num
  else if !(x.dirty && x.full) then ((s.backEntry x.tag).getD s).dropSlot core x.num
  else if s.slotDamaged core x.num then s.loseTag core x
  else
    match s.tagEnt x.tag with
    | none => s.dropSlot core x.num
    | some e =>
      match (s.flushRegion x.tag e.bidx.toNat).writeRegion x.tag.ctx x.tag.base e.bidx.toNat x.tag.tile x.tag.gen e.flags x.val with
      | (s, none) => (((s.backEntry x.tag).getD s).dropSlot core x.num).moveEvent (x.spillMove e false) false
      | (s, some _) => s.dropSlot core x.num

/-- An empty core takes a split (R16, R17). Fills and spills that its engine still has under way are dropped with the slots: the spec does
not say what becomes of them (DESIGN CHOICE, log entry 126). -/
def State.takeSplit (s : State) (core split : Nat) : State :=
  if (s.core core).split = split then s else
  let s := (s.core core).slots.foldl (State.emptySlot core) s
  s.setCore core { split := split, pool := List.range' (split - 16) 16, slots := [], moves := [] }

/-! ### Launch and resume (R41, R294) -/

/-- `TRACECTL` at launch (R394). -/
def launchTrace (c : Ctx) (h : Header) : Word :=
  if h.trace && c.tbase != 0 then BitVec.ofNat 64 (c.log2sz * 2 ^ 24 + 0xFFF1) else 0

/-- `TRACECTL` of a resumed thread under the trace block as it stands (R269). -/
def resumeTrace (c : Ctx) (w : Word) : Word :=
  if c.tbase = 0 then w &&& ~~~(1 : Word) else (w &&& ~~~(0x1F000000 : Word)) ||| BitVec.ofNat 64 (c.log2sz * 2 ^ 24)

/-- A launched thread (R27, R293, R294). -/
def State.launched (s : State) (id : ThreadId) (h : Header) (x : Node) : Thread :=
  let c := s.ctx id.ctx
  let base := if h.tiles = 0 then 0 else h.mapbase + BitVec.ofNat 64 (id.record * 0x2404000)
  let g := ((Regs.launch.g.set 1 (vget x.wbody 3)).set 2 x.work).set 3 (BitVec.ofNat 64 ((vget x.wbody 4).toNat % 2 ^ 21))
  let t : Thread :=
    { Thread.none with
      live := true, id := id, hdr := h, pc := h.entry.setWidth 48, r := { Regs.launch with g := g }
      c := { Csrs.launch with shape := if h.prot then 0x1400 else 0x1800, tmapb := base, tracectl := launchTrace c h }
      tmap := s.readMap id.ctx base h.tiles, tmapReady := h.tiles = 0 }
  t.sync s.cycle t.pc

/-- A resumed thread, its map installed. -/
def State.unsaved (s : State) (id : ThreadId) (h : Header) : Thread :=
  let t := s.resumed id h
  let t := { t with c := { t.c with tracectl := resumeTrace (s.ctx id.ctx) t.c.tracectl }, tmap := s.readMap id.ctx t.c.tmapb h.tiles }
  t.sync s.cycle t.pc

/-- A thread takes its slot. -/
def State.addThread (s : State) (t : Thread) : State := { s with parked := s.parked ++ [t] }

/-- `n` free records, chosen freely (log entry 8). -/
def pickRecords (from_ : Nat) : Nat → List Nat → List Nat
  | 0, _ => []
  | n + 1, l =>
    let r := l.getD ((Config.freeValue from_).toNat % max 1 l.length) 0
    r :: pickRecords (from_ + 1) n (l.filter (· != r))

/-- The end of a group's minimum quantum (R288, R403). -/
def State.quantumEnd (s : State) : Nat := s.cycle + 1700 * s.mgmt.minQuantum

/-- A group is placed on a quadrant (R296, R304): every live thread in one step (R26). -/
def State.placeOn (s : State) (r : Ready) (h : Header) (quad : Nat) : State :=
  match r.group with
  | some g =>
    let slots := s.seats s.busySlots h.slots quad (g.threads.map (·.1))
    let s := slots.foldl (fun s p => s.takeSplit p.1 h.slots) s
    let s := (g.threads.zip slots).foldl (fun s ((tidx, rcd, _), (core, slot)) =>
      s.addThread (s.unsaved ⟨g.ctx, g.q, g.node, g.gid, g.gidx, tidx, rcd, core, slot⟩ h)) s
    s.setGroup { g with state := .running, quadrant := quad, placedAt := s.cycle, quantumAt := s.quantumEnd, quantumUp := false
                        threads := g.threads.map fun x => (x.1, x.2.1, false) }
  | none =>
    let recs := pickRecords s.drawn h.group (s.freeRecords r.ctx)
    let gid := s.nextGid
    let gidx := r.node.placed
    let slots := s.seats s.busySlots h.slots quad (List.range h.group)
    let s := { s with drawn := s.drawn + h.group, nextGid := gid + 1 }
    let s := s.setCtx r.ctx { s.ctx r.ctx with records := (s.ctx r.ctx).records ++ recs }
    let s := slots.foldl (fun s p => s.takeSplit p.1 h.slots) s
    let s := ((recs.zipIdx).zip slots).foldl (fun s ((rcd, tidx), (core, slot)) =>
      s.addThread (s.launched ⟨r.ctx, r.q, r.node.addr, gid, gidx, tidx, rcd, core, slot⟩ h r.node)) s
    let g : Group :=
      { gid := gid, ctx := r.ctx, q := r.q, node := r.node.addr, gidx := gidx, n := h.group, state := .running, hdr := h, quadrant := quad
        placedAt := s.cycle, quantumAt := s.quantumEnd, quantumUp := false, threads := recs.zipIdx.map fun (rcd, tidx) => (tidx, rcd, false)
        opened := 0, counts := List.replicate h.group 0, arr := 0, exited := 0, passing := 0 }
    let s := { s with groups := s.groups ++ [g] }
    s.mapNode r.ctx r.q r.node.addr fun x => { x with placed := x.placed + 1 }

/-! ### Weighted deficit round-robin (R287) -/

/-- A context's deficit. -/
def State.setDeficit (s : State) (n d : Nat) : State := s.setCtx n { s.ctx n with deficit := d }

/-- A group of a context is placed and paid for; a context without READY groups loses its deficit. -/
def State.servePlace (s : State) (r : Ready) (h : Header) (quad : Nat) : State :=
  match if r.group.isNone && r.node.state == .ready then s.writeNState r.ctx r.q r.node.addr .running else .ok s with
  | .error e => s.nodeErr r.ctx r.q r.node.addr e
  | .ok s =>
  let d := (s.ctx r.ctx).deficit - r.n
  let s := { s.placeOn r h quad with lastServed := r.ctx }
  s.setDeficit r.ctx (if (s.readyOf r.ctx).isEmpty then 0 else d)

/-- One round over contexts: the first that can place its oldest group of the class does so; none where no context can. -/
def State.serve (cls : Nat) : List Nat → State → Option State
  | [], _ => none
  | n :: l, s =>
    match s.oldest cls n with
    | none => State.serve cls l (if (s.readyOf n).isEmpty then s.setDeficit n 0 else s)
    | some r =>
      let s := s.setDeficit n ((s.ctx n).deficit + 96 * (s.ctx n).weight)
      match r.hdr with
      | none => some { s.takeHeader r with lastServed := n }
      | some h =>
        match s.fits s.busySlots r with
        | some quad => if r.n ≤ (s.ctx n).deficit then some (s.servePlace r h quad) else State.serve cls l s
        | none => State.serve cls l s

/-- The contexts in turn, from the one after the last served. -/
def State.turns (s : State) : List Nat := (List.range 64).map fun i => (s.lastServed + 1 + i) % 64

/-- The next placement of a class: the context served last goes on while its deficit allows, with the reading of a header as part of its
turn. -/
def State.placeNext (s : State) (cls : Nat) : Option State :=
  let go := State.serve cls s.turns s
  match s.oldest cls s.lastServed with
  | none => go
  | some r =>
    match r.hdr, s.fits s.busySlots r with
    | none, _ => some (s.takeHeader r)
    | some h, some quad => if r.n ≤ (s.ctx r.ctx).deficit then some (s.servePlace r h quad) else go
    | some _, none => go

/-! ### Pre-emption (R288) -/

/-- The class of a placed group. -/
def State.groupClass (s : State) (g : Group) : Nat :=
  match s.node g.ctx g.q g.node with
  | some x => s.nodeClass g.ctx g.q x
  | none => 0

/-- Victims in order: the lowest class first, then the group that has run longest. -/
def insertVictim (key : Group → List Nat) (g : Group) : List Group → List Group
  | [] => [g]
  | x :: l => if keyLt (key g) (key x) then g :: x :: l else x :: insertVictim key g l

/-- The groups that may be pre-empted for a class. -/
def State.victims (s : State) (cls : Nat) : List Group :=
  (s.groups.filter fun g => g.state == .running && g.quantumUp && s.groupClass g < cls).foldl
    (fun l g => insertVictim (fun g => [s.groupClass g, g.placedAt]) g l) []

/-- The slots that stay in use once some groups have left theirs. -/
def State.busyWithout (s : State) (gids : List Nat) : List (Nat × Nat) :=
  (s.threads.filter fun t => t.live && !gids.contains t.id.gid).map fun t => (t.id.core, t.id.slot)

/-- The first groups of a list whose stop, with those that stop already, lets a group fit. -/
def State.enough (s : State) (r : Ready) (stopping : List Nat) (l : List Group) : Option (List Group) :=
  ((List.range (l.length + 1)).find? fun k => (s.fits (s.busyWithout (stopping ++ (l.take k).map (·.gid))) r).isSome).map l.take

/-- The waiting group of the highest class that waits for slots makes room for itself. None where nothing changes. -/
def State.preempt (s : State) : Option State :=
  match [3, 2, 1, 0].find? s.classWaits with
  | none => none
  | some cls =>
    let stopping := (s.groups.filter fun g => g.state == .stopping || g.state == .aborted).map (·.gid)
    s.turns.findSome? fun n =>
      match s.oldest cls n with
      | none => none
      | some r =>
        if !s.waitsSlots r then none else
        match s.enough r stopping (s.victims cls) with
        | some (g :: l) => some ((g :: l).foldl State.stopGroup s)
        | _ => none

/-- The next placement from the classes of a list, the highest first: a class with a group that waits for slots holds the lower ones back,
and makes room for itself where it can (R287, R288). -/
def State.placeFrom (s : State) : List Nat → Option State
  | [] => none
  | c :: l =>
    match s.placeNext c with
    | some s => some s
    | none => if s.classWaits c then s.preempt else s.placeFrom l

/-- A READY or suspended group is placed, or makes room for itself (R287, R288, R296). -/
def execGroupPlace (s : State) : Out :=
  match s.placeFrom [3, 2, 1, 0] with
  | some s => .next s
  | none => .fault .notEnabled

/-- A placed group reaches its minimum quantum: it can be pre-empted, and is, where a group of a higher class waits for it (R288). -/
def execMinQuantumExpiry (grp : Nat) (s : State) : Out :=
  match s.group grp with
  | none => .fault .notEnabled
  | some g =>
    if (g.state != .running && g.state != .stopping) || g.quantumUp || s.cycle < g.quantumAt then .fault .notEnabled else
    let s := s.setGroup { g with quantumUp := true }
    .next (s.preempt.getD s)

/-! ### The save of a stopped thread (R40, R41, R304) -/

/-- The barrier instance at which the thread stands had completed when its group was ordered to stop, and its `GBAR` is still to commit
(R307). -/
def State.released (s : State) (t : Thread) : Bool :=
  t.wait == .gbar &&
  match s.group t.id.gid with
  | some g => g.passing.getLsbD t.id.tidx && g.count t.id.tidx != g.opened && g.threads.any fun x => x.1 == t.id.tidx && !x.2.2
  | none => false

/-- A VEC_EMPTY trap has been decided, and is still to be taken (R366). -/
def Thread.trapsEmpty (t : Thread) : Bool :=
  match t.wait with
  | .emptyTrap _ => true
  | _ => false

/-- The head of the thread's queue can still retire: it has completed, or, in user mode, is done or skipped (R40, R366). -/
def Thread.headRetires (t : Thread) : Bool :=
  match t.tq with
  | e :: _ => e.st == .completed || (!t.sup && (e.done || e.skip))
  | [] => false

/-- The group of the thread has been stopped for good (R304). -/
def State.stoppedForGood (s : State) (t : Thread) : Bool :=
  match s.group t.id.gid with
  | some g => g.state == .aborted
  | none => true

/-- The thread has come to rest at a pre-emption point: its streams are settled and no transfer touches its scratchpad. If it is to go on
later, no entry at the head of its queue can still retire (R40), and no trap, no fault that its iteration held and no `GBAR` that the order
to stop found released is still to land. -/
def State.atRest (s : State) (t : Thread) : Bool :=
  t.live && t.wait != .exit && t.settled && (!s.transfers.any fun x => x.of t.id && x.sp != .dd) &&
  (s.stoppedForGood t || (t.held.isNone && !t.trapsEmpty && !s.released t && !t.headRetires))

/-- The stop of the thread at turn for a pre-emption: the packet and the count (R398, R400), the settling of R40, the save. -/
def State.stopAndSave (s : State) : State :=
  ((s.emit 8 (0x15 * 2 ^ 50 + s.thr.pc.toNat / 8)).count 21 1).settle.saveThread

/-- R229 is applied to the entries of a launched thread's map, in the background (R295). -/
def execMapInit (core slot : Nat) (s : State) : Out :=
  let here := fun (t : Thread) => t.live && t.id.core == core && t.id.slot == slot
  match s.threads.find? here with
  | some t => if t.tmapReady then .fault .notEnabled else .next (s.focus here State.initMap)
  | none => .fault .notEnabled

/-- A stopped thread's save completes, or a thread of an aborted group stops without one (R304). -/
def execThreadSaveComplete (core slot : Nat) (s : State) : Out :=
  let here := fun (t : Thread) => t.live && t.id.core == core && t.id.slot == slot
  match s.threads.find? here with
  | none => .fault .notEnabled
  | some t =>
    if !s.atRest t then .fault .notEnabled else
    if s.stoppedForGood t then .next (s.focus here fun s => s.settle.vacate.leaveGroup t.id) else
    match s.group t.id.gid with
    | none => .fault .notEnabled
    | some g =>
      if g.state != .stopping || g.threads.any (fun x => x.1 == t.id.tidx && x.2.2) then .fault .notEnabled else
      let s := s.focus here State.stopAndSave
      let s := s.setGroup { g with threads := g.threads.map fun x => if x.1 = t.id.tidx then (x.1, x.2.1, true) else x }
      .next (s.suspendIfSaved g.gid)

/-- A packet has stood unwritten for 4,096 core cycles: the partly filled line is written (R395). -/
def execTraceFlushTimeout (core slot : Nat) (s : State) : Out :=
  let here := fun (t : Thread) => t.live && t.id.core == core && t.id.slot == slot
  match s.threads.find? here with
  | none => .fault .notEnabled
  | some t =>
    if t.trace.unwritten = 0 || s.cycle < t.trace.stamp + 4096 then .fault .notEnabled
    else .next (s.focus here State.traceFlush)

end Sys2Proof.Machine
end

