-- ==== Sys2Proof/Machine/PoolCmd.lean ====
section
/-! DEFINITION. Pool commands and the promotion of pages (16 R318, R324, R325, R327, R328; 19 R428). -/

namespace Sys2Proof.Machine

/-- The pending command of a context's pool: SEQ, OP, whether an RZ bit is set. Commands of one pool are handled one at a time. -/
def State.poolCommand (s : State) (n : Nat) : Option (BitVec 32 × Nat × Bool) :=
  let c := s.ctx n
  if 64 ≤ n || c.state == .free || c.state == .destroying || c.pblk = 0 || s.promotions.any (fun p => p.ctx == n) then none else
  let w := s.loadPA8 c.pblk
  if w.toNat / 2 ^ 32 = (s.loadPA8 (c.pblk + 8)).toNat / 2 ^ 32 then none
  else some (w.extractLsb' 32 32, w.toNat % 256, w.extractLsb' 8 24 != 0)

/-- DONE of a pool command, then its interrupt (R327). -/
def State.poolDone (s : State) (n : Nat) (seq : BitVec 32) (status : Nat) : State :=
  let c := s.ctx n
  let s := s.storePA8 (c.pblk + 8) (BitVec.ofNat 64 (seq.toNat * 2 ^ 32 + status * 256))
  if c.pien then s.interrupt n c.pivec else s

/-- The start of a promotion (R324, R325, R327). -/
def State.promote (s : State) (n : Nat) (seq : BitVec 32) : State :=
  let c := s.ctx n
  let p := (s.loadPA8 (c.pblk + 0x10)).toNat
  if c.ndev + c.nslow ≤ p then s.poolDone n seq 2 else
  let r := s.prec c p
  if r.state != pSLOW then s.poolDone n seq 1 else
  match s.nextFrame c (s.mem.get (c.pblk + 0x3C)).toNat with
  | none => s.poolDone n seq 4
  | some (ch, k) =>
    let s := s.setFrame c.devMap k false
    let s := s.storePA (c.pblk + 0x3C) [BitVec.ofNat 8 ((ch + 1) % 192)]
    let s := s.setPrec c p { r with state := pPROMOTING }
    { s with promotions := s.promotions ++ [⟨n, p, k, BitVec.ofNat 8 r.pgen, seq⟩] }

/-- `PROMOTE`, and commands whose OP is not assigned (R327). -/
def execPoolPromote (n : Nat) (s : State) : Out :=
  match s.poolCommand n with
  | none => .fault .notEnabled
  | some (seq, op, rz) =>
    if op = 0 || 2 < op then .next (s.poolDone n seq 5)
    else if op != 1 then .fault .notEnabled
    else .next (if rz then s.poolDone n seq 2 else s.promote n seq)

/-- The slow frame of a page. -/
def Ctx.slowRows (c : Ctx) (p : Nat) : Nat := (c.slowbase + (p - c.ndev)) * 65536

/-- A promotion's copy ends (R325, R327, R328): the page has moved, or the copy is dropped and its frame returns. The slow tier is
read over Turward, so the end waits for a usable port (R390). In a context that is being destroyed the command ends without a DONE
(R272). -/
def execPromoteCopyEnd (ix : Nat) (s : State) : Out :=
  match s.promotions[ix]? with
  | none => .fault .notEnabled
  | some p =>
    let c := s.ctx p.ctx
    if c.state == .destroying then .next { s with promotions := s.promotions.eraseIdx ix } else
    if !s.turward.usable then .fault .notEnabled else
    let s := { s with promotions := s.promotions.eraseIdx ix }
    let r := s.prec c p.page
    .next <|
      if r.state = pPROMOTING && r.pgen = p.pgen.toNat then
        let s := s.storePA ((c.devbase + p.frame) * 65536) (s.mem.read (c.slowRows p.page) 65536)
        let s := s.setPrec c p.page { r with dfr := p.frame, state := if 2 ≤ r.refs then pSHARED else pALLOCATED }
        let s := { s with promoted := (c.recsAt + 16 * p.page) :: s.promoted }
        s.poolDone p.ctx p.seq 0
      else (s.setFrame c.devMap p.frame true).poolDone p.ctx p.seq 6

/-- `HOLD` (R327): an entry gains references, as one handle step. -/
def State.holdHandle (s : State) (n : Nat) (seq : BitVec 32) : State :=
  let c := s.ctx n
  let h := s.loadPA8 (c.pblk + 0x10)
  let k := (s.loadPA8 (c.pblk + 0x18)).toNat
  let i := handleIdx h
  let e := s.hent c i
  if s.handleReason n h != 0 || k = 0 || 2 ^ 24 ≤ k || 2 ^ 24 ≤ e.refs + k then s.poolDone n seq 2
  else (s.setHent c i { e with refs := e.refs + k }).poolDone n seq 0

/-- `HOLD`. -/
def execPoolHold (n : Nat) (s : State) : Out :=
  match s.poolCommand n with
  | none => .fault .notEnabled
  | some (seq, op, rz) =>
    if op != 2 then .fault .notEnabled else .next (if rz then s.poolDone n seq 2 else s.holdHandle n seq)

end Sys2Proof.Machine
end

