-- ==== Sys2Proof/Machine/Scalar.lean ====
section
/-! DEFINITION. The integer instructions (05 R95 to R98). -/

namespace Sys2Proof.Machine

/-- A three-register integer instruction: d := f a b (R95). -/
def State.op3 (s : State) (i : Instr) (o : SOp) (f : Word → Word → Word) : Out :=
  s.scalar i [o.a, o.b] [o.d] fun s => .next (s.writeG o.d (f (s.g o.a) (s.g o.b)))

/-- A two-register integer instruction: d := f a (R95). -/
def State.op2 (s : State) (i : Instr) (o : SOp) (f : Word → Word) : Out :=
  s.scalar i [o.a] [o.d] fun s => .next (s.writeG o.d (f (s.g o.a)))

/-- An immediate instruction: d := f a (R97). -/
def State.opI (s : State) (i : Instr) (o : IOp) (f : Word → Word) : Out :=
  s.scalar i [o.a] [o.d] fun s => .next (s.writeG o.d (f (s.g o.a)))

/-- High half of a product (R95). -/
def mulHigh (uns : Bool) (a b : Word) : Word :=
  BitVec.ofInt 64 ((readInt (!uns) 64 a.toNat * readInt (!uns) 64 b.toNat) / 2 ^ 64)

/-- Minimum (R95). -/
def minW (uns : Bool) (a b : Word) : Word := if (if uns then a.ule b else a.sle b) then a else b

/-- Maximum (R95). -/
def maxW (uns : Bool) (a b : Word) : Word := if (if uns then a.ule b else a.sle b) then b else a

/-- A truth value as 1 or 0 (R95). -/
def boolW (b : Bool) : Word := if b then 1 else 0

/-- `ADD` (R95). -/
def execAdd (o : SOp) (s : State) : Out := s.op3 (.add o) o fun a b => a + b

/-- `SUB` (R95). -/
def execSub (o : SOp) (s : State) : Out := s.op3 (.sub o) o fun a b => a - b

/-- `MUL` (R95). -/
def execMul (o : SOp) (s : State) : Out := s.op3 (.mul o) o fun a b => a * b

/-- `MULH` (R95). -/
def execMulh (uns : Bool) (o : SOp) (s : State) : Out := s.op3 (.mulh uns o) o fun a b => mulHigh uns a b

/-- `DIV` (R95, R96). -/
def execDiv (uns : Bool) (o : SOp) (s : State) : Out := s.op3 (.div uns o) o fun a b => BitVec.ofNat 64 (divide (!uns) 64 a.toNat b.toNat)

/-- `REM` (R95, R96). -/
def execRem (uns : Bool) (o : SOp) (s : State) : Out := s.op3 (.rem uns o) o fun a b => BitVec.ofNat 64 (remainder (!uns) 64 a.toNat b.toNat)

/-- `AND` (R95). -/
def execAnd (o : SOp) (s : State) : Out := s.op3 (.and o) o fun a b => a &&& b

/-- `OR` (R95). -/
def execOr (o : SOp) (s : State) : Out := s.op3 (.or o) o fun a b => a ||| b

/-- `XOR` (R95). -/
def execXor (o : SOp) (s : State) : Out := s.op3 (.xor o) o fun a b => a ^^^ b

/-- `ANDN` (R95). -/
def execAndn (o : SOp) (s : State) : Out := s.op3 (.andn o) o fun a b => a &&& ~~~b

/-- `SHL` (R95). -/
def execShl (o : SOp) (s : State) : Out := s.op3 (.shl o) o fun a b => a <<< shAmount b

/-- `SHR` (R95). -/
def execShr (o : SOp) (s : State) : Out := s.op3 (.shr o) o fun a b => a >>> shAmount b

/-- `SAR` (R95). -/
def execSar (o : SOp) (s : State) : Out := s.op3 (.sar o) o fun a b => a.sshiftRight (shAmount b)

/-- `ROL` (R95). -/
def execRol (o : SOp) (s : State) : Out := s.op3 (.rol o) o fun a b => a.rotateLeft (shAmount b)

/-- `MIN` (R95). -/
def execMin (uns : Bool) (o : SOp) (s : State) : Out := s.op3 (.min uns o) o fun a b => minW uns a b

/-- `MAX` (R95). -/
def execMax (uns : Bool) (o : SOp) (s : State) : Out := s.op3 (.max uns o) o fun a b => maxW uns a b

/-- `CMP` (R94, R95). -/
def execCmp (c : Cond) (o : SOp) (s : State) : Out := s.op3 (.cmp c o) o fun a b => boolW (condHolds c a b)

/-- `SEL` (R95). -/
def execSel (o : SOp) (s : State) : Out :=
  s.scalar (.sel o) [o.a, o.b, o.c] [o.d] fun s => .next (s.writeG o.d (if s.g o.c != 0 then s.g o.a else s.g o.b))

/-- `CLZ` (R95). -/
def execClz (o : SOp) (s : State) : Out := s.op2 (.clz o) o fun a => BitVec.ofNat 64 (clz64 a)

/-- `CTZ` (R95). -/
def execCtz (o : SOp) (s : State) : Out := s.op2 (.ctz o) o fun a => BitVec.ofNat 64 (ctz64 a)

/-- `POPC` (R95). -/
def execPopc (o : SOp) (s : State) : Out := s.op2 (.popc o) o fun a => BitVec.ofNat 64 (popc64 a)

/-- `BSWAP` (R95). -/
def execBswap (o : SOp) (s : State) : Out := s.op2 (.bswap o) o fun a => bswap64 a

/-- `ADDI` (R97). -/
def execAddi (o : IOp) (s : State) : Out := s.opI (.addi o) o fun a => a + immValue o

/-- `ANDI` (R97). -/
def execAndi (o : IOp) (s : State) : Out := s.opI (.andi o) o fun a => a &&& immValue o

/-- `ORI` (R97). -/
def execOri (o : IOp) (s : State) : Out := s.opI (.ori o) o fun a => a ||| immValue o

/-- `XORI` (R97). -/
def execXori (o : IOp) (s : State) : Out := s.opI (.xori o) o fun a => a ^^^ immValue o

/-- `SHLI` (R97). -/
def execShli (o : IOp) (s : State) : Out := s.opI (.shli o) o fun a => a <<< shAmount (immValue o)

/-- `SHRI` (R97). -/
def execShri (o : IOp) (s : State) : Out := s.opI (.shri o) o fun a => a >>> shAmount (immValue o)

/-- `SARI` (R97). -/
def execSari (o : IOp) (s : State) : Out := s.opI (.sari o) o fun a => a.sshiftRight (shAmount (immValue o))

/-- `ROLI` (R97). -/
def execRoli (o : IOp) (s : State) : Out := s.opI (.roli o) o fun a => a.rotateLeft (shAmount (immValue o))

/-- `LDI` (R97). -/
def execLdi (o : IOp) (s : State) : Out := s.scalar (.ldi o) [] [o.d] fun s => .next (s.writeG o.d (immValue o))

/-- `LIH` (R97). -/
def execLih (o : IOp) (s : State) : Out := s.opI (.lih o) o fun a => (o.imm.extractLsb' 0 28 ++ a.extractLsb' 0 36 : Word)

/-- `CMPI` (R94, R97). -/
def execCmpi (c : Cond) (o : IOp) (s : State) : Out := s.opI (.cmpi c o) o fun a => boolW (condHolds c a (immValue o))

/-- `BFX` (R98). -/
def execBfx (sx : Bool) (o : IOp) (s : State) : Out := s.opI (.bfx sx o) o fun a => bitField sx a o.pos o.width

/-- `BFI` (R98): d is a source as well. -/
def execBfi (o : IOp) (s : State) : Out :=
  s.scalar (.bfi o) [o.a, o.d] [o.d] fun s => .next (s.writeG o.d (bitInsert (s.g o.d) (s.g o.a) o.pos o.width))

end Sys2Proof.Machine
end

