-- ==== Sys2Proof/Machine/ScalarFloat.lean ====
section
/-! DEFINITION. Scalar floating point (05 R99 to R104). -/

namespace Sys2Proof.Machine

/-- A rounding instruction of two operands: the exact result rounded once (R100). -/
def State.fop3 (s : State) (i : Instr) (f : FFmt) (o : SOp) (op : RMode → FVal → FVal → ExVal) : Out :=
  s.scalar i [o.a, o.b] [o.d] fun s =>
    let c := s.rctx o.rm
    let F := fpFmt f
    .next (s.writeF o.d c (F.finish c (op c.rm (F.value (F.operand c (s.g o.a))) (F.value (F.operand c (s.g o.b))))))

/-- `FADD` (R100). -/
def execFadd (f : FFmt) (o : SOp) (s : State) : Out := s.fop3 (.fadd f o) f o addVal

/-- `FSUB` (R100). -/
def execFsub (f : FFmt) (o : SOp) (s : State) : Out := s.fop3 (.fsub f o) f o fun m a b => addVal m a b.negate

/-- `FMUL` (R100). -/
def execFmul (f : FFmt) (o : SOp) (s : State) : Out := s.fop3 (.fmul f o) f o fun _ a b => mulVal a b

/-- `FDIV` (R100). -/
def execFdiv (f : FFmt) (o : SOp) (s : State) : Out := s.fop3 (.fdiv f o) f o fun _ a b => divVal a b

/-- `FSQRT` (R100). -/
def execFsqrt (f : FFmt) (o : SOp) (s : State) : Out :=
  s.scalar (.fsqrt f o) [o.a] [o.d] fun s =>
    let c := s.rctx o.rm
    let F := fpFmt f
    .next (s.writeF o.d c (F.finish c (sqrtVal (F.value (F.operand c (s.g o.a))))))

/-- `FMIN` and `FMAX` round nothing and raise no flag; FTZ applies to their operands (R100). -/
def State.fminmax (s : State) (i : Instr) (f : FFmt) (o : SOp) (mx : Bool) : Out :=
  s.scalar i [o.a, o.b] [o.d] fun s =>
    let c := s.rctx 0
    let F := fpFmt f
    .next (s.writeG o.d (BitVec.ofNat 64 (F.minMax mx (F.operand c (s.g o.a)) (F.operand c (s.g o.b)))))

/-- `FMIN` (R100). -/
def execFmin (f : FFmt) (o : SOp) (s : State) : Out := s.fminmax (.fmin f o) f o false

/-- `FMAX` (R100). -/
def execFmax (f : FFmt) (o : SOp) (s : State) : Out := s.fminmax (.fmax f o) f o true

/-- `FFMA` (R101): d is the addend and the destination. -/
def execFfma (f : FFmt) (o : SOp) (s : State) : Out :=
  s.scalar (.ffma f o) [o.a, o.b, o.d] [o.d] fun s =>
    let c := s.rctx o.rm
    let F := fpFmt f
    let v := fun r => F.value (F.operand c (s.g r))
    .next (s.writeF o.d c (F.finish c (fmaVal c.rm (v o.a) (v o.b) (v o.d))))

/-- The conditions of `FCMP` on two values (R102). -/
def fcondHolds (c : FCond) (a b : FVal) : Bool :=
  match c, cmpVal a b with
  | .un, none => true
  | _, none => false
  | .eq, some d => d == 0
  | .lt, some d => d < 0
  | .le, some d => d ≤ 0
  | .un, some _ => false

/-- `FCMP` (R102): FTZ applies to its operands (R57). -/
def execFcmp (f : FFmt) (cc : FCond) (o : SOp) (s : State) : Out :=
  s.scalar (.fcmp f cc o) [o.a, o.b] [o.d] fun s =>
    let c := s.rctx 0
    let F := fpFmt f
    .next (s.writeG o.d (if fcondHolds cc (F.value (F.operand c (s.g o.a))) (F.value (F.operand c (s.g o.b))) then 1 else 0))

/-- `FCVT` (R103): an i32 result is sign-extended. An exact conversion ignores c, so it reserves no block (DEDUCED, log entry 11). -/
def execFcvt (dst src : CvtTy) (o : SOp) (s : State) : Out :=
  s.scalar (.fcvt dst src o) [o.a] [o.d] fun s =>
    let d := cvtCode dst
    let c := s.rctx (if exactConversion d (cvtCode src) then 0 else o.rm)
    let r := convert d (cvtCode src) c ((s.g o.a).toNat % 2 ^ tyWidth (cvtCode src))
    let v : Word := if dst = .i32 then BitVec.ofInt 64 (sextNat 32 r.1) else BitVec.ofNat 64 r.1
    .next (((s.reserve c.rm 1).orFlags r.2).writeG o.d v)

/-- `FCLASS` (R104). -/
def execFclass (f : ClassFmt) (o : SOp) (s : State) : Out :=
  s.scalar (.fclass f o) [o.a] [o.d] fun s =>
    let F := classFmt f
    .next (s.writeG o.d (BitVec.ofNat 64 (F.classify ((s.g o.a).toNat % 2 ^ F.width))))

end Sys2Proof.Machine
end

