-- ==== Sys2Proof/Machine/Tile.lean ====
section
/-! DEFINITION. The tile instructions (spec/07): their commit, the effect of each entry, the drain of multiplications, the row and
column gets, the waits, and the steps of the fill/spill engine (09 R230 to R236). -/

namespace Sys2Proof.Machine

/-! ### Memory images (R160, R167) -/

/-- A part of a run inside one line: its address and length, and its physical address. -/
structure Piece where
  va : Nat
  n : Nat
  pa : Nat
  deriving DecidableEq, Repr

/-- Of failures, each a cause and an address, the one at the lowest address (R162). -/
def lowest (l : List (Nat × Nat)) : Option (Nat × Nat) :=
  l.foldl (fun b x =>
    match b with
    | none => some x
    | some y => if x.2 < y.2 then some x else some y) none

/-- A run's pieces: each part of it in one line, whose address wraps at 2^64 (R167), with its translation or the cause that orders 2 and 3
of R118 give. Tile accesses have user rights. -/
def State.runPieces (s : State) (write : Bool) (run : Nat × Nat) : List (Except (Nat × Nat) Piece) :=
  (pieces run.1 run.2).map fun (a, n) =>
    let a := a % 2 ^ 64
    match s.xlate s.thr.id.ctx false write a with
    | .ok pa => .ok ⟨a, n, pa⟩
    | .error c => .error (c, a)

/-- Every run's pieces, or the lowest failing address of all of them (R167). -/
def State.allPieces (s : State) (write : Bool) (runs : List (Nat × Nat)) : Except (Nat × Nat) (List (List Piece)) :=
  let rs := runs.map (s.runPieces write)
  match lowest (rs.flatten.filterMap fun r => match r with | .error x => some x | .ok _ => none) with
  | none => .ok (rs.map fun l => l.filterMap fun r => match r with | .ok p => some p | .error _ => none)
  | some x => .error x

/-- The first of orders 4 to 6 at the lowest address of pieces that meets one (R162). -/
def State.piecesErr (s : State) (read write : Bool) (l : List Piece) : Option (Nat × Nat) :=
  lowest (l.filterMap fun p => (s.dataErr s.thr.id.ctx read write p.pa).map fun c => (c, p.va))

/-- Pieces are read. -/
def State.loadPieces (s : State) : List Piece → List Byte × State
  | [] => ([], s)
  | p :: l =>
    let (b, s) := s.loadBytes p.pa p.n
    let (r, s) := State.loadPieces s l
    (b ++ r, s)

/-- Pieces are written. -/
def State.storePieces (s : State) : List Piece → List Byte → State
  | [], _ => s
  | p :: l, bs => State.storePieces (s.storeBytes p.pa (bs.take p.n)) l (bs.drop p.n)

/-- Runs are read, one by one. -/
def State.loadRuns (s : State) : List (List Piece) → List (List Byte) × State
  | [] => ([], s)
  | l :: ls =>
    let (b, s) := s.loadPieces l
    let (r, s) := State.loadRuns s ls
    (b :: r, s)

/-- Runs are written. -/
def State.storeRuns (s : State) : List (List Piece × List Byte) → State
  | [] => s
  | (l, b) :: ls => State.storeRuns (s.storePieces l b) ls

/-- An image is written: the sectors that its runs cover together receive fresh check values (R381). Versions leave memory's as they are
(R356). -/
def State.storeImageRuns (s : State) (runs : List (List Piece)) (v : List (List Byte)) : State :=
  let versioned := s.speculative
  let s := s.storeRuns (runs.zip v)
  if versioned then s else { s with damage := s.damage.clearRuns (runs.flatten.map fun p => (p.pa, p.n)) }

/-- The value that an image's rows and scales make; padding elements are zero (R55, R160). -/
def imageVal (d : BitVec 32) (runs : List (List Byte)) : TileVal :=
  let v : TileVal := { shape := d
                       data := BitVec.ofNat _ (packElems (8 * slotPitch d) ((runs.take (memRows d)).map ofBytes))
                       scales := BitVec.ofNat _ (ofBytes ((runs.drop (memRows d)).headD [])) }
  v.padded

/-- The bytes of an image's runs: rows with zeros from Lr to Lm − 1, then the scales (R160). -/
def imageBytes (v : TileVal) : List (List Byte) :=
  (v.rawRows.map (toBytes (rowPitch v.shape))) ++
    (if scaleBytes v.shape = 0 then [] else [toBytes (scaleBytes v.shape) v.scales.toNat])

/-! ### What comes of an entry's completion -/

/-- An entry that is not ready to complete, one that faults, and one that completes. -/
inductive TOut where
  | wait (s : State)
  | fault (s : State) (f : FaultInfo)
  | done (s : State) (r : TileResult)

/-- A result without a value. -/
def noResult : TileResult := ⟨none, 0, none, []⟩

/-- A value as the result, with the flags it raises. -/
def TileResult.of (v : TileVal) (f : FFlags) : TileResult := ⟨some v, tileFlags f, none, []⟩

/-- A pure effect's outcome. -/
def State.valOut (s : State) (e : TqEnt) (r : Except TFault (TileVal × FFlags)) : Except FaultInfo TileResult :=
  match r with
  | .ok (v, f) => .ok (TileResult.of v f)
  | .error f => .error (s.fmtFault e f)

/-- The rounding context of `TADD`, `TMUL`, `TSCALE` (R178). -/
def TqEnt.rctx (e : TqEnt) : RCtx := { rm := roundMode 7 e.fmode, ftz := fmFtz e.fmode, sat := fmSat e.fmode }

/-- The random word of an element of the entry. -/
def TqEnt.word (e : TqEnt) (c : Nat) (i j : Nat) : Nat := if e.rctx.rm = .sr then tileWord e.rngkey e.rng.toNat c i j else 0

/-- The number that a vector register's first bits make. -/
def State.vecNum (s : State) (r : BitVec 6) : Nat := (vget s.thr.r.v r.toNat).toNat

/-- The checks of a get or a put on a line (R170, R171): index, axis, register pair. -/
def lineCheck (d : BitVec 32) (col : Bool) (i vregs : Nat) (v : BitVec 6) (operand : Nat) : Option TFault :=
  if !descValid d then some ⟨1, operand⟩
  else if (if col then descCols d else descRows d) ≤ i then some ⟨6, operand⟩
  else if (descTFmt d).scaled && descAx d != col then some ⟨4, operand⟩
  else if (descTFmt d).scaled && (v = 63 || vregs ≤ v.toNat + 1) then some ⟨8, operand⟩
  else none

/-- A row or column put (R171). -/
def State.putEffect (s : State) (e : TqEnt) (o : TOp) (col : Bool) : Except FaultInfo TileResult :=
  let v := s.tileVal o.md.toNat
  let vs := o.ma.extractLsb' 0 6
  match lineCheck v.shape col e.g0.toNat s.thr.hdr.vregs vs 2 with
  | some f => .error (s.fmtFault e f)
  | none =>
    let sc := s.vecNum (vs + 1)
    .ok (TileResult.of (v.putLine col e.g0.toNat (s.vecNum vs) ((List.range 256).map fun k => (sc >>> (8 * k)) % 256)) 0)

/-- The EGs that an entry reads of each of its vector registers (R170, R171, R179): those of a line, of its scales, of a zero-block map. -/
def State.entEgs (s : State) (e : TqEnt) : List VRead :=
  match e.ins, s.thr.vReads (s.thr.olderEnts e) e.ins with
  | .tputr o, v :: l => (v, byteEgs (ceilDiv (lineBits (s.thr.shapeAt e o.md) false) 8), 32) :: l.map fun w => (w, byteEgs (ceilDiv (descCols (s.thr.shapeAt e o.md)) 32), 32)
  | .tputc o, v :: l => (v, byteEgs (ceilDiv (lineBits (s.thr.shapeAt e o.md) true) 8), 32) :: l.map fun w => (w, byteEgs (ceilDiv (descRows (s.thr.shapeAt e o.md)) 32), 32)
  | _, l => l.map fun w => (w, byteEgs 256, 32)

/-- The entries that read a vector register compute at issue (R32, R161); a row of the register that cannot be rebuilt faults (R376). -/
def earlyEffect (s : State) (e : TqEnt) : State × Except FaultInfo TileResult :=
  match s.vecDamage (s.entEgs e) with
  | (s, _ :: _) => (s, .error (e.fault cUNCORRECTABLE 0 ((tNames e.ins).headD 0) 0))
  | (s, []) =>
    (s, match e.ins with
        | .tputr o => s.putEffect e o false
        | .tputc o => s.putEffect e o true
        | .tzmap o => s.valOut e (zeroBlocks (BitVec.ofNat _ (s.vecNum (o.mb.extractLsb' 0 6))) (s.tileVal o.ma.toNat))
        | _ => .ok noResult)

/-! ### Memory entries -/

/-- A request finds no usable port and its time has not passed (R385). -/
def State.portWait (s : State) (e : TqEnt) (write : Bool) (pas : List Nat) : Bool :=
  (e.since = 0 || s.cycle + 1 < e.since + s.tmo) && pas.any fun p => !s.podRefused s.thr.id.ctx write p && s.noPort p

/-- A store of a speculative iteration to the pod or the slow tier: it is held as an XSERIAL instruction is (R359). -/
def State.xserialStore (s : State) (pas : List Nat) : Bool := s.speculative && pas.any fun p => paKind p != 0

/-- Such a store's hold, with its TRAP packet and count (R359, R398, R400), once. -/
def State.xholdTile (s : State) (e : TqEnt) : State :=
  if e.xheld then s else
  let s := (s.count 22 1).emit 8 (cXSERIAL * 2 ^ 50 + 2 * 2 ^ 48 + e.pc.toNat / 8)
  s.setTq { e with xheld := true }

/-- A store of the entry waits: for a versioned line (R356), for its iteration to be the oldest (R359), for a port. -/
def State.storeWait (s : State) (e : TqEnt) (pas : List Nat) : Bool :=
  s.versionsFull pas || s.xserialStore pas || s.portWait e true pas

/-- The entry waits, and its wait for a port is timed. -/
def State.entryWaits (s : State) (e : TqEnt) (write : Bool) (pas : List Nat) : TOut :=
  .wait (if write && s.xserialStore pas then s.xholdTile e else s.starve e (s.portWait e write pas))

/-- A memory fault of an entry (R162). -/
def TqEnt.memFault (e : TqEnt) (tile half : Nat) (c : Nat × Nat) : FaultInfo :=
  let f := e.fault c.1 0 tile (BitVec.ofNat 64 c.2)
  { f with i1 := f.i1 + BitVec.ofNat 64 (half * 2 ^ 17) }

/-- `TLD` (R166, R167), with the shape that program order gives md. The address that a bad pitch reports is A, which R166 leaves open (DESIGN
CHOICE, log entry 137). -/
def State.tldEffect (s : State) (e : TqEnt) (o : TOp) (pitched : Bool) : TOut :=
  let d := s.thr.shapeAt e o.md
  if !descValid d then .fault s (s.fmtFault e ⟨1, 2⟩) else
  let p : Word := if pitched then e.g1 else BitVec.ofNat 64 (rowPitch d)
  if e.g0.toNat % 16 != 0 || p.toNat % 16 != 0 || p.toNat < rowPitch d then .fault s (e.memFault o.md.toNat 0 (cMISALIGNED, e.g0.toNat))
  else
    match s.allPieces false (imageRuns d e.g0 p (rowBytes d)) with
    | .error c => .fault s (e.memFault o.md.toNat 0 c)
    | .ok runs =>
      let pas := runs.flatten.map (·.pa)
      if s.portWait e false pas then s.entryWaits e false pas else
      match s.piecesErr true false runs.flatten with
      | some c => .fault s (e.memFault o.md.toNat 0 c)
      | none =>
        let (bs, s) := s.loadRuns runs
        .done s (TileResult.of (imageVal d bs) 0)

/-- Alignment of an image and its runs' pieces for a store, or the fault; a bad pitch reports A (DESIGN CHOICE, log entry 137). -/
def State.storeImage (s : State) (e : TqEnt) (t half : Nat) (v : TileVal) (a p : Word) : Except FaultInfo (List (List Piece)) :=
  let d := v.shape
  if a.toNat % 16 != 0 || p.toNat % 16 != 0 || p.toNat < rowPitch d then .error (e.memFault t half (cMISALIGNED, a.toNat))
  else
    match s.allPieces true (imageRuns d a p (rowPitch d)) with
    | .error c => .error (e.memFault t half c)
    | .ok runs => .ok runs

/-- `TST` (R166, R167). -/
def State.tstEffect (s : State) (e : TqEnt) (o : TOp) (pitched : Bool) : TOut :=
  let v := s.tileVal o.ma.toNat
  if !descValid v.shape then .fault s (s.fmtFault e ⟨1, 0⟩) else
  match s.storeImage e o.ma.toNat 0 v e.g0 (if pitched then e.g1 else BitVec.ofNat 64 (rowPitch v.shape)) with
  | .error f => .fault s f
  | .ok runs =>
    let pas := runs.flatten.map (·.pa)
    if s.storeWait e pas then s.entryWaits e true pas else
    match s.piecesErr false true runs.flatten with
    | some c => .fault s (e.memFault o.ma.toNat 0 c)
    | none => .done (s.storeImageRuns runs (imageBytes v)) noResult

/-- `TSTP` (R168): the plain half, then the transposed half; a fault in the second leaves the first written. -/
def State.tstpEffect (s : State) (e : TqEnt) (o : TOp) : TOut :=
  let v := s.tileVal o.ma.toNat
  let d := v.shape
  if !descValid d then .fault s (s.fmtFault e ⟨1, 0⟩)
  else if (descTFmt d).scaled then .fault s (s.fmtFault e ⟨3, 0⟩)
  else
    match transposeTile false v with
    | .error _ => .fault s (s.fmtFault e ⟨7, 0⟩)
    | .ok (vt, _) =>
      match s.storeImage e o.ma.toNat 0 v e.g0 (BitVec.ofNat 64 (rowPitch d)) with
      | .error f => .fault s f
      | .ok runs =>
        let second := s.storeImage e o.ma.toNat 1 vt e.g1 (BitVec.ofNat 64 (rowPitch vt.shape))
        let pas := (runs ++ (match second with | .ok l => l | .error _ => [])).flatten.map (·.pa)
        if s.storeWait e pas then s.entryWaits e true pas else
        match s.piecesErr false true runs.flatten with
        | some c => .fault s (e.memFault o.ma.toNat 0 c)
        | none =>
          let s := s.storeImageRuns runs (imageBytes v)
          match second with
          | .error f => .fault s f
          | .ok runs2 =>
            match s.piecesErr false true runs2.flatten with
            | some c => .fault s (e.memFault o.ma.toNat 1 c)
            | none => .done (s.storeImageRuns runs2 (imageBytes vt)) noResult

/-- The scope code of a T word whose bits [18:16] hold one (R159). -/
def tScope (o : TOp) : BitVec 3 := BitVec.ofBool o.nacc ++ BitVec.ofBool o.ca ++ BitVec.ofBool o.cb

/-- `TSEND` (R183): the barrier address is checked, the tile is read out, the send leaves. -/
def State.tsendEffect (s : State) (e : TqEnt) (o : TOp) : TOut :=
  let bar := e.g1
  let bad := if bar = 0 then none
    else if bar.toNat % 8 != 0 then some cMISALIGNED
    else match s.xlate s.thr.id.ctx false true bar.toNat with
      | .ok _ => none
      | .error c => some c
  match bad with
  | some c => .fault s (e.memFault o.ma.toNat 0 (c, bar.toNat))
  | none =>
    let x : Send := { id := s.nextSend, tid := s.thr.id, token := e.g0, bar := bar, rel := o.nb, scope := tScope o,
                      tile := s.tileVal o.ma.toNat, deadline := s.cycle + s.tmo, answer := none, waiting := false }
    .done { s with sends := s.sends ++ [x], nextSend := s.nextSend + 1 } noResult

/-! ### Gathers and appends (R185, R186; 16 R325, R326, R329, R330) -/

/-- A HANDLE fault of the tile stream (R330). -/
def TqEnt.handleFault (e : TqEnt) (tile reason : Nat) : FaultInfo := e.fault cHANDLE reason tile e.g0

/-- The format checks of R185 step 2. -/
def rowFormat (d : BitVec 32) (operand : Nat) : Option TFault :=
  if !descValid d then some ⟨1, operand⟩
  else if (descTFmt d).scaled then some ⟨3, operand⟩
  else if 512 < rowBytes d then some ⟨7, operand⟩
  else none

/-- The rows of a gather: zeros at and beyond the length. -/
def State.gatherRows (s : State) (c : Ctx) (h : HEnt) (lr : Nat) : List Nat → List (List Byte) × State
  | [] => ([], s)
  | r :: l =>
    let (b, s) := if r < h.len then s.loadBytes (s.rowAddr c h r) lr else (List.replicate lr 0, s)
    let (bs, s) := State.gatherRows s c h lr l
    (b :: bs, s)

/-- `TGATHER` (R185, R326): its handle step pins the pages, and they stay pinned until it retires. -/
def State.gatherEffect (s : State) (e : TqEnt) (o : TOp) : TOut :=
  let ctx := s.thr.id.ctx
  let c := s.ctx ctx
  let d := s.thr.shapeAt e o.md
  let why := s.handleReason ctx e.g0
  if why != 0 then .fault s (e.handleFault o.md.toNat why) else
  match rowFormat d 2 with
  | some f => .fault s (s.fmtFault e f)
  | none =>
    let h := s.hent c (handleIdx e.g0)
    let st := e.g1.toNat
    let hi := min (st + descRows d) h.len
    let pins := if hi ≤ st then [] else ((List.range ((hi - 1) / 128 + 1)).drop (st / 128)).map (s.listPage h)
    let rows := (List.range (descRows d)).map fun i => st + i
    let pas := (rows.filter fun r => r < h.len).flatMap fun r => rowLines (s.rowAddr c h r) (rowBytes d)
    if pins.any fun p => (s.prec c p).pins = 65535 then .wait s
    else if s.portWait e false pas then s.entryWaits e false pas
    else
      match lowest (pas.filterMap fun p => (s.dataErr ctx true false p).map fun x => (x, p)) with
      | some x => .fault s (e.memFault o.md.toNat 0 x)
      | none =>
        let s := pins.foldl (fun s p => s.pinPage c p) s
        let (bs, s) := s.gatherRows c h (rowBytes d) rows
        .done s ⟨some (imageVal d bs), 0, none, pins⟩

/-- A speculative `TAPPEND` may proceed (R358): its predecessor has reached `XACC`, and its handle is one of at most four. -/
def State.appendTurn (s : State) (handle : Word) : Bool :=
  match s.iteration with
  | none => true
  | some (r, k, j) =>
    j = r.i0 ||
    ((r.strokes.any fun x => x.iter == some (j - 1) && x.sst == .awaiting) &&
     ((k.marks.any fun m => m.1 == handle) || (k.marks.map Prod.fst).dedup.length < 4))

/-- The append mark of the iteration's first append to a handle (R358). -/
def State.markAppend (s : State) (handle : Word) (len : Nat) : State :=
  match s.iteration with
  | none => s
  | some (r, k, j) =>
    if j = r.i0 || k.marks.any (fun m => m.1 == handle) then s
    else s.setRegion (r.mapStroke k.tidx fun k => { k with marks := k.marks ++ [(handle, len)] })

/-- The copy of a shared page `p` into page `n`, which has taken its place in the list. -/
def State.unshare (s : State) (c : Ctx) (h : HEnt) (p n : Nat) : State :=
  (s.copyRows (s.pageRows c p) (s.pageRows c n) (h.len % 128)).loseRef c p

/-- One appended row (R325): a PROMOTING page returns to SLOW with a new generation before it is written; a younger iteration that has read a
byte of the row is rejected (R357). -/
def State.appendRow (s : State) (c : Ctx) (h : HEnt) (r : Nat) (bs : List Byte) : State :=
  let p := s.listPage h (r / 128)
  let x := s.prec c p
  let s := if x.state = pPROMOTING then s.setPrec c p { x with state := pSLOW, pgen := (x.pgen + 1) % 256 } else s
  let pa := s.rowAddr c h r
  let s := s.storePA pa (bs ++ List.replicate (512 - bs.length) 0)
  match s.iteration with
  | some (reg, _, j) => s.conflict reg j pa 512
  | none => s

/-- The rows of an append are written, and the length advances (R186); `c` rows of the tile value `v` from row `h.len` on. -/
def State.appendRows (s : State) (e : TqEnt) (c : Ctx) (h : HEnt) (n : Nat) (v : TileVal) : State :=
  let s := s.markAppend e.g0 h.len
  let codes := v.rawRows
  let s := (List.range n).foldl (fun s q => s.appendRow c h (h.len + q) (toBytes (rowBytes v.shape) (codes.getD q 0))) s
  s.setHent c (handleIdx e.g0) { h with len := h.len + n }

/-- `TAPPEND` (R186, R329, R358): a copy of the page of its first row comes first where that is SHARED. The lines that it reads and writes
are checked before any of them is (R167, R325). -/
def State.appendEffect (s : State) (e : TqEnt) (o : TOp) : TOut :=
  let ctx := s.thr.id.ctx
  let c := s.ctx ctx
  let v := s.tileVal o.ma.toNat
  let d := v.shape
  let why := s.handleReason ctx e.g0
  if why != 0 then .fault s (e.handleFault o.ma.toNat why) else
  match rowFormat d 0 with
  | some f => .fault s (s.fmtFault e f)
  | none =>
    let n := if e.g1 = 0 then descRows d else e.g1.toNat
    if descRows d < n then .fault s (s.fmtFault e ⟨6, 0⟩)
    else if !s.appendTurn e.g0 then .wait s
    else
      let h := s.hent c (handleIdx e.g0)
      if h.cap < h.len + n then .fault s (e.handleFault o.ma.toNat 6) else
      let go := fun (s' : State) (h' : HEnt) (copied made : List Nat) (k : State → State) =>
        let read := copied.flatMap fun p => rowLines p 512
        let write := (made ++ (List.range n).map fun q => s'.rowAddr c h (h.len + q)).flatMap fun p => rowLines p 512
        if s.xserialStore write || s.portWait e true (read ++ write) then s.entryWaits e true (read ++ write) else
        let bad := (read.filterMap fun p => (s.dataErr ctx true false p).map fun x => (x, p)) ++
          write.filterMap fun p => (s.dataErr ctx false true p).map fun x => (x, p)
        match lowest bad with
        | some x => .fault s (e.memFault o.ma.toNat 0 x)
        | none => .done ((k s').appendRows e c h' n v) noResult
      match s.sharedPage c h with
      | none => go s h [] [] id
      | some p =>
        match s.takePage c h.cur with
        | none => .fault s (e.handleFault o.ma.toNat 7)
        | some (q, cur, s') =>
          let at_ := fun p => (List.range (h.len % 128)).map fun r => s.pageRows c p + 512 * r
          go (s'.setListPage h (h.len / 128) q) { h with cur := cur } (at_ p) (at_ q) fun s' => s'.unshare c h p q

/-! ### The effect of an entry -/

/-- What an issued entry does (R163 to R186). Multiplications end at their drain. -/
def State.tileEffect (s : State) (e : TqEnt) : TOut :=
  let pure := fun (r : Except TFault (TileVal × FFlags)) =>
    match s.valOut e r with
    | .ok r => TOut.done s r
    | .error f => .fault s f
  let mem := fun (k : Unit → TOut) => if s.thr.memBefore e then TOut.wait s else k ()
  match e.ins with
  | .tshape _ => .done s (TileResult.of (TileVal.zero (e.g0.setWidth 32)) 0)
  | .tzero o =>
    let d := s.thr.shapeAt e o.md
    if descValid d then .done s (TileResult.of (TileVal.zero d) 0) else .fault s (s.fmtFault e ⟨1, 2⟩)
  | .tld p o => mem fun _ => s.tldEffect e o p
  | .tst p o => mem fun _ => s.tstEffect e o p
  | .tstp o => mem fun _ => s.tstpEffect e o
  | .tcopy o => .done s (TileResult.of (s.tileVal o.ma.toNat) 0)
  | .tputr _ | .tputc _ | .tzmap _ => .done s e.res
  | .ttrq ax o => pure (transposeTile ax (s.tileVal o.ma.toNat))
  | .tcvt o =>
    let a := s.tileVal o.ma.toNat
    let rm := roundMode (e.g0.extractLsb' 8 3) e.fmode
    pure (convertTile a (e.g0.extractLsb' 0 5).toNat (e.g0.getLsbD 5) rm (fmFtz e.fmode) (fmSat e.fmode)
      (tileWord e.rngkey e.rng.toNat (descCols a.shape)))
  | .tadd o =>
    let a := s.tileVal o.ma.toNat
    pure (elementwise false o.na o.nb e.rctx (e.word (descCols a.shape)) a (s.tileVal o.mb.toNat))
  | .tmul o =>
    let a := s.tileVal o.ma.toNat
    pure (elementwise true o.na o.nb e.rctx (e.word (descCols a.shape)) a (s.tileVal o.mb.toNat))
  | .tscale o =>
    let a := s.tileVal o.ma.toNat
    pure (scaleTile o.na e.g0.toInt e.rctx (e.word (descCols a.shape)) a)
  | .tpref o =>
    if s.thr.memBefore e then .wait s
    else .done (if s.thr.olderWriter e o.ma then s else s.prefetch o.ma.toNat) noResult
  | .tsend o => if o.nb && s.thr.memBefore e then .wait s else s.tsendEffect e o
  | .tgather o => mem fun _ => s.gatherEffect e o
  | .tappend o => mem fun _ => s.appendEffect e o
  | _ => .done s noResult

/-! ### Posting (R157, R31, R60) -/

/-- Rounding of a tile instruction whose words R60 reserves: its mode, and its source ma. -/
def State.tileRounds (s : State) (i : Instr) : Option (RMode × BitVec 9) :=
  match i with
  | .tcvt o => some (roundMode ((s.g (o.g.zeroExtend 6)).extractLsb' 8 3) s.thr.c.fmode, o.ma)
  | .tadd o | .tmul o | .tscale o => some (roundMode 7 s.thr.c.fmode, o.ma)
  | _ => none

/-- The control registers that a tile instruction captures at its commit (R31, R60): `FMODE` where it rounds, the random words' registers where it
rounds stochastically. -/
def State.tileCsrs (s : State) (i : Instr) : List Nat :=
  match s.tileRounds i with
  | some (.sr, _) => [0x011, 0x013, 0x014]
  | some _ => [0x011]
  | none => []

/-- A bad value of a captured operand (R163, R177). -/
def State.tileValueBad (s : State) (i : Instr) : Option Word :=
  match i with
  | .tshape o =>
    let g := s.g (o.g.zeroExtend 6)
    if g.extractLsb' 32 32 != 0 || !descValid (g.setWidth 32) then some g else none
  | .tcvt o =>
    let g := s.g (o.g.zeroExtend 6)
    let f := (g.extractLsb' 0 5).toNat
    let rm := (g.extractLsb' 8 3).toNat
    let scaled := match tileFmt f with | some x => x.scaled | none => false
    if g.toNat / 2 ^ 11 != 0 || g.extractLsb' 6 2 != 0 || rm = 5 || rm = 6 || 18 < f || (g.getLsbD 5 && !scaled) then some g else none
  | _ => none

/-- A tile instruction that a guess routine may not execute (R351). -/
def tForbidden : Instr → Bool
  | .tst _ _ | .tstp _ | .tsend _ | .trecv false _ | .tappend _ => true
  | _ => false

/-- The vector sources of a put or a `TZMAP` whose trap bit is set and of which one is empty (R161). -/
def Thread.putEmpty (t : Thread) (i : Instr) : Option FaultInfo :=
  let chk := fun (bit : Bool) (field : Nat) =>
    if !bit then Option.none else
    ((t.vReads t.tq i).find? fun r => !t.full r.toNat).map fun r =>
      ({ cause := cVEC_EMPTY, i0 := r.zeroExtend 64, i1 := BitVec.ofNat 64 field } : FaultInfo)
  match i with
  | .tputr o | .tputc o => chk o.ea 0
  | .tzmap o => chk o.eb 1
  | _ => .none

/-- The instruction needs the thread's map at its commit: for a shape that program order gives (R60, R171). -/
def State.mapNeeded (s : State) (i : Instr) : Bool :=
  match i with
  | .tputr _ | .tputc _ => true
  | i => match s.tileRounds i with | some (.sr, _) => true | _ => false

/-- The entry joins the tile queue and its word commits. -/
def State.enqueueTile (s : State) (i : Instr) (blocks : Nat) : State :=
  let t := s.thr
  let g := match tOp i with | some o => o.g.zeroExtend 6 | none => 0
  let e : TqEnt :=
    { post := t.posts, pc := t.pc, ins := i, g0 := if tUsesG i then s.g g else 0, g1 := if tPair i then s.g (g + 1) else 0,
      fmode := t.c.fmode, rngkey := t.c.rngkey, rng := if blocks = 0 then 0 else t.c.rngctr, st := .posted, done := false, skip := false,
      slot := none, chain := none, unit := 0, since := 0, xheld := false, res := noResult }
  (s.onThr fun t => { t with tq := t.tq ++ [e], posts := t.posts + 1, c := { t.c with rngctr := t.c.rngctr + BitVec.ofNat 64 blocks } }).commit

/-- A tile instruction reaches commit (R157): its captures, its checks, and its posting. -/
def State.postTile (s : State) (i : Instr) : Out :=
  match s.thr.wait with
  | .emptyTrap f => .next (s.raise f)
  | _ =>
  let srcs := tGSources i
  let dst := (tGDest i).toList
  match s.gWait srcs with
  | some s' => .next s'
  | none =>
    if s.thr.vqPending dst then .next s
    else if s.gDamaged srcs || s.csrLost (s.tileCsrs i) then .next (s.raise { cause := cUNCORRECTABLE })
    else if s.thr.sup then .next (s.illegalMode i)
    else if s.guessing && tForbidden i then .next s.abandonGuess
    else if !s.thr.tmapReady && s.mapNeeded i then .next s
    else
      match s.tileValueBad i with
      | some v => .next (s.illegalVal i v)
      | none =>
        match s.thr.putEmpty i with
        | some f => .next (s.raiseEmpty .scalar f)
        | none =>
          if s.speculative && (match i with | .tsend _ => true | _ => false) then .next s.xhold
          else if 64 ≤ s.thr.tq.length then .next s
          else
            match s.tileRounds i with
            | some (.sr, ma) =>
              let d := s.thr.orderShape s.thr.tq ma
              .next (s.enqueueTile i (ceilDiv (descRows d * descCols d) 4))
            | _ => .next (s.enqueueTile i 0)

/-! ### Steps of the tile stream -/

/-- The oldest entry that can issue does (R33); none issues in supervisor mode (R366). -/
def execTileEntryIssue (s : State) : Out :=
  if !s.thr.live || s.thr.sup || (s.speculative && s.thr.faulted) then .fault .notEnabled
  else if !s.thr.tmapReady then .next s.initMap
  else
    let s := s.thr.prefs.foldl State.prefetch s
    .next (State.issueScan earlyEffect s.thr.tq s)

/-- An issued entry's effect is complete (R40, R167); multiplications complete at their drain. -/
def execTileEntryComplete (post : Nat) (s : State) : Out :=
  match s.tqAt post with
  | none => .fault .notEnabled
  | some e =>
    if e.st != .issued || isMma e.ins then .fault .notEnabled else
    match s.tileEffect e with
    | .wait s => .next s
    | .fault s f => .next (s.hold e f)
    | .done s r => .next (s.setTq { e with st := .completed, res := r, since := 0 })

/-- The chain that ends at an entry, its first member first. -/
def Thread.chainOf (t : Thread) : Nat → TqEnt → List TqEnt
  | 0, e => [e]
  | n + 1, e =>
    match e.chain with
    | .none => [e]
    | some p =>
      match t.tq.find? fun x => x.post == p with
      | some x => Thread.chainOf t n x ++ [e]
      | .none => [e]

/-- The result of one multiplication on an accumulator (R174). -/
def State.mmaResult (s : State) (e : TqEnt) (acc : TileVal) : TileVal × FFlags :=
  match e.ins with
  | .mma o => mmaFloat (mmaMods false o) (s.tileVal o.ma.toNat) (s.tileVal o.mb.toNat) acc
  | .mmai o => (mmaInt (mmaMods true o) (s.tileVal o.ma.toNat) (s.tileVal o.mb.toNat) acc, 0)
  | _ => (acc, 0)

/-- The array cycles of a multiplication's body (R45). -/
def State.bodyCycles (s : State) (e : TqEnt) : Nat :=
  let of := fun (o : TOp) (int : Bool) =>
    mmaBody (descFmt (s.thr.shapeAt e o.ma)) (mmaDims (mmaMods int o) (s.thr.shapeAt e o.ma) (s.thr.shapeAt e o.mb)).2.1
  match e.ins with
  | .mma o => of o false
  | .mmai o => of o true
  | _ => 0

/-- Residue mismatches and protected-mode mismatches of a multiplication (R378, R380): a replay starts at its chain's first body, whose cycles
up to this one's are `body`, and is counted; a fault at the limit. -/
def State.mmaErrors (s : State) (e : TqEnt) (body : Nat) : State × Option FaultInfo :=
  let md := (match tOp e.ins with | some o => o.md.toNat | none => 0)
  let here := fun (x : Nat × Nat × Nat × Nat) => x.1 == s.thr.id.core && x.2.1 == s.thr.id.slot && x.2.2.1 == e.post
  let n := match s.damage.residue.find? here with | some x => x.2.2.2 | none => 0
  let s := { s with damage := { s.damage with residue := s.damage.residue.filter fun x => !here x } }
  let (l, s) := s.mismatches e.pc
  let k := (l.map Prod.snd).foldl max 0
  let s := (s.count 18 (min n 2)).count 9 ((min n 2 + min k 1) * body)
  let d := descWord (s.thr.shapeAt e (BitVec.ofNat 9 md))
  if 3 ≤ n then (s, some (e.fault cUNCORRECTABLE 0 md d))
  else if 2 ≤ k then (s, some (e.fault cPROTECT 0 md d))
  else (s, none)

/-- A chain drains (R46, R234, R378): each member's value follows from the one before it; a fault abandons the members after it. `body` counts
the body cycles of the members before. -/
def State.drainChain : List TqEnt → TileVal → Bool → Nat → State → State
  | [], _, _, _, s => s
  | e :: l, acc, dead, body, s =>
    if dead then State.drainChain l acc true body (s.setTq e.unissue) else
    let body := body + s.bodyCycles e
    let (s, f) := s.mmaErrors e body
    match f with
    | some f => State.drainChain l acc true body (s.hold e f)
    | none =>
      let (v, fl) := s.mmaResult e acc
      State.drainChain l v false body (s.setTq { e with st := .completed, res := TileResult.of v fl })

/-- A multiplication that nothing chains to drains, with its chain (R46). -/
def execMmaDrain (post : Nat) (s : State) : Out :=
  match s.tqAt post with
  | none => .fault .notEnabled
  | some e =>
    if !isMma e.ins || e.st != .issued || s.thr.tq.any (fun x => x.chain == some post && x.st == .issued) then .fault .notEnabled else
    let l := s.thr.chainOf 64 e
    match l with
    | [] => .fault .notEnabled
    | h :: _ =>
      let md := (match tOp h.ins with | some o => o.md.toNat | none => 0)
      .next (State.drainChain l (s.tileVal md) false 0 s)

/-- A `TRECV` whose token store is that of a speculative iteration to the pod or the slow tier: its hold (R359). -/
def State.recvHold (s : State) : State :=
  match s.thr.tq with
  | e :: _ =>
    match e.ins, e.st, s.xlate s.thr.id.ctx false true e.g0.toNat with
    | .trecv false _, .completed, .ok pa => if s.xserialStore [pa] && !e.done && !e.skip then s.xholdTile e else s
    | _, _, _ => s
  | [] => s

/-- The oldest entry retires, with its chain (R33). -/
def execTileEntryRetire (s : State) : Out :=
  if s.thr.tq.isEmpty then .fault .notEnabled
  else .next ((State.retireMany s.thr.chainSpan s).elim s.recvHold State.repayPool)

/-- The oldest unretired entry has waited 2^26 cycles for a slot with no candidate (R374). -/
def execTileWatchdog (s : State) : Out :=
  match s.thr.tq with
  | [] => .fault .notEnabled
  | e :: _ =>
    if e.st != .posted || s.thr.sup || e.since = 0 || s.cycle + 1 < e.since + 2 ^ 26 || !s.slotless e then .fault .notEnabled
    else
      let t := ((tNames e.ins).headD 0)
      .next (s.hold e (e.fault cWATCHDOG 0 t (descWord (s.ent t).shape)))

/-! ### Steps of the fill/spill engine -/

/-- A fill has failed (R233): the oldest entry that needs the tile is held, and where a get waits for the fill, it reports the failure. A fill
that neither needs any more has no one to report to. -/
def State.failFill (s : State) (t addr : Nat) : State :=
  match s.thr.tq.find? fun e => e.st == .posted && !e.done && !e.skip &&
      (tReads e.ins).any fun x => x.1.toNat == t && !s.thr.olderWriter e x.1 with
  | some e => s.hold e (e.fault cTILE_FILL 2 t (BitVec.ofNat 64 addr))
  | none => if s.thr.wait == .tileGet t then s.onThr fun u => { u with fillErr := some (t, addr) } else s

/-- A fill of the core of the thread at turn ends (R225, R230, R233, R235), in its turn among the moves of its region (R232). -/
def execFillComplete (slot : Nat) (s : State) : Out :=
  let core := s.thr.id.core
  match (s.core core).moves.find? fun m => !m.spill && m.slot == slot with
  | none => .fault .notEnabled
  | some m =>
    if !s.moveTurn m then .fault .notEnabled else
    if (s.tagEnt m.tag).any (·.gen != m.tag.gen) then .next (s.endLate core m) else
    let s := s.dropMove core m
    match s.readRegion m.tag.ctx m.tag.base m.bidx m.tag.tile m.tag.gen m.shape with
    | .ok v =>
      let x : Slot := { num := slot, tag := m.tag, val := v, zmap := v.zmap, dirty := false, full := true, sf := false, sfAddr := 0
                        report := false, lastUse := s.cycle }
      let s := s.putSlot core x
      let s := s.focus (fun t => t.owns m.tag) fun s => s.setEnt m.tag.tile { s.ent m.tag.tile with state := tRESIDENT, lu := false }
      .next (s.moveEvent m false)
    | .error a =>
      let s := s.focus (fun t => t.owns m.tag) fun s =>
        let s := s.setEnt m.tag.tile { s.ent m.tag.tile with state := tBACKED }
        if m.pref then s else s.failFill m.tag.tile a
      .next (s.moveEvent m false)

/-- A spill of the core of the thread at turn ends (R225, R230, R233, R235), in its turn among the moves of its region (R232), and once no
issued entry has still to read the slot, which the tile stays readable in until then. -/
def execSpillComplete (slot : Nat) (s : State) : Out :=
  let core := s.thr.id.core
  match (s.core core).moves.find? fun m => m.spill && m.slot == slot with
  | none => .fault .notEnabled
  | some m =>
    if !s.moveTurn m || s.inUse core m.tag then .fault .notEnabled else
    if (s.tagEnt m.tag).any (·.gen != m.tag.gen) then .next (s.endLate core m) else .next (s.endSpill core m)

/-- The thread at turn needs a tile whose entry names a slot that its core does not hold for it (R236): the named core gives it up, or
the entry is read again. -/
def execTileSlotRequest (core slot : Nat) (s : State) : Out :=
  match (List.range s.thr.tmap.length).find? fun t =>
    (s.ent t).core.toNat == core && (s.ent t).slot.toNat == slot && s.thr.away s t with
  | none => .fault .notEnabled
  | some t => .next (s.serveTile t)

/-! ### Row and column gets (R170) -/

/-- Bits written from the start of a vector register: its EGs, mark, dirtiness and soundness (R41, R133, R375). -/
def State.putVec (s : State) (r : BitVec 6) (bits v : Nat) : State :=
  s.applyOut { v := [(r, putRange (vget s.thr.r.v r.toNat) 0 bits v, byteEgs (ceilDiv bits 8))] }

/-- What a get reports of its tile before it reads it: a spill that failed, or a fill that it needed (R233); the record, and the state in
which it has been reported. -/
def State.getReport (s : State) (e : TqEnt) (m : Nat) : Option (FaultInfo × State) :=
  match s.spillReport e m, s.thr.fillErr with
  | some r, _ => some r
  | none, some (t, a) =>
    if t = m then some (e.fault cTILE_FILL 2 m (BitVec.ofNat 64 a), s.onThr fun u => { u with fillErr := none }) else none
  | none, none => none

/-- `TGETR` and `TGETC`: a tile sync point, with its checks at commit. An older entry that stores or sends the tile is waited for as one
that writes it (DESIGN CHOICE, log entry 119). -/
def State.getLine (s : State) (i : Instr) (o : TOp) (col : Bool) : Out :=
  let g := o.g.zeroExtend 6
  let vd := o.md.extractLsb' 0 6
  let m := o.ma.toNat
  s.scalar i [g] [] fun s =>
    if s.thr.sup then .next (s.illegalMode i) else
    match s.syncOn (tqWrites o.ma) with
    | some s' => .next s'
    | none =>
      if !s.thr.vq.isEmpty || s.thr.tileReads [vd, vd + 1] || !s.thr.tmapReady then .next s else
      let e : TqEnt := { post := s.thr.posts, pc := s.thr.pc, ins := i, g0 := s.g g, g1 := 0, fmode := 0, rngkey := 0, rng := 0, st := .posted,
                         done := false, skip := false, slot := none, chain := none, unit := 0, since := 0, xheld := false, res := noResult }
      let s := s.settleEnt m
      match s.getReport e m with
      | some (f, s') => .next ((if s.guessing then s else s').raise f)
      | none =>
        match s.probe e m o.ea with
        | .fault f => .next ((if s.lostTile m then s.loseTile m else s).raise f)
        | .empty => .next (s.raise (e.fault cTILE_EMPTY 0 m (descWord (s.ent m).shape)))
        | .wait => .next (if (s.ent m).f then (s.wantTile m false).setWait (.tileGet m) else s)
        | .ok =>
          let v := s.tileVal m
          let d := v.shape
          match lineCheck d col e.g0.toNat s.thr.hdr.vregs vd 0 with
          | some f => .next (s.raise (s.fmtFault e f))
          | none =>
            let (data, sc) := v.line col e.g0.toNat
            let s := s.putVec vd (lineBits d col) data
            let s := if sc.isEmpty then s else s.putVec (vd + 1) (8 * sc.length) (packElems 8 sc)
            .next ((s.useTile m).setLu m o.la).commit

/-- `TGETR`. -/
def execTgetr (o : TOp) (s : State) : Out := s.getLine (.tgetr o) o false

/-- `TGETC`. -/
def execTgetc (o : TOp) (s : State) : Out := s.getLine (.tgetc o) o true

/-- `TWAIT` and `TWAIT.all` (R181). -/
def execTwait (all : Bool) (o : TOp) (s : State) : Out :=
  s.scalar (.twait all o) [] [] fun s =>
    if s.thr.sup then .next (s.illegalMode (.twait all o)) else
    match s.syncOn (fun e => all || tqWrites o.ma e) with
    | some s' => .next s'
    | none => .next s.commit

/-! ### The instructions that post an entry -/

/-- `TSHAPE` (R163). -/
def execTshape (o : TOp) (s : State) : Out := s.postTile (.tshape o)

/-- `TZERO` (R163). -/
def execTzero (o : TOp) (s : State) : Out := s.postTile (.tzero o)

/-- `TSTP` (R168). -/
def execTstp (o : TOp) (s : State) : Out := s.postTile (.tstp o)

/-- `TCOPY` (R164). -/
def execTcopy (o : TOp) (s : State) : Out := s.postTile (.tcopy o)

/-- `TPUTR` (R171). -/
def execTputr (o : TOp) (s : State) : Out := s.postTile (.tputr o)

/-- `TPUTC` (R171). -/
def execTputc (o : TOp) (s : State) : Out := s.postTile (.tputc o)

/-- `MMA` (R172 to R175). -/
def execMma (o : TOp) (s : State) : Out := s.postTile (.mma o)

/-- `MMAI` (R172 to R175). -/
def execMmai (o : TOp) (s : State) : Out := s.postTile (.mmai o)

/-- `TCVT` (R177). -/
def execTcvt (o : TOp) (s : State) : Out := s.postTile (.tcvt o)

/-- `TADD` (R178). -/
def execTadd (o : TOp) (s : State) : Out := s.postTile (.tadd o)

/-- `TMUL` (R178). -/
def execTmul (o : TOp) (s : State) : Out := s.postTile (.tmul o)

/-- `TSCALE` (R178). -/
def execTscale (o : TOp) (s : State) : Out := s.postTile (.tscale o)

/-- `TPREF` (R165). -/
def execTpref (o : TOp) (s : State) : Out := s.postTile (.tpref o)

/-- `TDEAD` (R165). -/
def execTdead (o : TOp) (s : State) : Out := s.postTile (.tdead o)

/-- `TFLAGR` (R180). -/
def execTflagr (o : TOp) (s : State) : Out := s.postTile (.tflagr o)

/-- `TFLAGC` (R180). -/
def execTflagc (o : TOp) (s : State) : Out := s.postTile (.tflagc o)

/-- `TSEND` (R183). -/
def execTsend (o : TOp) (s : State) : Out := s.postTile (.tsend o)

/-- `TGATHER` (R185). -/
def execTgather (o : TOp) (s : State) : Out := s.postTile (.tgather o)

/-- `TAPPEND` (R186). -/
def execTappend (o : TOp) (s : State) : Out := s.postTile (.tappend o)

/-- `TZMAP` (R179). -/
def execTzmap (o : TOp) (s : State) : Out := s.postTile (.tzmap o)

/-- `TLD` (R166). -/
def execTld (p : Bool) (o : TOp) (s : State) : Out := s.postTile (.tld p o)

/-- `TST` (R166). -/
def execTst (p : Bool) (o : TOp) (s : State) : Out := s.postTile (.tst p o)

/-- `TTRQ` (R176). -/
def execTtrq (ax : Bool) (o : TOp) (s : State) : Out := s.postTile (.ttrq ax o)

/-- `TRECV` (R182). -/
def execTrecv (x : Bool) (o : TOp) (s : State) : Out := s.postTile (.trecv x o)

end Sys2Proof.Machine
end

