-- ==== Sys2Proof/Machine/Dispatch.lean ====
section
/-! DEFINITION. One arm for each constructor of `Instr`: its meaning, or a refusal by name. -/

namespace Sys2Proof.Machine

/-- What an instruction or event does to the state. -/
def exec (i : Instr) (s : State) : Host.Outcome State Fault Refusal :=
  match i with
  | .add o => Sys2Proof.Machine.execAdd o s
  | .sub o => Sys2Proof.Machine.execSub o s
  | .mul o => Sys2Proof.Machine.execMul o s
  | .mulh uns o => Sys2Proof.Machine.execMulh uns o s
  | .div uns o => Sys2Proof.Machine.execDiv uns o s
  | .rem uns o => Sys2Proof.Machine.execRem uns o s
  | .and o => Sys2Proof.Machine.execAnd o s
  | .or o => Sys2Proof.Machine.execOr o s
  | .xor o => Sys2Proof.Machine.execXor o s
  | .andn o => Sys2Proof.Machine.execAndn o s
  | .shl o => Sys2Proof.Machine.execShl o s
  | .shr o => Sys2Proof.Machine.execShr o s
  | .sar o => Sys2Proof.Machine.execSar o s
  | .rol o => Sys2Proof.Machine.execRol o s
  | .min uns o => Sys2Proof.Machine.execMin uns o s
  | .max uns o => Sys2Proof.Machine.execMax uns o s
  | .cmp c o => Sys2Proof.Machine.execCmp c o s
  | .sel o => Sys2Proof.Machine.execSel o s
  | .clz o => Sys2Proof.Machine.execClz o s
  | .ctz o => Sys2Proof.Machine.execCtz o s
  | .popc o => Sys2Proof.Machine.execPopc o s
  | .bswap o => Sys2Proof.Machine.execBswap o s
  | .addi o => Sys2Proof.Machine.execAddi o s
  | .andi o => Sys2Proof.Machine.execAndi o s
  | .ori o => Sys2Proof.Machine.execOri o s
  | .xori o => Sys2Proof.Machine.execXori o s
  | .shli o => Sys2Proof.Machine.execShli o s
  | .shri o => Sys2Proof.Machine.execShri o s
  | .sari o => Sys2Proof.Machine.execSari o s
  | .roli o => Sys2Proof.Machine.execRoli o s
  | .ldi o => Sys2Proof.Machine.execLdi o s
  | .lih o => Sys2Proof.Machine.execLih o s
  | .cmpi c o => Sys2Proof.Machine.execCmpi c o s
  | .bfx sx o => Sys2Proof.Machine.execBfx sx o s
  | .bfi o => Sys2Proof.Machine.execBfi o s
  | .fadd f o => Sys2Proof.Machine.execFadd f o s
  | .fsub f o => Sys2Proof.Machine.execFsub f o s
  | .fmul f o => Sys2Proof.Machine.execFmul f o s
  | .fdiv f o => Sys2Proof.Machine.execFdiv f o s
  | .fsqrt f o => Sys2Proof.Machine.execFsqrt f o s
  | .fmin f o => Sys2Proof.Machine.execFmin f o s
  | .fmax f o => Sys2Proof.Machine.execFmax f o s
  | .ffma f o => Sys2Proof.Machine.execFfma f o s
  | .fcmp f c o => Sys2Proof.Machine.execFcmp f c o s
  | .fcvt dst src o => Sys2Proof.Machine.execFcvt dst src o s
  | .fclass f o => Sys2Proof.Machine.execFclass f o s
  | .br c o => Sys2Proof.Machine.execBr c o s
  | .bri c o => Sys2Proof.Machine.execBri c o s
  | .jmp o => Sys2Proof.Machine.execJmp o s
  | .call o => Sys2Proof.Machine.execCall o s
  | .jr o => Sys2Proof.Machine.execJr o s
  | .callr o => Sys2Proof.Machine.execCallr o s
  | .loop n o => Sys2Proof.Machine.execLoop n o s
  | .lbrk n c o => Sys2Proof.Machine.execLbrk n c o s
  | .waitf all o => Sys2Proof.Machine.execWaitf all o s
  | .yield o => Sys2Proof.Machine.execYield o s
  | .exit o => Sys2Proof.Machine.execExit o s
  | .nop o => Sys2Proof.Machine.execNop o s
  | .illegalInstruction w step => Sys2Proof.Machine.execIllegalInstruction w step s
  | .ld t o => Sys2Proof.Machine.execLd t o s
  | .st z o => Sys2Proof.Machine.execSt z o s
  | .lda sc t o => Sys2Proof.Machine.execLda sc t o s
  | .str sc z o => Sys2Proof.Machine.execStr sc z o s
  | .lds t o => Sys2Proof.Machine.execLds t o s
  | .sts z o => Sys2Proof.Machine.execSts z o s
  | .amo ord sc t o => Sys2Proof.Machine.execAmo ord sc t o s
  | .cas ord sc t o => Sys2Proof.Machine.execCas ord sc t o s
  | .pref h o => Sys2Proof.Machine.execPref h o s
  | .lea o => Sys2Proof.Machine.execLea o s
  | .convoy o => Sys2Proof.Machine.execConvoy o s
  | .vecEgArrival member => Sys2Proof.Machine.execVecEgArrival member s
  | .vshape n o => Sys2Proof.Machine.execVshape n o s
  | .vadd o => Sys2Proof.Machine.execVadd o s
  | .vsub o => Sys2Proof.Machine.execVsub o s
  | .vmul o => Sys2Proof.Machine.execVmul o s
  | .vmulh o => Sys2Proof.Machine.execVmulh o s
  | .vfma o => Sys2Proof.Machine.execVfma o s
  | .vfms o => Sys2Proof.Machine.execVfms o s
  | .vfnma o => Sys2Proof.Machine.execVfnma o s
  | .vdiv o => Sys2Proof.Machine.execVdiv o s
  | .vsqrt o => Sys2Proof.Machine.execVsqrt o s
  | .vrcp o => Sys2Proof.Machine.execVrcp o s
  | .vrsq o => Sys2Proof.Machine.execVrsq o s
  | .vexp2 o => Sys2Proof.Machine.execVexp2 o s
  | .vlog2 o => Sys2Proof.Machine.execVlog2 o s
  | .vsin o => Sys2Proof.Machine.execVsin o s
  | .vcos o => Sys2Proof.Machine.execVcos o s
  | .vtanh o => Sys2Proof.Machine.execVtanh o s
  | .vmin o => Sys2Proof.Machine.execVmin o s
  | .vmax o => Sys2Proof.Machine.execVmax o s
  | .vabs o => Sys2Proof.Machine.execVabs o s
  | .vneg o => Sys2Proof.Machine.execVneg o s
  | .vand o => Sys2Proof.Machine.execVand o s
  | .vor o => Sys2Proof.Machine.execVor o s
  | .vxor o => Sys2Proof.Machine.execVxor o s
  | .vshl o => Sys2Proof.Machine.execVshl o s
  | .vshr o => Sys2Proof.Machine.execVshr o s
  | .vsar o => Sys2Proof.Machine.execVsar o s
  | .vcmp c o => Sys2Proof.Machine.execVcmp c o s
  | .vsel o => Sys2Proof.Machine.execVsel o s
  | .viota cnt o => Sys2Proof.Machine.execViota cnt o s
  | .vcvt o => Sys2Proof.Machine.execVcvt o s
  | .vquant o => Sys2Proof.Machine.execVquant o s
  | .vdeq o => Sys2Proof.Machine.execVdeq o s
  | .vredo op o => Sys2Proof.Machine.execVredo op o s
  | .vredt op o => Sys2Proof.Machine.execVredt op o s
  | .vscan op o => Sys2Proof.Machine.execVscan op o s
  | .vperm t o => Sys2Proof.Machine.execVperm t o s
  | .vbcast row o => Sys2Proof.Machine.execVbcast row o s
  | .vmovs hi o => Sys2Proof.Machine.execVmovs hi o s
  | .vins hi o => Sys2Proof.Machine.execVins hi o s
  | .vcompress o => Sys2Proof.Machine.execVcompress o s
  | .vexpand o => Sys2Proof.Machine.execVexpand o s
  | .vslide dn o => Sys2Proof.Machine.execVslide dn o s
  | .kand o => Sys2Proof.Machine.execKand o s
  | .kor o => Sys2Proof.Machine.execKor o s
  | .kxor o => Sys2Proof.Machine.execKxor o s
  | .kandn o => Sys2Proof.Machine.execKandn o s
  | .knot o => Sys2Proof.Machine.execKnot o s
  | .kcnt o => Sys2Proof.Machine.execKcnt o s
  | .kset f o => Sys2Proof.Machine.execKset f o s
  | .kfirst o => Sys2Proof.Machine.execKfirst o s
  | .kmov f o => Sys2Proof.Machine.execKmov f o s
  | .vld f o => Sys2Proof.Machine.execVld f o s
  | .vst f o => Sys2Proof.Machine.execVst f o s
  | .vldx b o => Sys2Proof.Machine.execVldx b o s
  | .vstx b o => Sys2Proof.Machine.execVstx b o s
  | .vlds f o => Sys2Proof.Machine.execVlds f o s
  | .vsts f o => Sys2Proof.Machine.execVsts f o s
  | .vbind o => Sys2Proof.Machine.execVbind o s
  | .vunbind nw o => Sys2Proof.Machine.execVunbind nw o s
  | .vspos r o => Sys2Proof.Machine.execVspos r o s
  | .tshape o => Sys2Proof.Machine.execTshape o s
  | .tzero o => Sys2Proof.Machine.execTzero o s
  | .tld p o => Sys2Proof.Machine.execTld p o s
  | .tst p o => Sys2Proof.Machine.execTst p o s
  | .tstp o => Sys2Proof.Machine.execTstp o s
  | .tcopy o => Sys2Proof.Machine.execTcopy o s
  | .tgetr o => Sys2Proof.Machine.execTgetr o s
  | .tgetc o => Sys2Proof.Machine.execTgetc o s
  | .tputr o => Sys2Proof.Machine.execTputr o s
  | .tputc o => Sys2Proof.Machine.execTputc o s
  | .mma o => Sys2Proof.Machine.execMma o s
  | .mmai o => Sys2Proof.Machine.execMmai o s
  | .mmaDrain post => Sys2Proof.Machine.execMmaDrain post s
  | .ttrq ax o => Sys2Proof.Machine.execTtrq ax o s
  | .tcvt o => Sys2Proof.Machine.execTcvt o s
  | .tadd o => Sys2Proof.Machine.execTadd o s
  | .tmul o => Sys2Proof.Machine.execTmul o s
  | .tscale o => Sys2Proof.Machine.execTscale o s
  | .tpref o => Sys2Proof.Machine.execTpref o s
  | .tdead o => Sys2Proof.Machine.execTdead o s
  | .tflagr o => Sys2Proof.Machine.execTflagr o s
  | .tflagc o => Sys2Proof.Machine.execTflagc o s
  | .tsend o => Sys2Proof.Machine.execTsend o s
  | .trecv x o => Sys2Proof.Machine.execTrecv x o s
  | .tgather o => Sys2Proof.Machine.execTgather o s
  | .tappend o => Sys2Proof.Machine.execTappend o s
  | .twait all o => Sys2Proof.Machine.execTwait all o s
  | .tzmap o => Sys2Proof.Machine.execTzmap o s
  | .tileEntryComplete post => Sys2Proof.Machine.execTileEntryComplete post s
  | .fillComplete slot => Sys2Proof.Machine.execFillComplete slot s
  | .spillComplete slot => Sys2Proof.Machine.execSpillComplete slot s
  | .cpy sp o => Sys2Proof.Machine.execCpy sp o s
  | .cpy2d sp o => Sys2Proof.Machine.execCpy2d sp o s
  | .transferComplete ix => Sys2Proof.Machine.execTransferComplete ix s
  | .binit o => Sys2Proof.Machine.execBinit o s
  | .barrive f o => Sys2Proof.Machine.execBarrive f o s
  | .bwait poll o => Sys2Proof.Machine.execBwait poll o s
  | .gbar o => Sys2Proof.Machine.execGbar o s
  | .spawn o => Sys2Proof.Machine.execSpawn o s
  | .gsig n o => Sys2Proof.Machine.execGsig n o s
  | .pgalloc o => Sys2Proof.Machine.execPgalloc o s
  | .pgfree o => Sys2Proof.Machine.execPgfree o s
  | .hmake fork o => Sys2Proof.Machine.execHmake fork o s
  | .hchk what o => Sys2Proof.Machine.execHchk what o s
  | .hmark o => Sys2Proof.Machine.execHmark o s
  | .htrunc o => Sys2Proof.Machine.execHtrunc o s
  | .mbpost o => Sys2Proof.Machine.execMbpost o s
  | .mbtake o => Sys2Proof.Machine.execMbtake o s
  | .mbpoll o => Sys2Proof.Machine.execMbpoll o s
  | .mbctlMode o => Sys2Proof.Machine.execMbctlMode o s
  | .mbctlBudget o => Sys2Proof.Machine.execMbctlBudget o s
  | .mbctlKill o => Sys2Proof.Machine.execMbctlKill o s
  | .xloop o => Sys2Proof.Machine.execXloop o s
  | .xgret o => Sys2Proof.Machine.execXgret o s
  | .xacc o => Sys2Proof.Machine.execXacc o s
  | .xend o => Sys2Proof.Machine.execXend o s
  | .xabort o => Sys2Proof.Machine.execXabort o s
  | .fence k o => Sys2Proof.Machine.execFence k o s
  | .cmo op o => Sys2Proof.Machine.execCmo op o s
  | .isync all o => Sys2Proof.Machine.execIsync all o s
  | .rng w32 o => Sys2Proof.Machine.execRng w32 o s
  | .csrr o => Sys2Proof.Machine.execCsrr o s
  | .csrw o => Sys2Proof.Machine.execCsrw o s
  | .csrx o => Sys2Proof.Machine.execCsrx o s
  | .policygenWrite o => Sys2Proof.Machine.execPolicygenWrite o s
  | .tmapbWrite o => Sys2Proof.Machine.execTmapbWrite o s
  | .tracectlWrite o => Sys2Proof.Machine.execTracectlWrite o s
  | .trap o => Sys2Proof.Machine.execTrap o s
  | .brk o => Sys2Proof.Machine.execBrk o s
  | .eret o => Sys2Proof.Machine.execEret o s
  | .wfe o => Sys2Proof.Machine.execWfe o s
  | .hcall o => Sys2Proof.Machine.execHcall o s
  | .etake o => Sys2Proof.Machine.execEtake o s
  | .epost o => Sys2Proof.Machine.execEpost o s
  | .ewdkick o => Sys2Proof.Machine.execEwdkick o s
  | .eyield o => Sys2Proof.Machine.execEyield o s
  | .eexit o => Sys2Proof.Machine.execEexit o s
  | .baseRiscv i0 => Sys2Proof.Machine.execBaseRiscv i0 s
  | .budgetExceeded core => Sys2Proof.Machine.execBudgetExceeded core s
  | .episodeException cause => Sys2Proof.Machine.execEpisodeException cause s
  | .scrubComplete core part => Sys2Proof.Machine.execScrubComplete core part s
  | .episodeLoad ctx => Sys2Proof.Machine.execEpisodeLoad ctx s
  | .episodeLoadComplete core part => Sys2Proof.Machine.execEpisodeLoadComplete core part s
  | .episodeRelease ctx => Sys2Proof.Machine.execEpisodeRelease ctx s
  | .episodeKill ctx => Sys2Proof.Machine.execEpisodeKill ctx s
  | .contextCreate ctx => Sys2Proof.Machine.execContextCreate ctx s
  | .contextSuspend ctx => Sys2Proof.Machine.execContextSuspend ctx s
  | .quiesceComplete ctx => Sys2Proof.Machine.execQuiesceComplete ctx s
  | .contextResume ctx => Sys2Proof.Machine.execContextResume ctx s
  | .contextDestroy ctx => Sys2Proof.Machine.execContextDestroy ctx s
  | .teardownComplete ctx => Sys2Proof.Machine.execTeardownComplete ctx s
  | .contextUpdate ctx => Sys2Proof.Machine.execContextUpdate ctx s
  | .tlbinv ctx => Sys2Proof.Machine.execTlbinv ctx s
  | .interruptUnmask ctx => Sys2Proof.Machine.execInterruptUnmask ctx s
  | .queueCreate ctx q => Sys2Proof.Machine.execQueueCreate ctx q s
  | .queueResume ctx q => Sys2Proof.Machine.execQueueResume ctx q s
  | .queueDrain ctx q => Sys2Proof.Machine.execQueueDrain ctx q s
  | .queueDestroy ctx q => Sys2Proof.Machine.execQueueDestroy ctx q s
  | .nodeTakeIn ctx q => Sys2Proof.Machine.execNodeTakeIn ctx q s
  | .nodeRetire ctx q => Sys2Proof.Machine.execNodeRetire ctx q s
  | .nodeLimitExpiry ctx q node => Sys2Proof.Machine.execNodeLimitExpiry ctx q node s
  | .qerrClear ctx q => Sys2Proof.Machine.execQerrClear ctx q s
  | .dispatcherNodeStart ctx q node => Sys2Proof.Machine.execDispatcherNodeStart ctx q node s
  | .copyNodeComplete ctx q node => Sys2Proof.Machine.execCopyNodeComplete ctx q node s
  | .loopIterationEnd ctx q node => Sys2Proof.Machine.execLoopIterationEnd ctx q node s
  | .minQuantumExpiry grp => Sys2Proof.Machine.execMinQuantumExpiry grp s
  | .threadSaveComplete core slot => Sys2Proof.Machine.execThreadSaveComplete core slot s
  | .sendArrival m => Sys2Proof.Machine.execSendArrival m s
  | .sendResponse id ack => Sys2Proof.Machine.execSendResponse id ack s
  | .poolPromote ctx => Sys2Proof.Machine.execPoolPromote ctx s
  | .promoteCopyEnd ix => Sys2Proof.Machine.execPromoteCopyEnd ix s
  | .poolHold ctx => Sys2Proof.Machine.execPoolHold ctx s
  | .waitfWake => Sys2Proof.Machine.execWaitfWake s
  | .yieldExpiry => Sys2Proof.Machine.execYieldExpiry s
  | .convoyComplete => Sys2Proof.Machine.execConvoyComplete s
  | .tileEntryIssue => Sys2Proof.Machine.execTileEntryIssue s
  | .tileEntryRetire => Sys2Proof.Machine.execTileEntryRetire s
  | .tileWatchdog => Sys2Proof.Machine.execTileWatchdog s
  | .bwaitWake => Sys2Proof.Machine.execBwaitWake s
  | .mbpostWake => Sys2Proof.Machine.execMbpostWake s
  | .mbtakeWake => Sys2Proof.Machine.execMbtakeWake s
  | .wfeWake => Sys2Proof.Machine.execWfeWake s
  | .hcallReply => Sys2Proof.Machine.execHcallReply s
  | .hcallEntryFree => Sys2Proof.Machine.execHcallEntryFree s
  | .etakeWake => Sys2Proof.Machine.execEtakeWake s
  | .epostWake => Sys2Proof.Machine.execEpostWake s
  | .groupPlace => Sys2Proof.Machine.execGroupPlace s
  | .remoteRequestTimeout => Sys2Proof.Machine.execRemoteRequestTimeout s
  | .turwardRetrain => Sys2Proof.Machine.execTurwardRetrain s
  | .junctionOvertemp => Sys2Proof.Machine.execJunctionOvertemp s
  | .spdmIdentity => Sys2Proof.Machine.execSpdmIdentity s
  | .spdmMeasurement => Sys2Proof.Machine.execSpdmMeasurement s
  | .telemetryRead => Sys2Proof.Machine.execTelemetryRead s
  | .packageReset => Sys2Proof.Machine.execPackageReset s
  | .codePageFetch => Sys2Proof.Machine.execCodePageFetch s
  | .tileSlotRequest core slot => Sys2Proof.Machine.execTileSlotRequest core slot s
  | .nodeAppend ctx q node => Sys2Proof.Machine.execNodeAppend ctx q node s
  | .remoteRequest r => Sys2Proof.Machine.execRemoteRequest r s
  | .portEnable p => Sys2Proof.Machine.execPortEnable p s
  | .portDisable p => Sys2Proof.Machine.execPortDisable p s
  | .podcfgWrite v => Sys2Proof.Machine.execPodcfgWrite v s
  | .trainingEnd p r => Sys2Proof.Machine.execTrainingEnd p r s
  | .trainingRetry p => Sys2Proof.Machine.execTrainingRetry p s
  | .laneLost p lane => Sys2Proof.Machine.execLaneLost p lane s
  | .replayLimit p => Sys2Proof.Machine.execReplayLimit p s
  | .marginMeasurement m => Sys2Proof.Machine.execMarginMeasurement m s
  | .firmwareUpdate image signature => Sys2Proof.Machine.execFirmwareUpdate image signature s
  | .spdmChallenge nonce => Sys2Proof.Machine.execSpdmChallenge nonce s
  | .minimumQuantumSet us => Sys2Proof.Machine.execMinimumQuantumSet us s
  | .portFence p => Sys2Proof.Machine.execPortFence p s
  | .controlRegionSizeSet gib => Sys2Proof.Machine.execControlRegionSizeSet gib s
  | .traceFlushTimeout core slot => Sys2Proof.Machine.execTraceFlushTimeout core slot s
  | .turwardHostAccess a => Sys2Proof.Machine.execTurwardHostAccess a s
  | .sendTimeout id => Sys2Proof.Machine.execSendTimeout id s

end Sys2Proof.Machine
end

