-- ==== Sys2Proof/Machine/Fetch.lean ====
section
/-! DEFINITION. Time, and the fetch of the thread at turn (04 R72, R73; 10 R242, R246; 21 R400; 12 R284). -/

namespace Sys2Proof.Machine

/-! ### Time -/

/-- The events of R400 that timing and the caches decide: cycles lost to the other thread, pairs, L1 misses, L2 misses. How many of them
a cycle brings is left free (log entry 96). -/
def Thread.countOpen (t : Thread) (v : Word) : Thread :=
  (((t.count 3 (v.toNat % 2)).count 4 (v.toNat / 2 % 2)).count 15 (bitsOf 17 2 v.toNat)).count 16 (bitsOf 33 18 v.toNat)

/-- A counter of the thread selects one of these events. -/
def Thread.selectsOpen (t : Thread) : Bool :=
  t.c.pmsel.toList.any fun x => let ev := (x.extractLsb' 0 8).toNat; ev == 3 || ev == 4 || ev == 15 || ev == 16

/-- The placed threads count those events, each by a free value of its own. -/
def State.countOpen (s : State) : State :=
  if s.threads.any fun t => t.live && t.selectsOpen then
    { s.mapThreads (fun t => if t.live then t.countOpen (Config.freeValue (s.drawn + 2 * t.id.core + t.id.slot)) else t) with
      drawn := s.drawn + 384 }
  else s

/-- Another package may write its own memory, of which a window shows a part: a free choice of whether, where and what in each cycle (log
entry 30). -/
def State.podWrites (s : State) : State :=
  if !s.podcfg.getLsbD 16 || s.podWins.isEmpty then s else
  let (v, s) := s.draw
  let (x, s) := s.draw
  match s.podWins[v.toNat / 2 % s.podWins.length]? with
  | none => s
  | some w =>
    let words := (w.last - w.base) / 8
    if !v.getLsbD 0 || words = 0 || paKind w.base != 2 then s
    else s.storePA (w.base / 8 * 8 + 8 * (v.toNat / 2 ^ 16 % words)) (toBytes 8 x.toNat)

/-- A core cycle passes: every placed thread counts it (R400 event 1), and so does every node with a group placed (R284). -/
def State.tick (s : State) : State :=
  let s := s.countOpen.podWrites
  let placed := (s.groups.filter fun g => g.state == .running || g.state == .stopping).map fun g => (g.ctx, g.q, g.node)
  let s := placed.dedup.foldl (fun s (n, q, a) => s.mapNode n q a fun x => { x with ran := x.ran + 1 }) s
  { s.mapThreads (fun t => if t.live then t.count 1 1 else t) with cycle := s.cycle + 1 }

/-! ### The thread at turn -/

/-- The block of the thread at turn: of this core and context, at this address. -/
def State.atPc (s : State) (b : IBlock) : Bool :=
  b.core == s.thr.id.core && b.ctx == s.thr.id.ctx && b.block == s.thr.pc.extractLsb' 6 42

/-- A line of code as fetch reads it from L2 (R242): a line that an L1 holds dirty is invisible there. Whether the L1 has written it back
meanwhile is left free (log entry 122). -/
def State.codeLine (s : State) (line : Nat) : BitVec 512 × State :=
  if s.coh.l1.any fun x => x.line == line then
    let (v, s) := s.draw
    if v.getLsbD 0 then
      let s := { s with coh := { s.coh with l1 := s.coh.l1.filter fun x => x.line != line } }
      (s.lineBelow line, s)
    else (s.lineBelow line, s)
  else (s.lineBelow line, s)

/-- The fetched block replaces the one in the instruction cache. -/
def State.fill (s : State) (pa : Nat) : State :=
  let (data, s) := s.codeLine (pa / 64)
  let b : IBlock := { core := s.thr.id.core, ctx := s.thr.id.ctx, block := s.thr.pc.extractLsb' 6 42, pa := pa, data := data }
  { s with icache := b :: s.icache.filter fun x => !s.atPc x }

/-- The line of the block at the thread's address cannot be corrected, and the instruction cache does not hold the block: the reader gets
UNCORRECTABLE (R377). -/
def State.fetchLost (s : State) : Bool :=
  match s.xlateCode s.thr.id.ctx s.thr.sup (s.thr.pc.toNat / 64 * 64) with
  | none => false
  | some pa => s.damage.uncorr.contains (pa / 64) && !s.icache.any fun b => s.atPc b && b.pa == pa

/-- The fetch of the block that holds the thread's address (R72, R242, R246): a block that the cache holds may still be used after
memory has changed, and is used where its line cannot be corrected. None where the page is not mapped. -/
def State.fetch (s : State) : Option State :=
  match s.xlateCode s.thr.id.ctx s.thr.sup (s.thr.pc.toNat / 64 * 64) with
  | none => none
  | some pa =>
    match s.icache.find? s.atPc with
    | none => some (s.fill pa)
    | some b =>
      if b.pa != pa then some (s.fill pa)
      else if b.data == BitVec.ofNat 512 (s.mem.num pa 64) || s.damage.uncorr.contains (pa / 64) then some s
      else
        let (v, s) := s.draw
        some (if v.getLsbD 0 then s else s.fill pa)

/-- The word at the thread's address, from the block that has been fetched. -/
def State.word (s : State) : Word :=
  match s.codeBlock s.thr.pc with
  | some b => blockWord b (s.thr.pc.extractLsb' 3 3).toNat
  | none => 0

/-- What a word is at the thread at turn (R73): an instruction, or the step of R73 that it fails. -/
def State.decodeAt (s : State) (w : Word) : Instr :=
  match decodeWord w with
  | .error n => .illegalInstruction w n
  | .ok i => if regsOk s.thr.hdr.vregs s.thr.hdr.tiles i then i else .illegalInstruction w 5

end Sys2Proof.Machine
end

