-- ==== Sys2Proof/Machine/Turn.lean ====
section
/-! DEFINITION. The turns of a step (log entry 26): the thread, the device's units, the Etesian core; and where the next instruction of a
step is placed (log entry 27). -/

namespace Sys2Proof.Machine

/-! ### The thread at turn -/

/-- Fetch, decode, run. A line of code that cannot be corrected traps at its reader (R377). -/
def State.runNext (s : State) : Out :=
  if s.fetchLost then .next (s.raise { cause := cUNCORRECTABLE, i0 := s.thr.pc.zeroExtend 64 }) else
  match s.fetch with
  | none => exec .codePageFetch s
  | some s => exec (s.decodeAt s.word) s

/-! ### Waiting for a port (R385, R387, R390) -/

/-- A context's windows reach memory of another package, or of the host where Turward is not usable. -/
def State.reachesPort (s : State) : Bool :=
  s.ctxs.toList.any fun c => c.state != .free && c.wins.any fun w =>
    w.valid && w.base < w.last &&
      ((!s.turward.usable && paKind w.base ≤ 1 && 1 ≤ paKind (w.last - 1)) || (s.podcfg.getLsbD 16 && 2 ≤ paKind (w.last - 1)))

/-- A step of a unit of the device. Where the step would go otherwise if every port were usable, one of its accesses meets
no usable port: the step waits, and takes place as it is once TMO has passed. -/
def State.patient (s : State) (k : UnitWork) (f : State → Out) : Out :=
  if !s.reachesPort then f s else
  let others := s.unitWaits.filter fun x => x.1 != k
  let wait : Out := .next { s with unitWaits := (k, s.cycle + s.tmo) :: others }
  match f s, f { s with lent := true } with
  | .next t, .next u =>
    let passed : Out := .next { t with unitWaits := t.unitWaits.filter fun x => x.1 != k }
    if { u with lent := s.lent } == t then passed else
    match s.unitWaits.find? fun x => x.1 == k with
    | none => wait
    | some (_, d) => if s.cycle < d then .fault .notEnabled else if s.cycle < d + s.tmo then passed else wait
  | o, _ => o

/-- A thread whose step waits has done nothing. -/
def waited (s : State) (o : Out) : Out :=
  match o with
  | .fault .notEnabled => .next s
  | o => o

/-- The thread may commit: its group runs; or the group stops, and the thread completes an `EXIT` or a trap, or the `GBAR` that a
completed instance has released (R304, R305, R307). -/
def State.mayCommit (s : State) : Bool :=
  match s.group s.thr.id.gid with
  | none => false
  | some g =>
    g.state == .running || (g.state == .stopping && (s.thr.held.isSome || s.released s.thr)) ||
    (match s.thr.wait with
     | .exit => true
     | .emptyTrap _ => g.state == .stopping
     | _ => false)

/-- The trace unit writes what the thread has queued (R395, R396), after a SYNC where 4,096 packets have passed since the last (R398). Without
a usable port the packets stay queued until TMO has passed. -/
def State.traceTurn (s : State) : State :=
  let s := if 4096 ≤ s.thr.trace.since then s.onThr fun t => t.sync s.cycle t.pc else s
  if s.thr.trace.queue.isEmpty then s else
  match s.patient (.trace s.thr.id.core s.thr.id.slot) (fun s => .next s.traceWrite) with
  | .next t => t
  | _ => s

/-- A thread has ended in a step, by `EXIT` or by a fault that ends its group: the step has done the dispatcher's work on its node. -/
def State.ended (s t : State) : Bool :=
  s.thr.live && (!t.thr.live || match t.group s.thr.id.gid with | some g => g.state == .aborted | none => true)

/-- The turn of a thread whose packets have been taken. A fault that its speculative iteration holds stops it; it is delivered at once when
the iteration is the oldest (R360). -/
def State.threadStep (s : State) : Out :=
    if !s.mayCommit || s.strokeHeld s.thr || (s.speculative && (s.thr.heldX || s.thr.faulted)) then .next s else
    match s.thr.held with
    | some (at_, f) => .next (s.raiseAt at_ f)
    | none =>
    match s.thr.wait with
    | .none | .exit | .emptyTrap _ | .gbar | .tileGet _ | .xabort | .bindPort _ => s.runNext
    | .remote d _ => if d ≤ s.cycle then exec .remoteRequestTimeout s else s.runNext
    | .waitf _ _ => exec .waitfWake s
    | .yield _ => exec .yieldExpiry s
    | .bwait _ _ _ _ => exec .bwaitWake s
    | .mbpost _ => exec .mbpostWake s
    | .mbtake _ => exec .mbtakeWake s
    | .wfe _ => exec .wfeWake s
    | .hcallEntry _ => exec .hcallEntryFree s
    | .hcallReply _ => exec .hcallReply s

/-- The turn of a thread. Where the thread ends, what its node's completion or fault needs of a port that is not usable waits for it (R385). -/
def State.threadTurn (s : State) : Out :=
  if !s.thr.live then .next s
  else
    let s := s.traceTurn
    if !s.reachesPort then s.threadStep else
    match s.threadStep with
    | .next t => if s.ended t then waited s (s.patient (.thread s.thr.id.core s.thr.id.slot) State.threadStep) else .next t
    | o => o

/-! ### The device's units -/

/-- An event that a step of the device may bring. -/
inductive Ev where
  | ins (i : Instr)
  | slotRequest (core slot : Nat)
  | traceFlush (core slot : Nat)
  | mapInit (core slot : Nat)
  | sendTimeout (id : Nat)
  | trainingRetry (p : Nat)
  deriving DecidableEq, Repr

/-- Events whose own meaning waits for a port (R385): transfers and chunks of copies, tile entries, convoys, sends, promotions. -/
def State.waitsItself (s : State) : Instr → Bool
  | .transferComplete _ | .tileEntryIssue | .tileEntryComplete _ | .tileEntryRetire | .mmaDrain _ | .tileWatchdog | .convoyComplete => true
  | .sendTimeout _ | .sendArrival _ | .sendResponse _ _ | .promoteCopyEnd _ => true
  | .copyNodeComplete n q a =>
    match s.node n q a with
    | some x => x.failed.isNone && s.copyRemote n (s.copyWork n x).2
    | none => true
  | _ => false

/-- The event takes place. -/
def State.happen (s : State) (e : Ev) : Out :=
  match e with
  | .ins i => if s.waitsItself i then exec i s else s.patient (.event i) (exec i)
  | .slotRequest c k => s.patient (.request c k) (execTileSlotRequest c k)
  | .traceFlush c k => s.patient (.trace c k) (execTraceFlushTimeout c k)
  | .mapInit c k => s.patient (.thread c k) (execMapInit c k)
  | .sendTimeout i => execSendTimeout i s
  | .trainingRetry p => execTrainingRetry p s

/-- The group of the thread at turn has been ordered to stop: its tile queue issues nothing more (R40). -/
def State.stopping (s : State) : Bool :=
  s.thr.wait != .exit &&
  match s.group s.thr.id.gid with
  | some g => g.state != .running
  | none => true

/-- The tile queue has an entry to issue, or a prefetch that has not begun (R165). -/
def Thread.toIssue (t : Thread) : Bool := !t.sup && (!t.prefs.isEmpty || t.tq.any fun e => e.st == .posted && !e.done && !e.skip)

/-- What an issued entry does next. -/
def TqEnt.progress (e : TqEnt) : Ev := .ins (if isMma e.ins then .mmaDrain e.post else .tileEntryComplete e.post)

/-- The oldest entry may retire. -/
def Thread.toRetire (t : Thread) : Bool :=
  match t.tq with
  | e :: _ => e.st == .completed || e.done || e.skip
  | [] => false

/-- The slots that an entry's sources have to be asked for from, or that no longer hold them (R236). -/
def State.awaySlots (s : State) (e : TqEnt) : List Ev :=
  (tReads e.ins).filterMap fun x =>
    let n := x.1.toNat
    if (s.ent n).f && !s.thr.olderWriter e x.1 && s.thr.away s n then some (.slotRequest (s.ent n).core.toNat (s.ent n).slot.toNat) else none

/-- Events of the tile queue of the thread at turn. -/
def State.tileEvents (s : State) : List Ev :=
  let t := s.thr
  let go := !s.stopping
  let issue : List Ev := if go && t.toIssue && !(s.speculative && t.faulted) then [.ins .tileEntryIssue] else []
  let run : List Ev := (t.tq.filter fun e => e.st == .issued && (go || !isMma e.ins)).map TqEnt.progress
  let retire : List Ev := if t.toRetire then [.ins .tileEntryRetire] else []
  let away : List Ev := if go then (t.tq.filter fun e => e.st == .posted).flatMap s.awaySlots else []
  let dog : List Ev := if go then [.ins .tileWatchdog] else []
  [issue, run, retire, away, dog].flatten

/-- Events of the streams of the thread at turn. -/
def State.streamEvents (s : State) : List Ev :=
  if !s.thr.live then [] else if s.thr.vq.isEmpty then s.tileEvents else .ins .convoyComplete :: s.tileEvents

/-- Fills and spills of the core of the thread at turn. -/
def State.moveEvents (s : State) : List Instr :=
  (s.core s.thr.id.core).moves.map fun m => if m.spill then .spillComplete m.slot else .fillComplete m.slot

/-- What a send waits for. -/
def State.sendEvents (s : State) (x : Send) : List Ev :=
  match x.answer with
  | some a => [.sendTimeout x.id, .ins (.sendResponse x.id a)]
  | none => if tokPkg x.token = s.pkgid then [.sendTimeout x.id, .ins (.sendArrival (s.localMsg x))] else [.sendTimeout x.id]

/-- What a placed thread waits for. -/
def slotEvents (t : Thread) : List Ev :=
  [.ins (.threadSaveComplete t.id.core t.id.slot), .traceFlush t.id.core t.id.slot] ++
  (if t.tmapReady then [] else [.mapInit t.id.core t.id.slot])

/-- Placement, saves, trace flushes, engine transfers, sends, promotions, ports. -/
def State.unitEvents (s : State) : List Ev :=
  let quanta : List Ev := s.groups.map fun g => .ins (.minQuantumExpiry g.gid)
  let slots : List Ev := (s.threads.filter (·.live)).flatMap slotEvents
  let copies : List Ev := (List.range s.transfers.length).map fun i => .ins (.transferComplete i)
  let sends : List Ev := s.sends.flatMap s.sendEvents
  let pages : List Ev := (List.range s.promotions.length).map fun i => .ins (.promoteCopyEnd i)
  let ports : List Ev := (List.range 24).map .trainingRetry
  .ins .groupPlace :: .ins .turwardRetrain :: [quanta, slots, copies, sends, pages, ports].flatten

/-- The Etesian cores' monitors: loads and scrubs. -/
def State.episodeEvents (s : State) : List Instr :=
  s.eps.flatMap fun x => [.episodeLoadComplete x.core x.unit, .scrubComplete x.core x.unit]

/-- The dispatcher's work on a node. -/
def nodeEvents (n q : Nat) (x : Node) : List Instr :=
  [.dispatcherNodeStart n q x.addr, .copyNodeComplete n q x.addr, .loopIterationEnd n q x.addr, .nodeLimitExpiry n q x.addr]

/-- The dispatcher's work on a queue. -/
def State.queueEvents (s : State) (n q : Nat) : List Instr :=
  [.queueCreate n q, .queueResume n q, .queueDrain n q, .queueDestroy n q, .qerrClear n q, .nodeTakeIn n q, .nodeRetire n q] ++
  (s.queue n q).nodes.flatMap (nodeEvents n q)

/-- The dispatcher's work on a context. -/
def State.ctxEvents (s : State) (n : Nat) : List Instr :=
  let cmds : List Instr := if (s.ctxCommand n).isSome || (s.ctx n).inv.isSome then
      [.contextCreate n, .contextSuspend n, .contextResume n, .contextDestroy n, .contextUpdate n, .tlbinv n] else []
  let own : List Instr := match (s.ctx n).state with
    | .free => []
    | .destroying => [.teardownComplete n]
    | _ => .quiesceComplete n :: .poolPromote n :: .poolHold n :: .episodeLoad n :: .episodeRelease n :: .episodeKill n ::
        (List.range 16).flatMap (s.queueEvents n)
  .interruptUnmask n :: (cmds.append own)

/-- The events that a step of the device may bring, those of the thread at turn first. -/
def State.events (s : State) : List Ev :=
  let ins : List Instr := [s.moveEvents, s.episodeEvents, (List.range 64).flatMap s.ctxEvents].flatten
  [s.streamEvents, s.unitEvents, ins.map .ins].flatten

/-- The event's condition holds. -/
def State.enabled (s : State) (e : Ev) : Bool :=
  match s.happen e with
  | .next _ => true
  | _ => false

/-- The turn of the device's units: one event of those that can happen, each in its turn; none where none can. The number of the
round, in which every thread has had a turn, picks it. -/
def State.deviceTurn (s : State) : Out :=
  let l := s.events.filter s.enabled
  match l[s.cycle / (3 * (s.parked.length + 1)) % max 1 l.length]? with
  | some e => s.happen e
  | none => .next s

/-- Fills and spills of a core without a thread go on: the core takes the place of the thread at turn for one event. -/
def State.idleCore (s : State) : State :=
  let idle := (List.range 192).find? fun c =>
    !(s.core c).moves.isEmpty && !s.threads.any fun t => t.live && t.id.core == c
  match idle with
  | none => s
  | some c =>
    let u : Thread := { Thread.none with id := { Thread.none.id with core := c } }
    let s' := { s with thr := u, parked := s.thr :: s.parked }
    match s'.moveEvents.findSome? fun i => match s'.patient (.event i) (exec i) with | .next x => some x | _ => none with
    | some x =>
      match x.parked with
      | t :: l => { x with thr := t, parked := l }
      | [] => s
    | none => s

/-! ### The Etesian core at turn -/

/-- The turn of an Etesian core (R331, R339, R345). -/
def State.hartTurn (s : State) : Out :=
  match s.hartEp with
  | none => .next (s.passCore s.ecur)
  | some x =>
    if !x.runnable then .next (s.passCore s.ecur) else
    match x.wait with
    | .take _ => exec .etakeWake s
    | .post _ => exec .epostWake s
    | .none =>
      if x.budget ≤ x.count && s.charged x then exec (.budgetExceeded s.ecur) s else
      match s.hartFetched x with
      | .error c => exec (.episodeException c) s
      | .ok i => exec i s

/-! ### One step -/

/-- What follows a turn. -/
def andThen (o : Out) (f : State → State) : Out :=
  match o with
  | .next s => .next (f s)
  | .fault r => .fault r
  | .refused r => .refused r

/-- The turn passes from the thread to the device. -/
def State.toDevice (s : State) : State := { s with turn := .device }

/-- The turn passes from the device to the Etesian core. -/
def State.toHart (s : State) : State := { s.idleCore with turn := .hart }

/-- The turn passes from the Etesian core to the next thread, and the next Etesian core will follow. -/
def State.toThread (s : State) : State :=
  let s := { s with turn := .thread, ecur := (s.ecur + 1) % 64 }
  match s.parked.filter (·.live) with
  | [] => { s with parked := [] }
  | t :: l => { s with thr := t, parked := l ++ (if s.thr.live then [s.thr] else []) }

/-- Rows of the opcode table that are no instruction of a thread or a hart. -/
def isEvent (i : Instr) : Bool := (encode64 i).isNone && (encodeEtesian i).isNone

/-- An event that is due takes place; one whose condition does not hold is dropped. -/
def State.due (s : State) (i : Instr) : Out :=
  if !isEvent i then .next s else
  match exec i s with
  | .fault .notEnabled => .next s
  | o => o

/-! ### Placing the next instruction (log entry 27) -/

/-- A header that admits every register and tile. -/
def probeHdr : Header :=
  { entry := 0, group := 1, slots := 176, vregs := 64, tiles := 512, nsb := 8, trace := false, hach := false, prot := false, mapbase := 0 }

/-- A running group of one thread. -/
def probeGroup : Group :=
  { gid := 0, ctx := 0, q := 0, node := 0, gidx := 0, n := 1, state := .running, hdr := probeHdr, quadrant := 0, placedAt := 0,
    quantumAt := 0, quantumUp := false, threads := [(0, 0, false)], opened := 0, counts := [0], arr := 0, exited := 0, passing := 0 }

/-- The state with a word of a thread placed where its next step fetches: the thread runs in context 0, whose code space maps the
gigabyte of its address, and the word stands there. -/
def State.placeWord (s : State) (w : Nat) : State :=
  let pc := s.thr.pc
  let mem := ((s.mem.write (0x1000 + 8 * (pc.toNat / 2 ^ 39 % 512)) (toBytes 8 0x2001)).write
    (0x2000 + 8 * (pc.toNat / 2 ^ 30 % 512)) (toBytes 8 0x40000003)).write (0x40000000 + pc.toNat % 2 ^ 30) (toBytes 8 w)
  let c := s.ctx 0
  let c := { c with state := .active, croot := 0x1000, wins := c.wins.set 0 ⟨true, true, 0, 0x8000⟩, seen := mem, stale := [], gone := [] }
  let t := { s.thr with
    live := true, id := { Thread.none.id with ctx := 0 }, hdr := probeHdr, sup := false, wait := .none, heldX := false, held := none, vq := [], tq := []
    tmap := List.replicate 512 (TEnt.unpack 0), tmapReady := true, trace := ⟨[], [], [], 0, 0, 0, 0⟩ }
  { s.setCtx 0 c with
    thr := t, mem := mem, icache := [], groups := [probeGroup], regions := [], agenda := [], turn := .thread
    damage := ⟨[], [], [], [], [], [], [], []⟩, coh := { s.coh with l1 := [] } }

/-- The state with a word of a hart placed where its next step fetches: an episode runs on the Etesian core at turn, and the word
stands at the first byte of its partition. -/
def State.placeHart (s : State) (w : Nat) : State :=
  let hart : Hart := { x := Vector.replicate 32 0, pc := 0, resv := none, taken := false, estep := 0, egen := 0, instret := 0 }
  let x : Episode :=
    { ctx := 0, e := 0, state := .ready, core := s.ecur, unit := 0, lunits := 1, frames := [], hart := hart, wait := .none, step := 0
      base := 0, mode := 0, modeNext := none, budget := 65536, budgetNext := none, kicksCfg := 0, kicks := 0, count := 0, acts := []
      obs := [], returned := [], final := none, scrubbing := false, freeAfter := false, cmdSeq := none, icmd := false, iend := false
      ivec := 0 }
  let c := s.ecore s.ecur
  { s.setEcore s.ecur { c with sram := c.sram.write 0 (toBytes 4 w), running := some (0, 0) } with
    eps := [x], agenda := [], turn := .hart }

end Sys2Proof.Machine
end

