-- ==== Sys2Proof/Machine/Step.lean ====
section
/-! DEFINITION. One step of the package, and the state in which the next step runs a given word. -/

namespace Sys2Proof.Machine

/-- One step: an event that is due, else the agent at turn. -/
def step (s : State) : Out :=
  let s := s.tick
  match s.agenda with
  | i :: l => { s with agenda := l }.due i
  | [] =>
    match s.turn with
    | .thread => andThen s.threadTurn State.toDevice
    | .device => andThen s.deviceTurn State.toHart
    | .hart => andThen s.hartTurn State.toThread

/-- The state in which the next step fetches and runs the instruction of a table row: a hart's where the row has 32 bits or fewer. -/
def State.withFetchWord (s : State) (nbits w : Nat) : State := if nbits ≤ 32 then s.placeHart w else s.placeWord w

end Sys2Proof.Machine
end

