-- ==== Sys2Proof/Safety.lean ====
section
/-! DEFINITION. The terms in which claims are stated: when the scalar stream executes an instruction, what an instruction leaves as
it was, and the invariants of a step. -/

namespace Sys2Proof.Machine

/-! ### When an instruction of the scalar stream executes -/

/-- No interlock holds the registers (02 R34, 06 R136, R150), none that is read has a double error (19 R376), and a protected thread
meets no second mismatch (19 R380). -/
def State.Executes (s : State) (srcs dst : List (BitVec 6)) : Prop :=
  s.gWait (srcs ++ dst) = none ∧ s.gDamaged srcs = false ∧ s.takeMismatch.1 < 2

/-- The state once a single mismatch has been taken (19 R380): in every other case the state itself. -/
def State.checked (s : State) : State := s.takeMismatch.2

/-- The thread's streams are empty and nothing is damaged at its address or in its registers. -/
def State.Clear (s : State) : Prop :=
  s.thr.vq = [] ∧ s.thr.tq = [] ∧ s.damage.greg = [] ∧ s.damage.mismatch = [] ∧ s.damage.csr = []

/-- No hachure region is held by a group (18 R349). -/
def State.Serial (s : State) : Prop := s.regions = []

/-! ### What an instruction leaves as it was -/

/-- Only the thread has changed, and damage that has been met (19 R380). -/
def State.OnlyThread (s t : State) : Prop := t = { s with thr := t.thr, damage := t.damage }

/-- Only the thread and memory have changed, with what the caches hold of it (10 R241), and damage that has been met or overwritten
(19 R380, R381). -/
def State.OnlyMemory (s t : State) : Prop := t = { s with thr := t.thr, mem := t.mem, damage := t.damage, coh := t.coh }

/-- Only the thread and memory have changed, as above; a TLB of the thread's context may hold the translations of the tables as they stood
before (11 R266). -/
def State.OnlyStore (s t : State) : Prop :=
  ({ s with ctxs := t.ctxs } : State).OnlyMemory t ∧ (∀ n, n % 64 ≠ s.thr.id.ctx % 64 → t.ctx n = s.ctx n) ∧
    t.tctx = { s.tctx with stale := t.tctx.stale }

/-- Of a thread, only what a commit changes: the `g` registers, the loop counters, the address, the waits, the trace queue, INSTRET
and the counters. -/
def Thread.OnlyScalar (a b : Thread) : Prop :=
  b = { a with
    r := { a.r with g := b.r.g, loops := b.r.loops }
    c := { a.c with instret := b.c.instret, pmc := b.c.pmc }
    pc := b.pc, wait := b.wait, heldX := b.heldX, trace := b.trace }

/-- Of a thread, also FSTAT and RNGCTR. -/
def Thread.OnlyFloat (a b : Thread) : Prop :=
  b = { a with
    r := { a.r with g := b.r.g, loops := b.r.loops }
    c := { a.c with instret := b.c.instret, pmc := b.c.pmc, fstat := b.c.fstat, rngctr := b.c.rngctr }
    pc := b.pc, wait := b.wait, heldX := b.heldX, trace := b.trace }

/-- Every `g` register but those named is as it was. -/
def State.KeepsG (s t : State) (ds : List (BitVec 6)) : Prop := ∀ r, r ∉ ds → t.g r = s.g r

/-- Every byte of memory is as it was. -/
def State.KeepsMem (s t : State) : Prop := ∀ a, t.mem.get a = s.mem.get a

/-- Every byte of memory outside `n` bytes from `pa` is as it was. -/
def State.KeepsMemBut (s t : State) (pa n : Nat) : Prop := ∀ a, a < pa ∨ pa + n ≤ a → t.mem.get a = s.mem.get a

/-! ### Invariants -/

/-- Memory, what the caches' levels hold of it, the translations' memories, every scratchpad and every Etesian core's SRAM are in
canonical form. -/
def State.MemOk (s : State) : Prop :=
  s.mem.wf = true ∧ (∀ t ∈ s.threads, t.spad.wf = true) ∧ (∀ n < 64, (s.ctx n).seen.wf = true ∧ ∀ m ∈ (s.ctx n).stale, m.wf = true) ∧
    (∀ n < 64, (s.ecore n).sram.wf = true) ∧ s.coh.home.wf = true ∧ ∀ k ∈ s.spads, k.spad.wf = true

/-- The array clock is one of the settings of 01 R18: 600 to 850 MHz in steps of 25 MHz. -/
def State.ClockOk (s : State) : Prop := 600 ≤ s.mgmt.arrayClk ∧ s.mgmt.arrayClk ≤ 850 ∧ s.mgmt.arrayClk % 25 = 0

end Sys2Proof.Machine
end

