-- ==== Sys2Proof/Certificates/Slice0/Obligations.lean ====
section
/-! DEFINITION. The statements for the provers, family by family of the opcode table. The tables of namespace Sys2Proof.Claim say for
each instruction what a rule of spec/ says of it; the statements say that the model does so. -/

namespace Sys2Proof.Claim

open Machine

/-! ### Integer arithmetic (05 R94 to R98) -/

/-- A scalar instruction's reads, the register that it writes, and the value that it writes there. -/
structure Form where
  srcs : List (BitVec 6)
  dst : BitVec 6
  val : State → Word

/-- Three-register rows: d := f a b. -/
def form3 (o : SOp) (f : Word → Word → Word) : Form := ⟨[o.a, o.b], o.d, fun s => f (s.g o.a) (s.g o.b)⟩

/-- Two-register rows: d := f a. -/
def form2 (o : SOp) (f : Word → Word) : Form := ⟨[o.a], o.d, fun s => f (s.g o.a)⟩

/-- Immediate rows: d := f a imm, the immediate sign-extended. -/
def formI (o : IOp) (f : Word → Word → Word) : Form := ⟨[o.a], o.d, fun s => f (s.g o.a) (o.imm.signExtend 64)⟩

/-- Bits [5:0] of a shift amount. -/
def amount (b : Word) : Nat := b.toNat % 64

/-- The signed or unsigned quotient, rounded toward zero (R95), with the borderline cases of R96. -/
def quotient (uns : Bool) (a b : Word) : Word :=
  if b = 0 then BitVec.allOnes 64
  else if uns then BitVec.ofNat 64 (a.toNat / b.toNat) else BitVec.ofInt 64 (a.toInt.tdiv b.toInt)

/-- The remainder a − b × quotient (R95): the dividend for a zero divisor (R96). -/
def residue (uns : Bool) (a b : Word) : Word := if b = 0 then a else a - b * quotient uns a b

/-- The high half of the signed or unsigned product (R95). -/
def highHalf (uns : Bool) (a b : Word) : Word :=
  if uns then BitVec.ofNat 64 (a.toNat * b.toNat / 2 ^ 64) else BitVec.ofInt 64 (a.toInt * b.toInt / 2 ^ 64)

/-- The conditions of R94. -/
def holds : Cond → Word → Word → Bool
  | .eq, a, b => decide (a = b)
  | .ne, a, b => decide (a ≠ b)
  | .lt, a, b => decide (a.toInt < b.toInt)
  | .ge, a, b => decide (b.toInt ≤ a.toInt)
  | .ltn, a, b => decide (a.toNat < b.toNat)
  | .gen, a, b => decide (b.toNat ≤ a.toNat)
  | .any, a, b => decide (a &&& b ≠ 0)
  | .none, a, b => decide (a &&& b = 0)

/-- 1 or 0. -/
def one (b : Bool) : Word := if b then 1 else 0

/-- The least of two values, signed or unsigned. -/
def least (uns : Bool) (a b : Word) : Word :=
  if uns then (if a.toNat ≤ b.toNat then a else b) else (if a.toInt ≤ b.toInt then a else b)

/-- The greatest of two values, signed or unsigned. -/
def greatest (uns : Bool) (a b : Word) : Word :=
  if uns then (if a.toNat ≤ b.toNat then b else a) else (if a.toInt ≤ b.toInt then b else a)

/-- Bits of a value from bit 63 down (R95 `CLZ`). -/
def bitsDown (a : Word) : List Bool := (List.range 64).map fun i => a.getLsbD (63 - i)

/-- Bits of a value from bit 0 up (R95 `CTZ`). -/
def bitsUp (a : Word) : List Bool := (List.range 64).map a.getLsbD

/-- The zeros that a list of bits begins with. -/
def zeros (l : List Bool) : Word := BitVec.ofNat 64 (l.takeWhile fun b => !b).length

/-- The field [pos + w − 1 : pos], zero- or sign-extended (R98). -/
def field (sx : Bool) (a : Word) (pos w : Nat) : Word :=
  if sx then ((a >>> pos).setWidth w).signExtend 64 else ((a >>> pos).setWidth w).zeroExtend 64

/-- Bits [pos + w − 1 : pos] of d replaced by the low bits of a (R98). -/
def inserted (d a : Word) (pos w : Nat) : Word :=
  BitVec.ofNat 64 (d.toNat % 2 ^ pos + 2 ^ pos * (a.toNat % 2 ^ w) + 2 ^ (pos + w) * (d.toNat / 2 ^ (pos + w)))

/-- The integer rows of R95, R97 and R98 (`BFI` apart: its field must fit). -/
def intForm : Instr → Option Form
  | .add o => some (form3 o fun a b => a + b)
  | .sub o => some (form3 o fun a b => a - b)
  | .mul o => some (form3 o fun a b => a * b)
  | .mulh u o => some (form3 o fun a b => highHalf u a b)
  | .div u o => some (form3 o fun a b => quotient u a b)
  | .rem u o => some (form3 o fun a b => residue u a b)
  | .and o => some (form3 o fun a b => a &&& b)
  | .or o => some (form3 o fun a b => a ||| b)
  | .xor o => some (form3 o fun a b => a ^^^ b)
  | .andn o => some (form3 o fun a b => a &&& ~~~b)
  | .shl o => some (form3 o fun a b => a <<< amount b)
  | .shr o => some (form3 o fun a b => a >>> amount b)
  | .sar o => some (form3 o fun a b => a.sshiftRight (amount b))
  | .rol o => some (form3 o fun a b => a <<< amount b ||| a >>> (64 - amount b))
  | .min u o => some (form3 o fun a b => least u a b)
  | .max u o => some (form3 o fun a b => greatest u a b)
  | .cmp c o => some (form3 o fun a b => one (holds c a b))
  | .sel o => some ⟨[o.a, o.b, o.c], o.d, fun s => if s.g o.c = 0 then s.g o.b else s.g o.a⟩
  | .clz o => some (form2 o fun a => zeros (bitsDown a))
  | .ctz o => some (form2 o fun a => zeros (bitsUp a))
  | .popc o => some (form2 o fun a => BitVec.ofNat 64 ((bitsUp a).count true))
  | .bswap o => some (form2 o fun a => BitVec.ofNat 64 (ofBytes (toBytes 8 a.toNat).reverse))
  | .addi o => some (formI o fun a i => a + i)
  | .andi o => some (formI o fun a i => a &&& i)
  | .ori o => some (formI o fun a i => a ||| i)
  | .xori o => some (formI o fun a i => a ^^^ i)
  | .shli o => some (formI o fun a i => a <<< amount i)
  | .shri o => some (formI o fun a i => a >>> amount i)
  | .sari o => some (formI o fun a i => a.sshiftRight (amount i))
  | .roli o => some (formI o fun a i => a <<< amount i ||| a >>> (64 - amount i))
  | .ldi o => some ⟨[], o.d, fun _ => o.imm.signExtend 64⟩
  | .lih o => some (formI o fun a _ => BitVec.ofNat 64 (a.toNat % 2 ^ 36 + 2 ^ 36 * (o.imm.toNat % 2 ^ 28)))
  | .cmpi c o => some (formI o fun a i => one (holds c a i))
  | .bfx x o => some (formI o fun a _ => field x a o.pos o.width)
  | .bfi o => some ⟨[o.a, o.d], o.d, fun s => inserted (s.g o.d) (s.g o.a) o.pos o.width⟩
  | _ => none

end Sys2Proof.Claim

open Sys2Proof Sys2Proof.Machine Sys2Proof.Claim

/-- R93, R94, R95, R97, R98: an integer instruction that executes writes its result, which is taken from its sources before the write,
and commits; a write of g0 is discarded. Bit fields lie inside the register: R98 refuses any other word by step 4 of R73. -/
def Obligations.IntegerResult : Prop :=
  ∀ (i : Instr) (s : State) (f : Form), intForm i = some f → wf i = true → s.Executes f.srcs [f.dst] →
    exec i s = .next (s.checked.writeG f.dst (f.val s))

/-- The frame of the integer instructions (R93): every g register but the destination, every other register and control register,
every byte of memory and the rest of the package are as they were. -/
def Sys2Proof.Claim.IntegerFrame : Prop :=
  ∀ (i : Instr) (s : State) (f : Form), intForm i = some f → s.Executes f.srcs [f.dst] →
    ∃ t, exec i s = .next t ∧ s.KeepsG t [f.dst] ∧ s.KeepsMem t ∧ s.OnlyThread t ∧ s.thr.OnlyScalar t.thr

/-- R96: division never traps; the results of its borderline cases, in words of the rule; in every other case the quotient is exact and
rounded toward zero, and the remainder, which takes the sign of the dividend, is what is left. -/
def Obligations.DivisionCorners : Prop :=
  ∀ (o : SOp) (s : State), s.Clear →
    let a := s.g o.a
    let b := s.g o.b
    (b = 0 → ∀ u, exec (.div u o) s = .next (s.writeG o.d 0xFFFFFFFFFFFFFFFF) ∧ exec (.rem u o) s = .next (s.writeG o.d a)) ∧
    (a = 0x8000000000000000 → b = 0xFFFFFFFFFFFFFFFF →
      exec (.div false o) s = .next (s.writeG o.d 0x8000000000000000) ∧ exec (.rem false o) s = .next (s.writeG o.d 0)) ∧
    (b ≠ 0 → ¬ (a = 0x8000000000000000 ∧ b = 0xFFFFFFFFFFFFFFFF) → ∃ q r : Word,
      exec (.div false o) s = .next (s.writeG o.d q) ∧ exec (.rem false o) s = .next (s.writeG o.d r) ∧
        a.toInt = b.toInt * q.toInt + r.toInt ∧ r.toInt.natAbs < b.toInt.natAbs ∧
        (r = 0 ∨ (r.toInt < 0 ↔ a.toInt < 0))) ∧
    (b ≠ 0 → ∃ q r : Word,
      exec (.div true o) s = .next (s.writeG o.d q) ∧ exec (.rem true o) s = .next (s.writeG o.d r) ∧
        a.toNat = b.toNat * q.toNat + r.toNat ∧ r.toNat < b.toNat)

/-- R27, R93: g0 reads zero whatever is written, a write of another register is read back, and it leaves every other register. -/
def Obligations.RegisterWrite : Prop :=
  ∀ (s : State) (d : BitVec 6) (x : Word), (s.writeG d x).g 0 = 0 ∧ (d ≠ 0 → (s.writeG d x).g d = x) ∧ s.KeepsG (s.writeG d x) [d]

/-- R109: a word that commits outside the loops' end words goes on at the next word; supervisor mode steps no loop. At the end word of active
loops the highest-numbered one is stepped: it decrements its counter and goes back to its start while the count is left, and the others stay;
where its count was 1, the next of those that end there is stepped in the same way, and after the last one the thread goes on at the next
word. -/
def Sys2Proof.Claim.LoopStep : Prop :=
  ∀ (s : State),
    let l := fun k => vget s.thr.r.loops k
    let at_ := fun (k : Nat) => (l k).count ≠ 0 ∧ (l k).last = s.thr.pc
    let u := s.commit.thr
    let less := fun (v : Vector Loop 3) (k : Nat) => vset v k { l k with count := (l k).count - 1 }
    (((∀ k < 3, ¬ at_ k) ∨ s.thr.sup = true) → u.pc = s.thr.pc + 8 ∧ u.r.loops = s.thr.r.loops) ∧
    (s.thr.sup = false → ∀ n < 3, at_ n → (∀ k < 3, n < k → ¬ at_ k) →
      ((l n).count ≠ 1 → u.r.loops = less s.thr.r.loops n ∧ u.pc = (l n).start) ∧
      ((l n).count = 1 → (∀ k < n, ¬ at_ k) → u.r.loops = less s.thr.r.loops n ∧ u.pc = s.thr.pc + 8) ∧
      ((l n).count = 1 → ∀ m < n, at_ m → (∀ k < n, m < k → ¬ at_ k) →
        ((l m).count ≠ 1 → u.r.loops = less (less s.thr.r.loops n) m ∧ u.pc = (l m).start) ∧
        ((l m).count = 1 → (∀ k < m, ¬ at_ k) → u.r.loops = less (less s.thr.r.loops n) m ∧ u.pc = s.thr.pc + 8) ∧
        ((l m).count = 1 → ∀ j < m, at_ j →
          u.r.loops = less (less (less s.thr.r.loops n) m) j ∧ u.pc = if (l j).count = 1 then s.thr.pc + 8 else (l j).start)))

namespace Sys2Proof.Claim

open Machine

/-! ### Scalar floating point (05 R99 to R104) -/

/-- A rounding instruction: its reads, its destination, its field rm, and its bits and flags in a rounding context. -/
structure FpForm where
  srcs : List (BitVec 6)
  dst : BitVec 6
  rm : BitVec 3
  res : RCtx → State → Nat × FFlags

/-- An operand's value in a format, its low bits read with FTZ (R57, R99). -/
def operand (f : FFmt) (c : RCtx) (x : Word) : FVal := (fpFmt f).value ((fpFmt f).ftzIn c.ftz (x.toNat % 2 ^ (fpFmt f).width))

/-- Two operands, one exact result, one rounding (R100). -/
def fp3 (f : FFmt) (o : SOp) (op : RMode → FVal → FVal → ExVal) : FpForm :=
  ⟨[o.a, o.b], o.d, o.rm, fun c s => (fpFmt f).finish c (op c.rm (operand f c (s.g o.a)) (operand f c (s.g o.b)))⟩

/-- The rounding rows of R100 and R101. -/
def fpForm : Instr → Option FpForm
  | .fadd f o => some (fp3 f o addVal)
  | .fsub f o => some (fp3 f o fun m a b => addVal m a b.negate)
  | .fmul f o => some (fp3 f o fun _ a b => mulVal a b)
  | .fdiv f o => some (fp3 f o fun _ a b => divVal a b)
  | .fsqrt f o => some ⟨[o.a], o.d, o.rm, fun c s => (fpFmt f).finish c (sqrtVal (operand f c (s.g o.a)))⟩
  | .ffma f o => some ⟨[o.a, o.b, o.d], o.d, o.rm, fun c s =>
      (fpFmt f).finish c (fmaVal c.rm (operand f c (s.g o.a)) (operand f c (s.g o.b)) (operand f c (s.g o.d)))⟩
  | .fcvt d t o =>
      if cvtCode d < 8 ∧ cvtCode t < 8 then none else
      some ⟨[o.a], o.d, if exactConversion (cvtCode d) (cvtCode t) then 0 else o.rm, fun c s =>
        let r := convert (cvtCode d) (cvtCode t) c ((s.g o.a).toNat % 2 ^ tyWidth (cvtCode t))
        ((if d = .i32 then (BitVec.ofNat 32 r.1).signExtend 64 else BitVec.ofNat 64 r.1).toNat, r.2)⟩
  | _ => none

/-- FTZ of FMODE (R57), as the rows that do not round read it. -/
def ftz (s : State) : RCtx := { rm := .rne, ftz := s.thr.c.fmode.getLsbD 6, sat := s.thr.c.fmode.getLsbD 7 }

/-- The least or greatest of two operands (R100): a NaN gives way, and −0 is less than +0. -/
def fpExtreme (f : FFmt) (mx : Bool) (o : SOp) : Form :=
  ⟨[o.a, o.b], o.d, fun s =>
    BitVec.ofNat 64 ((fpFmt f).minMax mx ((fpFmt f).ftzIn (ftz s).ftz ((s.g o.a).toNat % 2 ^ (fpFmt f).width))
      ((fpFmt f).ftzIn (ftz s).ftz ((s.g o.b).toNat % 2 ^ (fpFmt f).width)))⟩

/-- The conditions of R102 on an order of two values, none where one is a NaN. -/
def fpHolds : FCond → Option Int → Bool
  | .un, d => d.isNone
  | .eq, d => d == some 0
  | .lt, d => d.any fun x => x < 0
  | .le, d => d.any fun x => x ≤ 0

/-- The rows of R100, R102 and R104 that round nothing and raise no flag. -/
def fpPlain : Instr → Option Form
  | .fmin f o => some (fpExtreme f false o)
  | .fmax f o => some (fpExtreme f true o)
  | .fcmp f c o => some ⟨[o.a, o.b], o.d, fun s => one (fpHolds c (cmpVal (operand f (ftz s) (s.g o.a)) (operand f (ftz s) (s.g o.b))))⟩
  | .fclass f o => some ⟨[o.a], o.d, fun s => BitVec.ofNat 64 ((classFmt f).classify ((s.g o.a).toNat % 2 ^ (classFmt f).width))⟩
  | _ => none

end Sys2Proof.Claim

/-- R56, R60, R63, R99 to R101, R103: a scalar floating-point instruction that rounds writes the bits of its one rounding, zero-extended
(an i32 result sign-extended), adds its flags to FSTAT, and in SR mode reserves one Philox block; nothing else of FSTAT is cleared. A
widening of floats ignores field c (R103); that it reserves no block then is the model's reading (log entry 11). -/
def Sys2Proof.Claim.FloatRounding : Prop :=
  ∀ (i : Instr) (s : State) (f : FpForm), fpForm i = some f → s.Executes f.srcs [f.dst] →
    let c := s.rctx f.rm
    exec i s = .next ((s.checked.onThr fun t => { t with c := { t.c with
        fstat := t.c.fstat ||| (f.res c s).2.zeroExtend 64
        rngctr := if c.rm = .sr then t.c.rngctr + 1 else t.c.rngctr } }).writeG f.dst (BitVec.ofNat 64 (f.res c s).1))

/-- R100, R102, R104: minimum, maximum, comparison and class round nothing and raise no flag. -/
def Sys2Proof.Claim.FloatPlain : Prop :=
  ∀ (i : Instr) (s : State) (f : Form), fpPlain i = some f → s.Executes f.srcs [f.dst] →
    exec i s = .next (s.checked.writeG f.dst (f.val s))

/-- R103, R427: a conversion between integer types keeps a value that fits; in a narrowing, one that does not fit clamps and raises SA when
SAT is 1, and keeps the low bits without a flag when SAT is 0. That a conversion to the same or a greater width never clamps, and that none
reserves a Philox block, are the model's readings (log entries 110 and 11). -/
def Sys2Proof.Claim.IntegerConversion : Prop :=
  ∀ (d t : CvtTy) (o : SOp) (s : State), cvtCode d < 8 → cvtCode t < 8 → s.Executes [o.a] [o.d] →
    let x := readInt (tySigned (cvtCode t)) (tyWidth (cvtCode t)) (s.g o.a).toNat
    let lo := (intRange (tySigned (cvtCode d)) (tyWidth (cvtCode d))).1
    let hi := (intRange (tySigned (cvtCode d)) (tyWidth (cvtCode d))).2
    let clamped := tyWidth (cvtCode d) < tyWidth (cvtCode t) ∧ s.thr.c.fmode.getLsbD 7 ∧ ¬ (lo ≤ x ∧ x ≤ hi)
    let y := if clamped then (if x < lo then lo else hi) else x
    let v : Word := if d = .n32 then (BitVec.ofInt 32 y).zeroExtend 64 else if d = .i32 then (BitVec.ofInt 32 y).signExtend 64 else BitVec.ofInt 64 y
    exec (.fcvt d t o) s = .next
      ((s.checked.orFlags (if clamped then fSA else 0)).writeG o.d v)

/-- The frame of scalar floating point: of the control registers only FSTAT, RNGCTR and the counters of a commit change. -/
def Sys2Proof.Claim.FloatFrame : Prop :=
  ∀ (i : Instr) (s t : State) (srcs : List (BitVec 6)) (d : BitVec 6),
    ((∃ f, fpForm i = some f ∧ srcs = f.srcs ∧ d = f.dst) ∨ (∃ f, fpPlain i = some f ∧ srcs = f.srcs ∧ d = f.dst)) →
    s.Executes srcs [d] → exec i s = .next t →
      s.KeepsG t [d] ∧ s.KeepsMem t ∧ s.OnlyThread t ∧ s.thr.OnlyFloat t.thr ∧ s.thr.c.fstat ||| t.thr.c.fstat = t.thr.c.fstat

/-- R48, R56, R62: in every scalar format of the thread, a finite number that the format holds is rounded to itself, without a flag. -/
def Obligations.RoundExact : Prop :=
  ∀ (f : FpFmt), f ∈ [fmtF16, fmtBF16, fmtF32, fmtF64] → ∀ (c : RCtx) (x : Nat) (n : Bool) (m : Nat) (e : Int),
    x < 2 ^ f.width → f.value x = .fin n m e → c.ftz = false → f.finish c (f.value x).exact = (x, 0)

/-- The frame of scalar arithmetic: what an integer or floating-point instruction leaves as it was. -/
def Obligations.ArithmeticFrame : Prop := IntegerFrame ∧ FloatFrame

/-- The results of scalar floating point and of the conversions. -/
def Obligations.FloatResult : Prop := FloatRounding ∧ FloatPlain ∧ IntegerConversion

namespace Sys2Proof.Claim

open Machine

/-! ### Control transfers, loops and waits (05 R105 to R114) -/

/-- The target of a direct transfer: its offset counts in words from the word that holds it, modulo 2^48 (R71). -/
def target {n : Nat} (s : State) (off : BitVec n) : CodeAddr := BitVec.ofInt 48 (s.thr.pc.toNat + 8 * off.toInt)

/-- A conditional transfer: its reads, whether it is taken, and where to. -/
structure Branch where
  srcs : List (BitVec 6)
  taken : State → Bool
  dest : State → CodeAddr

/-- The conditional transfers of R105. -/
def branchForm : Instr → Option Branch
  | .br c o => some ⟨[o.a, o.b], fun s => holds c (s.g o.a) (s.g o.b), fun s => target s o.off⟩
  | .bri c o => some ⟨[o.a], fun s => holds c (s.g o.a) (o.imm.signExtend 64), fun s => target s o.off⟩
  | _ => none

/-- An unconditional transfer: its reads, where to, whether it writes g62, and whether a SYNC follows it (R398). -/
structure Jump where
  srcs : List (BitVec 6)
  dest : State → Word
  link : Bool
  indirect : Bool

/-- The jumps and calls of R105 and R106. -/
def jumpForm : Instr → Option Jump
  | .jmp o => some ⟨[], fun s => (target s o.off).zeroExtend 64, false, false⟩
  | .call o => some ⟨[], fun s => (target s o.off).zeroExtend 64, true, false⟩
  | .jr o => some ⟨[o.a], fun s => s.g o.a, false, true⟩
  | .callr o => some ⟨[o.a], fun s => s.g o.a, true, true⟩
  | _ => none

/-- The registers that a jump writes. -/
def Jump.dsts (j : Jump) : List (BitVec 6) := if j.link then [62] else []

end Sys2Proof.Claim

/-- R105: a conditional branch goes to its target exactly when its condition holds, and steps no loop there; otherwise it commits in
sequence. It writes no g register. -/
def Sys2Proof.Claim.BranchResult : Prop :=
  ∀ (i : Instr) (s : State) (f : Branch), branchForm i = some f → s.Executes f.srcs [] →
    ∃ t, exec i s = .next t ∧ s.KeepsG t [] ∧ s.KeepsMem t ∧ s.OnlyThread t ∧ s.thr.OnlyScalar t.thr ∧
      (f.taken s = true → t.thr.pc = f.dest s ∧ t.thr.r.loops = s.thr.r.loops) ∧
      (f.taken s = false → t.thr.pc = s.commit.thr.pc ∧ t.thr.r.loops = s.commit.thr.r.loops)

/-- R105, R106: a jump to an address of the code space, which holds whole words, goes there and steps no loop; a call writes PC + 8 to
g62, and reads its own operand first. -/
def Sys2Proof.Claim.JumpResult : Prop :=
  ∀ (i : Instr) (s : State) (f : Jump), jumpForm i = some f → s.Executes f.srcs f.dsts →
    (f.indirect = true → (f.dest s).toNat < 2 ^ 48 ∧ (f.dest s).toNat % 8 = 0) →
      ∃ t, exec i s = .next t ∧ t.thr.pc = (f.dest s).setWidth 48 ∧ t.thr.r.loops = s.thr.r.loops ∧
        (f.link = true → t.g 62 = (s.thr.pc + 8).zeroExtend 64) ∧
        s.KeepsG t f.dsts ∧ s.KeepsMem t ∧ s.OnlyThread t ∧ s.thr.OnlyScalar t.thr

/-- R106: an indirect jump outside the code space traps CODE_PAGE, one to an address that is not a word's MISALIGNED, each with the
address in TRAPINFO0, TRAPPC at the jump and no register written. -/
def Sys2Proof.Claim.JumpTrap : Prop :=
  ∀ (o : SOp) (s : State) (i : Instr), i = .jr o ∨ i = .callr o → s.Clear → s.Serial → s.thr.sup = false →
    ((s.g o.a).toNat ≥ 2 ^ 48 ∨ (s.g o.a).toNat % 8 ≠ 0) →
      ∃ t, exec i s = .next t ∧ t.thr.sup = true ∧ t.thr.pc = s.tctx.trapvec.setWidth 48 ∧ t.thr.c.trappc = s.thr.pc.zeroExtend 64 ∧
        t.thr.c.trapcause = (s.thr.pc.zeroExtend 64 <<< 16) + (if (s.g o.a).toNat ≥ 2 ^ 48 then 0x05 else 0x02) ∧
        t.thr.c.trapinfo = #v[s.g o.a, 0, 0, 0] ∧ s.KeepsG t []

/-- R108: `LOOP` sets the counter, the start after itself and the end at its offset, whatever the counter held. A count of 0 skips the
body; any other count commits in sequence, which enters the body where no other active loop ends at the `LOOP`. -/
def Sys2Proof.Claim.LoopResult : Prop :=
  ∀ (n : LoopIx) (o : BOp) (s : State), s.Executes [o.a] [] → 1 ≤ o.off.toInt →
    let l : Loop := ⟨s.g o.a, s.thr.pc + 8, target s o.off⟩
    let u := s.setLoop (loopNum n) l
    ∃ t, exec (.loop n o) s = .next t ∧ s.KeepsG t [] ∧ s.KeepsMem t ∧ s.OnlyThread t ∧ s.thr.OnlyScalar t.thr ∧
      (s.g o.a = 0 → t.thr.pc = target s o.off + 8 ∧ t.thr.r.loops = u.thr.r.loops) ∧
      (s.g o.a ≠ 0 → t.thr.pc = u.commit.thr.pc ∧ t.thr.r.loops = u.commit.thr.r.loops) ∧
      (s.g o.a ≠ 0 → (∀ k < 3, k = loopNum n ∨ (vget s.thr.r.loops k).count = 0 ∨ (vget s.thr.r.loops k).last ≠ s.thr.pc) →
        t.thr.pc = s.thr.pc + 8 ∧ vget t.thr.r.loops (loopNum n) = l)

/-- R110, R376: where its counter holds no double error, `LBRK` leaves an active loop when its condition holds: the address after the loop's end, and its counter and those of the
loops nested in it become 0; otherwise it falls through. -/
def Sys2Proof.Claim.LoopBreak : Prop :=
  ∀ (n : LoopIx) (c : Cond) (o : BOp) (s : State), s.Executes [o.a, o.b] [] → s.csrLost [0x018 + loopNum n] = false →
    let l := vget s.thr.r.loops (loopNum n)
    let taken := l.count ≠ 0 ∧ holds c (s.g o.a) (s.g o.b) = true
    ∃ t, exec (.lbrk n c o) s = .next t ∧ s.KeepsG t [] ∧ s.KeepsMem t ∧ s.OnlyThread t ∧ s.thr.OnlyScalar t.thr ∧
      (taken → t.thr.pc = l.last + 8 ∧
        ∀ k < 3, vget t.thr.r.loops k = { vget s.thr.r.loops k with count := if loopNum n ≤ k then 0 else (vget s.thr.r.loops k).count }) ∧
      (¬ taken → t.thr.pc = s.commit.thr.pc ∧ t.thr.r.loops = s.commit.thr.r.loops)

/-- R77, R113: `NOP` only commits. `YIELD` commits and is not ready for the cycles that it names. `WAITF` commits once its register, or
with `.all` the queue and every register, is full, and else it waits. -/
def Sys2Proof.Claim.WaitResult : Prop :=
  ∀ (s : State) (o : YOp), s.Executes [] [] →
    exec (.nop o) s = .next s.checked.commit ∧
    exec (.yield o) s = .next (if o.n12 = 0 then s.checked.commit else s.checked.commit.setWait (.yield (s.cycle + o.n12.toNat))) ∧
    (let n := (o.n12.extractLsb' 0 6).toNat
     exec (.waitf false o) s = .next (if vget s.thr.r.arr n = BitVec.allOnes 32 then s.checked.commit else s.checked.setWait (.waitf false n)) ∧
     ((s.thr.vq = [] ∧ ∀ k < 64, vget s.thr.r.arr k = BitVec.allOnes 32) → exec (.waitf true o) s = .next s.checked.commit) ∧
     (¬ (s.thr.vq = [] ∧ ∀ k < 64, vget s.thr.r.arr k = BitVec.allOnes 32) → exec (.waitf true o) s = .next (s.checked.setWait (.waitf true n))))

/-- R113: a waiting `WAITF` commits when its registers are full; a `YIELD` ends when its cycles have passed. -/
def Sys2Proof.Claim.WaitWakes : Prop :=
  ∀ (s : State),
    (∀ n, s.thr.wait = .waitf false n → vget s.thr.r.arr n = BitVec.allOnes 32 → exec .waitfWake s = .next s.commit) ∧
    (∀ n, s.thr.wait = .waitf true n → s.thr.vq = [] → (∀ k < 64, vget s.thr.r.arr k = BitVec.allOnes 32) →
      exec .waitfWake s = .next s.commit) ∧
    (∀ n, s.thr.wait = .waitf false n → vget s.thr.r.arr n ≠ BitVec.allOnes 32 → exec .waitfWake s = .next s) ∧
    (∀ u, s.thr.wait = .yield u → exec .yieldExpiry s = .next (if u ≤ s.cycle then s.setWait .none else s))

/-- R114: `EXIT` with its streams drained, the launch values of its map applied (R295) and outside a region ends the thread: its slot is
released. -/
def Sys2Proof.Claim.ExitEnds : Prop :=
  ∀ (s : State) (o : YOp), s.Clear → s.Serial → s.thr.tmapReady = true → ∃ t, exec (.exit o) s = .next t ∧ t.thr.live = false

/-- R114, R34: `EXIT` waits for the vector queue, and changes nothing but the wait. -/
def Sys2Proof.Claim.ExitWaits : Prop :=
  ∀ (s : State) (o : YOp), s.Executes [] [] → s.Serial → s.thr.vq ≠ [] → exec (.exit o) s = .next (s.checked.setWait .exit)

/-! ### Traps (04 R73, R74; 08 R218 to R220; 19 R364 to R372) -/

/-- R366, R365: trap entry of a thread in user mode whose vector queue is empty: TRAPPC, TRAPCAUSE with the cause, the stream and the
thread's address, TRAPINFO0 to 3, supervisor mode, and the address at TRAPVEC. No g register, no memory and no other state changes. -/
def Sys2Proof.Claim.TrapTaken : Prop :=
  ∀ (s : State) (at_ : TrapAt) (f : FaultInfo), s.Serial → s.thr.vq = [] → s.thr.sup = false →
    let t := s.raiseAt at_ f
    t.thr.sup = true ∧ t.thr.pc = s.tctx.trapvec.setWidth 48 ∧ t.thr.c.trappc = (at_.pc s.thr.pc).zeroExtend 64 ∧
      t.thr.c.trapcause = trapCause s.thr.pc at_.stream f.cause ∧ t.thr.c.trapinfo = #v[f.i0, f.i1, f.i2, f.i3] ∧
      (∀ p n, at_ = .tile p n → t.thr.c.tqindex = BitVec.ofNat 64 n) ∧ t.thr.wait = .none ∧
      t.thr.r = s.thr.r ∧ t.thr.tq = s.thr.tq ∧ t.thr.c.fmode = s.thr.c.fmode ∧ t.thr.c.fstat = s.thr.c.fstat ∧
      t.thr.c.instret = s.thr.c.instret ∧ s.KeepsMem t ∧ s.OnlyThread t

/-- R73, R74: a word that fails step n of R73 traps ILLEGAL with the word in TRAPINFO0 and the step in TRAPINFO1. -/
def Sys2Proof.Claim.IllegalTraps : Prop :=
  ∀ (s : State) (w : Word) (n : Nat), s.Serial → s.thr.vq = [] → s.thr.sup = false →
    ∃ t, exec (.illegalInstruction w n) s = .next t ∧ t.thr.sup = true ∧ t.thr.pc = s.tctx.trapvec.setWidth 48 ∧
      t.thr.c.trappc = s.thr.pc.zeroExtend 64 ∧ t.thr.c.trapcause = (s.thr.pc.zeroExtend 64 <<< 16) + 0x01 ∧
      t.thr.c.trapinfo = #v[w, BitVec.ofNat 64 n, 0, 0] ∧ t.thr.r = s.thr.r ∧ s.KeepsMem t

/-- R364 CODE_PAGE: a fetch from a page that is not mapped traps with the address in TRAPINFO0. -/
def Sys2Proof.Claim.FetchTraps : Prop :=
  ∀ (s : State), s.Serial → s.thr.vq = [] → s.thr.sup = false →
    s.xlateCode s.thr.id.ctx s.thr.sup (s.thr.pc.toNat / 64 * 64) = none →
    ∃ t, exec .codePageFetch s = .next t ∧ t.thr.sup = true ∧ t.thr.pc = s.tctx.trapvec.setWidth 48 ∧
      t.thr.c.trapcause = (s.thr.pc.zeroExtend 64 <<< 16) + 0x05 ∧ t.thr.c.trapinfo = #v[s.thr.pc.zeroExtend 64, 0, 0, 0] ∧
      t.thr.r = s.thr.r ∧ s.KeepsMem t

/-- Branches, jumps and calls, and the traps of indirect jumps. -/
def Obligations.ControlTransfer : Prop := BranchResult ∧ JumpResult ∧ JumpTrap

/-- The hardware loops: their start, their stepping, their break. -/
def Obligations.HardwareLoops : Prop := LoopStep ∧ LoopResult ∧ LoopBreak

/-- The waits of a thread, their ends, and its own end. -/
def Obligations.WaitsAndExit : Prop := WaitResult ∧ WaitWakes ∧ ExitEnds ∧ ExitWaits

/-- R218: `TRAP` and `BRK` trap with their cause, the register and the number. -/
def Sys2Proof.Claim.TrapAndBreak : Prop :=
  ∀ (s : State) (o : YOp), s.Clear → s.Serial → s.thr.sup = false →
    (∃ t, exec (.trap o) s = .next t ∧ t.thr.sup = true ∧ t.thr.pc = s.tctx.trapvec.setWidth 48 ∧ t.thr.c.trappc = s.thr.pc.zeroExtend 64 ∧
      t.thr.c.trapcause = (s.thr.pc.zeroExtend 64 <<< 16) + 0x0D ∧ t.thr.c.trapinfo = #v[s.g o.g, o.n12.zeroExtend 64, 0, 0] ∧
      t.thr.r = s.thr.r ∧ s.KeepsMem t) ∧
    (∃ t, exec (.brk o) s = .next t ∧ t.thr.sup = true ∧ t.thr.pc = s.tctx.trapvec.setWidth 48 ∧ t.thr.c.trappc = s.thr.pc.zeroExtend 64 ∧
      t.thr.c.trapcause = (s.thr.pc.zeroExtend 64 <<< 16) + 0x0E ∧ t.thr.c.trapinfo = #v[0, o.n12.zeroExtend 64, 0, 0] ∧
      t.thr.r = s.thr.r ∧ s.KeepsMem t)

/-- R219, R372, R376: `ERET` in supervisor mode, with no double error in TRAPPC or TRAPCAUSE, returns to user mode, at TRAPPC for STREAM 0 and 1 and at SPC for 2 and 3; with STREAM 2 the
entry that TQINDEX names is posted again, with SKIP as the handler left it; SKIP is cleared. An entry whose fault came of the shape that a
skipped one was to give its tile is posted again too (R157), and the wait of a posted entry for a slot begins anew (R374). Registers and
memory are unchanged. -/
def Sys2Proof.Claim.ReturnFromTrap : Prop :=
  ∀ (s : State) (o : YOp), s.Executes [] [] → s.thr.sup = true → s.csrLost [0x102, 0x103] = false →
    let tc := s.thr.c.trapcause
    let stream := tc.toNat / 1024 % 4
    ∃ t, exec (.eret o) s = .next t ∧ t.thr.sup = false ∧
      (stream < 2 → t.thr.pc = s.thr.c.trappc.setWidth 48) ∧ (2 ≤ stream → t.thr.pc = tc.extractLsb' 16 48) ∧
      (let thaw := fun (x : TqEnt) => if x.st = .posted then { x with since := 0 } else x
      (stream ≠ 2 → t.thr.tq = s.thr.tq.map thaw) ∧
      (stream = 2 → ∀ e ∈ s.thr.tq, ∃ x ∈ t.thr.tq, x.post = e.post ∧
        (e.post % 2 ^ 64 = s.thr.c.tqindex.toNat → x.st = .posted ∧ x.skip = tc.getLsbD 8) ∧ (e.post % 2 ^ 64 ≠ s.thr.c.tqindex.toNat →
          x = thaw (if tc.getLsbD 8 = true ∧ e.shapeFrom s.thr s.thr.c.tqindex.toNat = true then { e with st := .posted } else e)))) ∧
      t.thr.c.trapcause = tc &&& ~~~(0x100 : Word) ∧ t.thr.r = s.thr.r ∧ s.KeepsMem t ∧ s.OnlyThread t

/-- R189, R219: `ERET` in user mode traps ILLEGAL with step 7. -/
def Sys2Proof.Claim.ReturnPrivilege : Prop :=
  ∀ (s : State) (o : YOp), s.Clear → s.Serial → s.thr.sup = false →
    ∃ t, exec (.eret o) s = .next t ∧ t.thr.sup = true ∧ t.thr.c.trapcause = (s.thr.pc.zeroExtend 64 <<< 16) + 0x01 ∧
      t.thr.c.trapinfo = #v[(encode64 (.eret o)).getD 0, 7, 0, 0]

/-- R220, R283: a trap in supervisor mode is not delivered: once the thread's streams have settled, its slot is released and its save
record is held by the queue, beside those held before. In a group that has been stopped for good nothing happens (R304). -/
def Sys2Proof.Claim.DoubleFault : Prop :=
  ∀ (s : State) (at_ : TrapAt) (f : FaultInfo), s.Serial → s.thr.vq = [] → s.thr.sup = true → s.thr.settled = true →
    let t := s.raiseAt at_ f
    (s.groupAborted = false → t.thr.live = false ∧
      (t.queue s.thr.id.ctx s.thr.id.q).heldRec = (s.queue s.thr.id.ctx s.thr.id.q).heldRec ++ [s.thr.id.record]) ∧
    (s.groupAborted = true → t = s)

/-- R215: a control register that the mode may read, and that holds no double error, is read into g; the register itself, and every other
state, is as it was. A read of FSTAT waits for the vector queue (R63). -/
def Sys2Proof.Claim.CsrRead : Prop :=
  ∀ (s : State) (o : YOp), s.Executes [] [o.g] → csrModeOk s.thr.sup false o.n12.toNat = true →
    s.csrDamaged o.n12.toNat = false → (o.n12 = 0x012 → s.thr.vq = []) → exec (.csrr o) s = .next (s.checked.writeG o.g (s.csr o.n12.toNat))

/-- The registers that R216 gives to programs to write and that hold what is written. -/
def Sys2Proof.Claim.csrPlain (n : Nat) : Prop :=
  n ∈ [0x010, 0x011, 0x012, 0x013, 0x014, 0x018, 0x019, 0x01A, 0x101, 0x102, 0x103, 0x108] ∨ (0x040 ≤ n ∧ n ≤ 0x04F) ∨ (0x104 ≤ n ∧ n ≤ 0x107)

/-- What a register of R216 holds after a write: of ENGERR, writing 1 clears V and the cause stays (R217); every other takes the value. -/
def Sys2Proof.Claim.csrAfter (s : State) (n : Nat) (v : Word) : Word := if n = 0x031 then s.csr n &&& ~~~(v &&& 0x100) else v

/-- R215, R216, R217: a write that the mode allows, of a value that the register may take, gives what the next read of the register gives
(ENGERR: V is cleared by writing 1), and `CSRX` answers the old value; every other control register but the counters of a commit keeps its
value. The hardware loops and the counters are read before the word's own commit. -/
def Sys2Proof.Claim.CsrWrite : Prop :=
  ∀ (s : State) (o : YOp) (n : Nat), n = o.n12.toNat → (csrPlain n ∨ n = 0x031) → csrModeOk s.thr.sup true n = true → s.csrValueOk n (s.g o.g) = true →
    (n = 0x012 → s.thr.vq = []) →
    ∃ u : State, u.csr n = csrAfter s n (s.g o.g) ∧ (∀ m, m ≠ n → u.csr m = s.csr m) ∧ u.mem = s.mem ∧ u.thr.r.g = s.thr.r.g ∧ u.thr.pc = s.thr.pc ∧
      (s.Executes [o.g] [] → exec (.csrw o) s = .next u.commit) ∧
      (s.Executes [o.g] [o.g] → s.csrDamaged n = false → exec (.csrx o) s = .next (u.writeG o.g (s.csr n)))

/-- R189, R215: a write that the mode does not allow traps ILLEGAL with step 7; a value that the register does not take traps ILLEGAL
with step 4 and the value in TRAPINFO2. Neither writes a register. -/
def Sys2Proof.Claim.CsrTraps : Prop :=
  ∀ (s : State) (o : YOp), s.Clear → s.Serial → s.thr.sup = false →
    (csrModeOk false true o.n12.toNat = false →
      ∃ t, exec (.csrw o) s = .next t ∧ t.thr.sup = true ∧ t.thr.c.trapcause = (s.thr.pc.zeroExtend 64 <<< 16) + 0x01 ∧
        t.thr.c.trapinfo = #v[(encode64 (.csrw o)).getD 0, 7, 0, 0] ∧ t.thr.r = s.thr.r) ∧
    (csrModeOk false true o.n12.toNat = true → s.csrValueOk o.n12.toNat (s.g o.g) = false →
      ∃ t, exec (.csrw o) s = .next t ∧ t.thr.sup = true ∧ t.thr.c.trapcause = (s.thr.pc.zeroExtend 64 <<< 16) + 0x01 ∧
        t.thr.c.trapinfo = #v[(encode64 (.csrw o)).getD 0, 4, s.g o.g, 0] ∧ t.thr.r = s.thr.r)

/-- R216, R226, R347: the writes with effects of their own complete: POLICYGEN takes a greater value, TMAPB installs the map at a new base
that no other thread holds. Of TRACECTL, R394 says that a write takes effect at the next pre-emption point; that EN and WPTR stand in it
from the write's own commit is the model's reading (log entry 18). -/
def Sys2Proof.Claim.CsrSpecial : Prop :=
  ∀ (s : State) (o : YOp), s.Clear → s.Serial →
    (s.g o.g < 0x100000000 → s.tctx.policygen.toNat < (s.g o.g).toNat → s.thr.id.ctx < 64 →
      ∃ t, exec (.policygenWrite o) s = .next t ∧ t.tctx.policygen = s.g o.g ∧ s.KeepsG t []) ∧
    (s.csrValueOk 0x100 (s.g o.g) = true → csrModeOk s.thr.sup true 0x100 = true → s.tmapbState (s.g o.g) = .ready →
      ∃ t, exec (.tmapbWrite o) s = .next t ∧ t.thr.c.tmapb = s.g o.g ∧ s.KeepsG t []) ∧
    (s.csrValueOk 0x109 (s.g o.g) = true → csrModeOk s.thr.sup true 0x109 = true →
      ∃ t, exec (.tracectlWrite o) s = .next t ∧ t.thr.c.tracectl.getLsbD 0 = (s.g o.g).getLsbD 0 ∧
        t.thr.c.tracectl.extractLsb' 32 32 = (s.g o.g).extractLsb' 32 32 ∧ s.KeepsG t [])

/-- Taking an exception in user mode, and in supervisor mode. -/
def Obligations.TrapEntry : Prop := TrapTaken ∧ DoubleFault

/-- The instructions and words whose effect is a trap; returning from one, and the mode that it needs. -/
def Obligations.TrapCauses : Prop := IllegalTraps ∧ FetchTraps ∧ TrapAndBreak ∧ ReturnFromTrap ∧ ReturnPrivilege

/-- Reading and writing the control registers, their checks, and the writes with effects of their own. -/
def Obligations.ControlRegisters : Prop := CsrRead ∧ CsrWrite ∧ CsrTraps ∧ CsrSpecial

namespace Sys2Proof.Claim

open Machine

/-! ### Scalar memory (05 R115 to R127) -/

/-- The effective address of R117: base + index · 2^scale + the sign-extended offset, modulo 2^64. -/
def address (s : State) (o : MOp) : Word := s.g o.base + s.g o.index * BitVec.ofNat 64 (2 ^ o.scale.toNat) + BitVec.ofInt 64 o.off.toInt

/-- The effective address of an atomic (R117): off28 [27:24] is its operation. -/
def atomicAddress (s : State) (o : MOp) : Word := s.g o.base + BitVec.ofInt 64 (o.off.setWidth 24).toInt

/-- A data-space access of the scalar stream: its registers, its address, size, alignment, rights, and its kind in TRAPINFO1 (R118). -/
structure Access where
  srcs : List (BitVec 6)
  dsts : List (BitVec 6)
  ea : State → Word
  size : Nat
  natural : Bool
  read : Bool
  write : Bool
  kind : Nat

/-- The rows of R115 that access the data space. -/
def accessForm : Instr → Option Access
  | .ld t o => some ⟨[o.base, o.index], [o.t], fun s => address s o, ldBytes t, false, true, false, 0⟩
  | .lda _ t o => some ⟨[o.base, o.index], [o.t], fun s => address s o, ldBytes t, true, true, false, 0⟩
  | .st z o => some ⟨[o.t, o.base, o.index], [], fun s => address s o, szBytes z, false, false, true, 1⟩
  | .str _ z o => some ⟨[o.t, o.base, o.index], [], fun s => address s o, szBytes z, true, false, true, 1⟩
  | .amo _ _ t o => some ⟨[o.base, o.index], [o.t], fun s => atomicAddress s o, amoBytes t, true, true, true, 2⟩
  | .cas _ _ t o => some ⟨[o.base, o.index, o.t], [o.t], fun s => atomicAddress s o, amoBytes t, true, true, true, 3⟩
  | _ => none

/-- Order 1 of R118: an acquire, a release or an atomic not naturally aligned, or any other access that crosses a 64-byte line. -/
def Access.misaligned (f : Access) (s : State) : Prop :=
  if f.natural then (f.ea s).toNat % f.size ≠ 0 else (f.ea s).toNat / 64 ≠ ((f.ea s).toNat + f.size - 1) / 64

/-- `n` bytes of memory as a number, least significant byte first, extended to a register (R5, R119). -/
def loaded (m : Mem) (pa n : Nat) (sx : Bool) : Word :=
  let v := ofBytes ((List.range n).map fun k => m.get (pa + k))
  if sx then (BitVec.ofNat (8 * n) v).signExtend 64 else BitVec.ofNat 64 v

/-- Byte `k` of a value (R5). -/
def byteOf (v : Word) (k : Nat) : Byte := BitVec.ofNat 8 (v.toNat / 256 ^ k)

/-- The new value of an `AMO` at a width (R123). -/
def combined (op : AmoOp) (w : Nat) (old v : BitVec w) : BitVec w :=
  match op with
  | .add => old + v
  | .and => old &&& v
  | .or => old ||| v
  | .xor => old ^^^ v
  | .min => if old.toInt ≤ v.toInt then old else v
  | .max => if old.toInt ≤ v.toInt then v else old
  | .minn => if old.toNat ≤ v.toNat then old else v
  | .maxn => if old.toNat ≤ v.toNat then v else old
  | .swap => v

/-- The operation code in off28 [27:24] (R123). -/
def opOf (o : MOp) : Nat := o.off.toNat / 2 ^ 24

end Sys2Proof.Claim

/-- R123, R124: an atomic reads its bytes, writes what its operation makes of them, and answers the old value, extended; `CAS` stores only
where the old value is the one expected. Every other byte and register is as it was. -/
def Obligations.AtomicResult : Prop :=
  ∀ (s : State) (t : AmoTy) (o : MOp) (pa : Nat) (ord : MOrd) (sc : Scope), s.Serial → s.accessWaits = false → s.MemOk →
    (atomicAddress s o).toNat % amoBytes t = 0 → s.xlate s.thr.id.ctx s.thr.sup true (atomicAddress s o).toNat = .ok pa →
    s.dataErr s.thr.id.ctx true true pa = none →
    let n := amoBytes t
    let old := BitVec.ofNat (8 * n) (ofBytes ((List.range n).map fun k => s.mem.get (pa + k)))
    let v := (s.g o.index).setWidth (8 * n)
    let done := fun (new : BitVec (8 * n)) (u : State) => (∀ k < n, u.mem.get (pa + k) = byteOf (new.setWidth 64) k) ∧
      (o.t ≠ 0 → u.g o.t = if t = .i32 then old.signExtend 64 else old.setWidth 64) ∧
      s.KeepsMemBut u pa n ∧ s.KeepsG u [o.t] ∧ s.OnlyStore u ∧ s.thr.OnlyScalar u.thr ∧ u.thr.pc = s.commit.thr.pc
    (∀ op, AmoOp.ofCode (opOf o) = some op → s.Executes [o.base, o.index] [o.t] →
      ∃ u, exec (.amo ord sc t o) s = .next u ∧ done (combined op (8 * n) old v) u) ∧
    (s.Executes [o.base, o.index, o.t] [o.t] →
      ∃ u, exec (.cas ord sc t o) s = .next u ∧ done (if old = (s.g o.t).setWidth (8 * n) then v else old) u)

/-- R118: an access in user mode that meets an order traps with its cause, the first that applies: MISALIGNED, the fault of the walk,
then the errors of the data and the link. TRAPINFO0 is the address and TRAPINFO1 the kind; no register and no byte is written. -/
def Obligations.AccessTraps : Prop :=
  ∀ (s : State) (i : Instr) (f : Access) (cause : Nat), accessForm i = some f → s.Executes f.srcs f.dsts → s.Serial → s.thr.vq = [] →
    s.acqPending = false → s.thr.sup = false →
    ((f.misaligned s ∧ cause = 0x02) ∨
     (¬ f.misaligned s ∧ s.xlate s.thr.id.ctx false f.write (f.ea s).toNat = .error cause) ∨
     (¬ f.misaligned s ∧ ∃ pa, s.xlate s.thr.id.ctx false f.write (f.ea s).toNat = .ok pa ∧
        (s.noPort pa = false ∨ s.podRefused s.thr.id.ctx f.write pa = true) ∧ s.dataErr s.thr.id.ctx f.read f.write pa = some cause)) →
      ∃ t, exec i s = .next t ∧ t.thr.sup = true ∧ t.thr.pc = s.tctx.trapvec.setWidth 48 ∧ t.thr.c.trappc = s.thr.pc.zeroExtend 64 ∧
        t.thr.c.trapcause = trapCause s.thr.pc 0 cause ∧ t.thr.c.trapinfo = #v[f.ea s, BitVec.ofNat 64 f.kind, 0, 0] ∧
        t.thr.r = s.thr.r ∧ s.KeepsMem t

/-- R117, R119, R120: a load that R118 lets through reads its bytes, least significant first, and writes them extended; memory and
every other register are as they were. A store that R118 lets through writes the low bytes of its register at its address, and no other byte
of memory; it writes no register. `LD` and `ST` may lie anywhere inside a line; `LDA`, an acquire load, and `STR`, a release store, must be
naturally aligned. -/
def Obligations.LoadStore : Prop :=
  (∀ (s : State) (t : LdTy) (o : MOp) (pa : Nat), s.Executes [o.base, o.index] [o.t] → s.Serial → s.accessWaits = false →
      s.xlate s.thr.id.ctx s.thr.sup false (address s o).toNat = .ok pa → s.dataErr s.thr.id.ctx true false pa = none →
      let a := (address s o).toNat
      let u := s.checked.writeG o.t (loaded s.mem pa (ldBytes t) (ldSigned t))
      (a % 64 + ldBytes t ≤ 64 → exec (.ld t o) s = .next u) ∧ (a % ldBytes t = 0 → ∀ sc, exec (.lda sc t o) s = .next u)) ∧
  (∀ (s : State) (z : Size) (o : MOp) (pa : Nat), s.Executes [o.t, o.base, o.index] [] → s.Serial → s.accessWaits = false → s.MemOk →
      s.xlate s.thr.id.ctx s.thr.sup true (address s o).toNat = .ok pa → s.dataErr s.thr.id.ctx false true pa = none →
      let a := (address s o).toNat
      let done := fun (t : State) => (∀ k < szBytes z, t.mem.get (pa + k) = byteOf (s.g o.t) k) ∧ s.KeepsMemBut t pa (szBytes z) ∧
        s.KeepsG t [] ∧ s.OnlyStore t ∧ s.thr.OnlyScalar t.thr ∧ t.thr.pc = s.commit.thr.pc
      (a % 64 + szBytes z ≤ 64 → ∃ t, exec (.st z o) s = .next t ∧ done t) ∧
      (a % szBytes z = 0 → ∀ sc, ∃ t, exec (.str sc z o) s = .next t ∧ done t))

/-- R122: `LDS` and `STS` inside the thread's half of the scratchpad, which has (192 − S) × 36 KiB, read and write its bytes; memory is as it
was, and so is every other byte of the scratchpad. Beyond the half they trap DATA_ACCESS, and across a line MISALIGNED, with the address and
the kind 4 or 5 (R118). -/
def Sys2Proof.Claim.Scratchpad : Prop :=
  ∀ (s : State) (o : MOp), s.Serial → s.thr.vq = [] → s.acqPending = false → s.thr.spad.wf = true →
    let a := (address s o).toNat
    let half := (192 - s.thr.hdr.slots) * 36864
    let traps := fun (i : Instr) (kind cause : Nat) => ∃ u, exec i s = .next u ∧ u.thr.sup = true ∧ u.thr.pc = s.tctx.trapvec.setWidth 48 ∧
      u.thr.c.trapcause = trapCause s.thr.pc 0 cause ∧ u.thr.c.trapinfo = #v[address s o, BitVec.ofNat 64 kind, 0, 0] ∧ u.thr.r = s.thr.r ∧
      s.KeepsMem u
    (∀ t, s.Executes [o.base, o.index] [o.t] →
      (a % 64 + ldBytes t ≤ 64 → a + ldBytes t ≤ half →
        exec (.lds t o) s = .next (s.checked.writeG o.t (loaded s.thr.spad a (ldBytes t) (ldSigned t)))) ∧
      (s.thr.sup = false → a % 64 + ldBytes t ≤ 64 → half < a + ldBytes t → traps (.lds t o) 4 0x04) ∧
      (s.thr.sup = false → 64 < a % 64 + ldBytes t → traps (.lds t o) 4 0x02)) ∧
    (∀ z, s.Executes [o.t, o.base, o.index] [] →
      (a % 64 + szBytes z ≤ 64 → a + szBytes z ≤ half →
        ∃ t, exec (.sts z o) s = .next t ∧ (∀ k < szBytes z, t.thr.spad.get (a + k) = byteOf (s.g o.t) k) ∧
          (∀ b, b < a ∨ a + szBytes z ≤ b → t.thr.spad.get b = s.thr.spad.get b) ∧ s.KeepsG t [] ∧ s.KeepsMem t ∧ s.OnlyThread t) ∧
      (s.thr.sup = false → a % 64 + szBytes z ≤ 64 → half < a + szBytes z → traps (.sts z o) 5 0x04) ∧
      (s.thr.sup = false → 64 < a % 64 + szBytes z → traps (.sts z o) 5 0x02))

/-- R126, R127: `PREF` changes no architectural state and only commits; `LEA` writes its address without an access. -/
def Sys2Proof.Claim.Hints : Prop :=
  ∀ (s : State) (h : Hint) (o : MOp),
    (s.Executes [o.base, o.index] [] → exec (.pref h o) s = .next s.checked.commit) ∧
    (s.Executes [o.base, o.index] [o.t] → exec (.lea o) s = .next (s.checked.writeG o.t (address s o)))

/-- R121, R251: a scalar access waits for an older convoy with a MEM member, and for an older acquire of a tile entry or of a transfer. R385,
R387: an access that is aligned and translated, that its target does not refuse, and that finds no usable port enters a wait of TMO
microseconds, which remembers REMOTE, cause 0x12, with its address and its kind; until the time has passed the wait stands, and then the access
traps with that record. -/
def Sys2Proof.Claim.PortWaits : Prop :=
  ∀ (s : State), s.Serial →
    (∀ i f, accessForm i = some f → s.Executes f.srcs f.dsts → s.accessWaits = true → exec i s = .next s.checked) ∧
    (∀ i f pa, accessForm i = some f → s.Executes f.srcs f.dsts → s.accessWaits = false → ¬ f.misaligned s →
      s.xlate s.thr.id.ctx s.thr.sup f.write (f.ea s).toNat = .ok pa → s.podRefused s.thr.id.ctx f.write pa = false → s.noPort pa = true →
      let late : FaultInfo := { cause := 0x12, i0 := f.ea s, i1 := BitVec.ofNat 64 f.kind }
      ((∀ d g, s.thr.wait ≠ .remote d g) → exec i s = .next (s.checked.setWait (.remote (s.cycle + s.tmo) late))) ∧
      (∀ d g, s.thr.wait = .remote d g → exec i s = .next s.checked)) ∧
    (∀ d f, s.thr.wait = .remote d f → s.cycle < d → exec .remoteRequestTimeout s = .next s) ∧
    (∀ d f, s.thr.wait = .remote d f → d ≤ s.cycle → s.thr.vq = [] → s.thr.sup = false →
      ∃ t, exec .remoteRequestTimeout s = .next t ∧ t.thr.sup = true ∧ t.thr.c.trapcause = trapCause s.thr.pc 0 f.cause ∧
        t.thr.c.trapinfo = #v[f.i0, f.i1, f.i2, f.i3] ∧ t.thr.pc = s.tctx.trapvec.setWidth 48 ∧ t.thr.r = s.thr.r)

/-- The scratchpad, the hints, and the waits of a scalar access. -/
def Obligations.ScratchpadAndHints : Prop := Scratchpad ∧ Hints ∧ PortWaits

namespace Sys2Proof.Claim

open Machine

/-! ### The vector stream (04 R78 to R81; 06 R128 to R156) -/

/-- The registers that an instruction reads as vectors, and those marked to trap, are full (R35, R36). -/
def vecReady (s : State) (i : Instr) : Prop :=
  (∀ r ∈ vSources i, vget s.thr.r.arr r.toNat = BitVec.allOnes 32) ∧
  (∀ x ∈ trapBits i, vget s.thr.r.arr x.2.toNat = BitVec.allOnes 32)

/-- The thread stands at no wait, its streams are empty, nothing is damaged, and no region is open. -/
def vecClear (s : State) : Prop := s.Clear ∧ s.Serial ∧ s.damage.vec = [] ∧ s.thr.wait = .none

/-- What a single member computes from (R129): the registers, the shape and the modes at commit, g vb where BS is set, and RNGCTR as it
was before the word's reservation. -/
def envAt (s : State) (o : VOp) : VEnv :=
  { r := s.thr.r
    rows := s.thr.c.shape.toNat / 4096 % 4096
    cols := s.thr.c.shape.toNat % 4096
    vlmax := if s.thr.hdr.prot then 1024 else 2048
    fmode := s.thr.c.fmode
    rngkey := s.thr.c.rngkey
    x0 := if o.bs then s.g o.vb else 0
    rng := s.thr.c.rngctr }

/-- An element of a register, and the operand b of R131: an element, or the low bits of the captured g register. -/
def elB (e : VEnv) (o : VOp) (w n : Nat) : Nat := if o.bs then e.x0.toNat % 2 ^ w else elemAt (e.v o.vb) w n

/-- An integer element as its type reads it (R53, R54). -/
def asInt (ty : Nat) (x : Nat) : Int := if ty < 4 then (BitVec.ofNat (tyWidth ty) x).toInt else ((x % 2 ^ tyWidth ty : Nat) : Int)

/-- An integer result as its type stores it: modulo 2^w, or clamped to the type's range in the saturating form (R138). -/
def stored (o : VOp) (x : Int) : Nat :=
  let w := tyWidth o.ty.toNat
  let lo : Int := if o.ty.toNat < 4 then -(2 ^ (w - 1)) else 0
  let hi : Int := if o.ty.toNat < 4 then 2 ^ (w - 1) - 1 else 2 ^ w - 1
  let y := if o.imm = 1 then max lo (min hi x) else x
  (y % 2 ^ w).toNat

/-- The element-wise integer rows of R137 and R138: the fields, and the result of elements a, b and c as their type reads them. -/
def intLane : Instr → Option (VOp × (Int → Int → Int → Int))
  | .vadd o => some (o, fun a b _ => a + b)
  | .vsub o => some (o, fun a b _ => a - b)
  | .vmul o => some (o, fun a b _ => a * b)
  | .vfma o => some (o, fun a b c => a * b + c)
  | .vfms o => some (o, fun a b c => a * b - c)
  | .vfnma o => some (o, fun a b c => c - a * b)
  | .vmulh o => some (o, fun a b _ => a * b / 2 ^ tyWidth o.ty.toNat)
  | .vmin o => some (o, fun a b _ => min a b)
  | .vmax o => some (o, fun a b _ => max a b)
  | .vabs o => some (o, fun a _ _ => |a|)
  | .vneg o => some (o, fun a _ _ => -a)
  | _ => none

/-- The rounding rows of R137 and R139, as one exact operation on the values of elements a, b and c, rounded once. -/
def fpLane : Instr → Option (VOp × (RMode → FVal → FVal → FVal → ExVal))
  | .vadd o => some (o, fun m a b _ => addVal m a b)
  | .vsub o => some (o, fun m a b _ => addVal m a b.negate)
  | .vmul o => some (o, fun _ a b _ => mulVal a b)
  | .vdiv o => some (o, fun _ a b _ => divVal a b)
  | .vsqrt o => some (o, fun _ a _ _ => sqrtVal a)
  | .vfma o => some (o, fun m a b c => fmaVal m a b c)
  | .vfms o => some (o, fun m a b c => fmaVal m a b c.negate)
  | .vfnma o => some (o, fun m a b c => fmaVal m a.negate b c)
  | _ => none

/-- A masked write of R131: what element `n` of the destination holds after it. -/
def masked (e : VEnv) (o : VOp) (w cnt n : Nat) (f : Nat → Nat) : Nat :=
  if n < cnt then (if e.active o.k n w then f n else if o.z then 0 else elemAt (e.v o.vd) w n) else elemAt (e.v o.vd) w n

/-- The mask that an instruction leaves, bit by bit, and the active elements below E in order. -/
def activeBelow (e : VEnv) (o : VOp) : List Nat :=
  (List.range (e.count (tyWidth o.ty.toNat))).filter fun n => e.active o.k n (tyWidth o.ty.toNat)

end Sys2Proof.Claim

/-- R31, R44, R81, R129, R133: a vector or mask instruction that touches no memory, its sources full, is posted when its word commits,
and at its completion its destination registers hold what it computes from the registers, the shape, the modes and the scalar operand
that it captured; its flags join FSTAT then, and nothing else changes. This holds for every row of the vector and mask majors with V
fields. -/
def Sys2Proof.Claim.VectorOne : Prop :=
  ∀ (i : Instr) (o : VOp) (s : State), vOp i = some o → vecClear s → vecReady s i →
    ∃ t u, exec i s = .next t ∧ exec .convoyComplete t = .next u ∧
      t.thr.pc = s.commit.thr.pc ∧ t.thr.r.v = s.thr.r.v ∧ t.thr.r.k = s.thr.r.k ∧ t.thr.r.g = s.thr.r.g ∧ t.thr.c.fstat = s.thr.c.fstat ∧
      (let out := laneOf (envAt s o) i
       u.thr.r.v = (s.thr.r.apply out).v ∧ u.thr.r.k = (s.thr.r.apply out).k ∧ u.thr.r.g = (s.thr.r.apply out).g ∧
       u.thr.c.fstat = s.thr.c.fstat ||| out.flags.zeroExtend 64) ∧
      u.thr.vq = [] ∧ u.thr.pc = t.thr.pc ∧ u.thr.spad = s.thr.spad ∧ s.KeepsMem u ∧ s.OnlyThread u

/-- R130, R131, R137, R138: an integer element-wise instruction writes each active element its result, modulo 2^w or clamped in the
saturating form; an inactive element below E becomes zero with Z and is kept without it; elements from E on are kept. -/
def Sys2Proof.Claim.IntegerLanes : Prop :=
  ∀ (i : Instr) (o : VOp) (f : Int → Int → Int → Int) (e : VEnv), intLane i = some (o, f) → o.ty.toNat < 8 → wf i = true →
    e.vlmax ≤ 2048 →
    let w := tyWidth o.ty.toNat
    ∃ d m, (laneOf e i).v = [(o.vd, d, m)] ∧
      ∀ n < 8192 / (w / 8), elemAt d w n = masked e o w (e.count w) n fun n =>
        stored o (f (asInt o.ty.toNat (elemAt (e.v o.va) w n)) (asInt o.ty.toNat (elB e o w n)) (asInt o.ty.toNat (elemAt (e.v o.vc) w n)))

/-- R131, R137, R139: a floating-point element-wise instruction rounds its exact result once for each active element, in the
instruction's mode and with FMODE's FTZ and SAT, and raises the flags of its active elements alone. -/
def Sys2Proof.Claim.FloatLanes : Prop :=
  ∀ (i : Instr) (o : VOp) (f : RMode → FVal → FVal → FVal → ExVal) (e : VEnv), fpLane i = some (o, f) → 8 ≤ o.ty.toNat → o.ty.toNat < 12 →
    e.vlmax ≤ 2048 →
    let w := tyWidth o.ty.toNat
    let F := fmtOfTy o.ty.toNat
    let val := fun x => F.value (F.ftzIn (e.fmode.getLsbD 6) x)
    let res := fun n => F.finish (e.ctx o.rm n)
      (f (e.ctx o.rm n).rm (val (elemAt (e.v o.va) w n)) (val (elB e o w n)) (val (elemAt (e.v o.vc) w n)))
    ∃ d m, (laneOf e i).v = [(o.vd, d, m)] ∧
      (∀ n < 8192 / (w / 8), elemAt d w n = masked e o w (e.count w) n fun n => (res n).1 % 2 ^ w) ∧
      (laneOf e i).flags = (activeBelow e o).foldl (fun a n => a ||| (res n).2) 0

/-- R142, R149, R150: select, slide, transpose, broadcast, compress, expand, insert and extract move elements as their rules say. What a
transpose or a broadcast of a row reads at or beyond the capacity of the source, for a shape that exceeds it, is the model's choice (log entry
125), and so is the extension of e4m3 and e5m2 elements by their sign (log entry 46). -/
def Sys2Proof.Claim.MoveLanes : Prop :=
  ∀ (o : VOp) (e : VEnv), e.vlmax ≤ 2048 → o.ty.toNat < 14 →
    let w := tyWidth o.ty.toNat
    let el := fun (r : BitVec 6) n => elemAt (e.v r) w n
    let is := fun (i : Instr) (f : Nat → Nat) => ∃ d m, (laneOf e i).v = [(o.vd, d, m)] ∧ ∀ n < 8192 / (w / 8), elemAt d w n = f n
    is (.vsel o) (fun n => if n < e.count w then (if e.active o.k n w then el o.va n else elB e o w n) else el o.vd n) ∧
    is (.vslide false o) (fun n => masked e o w (e.count w) n fun n =>
      let sh := if o.bs then e.x0.toNat else o.imm.toNat
      if sh ≤ n then el o.va (n - sh) else 0) ∧
    is (.vslide true o) (fun n => masked e o w (e.count w) n fun n =>
      let sh := if o.bs then e.x0.toNat else o.imm.toNat
      if n + sh < e.count w then el o.va (n + sh) else 0) ∧
    is (.vperm true o) (fun n => masked e o w (e.count w) n fun n => el o.va (n % e.rows * e.cols + n / e.rows)) ∧
    is (.vcompress o) (fun n =>
      if n < e.count w then
        (match (activeBelow e o)[n]? with | some j => el o.va j | none => if o.z then 0 else el o.vd n)
      else el o.vd n) ∧
    is (.vbcast false o) (fun n => masked e o w (e.count w) n fun _ => e.x0.toNat % 2 ^ w) ∧
    is (.vbcast true o) (fun n => masked e o w (e.count w) n fun n =>
      el o.va ((if e.x0.toNat < e.rows then e.x0.toNat else 0) * e.cols + n % e.cols)) ∧
    is (.vexpand o) (fun n => masked e o w (e.count w) n fun n => el o.va ((activeBelow e o).countP fun m => m < n)) ∧
    (∀ hi : BitVec 3, (laneOf e (.vmovs hi o)).g = some (o.vd,
      if e.cap w ≤ 256 * hi.toNat + o.imm.toNat then 0
      else if 4 ≤ o.ty.toNat ∧ o.ty.toNat < 8 then BitVec.ofNat 64 (el o.va (256 * hi.toNat + o.imm.toNat))
      else (BitVec.ofNat w (el o.va (256 * hi.toNat + o.imm.toNat))).signExtend 64)) ∧
    (∀ hi : BitVec 3, 256 * hi.toNat + o.imm.toNat < e.cap w →
      is (.vins hi o) fun n => if n = 256 * hi.toNat + o.imm.toNat then e.x0.toNat % 2 ^ w else el o.vd n)

/-- R134 to R136, R141: the mask instructions, bit by bit: logic on masks, comparison of elements, the count and the first of the active
elements. -/
def Sys2Proof.Claim.MaskLanes : Prop :=
  ∀ (o : VOp) (e : VEnv), e.vlmax ≤ 2048 → o.ty.toNat < 8 →
    let w := tyWidth o.ty.toNat
    let a := fun n => e.active (o.va.extractLsb' 0 4) n w
    let b := fun n => e.active (o.vb.extractLsb' 0 4) n w
    let sets := fun (i : Instr) (f : Nat → Bool) => ∃ x : Bitmap, (laneOf e i).k = some (o.vd.extractLsb' 0 4, .bitmap x) ∧ ∀ n < 2048, x.getLsbD n = f n
    sets (.kand o) (fun n => a n && b n) ∧ sets (.kor o) (fun n => a n || b n) ∧ sets (.kxor o) (fun n => a n != b n) ∧
    sets (.kandn o) (fun n => a n && !b n) ∧ sets (.knot o) (fun n => !a n) ∧
    (∀ c, sets (.vcmp c o) fun n =>
      if n < e.count w ∧ e.active o.k n w then
        vcondHolds c (some (asInt o.ty.toNat (elemAt (e.v o.va) w n) - asInt o.ty.toNat (elB e o w n)))
      else if o.z then false else (e.mask (o.vd.extractLsb' 0 4)).bit n) ∧
    (laneOf e (.kcnt o)).g = some (o.vd, BitVec.ofNat 64 ((List.range (e.count w)).countP a)) ∧
    (laneOf e (.kfirst o)).g = some (o.vd, BitVec.ofNat 64 (((List.range (e.count w)).takeWhile fun n => !a n).length))

/-- R147, R148, R68: an ordered integer sum of the active elements is their sum modulo 2^w, and so is the tree's; an inclusive integer
scan holds at each active element the sum of the active elements up to it. -/
def Sys2Proof.Claim.SumLanes : Prop :=
  ∀ (o : VOp) (e : VEnv), e.vlmax ≤ 2048 → o.ty.toNat < 8 → o.imm = 0 →
    let w := tyWidth o.ty.toNat
    let sum := fun k => (((List.range k).filter fun n => e.active o.k n w).map fun n => elemAt (e.v o.va) w n).sum % 2 ^ w
    (∀ i ∈ [Instr.vredo .add o, .vredt .add o], ∃ d m, (laneOf e i).v = [(o.vd, d, m)] ∧ elemAt d w 0 = sum (e.count w) ∧
      ∀ n, 0 < n → n < 8192 / (w / 8) → elemAt d w n = elemAt (e.v o.vd) w n) ∧
    (∃ d m, (laneOf e (.vscan .add o)).v = [(o.vd, d, m)] ∧
      ∀ n < 8192 / (w / 8), elemAt d w n = masked e o w (e.count w) n fun n => sum (n + 1))

/-- The shape of a masked write with flags: `f` gives each active element below E its bits and flags (R131). -/
def Sys2Proof.Claim.writes (out : VOut) (e : VEnv) (o : VOp) (w cnt : Nat) (f : Nat → Nat × FFlags) : Prop :=
  (∃ d m, out.v = [(o.vd, d, m)] ∧ ∀ n < 8192 / (w / 8), elemAt d w n = masked e o w cnt n fun n => (f n).1 % 2 ^ w) ∧
    out.flags = ((List.range cnt).filter fun n => e.active o.k n w).foldl (fun a n => a ||| (f n).2) 0

/-- A magnitude rounded to an integer in a mode (R56, R61): the floor, or one more. -/
def Sys2Proof.Claim.toInteger (rm : RMode) (u : Nat) (neg : Bool) (q : ℚ) : Nat :=
  let t := ⌊q⌋₊
  let rest := q - t
  let up : Bool := match rm with
    | .rne => decide (1 / 2 < rest) || (decide (rest = 1 / 2) && t % 2 == 1)
    | .rtz => false
    | .rup => decide (0 < rest) && !neg
    | .rdn => decide (0 < rest) && neg
    | .sr => decide (2 ^ 32 ≤ ⌊rest * 2 ^ 32⌋₊ + u % 2 ^ 32)
  if up then t + 1 else t

/-- A conversion of R144 in the words of R58, R103 and R427: bits, and flags. An integer into a narrower type that cannot hold it clamps
with SA, or keeps its low bits; a float into an integer is rounded to one and limited, a NaN gives 0. -/
def Sys2Proof.Claim.converted (dst src : Nat) (c : RCtx) (x : Nat) : Nat × FFlags :=
  let lo : Int := if dst < 4 then -(2 ^ (tyWidth dst - 1)) else 0
  let hi : Int := if dst < 4 then 2 ^ (tyWidth dst - 1) - 1 else 2 ^ tyWidth dst - 1
  let bits := fun (i : Int) => (i % 2 ^ tyWidth dst).toNat
  if src < 8 then
    let i := asInt src x
    if 8 ≤ dst then (fmtOfTy dst).finish c (.num { neg := decide (i < 0), m := i.natAbs, e := 0 })
    else if tyWidth src ≤ tyWidth dst ∨ (lo ≤ i ∧ i ≤ hi) then (bits i, 0)
    else if c.sat then (bits (if i < lo then lo else hi), fSA) else (bits i, 0)
  else
    let v := (fmtOfTy src).value ((fmtOfTy src).ftzIn c.ftz x)
    if 8 ≤ dst then
      (fmtOfTy dst).finish c (match v with | .nan => .nan false | .inf n => .inf n | .fin n m e => .num { neg := n, m := m, e := e })
    else match v with
      | .nan => (0, fNV)
      | .inf n => (bits (if n then lo else hi), fNV)
      | .fin n m e =>
        let t : Int := toInteger c.rm c.u n (m * (2 : ℚ) ^ e)
        let i := if n then -t else t
        if i < lo then (bits lo, fNV) else if hi < i then (bits hi, fNV) else (bits i, 0)

/-- R103, R144, R427: `VCVT` reads its elements at the source width and writes them, converted, at the destination width, over as many
elements as the shape and both capacities hold. That a conversion between integers that is not narrowing never clamps is log entry 110, and that
one from a float raises no flag but NV is log entry 47. -/
def Sys2Proof.Claim.ConversionLanes : Prop :=
  ∀ (o : VOp) (e : VEnv), e.vlmax ≤ 2048 → o.ty.toNat < 14 → o.imm.toNat < 14 →
    let src := o.imm.toNat
    let w := tyWidth o.ty.toNat
    let cnt := min (e.rows * e.cols) (min (e.cap (tyWidth src)) (e.cap w))
    writes (laneOf e (.vcvt o)) e o w cnt fun n => converted o.ty.toNat src (e.ctx o.rm n) (elemAt (e.v o.va) (tyWidth src) n)

/-- The operands of R140's table, with the results that it gives: the major's FN, and the value. -/
def Sys2Proof.Claim.specialTable (fn : Nat) (v : FVal) : Option ExVal :=
  let num := fun (n : Bool) (m : Nat) => ExVal.num { neg := n, m := m, e := 0 }
  match fn, v with
  | _, .nan => some (.nan false)
  | 0, v => some (divVal (.fin false 1 0) v)
  | 1, .inf n => some (if n then .nan true else num false 0)
  | 1, .fin n m _ => if m = 0 then some (.inf n) else if n then some (.nan true) else none
  | 2, .inf n => some (if n then num false 0 else .inf false)
  | 2, .fin _ m _ => if m = 0 then some (num false 1) else none
  | 3, .inf n => some (if n then .nan true else .inf false)
  | 3, .fin n m _ => if m = 0 then some (.inf true) else if n then some (.nan true) else none
  | 4, .inf _ | 5, .inf _ => some (.nan true)
  | 4, .fin n m _ => if m = 0 then some (num n 0) else none
  | 5, .fin _ m _ => if m = 0 then some (num false 1) else none
  | _, .inf n => some (num n 1)
  | _, .fin n m _ => if m = 0 then some (num n 0) else none

/-- R140: the special functions write each active element the value of their function, rounded once: 1 ÷ a for `VRCP`; for all of them the
values of the rule's table; 2^a at the integers, log2 a at the powers of two, and sin(πa) and cos(πa) at the integers and half-integers, where
they are exact. The sign of the zeros of `VLOG2` and `VCOS` is log entry 5; elsewhere the value is one of the two that an enclosure rounds to
(log entry 3). -/
def Sys2Proof.Claim.SpecialLanes : Prop :=
  (∀ (o : VOp) (e : VEnv), e.vlmax ≤ 2048 → 8 ≤ o.ty.toNat → o.ty.toNat ≤ 10 →
    let w := tyWidth o.ty.toNat
    ∀ (i : Instr) (fn : Nat), (i, fn) ∈ [(Instr.vrcp o, 0), (.vrsq o, 1), (.vexp2 o, 2), (.vlog2 o, 3), (.vsin o, 4), (.vcos o, 5), (.vtanh o, 6)] →
      writes (laneOf e i) e o w (e.count w) fun n => (fmtOfTy o.ty.toNat).special fn (e.ctx o.rm n) (elemAt (e.v o.va) w n)) ∧
  (∀ (F : FpFmt) (c : RCtx) (x : Nat), F ∈ [fmtF16, fmtBF16, fmtF32] →
    let v := F.value (F.ftzIn c.ftz x)
    let is := fun (fn : Nat) (y : ExVal) => F.special fn c x = F.finish c y
    let num := fun (n : Bool) (m : Nat) (e : Int) => ExVal.num { neg := n, m := m, e := e }
    (∀ fn y, fn < 7 → specialTable fn v = some y → is fn y) ∧
    (∀ n m e, v = .fin n m e → m ≠ 0 →
      (∀ k : Nat, k < 4096 → (m : ℚ) * 2 ^ e = k → is 2 (num false 1 (if n then -(k : Int) else k))) ∧
      (∀ k : Int, n = false → (m : ℚ) * 2 ^ e = 2 ^ k → is 3 (num (decide (k < 0)) k.natAbs 0)) ∧
      (∀ k : Nat, (m : ℚ) * 2 ^ e = k → is 4 (num n 0 0) ∧ is 5 (num (decide (k % 2 = 1)) 1 0)) ∧
      (∀ k : Nat, (m : ℚ) * 2 ^ e = k + 1 / 2 → is 4 (num (decide (k % 2 = 1) != n) 1 0) ∧ is 5 (num false 0 0))))

namespace Sys2Proof.Claim

/-- The element format of an MX format code (R55). -/
def mxElem : Nat → FpFmt
  | 5 => fmtE4M3
  | 6 => fmtE5M2
  | 7 => fmtE3M2
  | 8 => fmtE2M3
  | _ => fmtE2M1

/-- Bits of an element of a block format (R50, R51). -/
def blockWidth (f : Nat) : Nat := if f < 10 then (mxElem f).width else f - 8

/-- The greatest exponent of an element (R50, R51). -/
def blockEmax : Nat → Int
  | 5 => 8
  | 6 => 15
  | 7 => 4
  | 8 | 9 => 2
  | _ => 0

/-- The bit of a register at which bit `j` of element `n` stands (R50, R52): packed, or in bit-planes. -/
def blockBit (f n j : Nat) : Nat :=
  if f < 10 then blockWidth f * n + j else 32 * blockWidth f * (n / 32) + 32 * j + n % 32

/-- Element `n` of blocks of a format at the start of a register. -/
def blockCode (f : Nat) (r : VReg) (n : Nat) : Nat :=
  ((List.range (blockWidth f)).map fun j => if r.getLsbD (blockBit f n j) then 2 ^ j else 0).sum

/-- The value of an element under a scale (R50, R51). -/
def blockValue (f code scale : Nat) : FVal :=
  if f < 10 then
    match (mxElem f).value code with
    | .fin n m e => .fin n m (e + scale - 127)
    | v => v
  else
    let i := (BitVec.ofNat (f - 8) code).toInt
    .fin (decide (i < 0)) i.natAbs (scale - 127 - (f - 10))

/-- A group of 32 values and their random words, quantised (R69): the scale, the codes, the flags. -/
def quantised (f : Nat) (rm : RMode) (xs : List (FVal × Nat)) : Nat × List Nat × FFlags :=
  if xs.any fun x => match x.1 with | .fin _ _ _ => false | _ => true then (255, xs.map fun _ => 0, fNV) else
  let logs := xs.filterMap fun x => match x.1 with | .fin _ m e => if m = 0 then none else some ((Nat.log2 m : Int) + e) | _ => none
  let scale : Nat := match logs with | [] => 0 | a :: l => (max 0 (min 254 (l.foldl max a - blockEmax f + 127))).toNat
  let elem := fun (x : FVal × Nat) => match x.1 with
    | .fin n m e =>
      let e := e - scale + 127
      if f < 10 then
        let r := (mxElem f).round { rm := rm, ftz := false, sat := true, u := x.2 } { neg := n, m := m, e := e }
        (r.1, r.2 &&& (fSA ||| fNX))
      else
        let steps := (m : ℚ) * 2 ^ (e + (f - 10))
        let t : Int := toInteger rm x.2 n steps
        let i := if n then -t else t
        let y := max (-(2 ^ (f - 9))) (min (2 ^ (f - 9) - 1) i)
        ((y % 2 ^ (f - 8)).toNat, if y ≠ i then fSA ||| fNX else if (t : ℚ) ≠ steps then fNX else 0)
    | _ => (0, 0)
  (scale, xs.map fun x => (elem x).1, xs.foldl (fun a x => a ||| (elem x).2) 0)

end Sys2Proof.Claim

/-- R50 to R52, R69, R145, R146: `VQUANT` takes E elements in groups of 32, the last one padded with zeros, writes each group's block at the
start of vd and its scale in v(d+1), and keeps the bytes beyond them. `VDEQ` writes each active element of its blocks times their scale,
rounded once; a scale of 0xFF gives NaN and raises NV. -/
def Sys2Proof.Claim.BlockLanes : Prop :=
  ∀ (o : VOp) (e : VEnv) (f : Nat), e.vlmax ≤ 2048 → 8 ≤ o.ty.toNat → o.ty.toNat ≤ 10 → f = o.imm.toNat → 5 ≤ f → f ≤ 16 → o.vd ≠ 63 →
    let w := tyWidth o.ty.toNat
    let F := fmtOfTy o.ty.toNat
    let cnt := e.count w
    let groups := (cnt + 31) / 32
    let src := fun n => if n < cnt then
      (F.value (F.ftzIn (e.fmode.getLsbD 6) (elemAt (e.v o.va) w n)), (e.ctx o.rm n).u) else (FVal.fin false 0 0, 0)
    let q := fun g => quantised f (roundMode o.rm e.fmode) ((List.range 32).map fun i => src (32 * g + i))
    (let out := laneOf e (.vquant o)
     ∃ d m x k, out.v = [(o.vd, d, m), (o.vd + 1, x, k)] ∧
      (∀ g < groups, elemAt x 8 g = (q g).1 ∧ ∀ i < 32, blockCode f d (32 * g + i) = (q g).2.1.getD i 0) ∧
      (∀ b, 4 * blockWidth f * groups ≤ b → b < 8192 → elemAt d 8 b = elemAt (e.v o.vd) 8 b) ∧
      (∀ b, groups ≤ b → b < 8192 → elemAt x 8 b = elemAt (e.v (o.vd + 1)) 8 b) ∧
      out.flags = (List.range groups).foldl (fun a g => a ||| (q g).2.2) 0) ∧
    writes (laneOf e (.vdeq o)) e o w cnt fun n =>
      let scale := elemAt (e.v (o.va + 1)) 8 (n / 32)
      if scale = 255 then (F.nan, fNV)
      else F.finish (e.ctx o.rm n) (blockValue f (blockCode f (e.v o.va) n) scale).exact

/-- R136, R143: `VIOTA` writes the element's number, or the count of the active elements below it, modulo 2^w; `KSET` makes a count form, steps
a mask by E, or sets all or none; `KMOV` copies a mask, takes its bits from a vector register or a g register, or writes them to one. -/
def Sys2Proof.Claim.CountLanes : Prop :=
  ∀ (o : VOp) (e : VEnv), e.vlmax ≤ 2048 → o.ty.toNat < 8 →
    let w := tyWidth o.ty.toNat
    let kd := o.vd.extractLsb' 0 4
    let ka := e.mask (o.va.extractLsb' 0 4)
    let bits := fun (i : Instr) (f : Nat → Bool) => ∃ x : Bitmap, (laneOf e i).k = some (kd, .bitmap x) ∧ ∀ n < 2048, x.getLsbD n = f n
    let byteBit := fun (r : VReg) n => (elemAt r 8 (n / 8)).testBit (n % 8)
    (∀ c, writes (laneOf e (.viota c o)) e o w (e.count w) fun n => (if c then (List.range n).countP fun m => e.active o.k m w else n, 0)) ∧
    (laneOf e (.kset .count o)).k = some (kd, .count (min e.x0.toNat 16384) w) ∧
    (∀ c W, e.mask kd = .count c W → (laneOf e (.kset .step o)).k = some (kd, .count (c - min c (e.count w)) W)) ∧
    (∀ b, e.mask kd = .bitmap b → bits (.kset .step o) fun n => b.getLsbD (n + e.count w)) ∧
    (laneOf e (.kset .ones o)).k = some (kd, .count 16384 64) ∧ (laneOf e (.kset .zero o)).k = some (kd, .count 0 64) ∧
    (laneOf e (.kmov .move o)).k = some (kd, ka) ∧
    bits (.kmov .fromv o) (byteBit (e.v o.va)) ∧ bits (.kmov .fromg o) (fun n => decide (n < 64) && e.x0.getLsbD n) ∧
    ∃ d, (laneOf e (.kmov .tov o)).v = [(o.vd, d, 1)] ∧
      (∀ n < 2048, byteBit d n = match ka with | .bitmap b => b.getLsbD n | .count c _ => decide (n < c)) ∧
      ∀ b, 256 ≤ b → b < 8192 → elemAt d 8 b = elemAt (e.v o.vd) 8 b

/-- What element-wise instructions compute. -/
def Obligations.ElementResults : Prop := IntegerLanes ∧ FloatLanes ∧ ConversionLanes ∧ SpecialLanes ∧ BlockLanes

/-- What moves, masks, reductions and scans compute. -/
def Obligations.MoveAndMaskResults : Prop := MoveLanes ∧ MaskLanes ∧ CountLanes ∧ SumLanes

namespace Sys2Proof.Claim

open Machine

/-- What a vector access does with element `n` (R151, R156): nothing where the mask is off, a zero beyond the end of a stream that does
not wrap, else an access at an address. -/
def vplace (s : State) (i : Instr) (o : VMOp) (n : Nat) : VAcc :=
  let cols := s.thr.c.shape.toNat % 4096
  let rows := s.thr.c.shape.toNat / 4096 % 4096
  let e : VEnv := { r := s.thr.r, rows := rows, cols := cols, vlmax := s.thr.vlmax, fmode := 0, rngkey := 0, x0 := 0, rng := 0 }
  let b := tyWidth o.ty.toNat / 8
  let base := s.g o.base + BitVec.ofInt 64 (b * o.off.toInt)
  let index : Int := (BitVec.ofNat 32 (elemAt (vget s.thr.r.v o.sx.toNat) 32 n)).toInt
  let strided := VAcc.at (base + BitVec.ofNat 64 n * s.g o.sx)
  let plane := VAcc.at (base + BitVec.ofNat 64 (n / cols) * s.g o.sx +
    BitVec.ofNat 64 (n % cols) * (if o.s2 = 0 then BitVec.ofNat 64 b else s.g o.s2))
  let unit := VAcc.at (base + BitVec.ofNat 64 (b * n))
  match i with
  | .vld .sb _ | .vst .sb _ =>
    match vget s.thr.r.sb (o.base.toNat % 8) with
    | none => .skip
    | some x =>
      if !e.active o.k n (tyWidth x.ty) then .skip
      else if x.wrap then .at (x.ea ((x.pos + n) % x.len)) else if x.len ≤ x.pos + n then .zero else .at (x.ea (x.pos + n))
  | _ =>
    if !e.active o.k n (tyWidth o.ty.toNat) then .skip else
    match i with
    | .vldx by_ _ | .vstx by_ _ => .at (base + BitVec.ofInt 64 (if by_ then index else b * index))
    | .vld .str _ | .vst .str _ | .vlds .str _ | .vsts .str _ => strided
    | .vld .d2 _ | .vst .d2 _ | .vlds .d2 _ | .vsts .d2 _ => plane
    | _ => unit

/-- The type of a vector access: its field, or the TY of the stream that it names, which is bound (R156). -/
def vtype (s : State) (i : Instr) (o : VMOp) : Option Nat :=
  match i with
  | .vld .sb _ | .vst .sb _ => (vget s.thr.r.sb (o.base.toNat % 8)).map Stream.ty
  | _ => some o.ty.toNat

/-- The access goes to the scratchpad: `VLDS`, `VSTS`, or a stream whose block says so (R154). -/
def vspad (s : State) (i : Instr) (o : VMOp) : Bool :=
  match i with
  | .vlds _ _ | .vsts _ _ => true
  | .vld .sb _ | .vst .sb _ => (vget s.thr.r.sb (o.base.toNat % 8)).any Stream.spad
  | _ => false

/-- A binding that the instruction names is below NSB (R292). -/
def vbound (s : State) (i : Instr) (o : VMOp) : Prop :=
  match i with
  | .vld .sb _ | .vst .sb _ => o.base.toNat % 8 < s.thr.hdr.nsb
  | _ => True

/-- Elements of the access (R129). -/
def vcount (s : State) (w : Nat) : Nat :=
  min ((s.thr.c.shape.toNat / 4096 % 4096) * (s.thr.c.shape.toNat % 4096)) (if w = 64 then s.thr.vlmax / 2 else s.thr.vlmax)

/-- Every element's place passes orders 1 to 6 of R118 (R152): `pa n` is where element n is accessed. -/
def vplaced (s : State) (i : Instr) (o : VMOp) (w : Nat) (pa : Nat → Nat) : Prop :=
  ∀ n < vcount s w, ∀ a, vplace s i o n = .at a →
    a.toNat % (w / 8) = 0 ∧
    if vspad s i o then a.toNat + w / 8 ≤ (192 - s.thr.hdr.slots) * 36864 ∧ pa n = a.toNat
    else s.xlate s.thr.id.ctx s.thr.sup (vmStore i) a.toNat = .ok (pa n) ∧ s.dataErr s.thr.id.ctx (!vmStore i) (vmStore i) (pa n) = none

end Sys2Proof.Claim

/-- R129, R133, R151, R152, R156: a vector load whose places pass the checks is posted, and clears the arrival bits of the EGs that it will
write; at completion each active element holds its bytes, an element beyond the end of its stream zero, every other element what it held,
and the register is full. Memory and the other registers are as they were. The first EG may arrive before (R35): that all of the
register's elements then hold their values already, with their arrival bits to follow, is the model's choice (log entry 75). -/
def Obligations.VectorLoad : Prop :=
  ∀ (i : Instr) (o : VMOp) (s : State) (ty : Nat) (pa : Nat → Nat), vmOp i = some o → vmStore i = false → vtype s i o = some ty → ty < 14 →
    vbound s i o → vecClear s → s.acqPosted = false → vecReady s i → 0 < vcount s (tyWidth ty) → vplaced s i o (tyWidth ty) pa →
    let w := tyWidth ty
    let m : Mem := if vspad s i o then s.thr.spad else s.mem
    ∃ t u, exec i s = .next t ∧ exec .convoyComplete t = .next u ∧ t.thr.pc = s.commit.thr.pc ∧ t.thr.r.v = s.thr.r.v ∧
      (∀ k < 32, (vget t.thr.r.arr o.vt.toNat).getLsbD k = (decide (egs (vcount s w) w ≤ k) && (vget s.thr.r.arr o.vt.toNat).getLsbD k)) ∧
      (∀ n < 65536 / w, elemAt (vget u.thr.r.v o.vt.toNat) w n =
        if n < vcount s w then
          (match vplace s i o n with | .at _ => m.num (pa n) (w / 8) | .zero => 0 | .skip => elemAt (vget s.thr.r.v o.vt.toNat) w n)
        else elemAt (vget s.thr.r.v o.vt.toNat) w n) ∧
      (∀ r < 64, r ≠ o.vt.toNat → vget u.thr.r.v r = vget s.thr.r.v r) ∧ vget u.thr.r.arr o.vt.toNat = BitVec.allOnes 32 ∧
      u.thr.c.fstat = s.thr.c.fstat ∧ u.thr.spad = s.thr.spad ∧ s.KeepsG u [] ∧ s.KeepsMem u ∧
      ∃ x, exec (.vecEgArrival 0) t = .next x ∧ (vget x.thr.r.arr o.vt.toNat).getLsbD 0 = true ∧
        vget x.thr.r.v o.vt.toNat = vget u.thr.r.v o.vt.toNat ∧ s.KeepsMem x

/-- R151, R153, R156: a vector store whose places pass the checks writes, at its completion, each active element's bytes at its place, the
highest element winning where places overlap; every other byte, and every register, is as it was. -/
def Sys2Proof.Claim.VectorStores : Prop :=
  ∀ (i : Instr) (o : VMOp) (s : State) (ty : Nat) (pa : Nat → Nat), vmOp i = some o → vmStore i = true → vtype s i o = some ty → ty < 14 →
    vbound s i o → vecClear s → s.acqPosted = false → vecReady s i → vplaced s i o (tyWidth ty) pa → s.MemOk →
    let w := tyWidth ty
    let b := w / 8
    let stores := fun n => n < vcount s w ∧ ∃ a, vplace s i o n = .at a
    let mem := fun (x : State) => if vspad s i o then x.thr.spad else x.mem
    let rest := fun (x : State) => if vspad s i o then x.mem else x.thr.spad
    ∃ t u, exec i s = .next t ∧ exec .convoyComplete t = .next u ∧ t.thr.pc = s.commit.thr.pc ∧ t.mem = s.mem ∧ t.thr.spad = s.thr.spad ∧
      (∀ n, stores n → (∀ k, n < k → stores k → pa k + b ≤ pa n ∨ pa n + b ≤ pa k) →
        Mem.num (mem u) (pa n) b = elemAt (vget s.thr.r.v o.vt.toNat) w n) ∧
      (∀ a, (∀ n, stores n → a < pa n ∨ pa n + b ≤ a) → Mem.get (mem u) a = Mem.get (mem s) a) ∧ rest u = rest s ∧
      u.thr.r.v = s.thr.r.v ∧ u.thr.c.fstat = s.thr.c.fstat ∧ s.KeepsG u []

/-- R156: a stream access moves POS at commit: modulo the length where the stream wraps, else to the end at most. -/
def Sys2Proof.Claim.StreamPosition : Prop :=
  ∀ (i : Instr) (o : VMOp) (s : State) (b : Stream) (pa : Nat → Nat), (i = .vld .sb o ∨ i = .vst .sb o) →
    vget s.thr.r.sb (o.base.toNat % 8) = some b → b.ty < 14 → vbound s i o → vecClear s → s.acqPosted = false → vecReady s i →
    vplaced s i o (tyWidth b.ty) pa →
    ∃ t, exec i s = .next t ∧ vget t.thr.r.sb (o.base.toNat % 8) =
      some { b with pos := if b.wrap then (b.pos + vcount s (tyWidth b.ty)) % b.len else min (b.pos + vcount s (tyWidth b.ty)) b.len }

/-- R78, R80, R129: a convoy of legal members in one block, none of them a memory instruction, is posted as one, its words commit
together, and its members run in order, each on the registers as those before it left them. -/
def Sys2Proof.Claim.ConvoyResult : Prop :=
  ∀ (o : COp) (s : State) (ms : List Instr), s.convoyMembers o = some ms → vecClear s → (∀ i ∈ ms, vecReady s i ∧ vmOp i = none) →
    ∃ t u c, exec (.convoy o) s = .next t ∧ exec .convoyComplete t = .next u ∧ t.thr.vq = [c] ∧ c.members.map Member.ins = ms ∧
      t.thr.pc = (s.commitLen (ms.length + 1) ms.length).thr.pc ∧ t.thr.r.v = s.thr.r.v ∧
      (let r := c.members.foldl (fun r m => r.apply (laneOf (c.env s.thr.vlmax r m) m.ins)) s.thr.r
       u.thr.r.v = r.v ∧ u.thr.r.k = r.k ∧ u.thr.r.g = r.g) ∧
      u.thr.vq = [] ∧ s.KeepsMem u

/-- R36, R80, R365, R368: a header that R80 does not allow traps ILLEGAL with step 6; a marked source that is empty traps VEC_EMPTY with
the register and the field; both with STREAM 1, as R368 gives a vector fault decided at commit (of an instruction alone, log entry 71). A source that is empty, not marked, and that no load will fill makes the word wait. -/
def Obligations.ConvoyTraps : Prop :=
  ∀ (s : State), vecClear s → s.thr.sup = false →
    (∀ o : COp, s.convoyMembers o = none →
      ∃ t, exec (.convoy o) s = .next t ∧ t.thr.sup = true ∧ t.thr.c.trappc = s.thr.pc.zeroExtend 64 ∧
        t.thr.c.trapcause = (s.thr.pc.zeroExtend 64 <<< 16) + 0x401 ∧ t.thr.c.trapinfo = #v[(encode64 (.convoy o)).getD 0, 6, 0, 0]) ∧
    (∀ (i : Instr) (o : VOp) (n : Nat) (r : BitVec 6), vOp i = some o → trapBits i = [(n, r)] → vget s.thr.r.arr r.toNat ≠ BitVec.allOnes 32 →
      ∃ t, exec i s = .next t ∧ t.thr.sup = true ∧ t.thr.c.trapcause = (s.thr.pc.zeroExtend 64 <<< 16) + 0x409 ∧
        t.thr.c.trapinfo = #v[r.zeroExtend 64, BitVec.ofNat 64 n, 0, 0]) ∧
    (∀ (i : Instr) (o : VOp), vOp i = some o → trapBits i = [] → (∃ r ∈ vSources i, vget s.thr.r.arr r.toNat ≠ BitVec.allOnes 32) →
      exec i s = .next s)

/-- R79, R128, R130: `VSHAPE` sets SHAPE to a legal value, with ROWS 1 in its `.n` form, keeps every other register, and joins the vector
queue as a convoy of one; any other value traps ILLEGAL with step 4 and the value. -/
def Sys2Proof.Claim.ShapeResult : Prop :=
  ∀ (n : Bool) (o : VOp) (s : State), s.Executes [o.vb] [] → s.thr.vq.length < 4 →
    let g := s.g o.vb
    let rows := if n then 1 else g.toNat / 4096
    let cols := g.toNat % 4096
    let legal := g.toNat < 2 ^ 24 ∧ 1 ≤ rows ∧ 1 ≤ cols ∧ rows * cols ≤ s.thr.vlmax
    (legal → exec (.vshape n o) s = .next
      ((s.checked.postSolo (.vshape n o)).onThr fun t => { t with c := { t.c with shape := BitVec.ofNat 64 (rows * 4096 + cols) } }).commit) ∧
    (¬ legal → s.Serial → s.thr.vq = [] → s.thr.sup = false →
      ∃ t, exec (.vshape n o) s = .next t ∧ t.thr.sup = true ∧ t.thr.c.trapcause = trapCause s.thr.pc 0 0x01 ∧
        t.thr.c.trapinfo = #v[(encode64 (.vshape n o)).getD 0, 4, g, 0] ∧ t.thr.c.shape = s.thr.c.shape)

/-- R79, R154, R155: the bindings' instructions join the vector queue as convoys of one. A valid block binds its stream, and one that is
not valid traps DATA_ACCESS and leaves the binding unbound (with STREAM 1 by the model's reading, log entries 71 and 77); `VUNBIND`
writes POS to the block, or with `.nw` nothing, and unbinds; `VSPOS` sets POS, modulo the length where the stream wraps, or reads it. -/
def Sys2Proof.Claim.BindingResult : Prop :=
  ∀ (o : VMOp) (s : State), s.Clear → s.Serial → s.MemOk → s.acqPending = false →
    let n := o.vt.toNat % 8
    let k := o.base.toNat % 8
    (∀ pa, n < s.thr.hdr.nsb → (s.g o.base).toNat % 128 = 0 → s.xlate s.thr.id.ctx s.thr.sup false (s.g o.base).toNat = .ok pa →
      s.dataErr s.thr.id.ctx true false pa = none → s.dataErr s.thr.id.ctx true false (pa + 64) = none →
      let b := Stream.ofNum (s.mem.num pa 128) (s.g o.base)
      (Stream.valid (s.mem.num pa 128) b = true → exec (.vbind o) s = .next ((s.postSolo (.vbind o)).setSb n (some b)).commit) ∧
      (Stream.valid (s.mem.num pa 128) b = false → s.thr.sup = false →
        ∃ t, exec (.vbind o) s = .next t ∧ t.thr.sup = true ∧ vget t.thr.r.sb n = none ∧
          t.thr.c.trapinfo = #v[s.g o.base, 8, 0, 0] ∧ t.thr.c.trapcause = trapCause s.thr.pc 1 0x04)) ∧
    (n < s.thr.hdr.nsb → ∀ nw, vget s.thr.r.sb n = none → exec (.vunbind nw o) s = .next (s.postSolo (.vunbind nw o)).commit) ∧
    (n < s.thr.hdr.nsb → ∀ b, vget s.thr.r.sb n = some b → exec (.vunbind true o) s = .next ((s.postSolo (.vunbind true o)).setSb n none).commit) ∧
    (n < s.thr.hdr.nsb → ∀ b pa, vget s.thr.r.sb n = some b → (b.block + 48).toNat % 8 = 0 →
      s.xlate s.thr.id.ctx s.thr.sup true (b.block + 48).toNat = .ok pa → s.dataErr s.thr.id.ctx false true pa = none → b.pos < 2 ^ 64 →
      ∃ t, exec (.vunbind false o) s = .next t ∧ t.mem.num pa 8 = b.pos ∧ s.KeepsMemBut t pa 8 ∧ vget t.thr.r.sb n = none ∧ s.KeepsG t []) ∧
    (k < s.thr.hdr.nsb → ∀ b, vget s.thr.r.sb k = some b →
      exec (.vspos true o) s = .next ((s.postSolo (.vspos true o)).writeG o.vt (BitVec.ofNat 64 b.pos)) ∧
      exec (.vspos false o) s = .next ((s.postSolo (.vspos false o)).setSb k (some { b with
        pos := if b.wrap ∧ b.len ≤ (s.g o.sx).toNat then (s.g o.sx).toNat % b.len else (s.g o.sx).toNat })).commit) ∧
    (k < s.thr.hdr.nsb → vget s.thr.r.sb k = none →
      exec (.vspos true o) s = .next ((s.postSolo (.vspos true o)).writeG o.vt 0) ∧
        exec (.vspos false o) s = .next (s.postSolo (.vspos false o)).commit)

/-- Vector and mask instructions, alone and in a convoy. -/
def Obligations.VectorResult : Prop := VectorOne ∧ ConvoyResult

/-- Vector stores, and the position of a stream. -/
def Obligations.VectorStore : Prop := VectorStores ∧ StreamPosition

/-- SHAPE and the stream bindings. -/
def Obligations.ShapeAndStreams : Prop := ShapeResult ∧ BindingResult

/-! ### Tile instructions (spec/07), the tile stream (02 R31 to R36), the tile store (spec/09) -/

namespace Sys2Proof.Claim

/-- The tile instructions that post an entry (R31): every one but the gets and the waits. -/
def tilePosted : Instr → Option TOp
  | .tgetr _ | .tgetc _ | .twait _ _ => none
  | i => tOp i

/-- A captured operand that R163 and R177 accept at commit. -/
def tileLegal (s : State) : Instr → Prop
  | .tshape o => (s.g (o.g.zeroExtend 6)).toNat < 2 ^ 32 ∧ descValid ((s.g (o.g.zeroExtend 6)).setWidth 32) = true
  | .tcvt o =>
    let g := (s.g (o.g.zeroExtend 6)).toNat
    g < 2 ^ 11 ∧ g / 2 ^ 6 % 4 = 0 ∧ g / 2 ^ 8 ≠ 5 ∧ g / 2 ^ 8 ≠ 6 ∧ g % 32 ≤ 18 ∧ (g / 2 ^ 5 % 2 = 1 → 5 ≤ g % 32 ∧ g % 32 ≤ 16)
  | _ => True

/-- The Philox blocks that a rounding tile instruction reserves (R60): one for four elements of its source, whose shape program order
gives, in SR mode. -/
def tileBlocks (s : State) (i : Instr) : Nat :=
  match s.tileRounds i with
  | some (.sr, ma) => (descRows (s.thr.orderShape s.thr.tq ma) * descCols (s.thr.orderShape s.thr.tq ma) + 3) / 4
  | _ => 0

/-- The entry that an instruction posts. -/
def tileEntry (s : State) (i : Instr) (o : TOp) : TqEnt where
  post := s.thr.posts
  pc := s.thr.pc
  ins := i
  g0 := if tUsesG i then s.g (o.g.zeroExtend 6) else 0
  g1 := if tPair i then s.g (o.g.zeroExtend 6 + 1) else 0
  fmode := s.thr.c.fmode
  rngkey := s.thr.c.rngkey
  rng := if tileBlocks s i = 0 then 0 else s.thr.c.rngctr
  st := .posted
  done := false
  skip := false
  slot := none
  chain := none
  unit := 0
  since := 0
  xheld := false
  res := noResult

/-- Nothing keeps a tile instruction from posting: room in the queue, no `TFLAGR` or convoy pending, its vector source full, the launch
values of the map applied where it needs them, no double error in a register that it captures. -/
def tileFree (s : State) (i : Instr) : Prop :=
  s.Serial ∧ s.thr.wait = .none ∧ s.thr.vq = [] ∧ s.thr.tq.length < 64 ∧ (∀ e ∈ s.thr.tq, tGDest e.ins = none) ∧
    s.gDamaged (tGSources i) = false ∧ s.csrLost (s.tileCsrs i) = false ∧ s.thr.putEmpty i = none ∧ (s.thr.tmapReady = true ∨ s.mapNeeded i = false)

/-- The thread's queue holds the entry alone, nothing holds its core's engine or its streams, no prefetch is pending, its core's pool is
whole, and nothing is damaged. -/
def tileAlone (s : State) (e : TqEnt) : Prop :=
  s.thr.live = true ∧ s.thr.sup = false ∧ s.thr.tmapReady = true ∧ s.thr.tq = [e] ∧ e.st = .posted ∧ e.done = false ∧ e.skip = false ∧
    s.poolOwed s.thr.id.core = 0 ∧
    e.slot = none ∧ e.chain = none ∧ e.res = noResult ∧ s.Serial ∧ s.thr.vq = [] ∧ s.thr.id.core < 192 ∧
    (∀ c < 192, (s.core c).moves = []) ∧ s.damage = ⟨[], [], [], [], [], [], [], []⟩ ∧ s.thr.prefs = [] ∧
    (∀ r ∈ s.thr.vReads [] e.ins, vget s.thr.r.arr r.toNat = BitVec.allOnes 32) ∧
    (∀ t ∈ tNames e.ins, (s.ent t).bad = false ∧ ∀ y, s.tileSlot t = some y → y.report = false)

/-- A tile whose value stands in a slot of the thread's core (R224, R227). -/
def tileReady (s : State) (t : Nat) : Prop :=
  t < s.thr.tmap.length ∧ (s.ent t).bad = false ∧ (s.ent t).f = true ∧ (s.ent t).resident = true ∧
    (s.ent t).core.toNat = s.thr.id.core ∧ (s.tileSlot t).isSome = true

/-- A slot that a renaming entry takes from the pool, and one to repay it with (R234). -/
def tileSpare (s : State) (n : Nat) : Prop :=
  (s.core s.thr.id.core).pool.head? = some n ∧ n < 192 ∧ (s.core s.thr.id.core).slotAt n = none ∧
    (s.freeGeneral s.thr.id.core).isSome = true

/-- The entry issues, ends and retires, and what then holds. -/
def tileRun (s : State) (e : TqEnt) (q : State → Prop) : Prop :=
  ∃ a b c, exec .tileEntryIssue s = .next a ∧ exec (if isMma e.ins then .mmaDrain e.post else .tileEntryComplete e.post) a = .next b ∧
    exec .tileEntryRetire b = .next c ∧ c.thr.tq = [] ∧ c.thr.sup = false ∧ c.thr.pc = s.thr.pc ∧ q c

/-- The bytes of memory that runs of pieces name. -/
def runBytes (s : State) (runs : List (List Piece)) : List (List Byte) :=
  runs.map fun l => l.flatMap fun p => s.mem.read p.pa p.n

/-- The value and the flags that a writing entry gives md (R163 to R179). -/
def tileGives (s : State) (e : TqEnt) (r : TileVal × FFlags) : Prop :=
  let val := fun (m : BitVec 9) => s.tileVal m.toNat
  let put := fun (o : TOp) (col : Bool) =>
    let d := (val o.md).shape
    let vs := o.ma.extractLsb' 0 6
    lineCheck d col e.g0.toNat s.thr.hdr.vregs vs 2 = none ∧
      r = ((val o.md).putLine col e.g0.toNat (s.vecNum vs) ((List.range 256).map fun k => (s.vecNum (vs + 1) >>> (8 * k)) % 256), 0)
  let load := fun (o : TOp) (p : Word) =>
    let d := (s.ent o.md.toNat).shape
    descValid d = true ∧ e.g0.toNat % 16 = 0 ∧ p.toNat % 16 = 0 ∧ rowPitch d ≤ p.toNat ∧
      ∃ runs, s.allPieces false (imageRuns d e.g0 p (rowBytes d)) = .ok runs ∧
        s.portWait e false (runs.flatten.map (·.pa)) = false ∧ s.piecesErr true false runs.flatten = none ∧
        r = (imageVal d (runBytes s runs), 0)
  match e.ins with
  | .tshape _ => r = (TileVal.zero (e.g0.setWidth 32), 0)
  | .tzero o => descValid (s.ent o.md.toNat).shape = true ∧ r = (TileVal.zero (s.ent o.md.toNat).shape, 0)
  | .tcopy o => r = (val o.ma, 0)
  | .tld true o => load o e.g1
  | .tld false o => load o (BitVec.ofNat 64 (rowPitch (s.ent o.md.toNat).shape))
  | .tputr o => put o false
  | .tputc o => put o true
  | .ttrq ax o => transposeTile ax (val o.ma) = .ok r
  | .tcvt o =>
    convertTile (val o.ma) (e.g0.toNat % 32) (e.g0.getLsbD 5) (roundMode (e.g0.extractLsb' 8 3) e.fmode) (e.fmode.getLsbD 6)
      (e.fmode.getLsbD 7) (tileWord e.rngkey e.rng.toNat (descCols (val o.ma).shape)) = .ok r
  | .tadd o => elementwise false o.na o.nb e.rctx (e.word (descCols (val o.ma).shape)) (val o.ma) (val o.mb) = .ok r
  | .tmul o => elementwise true o.na o.nb e.rctx (e.word (descCols (val o.ma).shape)) (val o.ma) (val o.mb) = .ok r
  | .tscale o => scaleTile o.na e.g0.toInt e.rctx (e.word (descCols (val o.ma).shape)) (val o.ma) = .ok r
  | .tzmap o => zeroBlocks (BitVec.ofNat 2048 (s.vecNum (o.mb.extractLsb' 0 6))) (val o.ma) = .ok r
  | .mma o =>
    mmaCheck (mmaMods false o) (s.ent o.ma.toNat).shape (s.ent o.mb.toNat).shape (s.ent o.md.toNat).shape = none ∧
      s.freeArray.isSome = true ∧ r = mmaFloat (mmaMods false o) (val o.ma) (val o.mb) (val o.md)
  | .mmai o =>
    mmaCheck (mmaMods true o) (s.ent o.ma.toNat).shape (s.ent o.mb.toNat).shape (s.ent o.md.toNat).shape = none ∧
      s.freeArray.isSome = true ∧ r = (mmaInt (mmaMods true o) (val o.ma) (val o.mb) (val o.md), 0)
  | _ => False

/-- The new entry of a written tile (R230): DIRTY, full, its generation advanced, its flags those of R157 and R163. -/
def writtenEnt (s : State) (i : Instr) (t : Nat) (shape : BitVec 32) (f : BitVec 4) (x : TEnt) : Prop :=
  let old := s.ent t
  x.shape = shape ∧ x.state = 4 ∧ x.f = true ∧ x.gen = old.gen + 1 ∧ x.arm = false ∧ x.core.toNat = s.thr.id.core ∧ x.bidx = old.bidx ∧
    x.pin = old.pin ∧
    x.flags = (match i with
      | .tzero _ => f
      | .mma o | .mmai o => if o.nacc then f else old.flags ||| f
      | _ => old.flags ||| f)

end Sys2Proof.Claim

/-- R31, R32, R60, R157: a tile instruction in user mode captures its operands, FMODE and RNGKEY, posts its entry, reserves its Philox
blocks, and commits; registers, tiles and memory are as they were. -/
def Obligations.TilePosting : Prop :=
  ∀ (i : Instr) (o : TOp) (s : State), tilePosted i = some o → tileFree s i → s.thr.sup = false → tileLegal s i →
    ∃ t, exec i s = .next t ∧ t.thr.tq = s.thr.tq ++ [tileEntry s i o] ∧ t.thr.posts = s.thr.posts + 1 ∧ t.thr.pc = s.commit.thr.pc ∧
      t.thr.c.rngctr = s.thr.c.rngctr + BitVec.ofNat 64 (tileBlocks s i) ∧ t.thr.c.fstat = s.thr.c.fstat ∧ t.thr.tmap = s.thr.tmap ∧
      t.thr.r.v = s.thr.r.v ∧ t.thr.r.arr = s.thr.r.arr ∧ s.KeepsG t [] ∧ s.KeepsMem t ∧ s.OnlyThread t

/-- R163, R177, R365: a bad descriptor or control traps ILLEGAL at commit with step 4 and the value, and posts nothing. -/
def Obligations.TileCommitTraps : Prop :=
  ∀ (i : Instr) (o : TOp) (s : State), (i = .tshape o ∨ i = .tcvt o) → tileFree s i → s.thr.sup = false → ¬ tileLegal s i →
    ∃ t, exec i s = .next t ∧ t.thr.sup = true ∧ t.thr.tq = s.thr.tq ∧ t.thr.c.trappc = s.thr.pc.zeroExtend 64 ∧
      t.thr.c.trapcause = trapCause s.thr.pc 0 0x01 ∧ t.thr.c.trapinfo = #v[(encode64 i).getD 0, 4, s.g (o.g.zeroExtend 6), 0]

/-- R33, R157, R163 to R179, R230, R234: an entry alone in its queue, its sources in slots of its core, issues, ends and retires: md has the
value that its rule gives, is DIRTY and full with its generation advanced, and the entry's flags join md's and FSTAT. The value of every
other tile that stands in a slot, every other entry, the `g` and vector registers and memory are as they were. -/
def Obligations.TileResult : Prop :=
  ∀ (s : State) (e : TqEnt) (md : BitVec 9) (n : Nat) (r : TileVal × FFlags), tileAlone s e → tileSpare s n → tDests e.ins = [md] →
    md.toNat < s.thr.tmap.length → (∀ x ∈ tReads e.ins, tileReady s x.1.toNat) → tileGives s e r →
    tileRun s e fun c =>
      c.tileVal md.toNat = r.1 ∧ writtenEnt s e.ins md.toNat r.1.shape (tileFlags r.2) (c.ent md.toNat) ∧
      c.thr.c.fstat = s.thr.c.fstat ||| (fstatFlags (tileFlags r.2)).zeroExtend 64 ∧
      (∀ m, m ≠ md.toNat → ((s.ent m).resident = true → m < s.thr.tmap.length → c.tileVal m = s.tileVal m) ∧
        c.ent m = { s.ent m with lu := (c.ent m).lu }) ∧
      c.thr.r.v = s.thr.r.v ∧ s.KeepsG c [] ∧ s.KeepsMem c

/-- R165, R180: `TDEAD` makes its tile ABSENT with the next generation, its flags cleared and its slot freed; `TFLAGR` reads a tile's flags
into a `g` register; `TFLAGC` clears them; `TPREF` starts a fill of a backed tile, and leaves one that is absent or stands in the core's
store as it is. None of them changes memory. -/
def Sys2Proof.Claim.TileMarks : Prop :=
  (∀ (s : State) (e : TqEnt) (o : TOp), e.ins = .tdead o → tileAlone s e → o.md.toNat < s.thr.tmap.length →
    tileRun s e fun c =>
      c.ent o.md.toNat = { s.ent o.md.toNat with state := 0, flags := 0, arm := false, gen := (s.ent o.md.toNat).gen + 1 } ∧
      (tileReady s o.md.toNat → (c.core s.thr.id.core).slotAt (s.ent o.md.toNat).slot.toNat = none) ∧
      (∀ m, m ≠ o.md.toNat → c.ent m = s.ent m) ∧ s.KeepsG c [] ∧ s.KeepsMem c) ∧
  (∀ (s : State) (e : TqEnt) (o : TOp), e.ins = .tflagr o → tileAlone s e →
    tileRun s e fun c =>
      (o.g ≠ 0 → c.g (o.g.zeroExtend 6) = (fstatFlags (s.ent o.ma.toNat).flags).zeroExtend 64) ∧
      s.KeepsG c [o.g.zeroExtend 6] ∧ c.thr.tmap = s.thr.tmap ∧ s.KeepsMem c) ∧
  (∀ (s : State) (e : TqEnt) (o : TOp), e.ins = .tflagc o → tileAlone s e → o.md.toNat < s.thr.tmap.length →
    tileRun s e fun c =>
      c.ent o.md.toNat = { s.ent o.md.toNat with flags := 0 } ∧ c.tileVal o.md.toNat = s.tileVal o.md.toNat ∧
      (∀ m, m ≠ o.md.toNat → c.ent m = s.ent m) ∧ s.KeepsG c [] ∧ s.KeepsMem c) ∧
  (∀ (s : State) (e : TqEnt) (o : TOp), e.ins = .tpref o → tileAlone s e → o.ma.toNat < s.thr.tmap.length →
    (s.ent o.ma.toNat).bad = false →
    ((s.ent o.ma.toNat).state = 0 ∨ tileReady s o.ma.toNat ∨ (s.ent o.ma.toNat).state = 1 ∧ (s.freeGeneral s.thr.id.core).isSome = true) →
    tileRun s e fun c =>
      ((s.ent o.ma.toNat).state ≠ 1 → c.ent o.ma.toNat = s.ent o.ma.toNat ∧ c.cores = s.cores) ∧
      (∀ n, (s.ent o.ma.toNat).state = 1 → (s.ent o.ma.toNat).f = true → descValid (s.ent o.ma.toNat).shape = true →
        s.freeGeneral s.thr.id.core = some n →
        (c.ent o.ma.toNat).state = 2 ∧ (c.core s.thr.id.core).moves.map (fun m => (m.spill, m.slot, m.tag, m.pref)) =
          [(false, n, s.tagOf o.ma.toNat, true)]) ∧
      (∀ m, m ≠ o.ma.toNat → c.ent m = s.ent m) ∧ s.KeepsG c [] ∧ s.KeepsMem c)

/-- R167, R168: a tile store writes its image, row by row and then the scales; `TSTP` writes the plain image and then the image of the
transposed tile. Registers and tiles are as they were. -/
def Sys2Proof.Claim.TileStores : Prop :=
  let writes := fun (m : Mem) (l : List (List Piece × List Byte)) =>
    l.foldl (fun m x => (x.1.foldl (fun (y : Mem × List Byte) p => (y.1.write p.pa (y.2.take p.n), y.2.drop p.n)) (m, x.2)).1) m
  let image := fun (s : State) (e : TqEnt) (v : TileVal) (a p : Word) (runs : List (List Piece)) =>
    descValid v.shape = true ∧ a.toNat % 16 = 0 ∧ p.toNat % 16 = 0 ∧ rowPitch v.shape ≤ p.toNat ∧
      s.allPieces true (imageRuns v.shape a p (rowPitch v.shape)) = .ok runs ∧ s.portWait e true (runs.flatten.map (·.pa)) = false ∧
      s.piecesErr false true runs.flatten = none
  let after := fun (s c : State) => s.KeepsG c [] ∧ c.thr.r.v = s.thr.r.v ∧ c.thr.c.fstat = s.thr.c.fstat ∧
    ∀ m, c.tileVal m = s.tileVal m ∧ c.ent m = { s.ent m with lu := (c.ent m).lu }
  (∀ (s : State) (e : TqEnt) (o : TOp) (pt : Bool) (runs : List (List Piece)), e.ins = .tst pt o → tileAlone s e →
    tileReady s o.ma.toNat →
    let v := s.tileVal o.ma.toNat
    image s e v e.g0 (if pt then e.g1 else BitVec.ofNat 64 (rowPitch v.shape)) runs →
    tileRun s e fun c => c.mem = writes s.mem (runs.zip (imageBytes v)) ∧ after s c) ∧
  (∀ (s : State) (e : TqEnt) (o : TOp) (runs runs2 : List (List Piece)) (vt : TileVal), e.ins = .tstp o → tileAlone s e →
    tileReady s o.ma.toNat →
    let v := s.tileVal o.ma.toNat
    (descTFmt v.shape).scaled = false → transposeTile false v = .ok (vt, 0) →
    image s e v e.g0 (BitVec.ofNat 64 (rowPitch v.shape)) runs → image s e vt e.g1 (BitVec.ofNat 64 (rowPitch vt.shape)) runs2 →
    tileRun s e fun c => c.mem = writes (writes s.mem (runs.zip (imageBytes v))) (runs2.zip (imageBytes vt)) ∧ after s c)

/-- R159, R182, R183: `TSEND` hands the tile to the link with its token, its barrier, its rel bit and the scope code in bits [18:16] of its
word; `TRECV` arms a window on md with the token stored at
its address, and leaves md empty; `TRECV.x` disarms. -/
def Sys2Proof.Claim.TileLinks : Prop :=
  (∀ (s : State) (e : TqEnt) (o : TOp), e.ins = .tsend o → tileAlone s e → tileReady s o.ma.toNat →
    (e.g1 = 0 ∨ e.g1.toNat % 8 = 0 ∧ ∃ pa, s.xlate s.thr.id.ctx false true e.g1.toNat = .ok pa) →
    tileRun s e fun c => ∃ x, c.sends = s.sends ++ [x] ∧ x.id = s.nextSend ∧ x.tid = s.thr.id ∧ x.token = e.g0 ∧ x.bar = e.g1 ∧
      x.tile = s.tileVal o.ma.toNat ∧ x.answer = none ∧ x.deadline = s.cycle + s.tmo ∧ x.rel = o.nb ∧
      x.scope = ((encode64 e.ins).getD 0).extractLsb' 16 3 ∧ s.KeepsMem c ∧ s.KeepsG c []) ∧
  (∀ (s : State) (e : TqEnt) (o : TOp) (n w pa : Nat), e.ins = .trecv false o → tileAlone s e → tileSpare s n →
    o.md.toNat < s.thr.tmap.length → descValid (s.ent o.md.toNat).shape = true → s.freeWindow s.thr.id.ctx = some w → e.g0.toNat % 8 = 0 →
    s.xlate s.thr.id.ctx false true e.g0.toNat = .ok pa → s.dataErr s.thr.id.ctx false true pa = none →
    let gen := s.windowGen w + 1
    tileRun s e fun c =>
      (c.ent o.md.toNat).arm = true ∧ (c.ent o.md.toNat).f = false ∧ (c.ent o.md.toNat).win = BitVec.ofNat 12 w ∧
      (c.ent o.md.toNat).shape = (s.ent o.md.toNat).shape ∧ (c.ent o.md.toNat).gen = (s.ent o.md.toNat).gen + 1 ∧
      (∃ x ∈ c.rwins, x.win = w ∧ x.gen = gen ∧ x.ctx = s.thr.id.ctx ∧ x.tmapb = s.thr.c.tmapb ∧ x.tile = o.md.toNat) ∧
      c.mem = s.mem.write pa (toBytes 8
        (s.pkgid % 1024 * 2 ^ 54 + s.thr.id.ctx % 64 * 2 ^ 48 + w % 4096 * 2 ^ 36 + gen.toNat * 2 ^ 28)) ∧ s.KeepsG c []) ∧
  (∀ (s : State) (e : TqEnt) (o : TOp), e.ins = .trecv true o → tileAlone s e → o.md.toNat < s.thr.tmap.length →
    tileRun s e fun c => c.ent o.md.toNat = { s.ent o.md.toNat with arm := false } ∧ s.KeepsMem c ∧ s.KeepsG c [])

/-- Two ranges of memory have no byte in common. -/
def Sys2Proof.Claim.apart (a n b m : Nat) : Prop := a + n ≤ b ∨ b + m ≤ a

/-- The pool of a context is laid out as R319 and R323 say, as far as an append to a handle's entry needs: the entry's list is its own, and no
page lies in the work area. -/
def Sys2Proof.Claim.poolLaid (s : State) (c : Ctx) (i : Nat) : Prop :=
  let h := s.hent c i
  h.list = c.listsAt + 4 * c.maxpg * i ∧ h.cap ≤ 128 * c.maxpg ∧
    ∀ p < c.ndev + c.nslow, apart (s.pageRows c p) 65536 c.tableAt (workBytes c.log2n c.ndev c.nslow c.maxpg)

/-- The address of the row that an append writes as its `q`th, where a new page `first` takes the place of the list's page of its first row. -/
def Sys2Proof.Claim.appendAt (s : State) (c : Ctx) (h : HEnt) (first : Option Nat) (q : Nat) : Nat :=
  match first with
  | some a => if (h.len + q) / 128 = h.len / 128 then a + 512 * ((h.len + q) % 128) else s.rowAddr c h (h.len + q)
  | none => s.rowAddr c h (h.len + q)

/-- The rows of an append (R186, R325): each holds the bytes of its row of the value and zeros after them; the entry's length counts them; a
PROMOTING page of theirs is SLOW again with its next generation, and every other byte outside the rows, the entry and `more` is as it was. -/
def Sys2Proof.Claim.appended (s t : State) (c : Ctx) (i n : Nat) (v : TileVal) (at_ : Nat → Nat) (cur : Nat) (more : Nat → Prop) : Prop :=
  let h := s.hent c i
  let pages := (List.range n).map fun q => s.listPage h ((h.len + q) / 128)
  t.hent c i = { h with len := h.len + n, cur := cur } ∧
    (∀ q < n, t.mem.read (at_ q) 512 = toBytes (rowBytes v.shape) (v.rawRows.getD q 0) ++ List.replicate (512 - rowBytes v.shape) 0) ∧
    (∀ p ∈ pages, (s.prec c p).state = 5 → t.prec c p = { s.prec c p with state := 4, pgen := ((s.prec c p).pgen + 1) % 256 }) ∧
    ∀ a, (∀ q < n, a < at_ q ∨ at_ q + 512 ≤ a) → (a < c.tableAt + 32 * i ∨ c.tableAt + 32 * i + 32 ≤ a) → ¬ more a →
      (∀ p ∈ pages, (s.prec c p).state = 5 → a < c.recsAt + 16 * p ∨ c.recsAt + 16 * p + 16 ≤ a) → t.mem.get a = s.mem.get a

/-- R185, R186, R324, R325, R329: `TGATHER` gives md the rows of its handle's pages from the first row up, zeros beyond the length. `TAPPEND`
raises the length by the rows that it appends, and each of them stands in the next page row, zeros after its bytes. Where the page of the first
row is SHARED, a page taken as R324 says takes its place in the list and receives its rows below the length first, and the shared page loses a
reference. -/
def Sys2Proof.Claim.TilePages : Prop :=
  (∀ (s : State) (e : TqEnt) (o : TOp) (n : Nat), e.ins = .tgather o → tileAlone s e → tileSpare s n → o.md.toNat < s.thr.tmap.length →
    s.handleReason s.thr.id.ctx e.g0 = 0 →
    let c0 := s.tctx
    let d := (s.ent o.md.toNat).shape
    let h := s.hent c0 (handleIdx e.g0)
    let rows := (List.range (descRows d)).map fun i => e.g1.toNat + i
    let pas := (rows.filter fun r => r < h.len).flatMap fun r => rowLines (s.rowAddr c0 h r) (rowBytes d)
    rowFormat d 2 = none → (∀ p < c0.ndev + c0.nslow, (s.prec c0 p).pins < 65000) → (∀ r < h.len, s.listPage h (r / 128) < c0.ndev + c0.nslow) →
    s.portWait e false pas = false → (∀ p ∈ pas, s.dataErr s.thr.id.ctx true false p = none) →
    ∃ a b c, exec .tileEntryIssue s = .next a ∧ exec (.tileEntryComplete e.post) a = .next b ∧ exec .tileEntryRetire b = .next c ∧
      c.thr.tq = [] ∧ s.KeepsG c [] ∧ (c.ent o.md.toNat).state = 4 ∧ (c.ent o.md.toNat).f = true ∧
      c.tileVal o.md.toNat = imageVal d (rows.map fun r =>
        if r < h.len then b.mem.read (b.rowAddr c0 h r) (rowBytes d) else List.replicate (rowBytes d) 0)) ∧
  (∀ (s : State) (e : TqEnt) (o : TOp), e.ins = .tappend o → tileAlone s e → tileReady s o.ma.toNat → s.MemOk →
    s.handleReason s.thr.id.ctx e.g0 = 0 →
    let c0 := s.tctx
    let v := s.tileVal o.ma.toNat
    let i := handleIdx e.g0
    let h := s.hent c0 i
    let n := if e.g1 = 0 then descRows v.shape else e.g1.toNat
    let p := s.listPage h (h.len / 128)
    let free := fun (lines : List Nat) => s.portWait e true lines = false
    rowFormat v.shape 0 = none → n ≤ descRows v.shape → h.len + n ≤ h.cap → poolLaid s c0 i →
    (∀ q < n, s.listPage h ((h.len + q) / 128) < c0.ndev + c0.nslow) →
    (((s.prec c0 p).state ≠ 2 ∨ h.cap ≤ h.len) →
      let at_ := appendAt s c0 h none
      let lines := (List.range n).flatMap fun q => rowLines (at_ q) 512
      (∀ q < n, ∀ r < n, q ≠ r → apart (at_ q) 512 (at_ r) 512) → free lines → (∀ l ∈ lines, s.dataErr s.thr.id.ctx false true l = none) →
      tileRun s e fun c => s.KeepsG c [] ∧ appended s c c0 i n v at_ h.cur fun _ => False) ∧
    ((s.prec c0 p).state = 2 → h.len < h.cap → ∀ k cur s', s.takePage c0 h.cur = some (k, cur, s') → k ≠ p → k < 2 ^ 32 → poolLaid s' c0 i →
      (∀ q < n, (h.len + q) / 128 ≠ h.len / 128 → s.listPage h ((h.len + q) / 128) ≠ k ∧ s.listPage h ((h.len + q) / 128) ≠ p) →
      let at_ := appendAt s c0 h (some (s'.pageRows c0 k))
      let m := h.len % 128
      let old := (List.range m).flatMap fun r => rowLines (s.pageRows c0 p + 512 * r) 512
      let lines := ((List.range m).flatMap fun r => rowLines (s'.pageRows c0 k + 512 * r) 512) ++
        (List.range n).flatMap fun q => rowLines (at_ q) 512
      (∀ q < n, ∀ r < n, q ≠ r → apart (at_ q) 512 (at_ r) 512) → (∀ q < n, apart (at_ q) 512 (s'.pageRows c0 k) (512 * m)) →
      free (old ++ lines) → (∀ l ∈ old, s.dataErr s.thr.id.ctx true false l = none) →
      (∀ l ∈ lines, s.dataErr s.thr.id.ctx false true l = none) →
      let rec_ := fun (p a : Nat) => c0.recsAt + 16 * p ≤ a ∧ a < c0.recsAt + 16 * p + 16
      tileRun s e fun c => s.KeepsG c [] ∧ c.listPage (s.hent c0 i) (h.len / 128) = k ∧
        c.mem.read (s'.pageRows c0 k) (512 * m) = s.mem.read (s.pageRows c0 p) (512 * m) ∧
        (2 < (s.prec c0 p).refs → c.prec c0 p = { s.prec c0 p with refs := (s.prec c0 p).refs - 1 }) ∧
        ((s.prec c0 p).refs = 2 → c.prec c0 p = { s.prec c0 p with refs := 1, state := 1 }) ∧
        c.prec c0 k = { s.prec c0 k with refs := 1, pins := 0, state := if k < c0.ndev then 1 else 4 } ∧
        (1 < (s.prec c0 p).refs → appended s c c0 i n v at_ cur fun a =>
          rec_ p a ∨ rec_ k a ∨ (c0.mapsAt ≤ a ∧ a < c0.tableAt + workBytes c0.log2n c0.ndev c0.nslow c0.maxpg) ∨
            (h.list + 4 * (h.len / 128) ≤ a ∧ a < h.list + 4 * (h.len / 128) + 4) ∨
            (s'.pageRows c0 k ≤ a ∧ a < s'.pageRows c0 k + 512 * m))))

/-- Entries that write no tile value of their own. -/
def Obligations.TileMemory : Prop := TileMarks ∧ TileStores

/-- Sends, receives, gathers and appends. -/
def Obligations.TileLinksAndPages : Prop := TileLinks ∧ TilePages

namespace Sys2Proof.Claim

/-- Element codes in tile coordinates. -/
def elemCode (v : TileVal) (i j : Nat) : Nat := ((orient v.shape v.codes).getD i []).getD j 0

/-- The elements of an i8 operand of `MMAI`, in the coordinates of the product (R172). -/
def intElem (v : TileVal) (flip : Bool) (i j : Nat) : Int := sextNat 8 (if flip then elemCode v j i else elemCode v i j)

end Sys2Proof.Claim

/-- R66, R172, R174: each element of an `MMAI` is its accumulator element plus the exact sum of products, modulo 2^32, with the sign of na
and nb; the result is M × N of i32 with block axis 0. -/
def Sys2Proof.Claim.IntegerProduct : Prop :=
  ∀ (m : MmaMods) (a b c : TileVal), m.int = true → mmaCheck m a.shape b.shape c.shape = none →
    let d := mmaDims m a.shape b.shape
    (mmaInt m a b c).shape = mkDesc false 18 d.1 d.2.2.2 ∧
    ∀ i < d.1, ∀ j < d.2.2.2, elemCode (mmaInt m a b c) i j =
      (((if m.nacc then 0 else sextNat 32 (elemCode c i j)) +
        (if m.na = m.nb then 1 else -1) * ((List.range d.2.1).map fun k => intElem a m.ca i k * intElem b m.cb k j).sum) % (2 ^ 32 : Int)).toNat

/-- R64, R174: each element of an `MMA` is the chunked sum of its products added to its accumulator element, chunk after chunk. -/
def Sys2Proof.Claim.FloatProduct : Prop :=
  ∀ (m : MmaMods) (a b c : TileVal), m.int = false → m.skip = false → mmaCheck m a.shape b.shape c.shape = none →
    let d := mmaDims m a.shape b.shape
    let neg := fun (n : Bool) (x : FVal) => if n then x.negate else x
    let at_ := fun (v : TileVal) (flip : Bool) (i j : Nat) => if flip then ((v.vals).getD j []).getD i .nan else ((v.vals).getD i []).getD j .nan
    (mmaFloat m a b c).1.shape = mkDesc false 0 d.1 d.2.2.2 ∧
    ∀ i < d.1, ∀ j < d.2.2.2, elemCode (mmaFloat m a b c).1 i j =
      (mmaElem (if m.nacc then 0 else elemCode c i j)
        (chunks (chunkWidth (descFmt a.shape)) d.2.1
          ((List.range d.2.1).map fun k => mulVal (neg m.na (at_ a m.ca i k)) (neg m.nb (at_ b m.cb k j))))).1

namespace Sys2Proof.Claim

/-- A format with scales (R55). -/
def blockFormat (f : Nat) : Prop := 5 ≤ f ∧ f ≤ 16

/-- Whether a format has scales is a test of its code. -/
abbrev isBlock (f : Nat) : Bool := decide (5 ≤ f ∧ f ≤ 16)

/-- The scale byte of element (i, j): blocks of 32 run along the block axis (R160). -/
def elemScale (v : TileVal) (i j : Nat) : Nat :=
  let at_ := fun (line n p : Nat) => (v.scales.toNat / 2 ^ (8 * (line * ((n + 31) / 32) + p / 32))) % 256
  if descAx v.shape then at_ j (descRows v.shape) i else at_ i (descCols v.shape) j

/-- The float format of an unscaled tile format code (R55). -/
def plainFmt : Nat → FpFmt
  | 0 => fmtF32
  | 1 => fmtBF16
  | 2 => fmtF16
  | 3 => fmtE4M3
  | _ => fmtE5M2

/-- The width of an element's code (R55). -/
def codeBits (f : Nat) : Nat :=
  if isBlock f then blockWidth f else if f = 17 then 8 else if f = 18 then 32 else (plainFmt f).width

/-- The value of element (i, j), exactly, with its scale; FTZ applies to an unscaled float (R50, R51, R57, R177). -/
def elemValue (v : TileVal) (ftz : Bool) (i j : Nat) : FVal :=
  let f := descFmt v.shape
  let x := elemCode v i j
  if f < 5 then (plainFmt f).value ((plainFmt f).ftzIn ftz x)
  else if isBlock f then (if elemScale v i j = 255 then .nan else blockValue f x (elemScale v i j))
  else let k := (BitVec.ofNat (codeBits f) x).toInt; .fin (decide (k < 0)) k.natAbs 0

/-- The flags of a tile instruction are those that some element raises. -/
def raises (fl : FFlags) (rows cols : Nat) (f : Nat → Nat → FFlags) : Prop :=
  ∀ b < 5, fl.getLsbD b = true ↔ ∃ i < rows, ∃ j < cols, (f i j).getLsbD b = true

/-- A tile of a shape, element by element, and the flags raised. -/
def elements (r : TileVal × FFlags) (d : BitVec 32) (f : Nat → Nat → Nat × FFlags) : Prop :=
  r.1.shape = d ∧ raises r.2 (descRows d) (descCols d) (fun i j => (f i j).2) ∧
    ∀ i < descRows d, ∀ j < descCols d, elemCode r.1 i j = (f i j).1 % 2 ^ codeBits (descFmt d)

/-- A conversion to a signed integer of `w` bits (R58, R103, R427). -/
def intElement (w src : Nat) (c : RCtx) (v : FVal) : Nat × FFlags :=
  let lo : Int := -(2 ^ (w - 1))
  let hi : Int := 2 ^ (w - 1) - 1
  let bits := fun (i : Int) => (i % 2 ^ w).toNat
  match v with
  | .nan => (0, fNV)
  | .inf n => (bits (if n then lo else hi), fNV)
  | .fin n m e =>
    if 17 ≤ src then
      let i : Int := if n then -(m : Int) else m
      if codeBits src ≤ w ∨ (lo ≤ i ∧ i ≤ hi) then (bits i, 0) else if c.sat then (bits (if i < lo then lo else hi), fSA) else (bits i, 0)
    else
      let t : Int := toInteger c.rm c.u n (m * (2 : ℚ) ^ e)
      let i := if n then -t else t
      if i < lo then (bits lo, fNV) else if hi < i then (bits hi, fNV) else (bits i, 0)

/-- One element of `TCVT` (R177): an unscaled target takes the converted value, a scaled one its code in its block as R69 quantises it. -/
def cvtElement (v : TileVal) (f : Nat) (ax : Bool) (rm : RMode) (ftz sat : Bool) (u : Nat → Nat → Nat) (i j : Nat) : Nat × FFlags :=
  let word := fun i j => if rm = .sr then u i j else 0
  let c : RCtx := { rm := rm, ftz := ftz, sat := sat, u := word i j }
  let x := elemValue v ftz i j
  if f < 5 then (plainFmt f).finish c x.exact
  else if 17 ≤ f then intElement (codeBits f) (descFmt v.shape) c x
  else
    let n := if ax then descRows v.shape else descCols v.shape
    let p := if ax then i else j
    let q := quantised f rm ((List.range 32).map fun k =>
      let p' := p / 32 * 32 + k
      if n ≤ p' then (.fin false 0 0, 0) else if ax then (elemValue v ftz p' j, word p' j) else (elemValue v ftz i p', word i p'))
    (q.2.1.getD (p % 32) 0, q.2.2)

/-- The scale of that element's block (R69). -/
def cvtScale (v : TileVal) (f : Nat) (ax : Bool) (rm : RMode) (ftz : Bool) (u : Nat → Nat → Nat) (i j : Nat) : Nat :=
  let n := if ax then descRows v.shape else descCols v.shape
  let p := if ax then i else j
  let word := fun i j => if rm = .sr then u i j else 0
  (quantised f rm ((List.range 32).map fun k =>
    let p' := p / 32 * 32 + k
    if n ≤ p' then (.fin false 0 0, 0) else if ax then (elemValue v ftz p' j, word p' j) else (elemValue v ftz i p', word i p'))).1

/-- The largest scale among the source blocks that the new block of element (i, j) crosses (R70, R176). -/
def newScale (v : TileVal) (i j : Nat) : Nat :=
  let l := if descAx v.shape then ((List.range (descCols v.shape)).filter fun k => k / 32 = j / 32).map fun k => elemScale v i k
    else ((List.range (descRows v.shape)).filter fun k => k / 32 = i / 32).map fun k => elemScale v k j
  l.foldl max 0

/-- An element moved to its new block's scale (R70): a BX mantissa is shifted, an MX element divided, with RNE; in a NaN block it is zero. The
code of a NaN or an infinity stays, which is log entry 128. -/
def rescaled (v : TileVal) (i j : Nat) : Nat × FFlags :=
  let f := descFmt v.shape
  let x := elemCode v i j
  let up := (newScale v i j : Int) - elemScale v i j
  if newScale v i j = 255 then (0, 0)
  else if f < 10 then
    match (mxElem f).value x with
    | .fin n m e =>
      let r := (mxElem f).round { rm := .rne, ftz := false, sat := true } { neg := n, m := m, e := e - up }
      (r.1, r.2 &&& (fSA ||| fNX))
    | _ => (x, 0)
  else
    let k := (BitVec.ofNat (f - 8) x).toInt
    let steps := (k.natAbs : ℚ) * 2 ^ (-up)
    let t := toInteger .rne 0 (decide (k < 0)) steps
    (((if k < 0 then -(t : Int) else t) % 2 ^ (f - 8)).toNat, if (t : ℚ) ≠ steps then fNX else 0)

end Sys2Proof.Claim

/-- R163, R176, R179: an unscaled transpose exchanges row and column of every element; a zero tile has every element zero; `TZMAP` keeps
the elements of the blocks whose bit is set and zeroes the others. -/
def Sys2Proof.Claim.TileElements : Prop :=
  (∀ (v w : TileVal) (f : FFlags), (descTFmt v.shape).scaled = false → transposeTile false v = .ok (w, f) →
    f = 0 ∧ w.shape = mkDesc false (descFmt v.shape) (descCols v.shape) (descRows v.shape) ∧
    ∀ i < descRows v.shape, ∀ j < descCols v.shape, elemCode w j i = elemCode v i j) ∧
  (∀ (d : BitVec 32) (i j : Nat), descValid d = true → elemCode (TileVal.zero d) i j = 0) ∧
  (∀ (bits : Bitmap) (v w : TileVal) (f : FFlags), zeroBlocks bits v = .ok (w, f) →
    f = 0 ∧ w.shape = v.shape ∧ ∀ i < descRows v.shape, ∀ j < descCols v.shape,
      elemCode w i j = if bits.getLsbD (i / 8 * 128 + j / 8) then elemCode v i j else 0)

/-- R49, R132, R178: `TADD` and `TMUL` of two tiles of one shape in f32, bf16, f16 or i32 give each element the sum or the product of the signed
elements, rounded once, or modulo 2^32 with no flag. -/
def Sys2Proof.Claim.TileArithmetic : Prop :=
  ∀ (mul na nb : Bool) (c : RCtx) (u : Nat → Nat → Nat) (a b : TileVal), descValid a.shape = true → b.shape = a.shape →
    descFmt a.shape ∈ [0, 1, 2, 18] → ∃ r, elementwise mul na nb c u a b = .ok r ∧
      let F := plainFmt (descFmt a.shape)
      let neg := fun (n : Bool) (x : FVal) => if n then x.negate else x
      let int := fun (n : Bool) (v : TileVal) (i j : Nat) => (if n then -1 else 1) * (BitVec.ofNat 32 (elemCode v i j)).toInt
      elements r a.shape fun i j =>
        if descFmt a.shape = 18 then
          (((if mul then int na a i j * int nb b i j else int na a i j + int nb b i j) % 2 ^ 32).toNat, 0)
        else
          let x := neg na (elemValue a c.ftz i j)
          let y := neg nb (elemValue b c.ftz i j)
          F.finish { c with u := u i j } (if mul then mulVal x y else addVal c.rm x y)

/-- R178: `TSCALE` of f32, bf16 and f16 multiplies each signed element by 2^k and rounds once; a shift of more than 100,000 places, which is
beyond every format's range, does what one of 100,000 does. Of a format with scales it moves each scale but 0xFF by k, limited to 0 to 254 with
SA; na flips the sign bit of MX elements and negates BX mantissas, of which the one without a counterpart becomes the largest with SA and NX. -/
def Sys2Proof.Claim.TileScaling : Prop :=
  ∀ (na : Bool) (k : Int) (c : RCtx) (u : Nat → Nat → Nat) (a : TileVal), descValid a.shape = true →
    let f := descFmt a.shape
    (f < 3 → ∃ r, scaleTile na k c u a = .ok r ∧
      elements r a.shape fun i j => (plainFmt f).finish { c with u := u i j }
        (match elemValue a c.ftz i j with
         | .fin n m e => .num { neg := n != na, m := m, e := e + max (-100000) (min 100000 k) }
         | .inf n => .inf (n != na)
         | .nan => .nan false)) ∧
    (blockFormat f → ∃ r, scaleTile na k c u a = .ok r ∧
      let least := 2 ^ (codeBits f - 1)
      let scale := fun i j => (elemScale a i j : Int) + k
      let code := fun i j =>
        if na = false then elemCode a i j
        else if f < 10 then (elemCode a i j + least) % 2 ^ codeBits f
        else if elemCode a i j = least then least - 1 else (2 ^ codeBits f - elemCode a i j) % 2 ^ codeBits f
      (∀ i < descRows a.shape, ∀ j < descCols a.shape,
        elemScale r.1 i j = if elemScale a i j = 255 then 255 else (max 0 (min 254 (scale i j))).toNat) ∧
      elements r a.shape fun i j => (code i j,
        (if elemScale a i j ≠ 255 ∧ (scale i j < 0 ∨ 254 < scale i j) then fSA else 0) |||
          if na ∧ 10 ≤ f ∧ elemCode a i j = least then fSA ||| fNX else 0))

/-- R55, R58, R69, R177: `TCVT` keeps rows and columns within the target's limit and converts every element. -/
def Sys2Proof.Claim.TileConversion : Prop :=
  ∀ (a : TileVal) (f : Nat) (ax : Bool) (rm : RMode) (ftz sat : Bool) (u : Nat → Nat → Nat), descValid a.shape = true → f ≤ 18 →
    (ax = true → blockFormat f) → (∀ g, tileFmt f = some g → descCols a.shape ≤ g.maxCols) →
    ∃ r, convertTile a f ax rm ftz sat u = .ok r ∧
      elements r (mkDesc ax f (descRows a.shape) (descCols a.shape)) (cvtElement a f ax rm ftz sat u) ∧
      (blockFormat f → ∀ i < descRows a.shape, ∀ j < descCols a.shape, elemScale r.1 i j = cvtScale a f ax rm ftz u i j)

/-- R70, R176: a transpose of a format with scales requantises every element into the new block that crosses the old ones, whose scale is their
largest; `TTRQ` exchanges row and column, `TTRQ.ax` the block axis. -/
def Sys2Proof.Claim.TileRequantised : Prop :=
  ∀ (ax : Bool) (a : TileVal), descValid a.shape = true → blockFormat (descFmt a.shape) → descCols a.shape ≤ 128 →
    let R := descRows a.shape
    let C := descCols a.shape
    ∃ r, transposeTile ax a = .ok r ∧
      r.1.shape = (if ax then mkDesc (!descAx a.shape) (descFmt a.shape) R C else mkDesc (descAx a.shape) (descFmt a.shape) C R) ∧
      raises r.2 R C (fun i j => (rescaled a i j).2) ∧
      ∀ i < R, ∀ j < C,
        (if ax then elemCode r.1 i j else elemCode r.1 j i) = (rescaled a i j).1 % 2 ^ codeBits (descFmt a.shape) ∧
        (if ax then elemScale r.1 i j else elemScale r.1 j i) = newScale a i j

/-- Tile values, element by element. -/
def Obligations.TileValues : Prop :=
  IntegerProduct ∧ FloatProduct ∧ TileElements ∧ TileArithmetic ∧ TileScaling ∧ TileConversion ∧ TileRequantised

/-- R34, R181, R369: `TWAIT` commits once no older entry writes its tile, and `TWAIT.all` once the queue is empty; while one is left it
waits; a held entry's fault is taken at the wait, with the entry's address and posting number, in STREAM 2. -/
def Sys2Proof.Claim.TileWait : Prop :=
  ∀ (all : Bool) (o : TOp) (s : State), s.thr.sup = false → s.Serial → s.thr.vq = [] → s.gDamaged [] = false → s.takeMismatch = (0, s) →
    (∀ e ∈ s.thr.tq, tGDest e.ins = none) →
    ((∀ e ∈ s.thr.tq, all = false ∧ tqWrites o.ma e = false) → exec (.twait all o) s = .next s.commit) ∧
    ((∃ e ∈ s.thr.tq, all = true ∨ tqWrites o.ma e = true) → (∀ e ∈ s.thr.tq, ∀ f, e.st ≠ .held f) → exec (.twait all o) s = .next s) ∧
    (∀ e f l, s.thr.tq = e :: l → (∀ x ∈ l, e.post ≤ x.post) → e.st = .held f → (all = true ∨ tqWrites o.ma e = true) →
      ∃ t, exec (.twait all o) s = .next t ∧ t.thr.sup = true ∧ t.thr.c.trappc = e.pc.zeroExtend 64 ∧
        t.thr.c.trapcause = trapCause s.thr.pc 2 f.cause ∧ t.thr.c.tqindex = BitVec.ofNat 64 e.post ∧
        t.thr.c.trapinfo = #v[f.i0, f.i1, f.i2, f.i3])

/-- R170: a get of a line of a tile in a slot of the core writes the line's elements from the start of vd, and a scaled line's scales from
the start of the next register; the bytes beyond, and the other vector registers, are as they were. -/
def Sys2Proof.Claim.TileGet : Prop :=
  ∀ (col : Bool) (o : TOp) (s : State), s.Clear → s.Serial → s.thr.sup = false → s.damage.slots = [] → tileReady s o.ma.toNat →
    s.thr.tmapReady = true → (∀ a, s.thr.fillErr ≠ some (o.ma.toNat, a)) → (∀ y, s.tileSlot o.ma.toNat = some y → y.report = false) →
    let i : Instr := if col then .tgetc o else .tgetr o
    let vd := o.md.extractLsb' 0 6
    let v := s.tileVal o.ma.toNat
    let n := (s.g (o.g.zeroExtend 6)).toNat
    lineCheck v.shape col n s.thr.hdr.vregs vd 0 = none →
    ∃ t, exec i s = .next t ∧ t.thr.pc = s.commit.thr.pc ∧ t.thr.c.fstat = s.thr.c.fstat ∧ s.KeepsG t [] ∧ s.KeepsMem t ∧
      t.tileVal o.ma.toNat = v ∧
      (let w := lineBits v.shape col
       (vget t.thr.r.v vd.toNat).toNat % 2 ^ w = (v.line col n).1 % 2 ^ w ∧
       (vget t.thr.r.v vd.toNat).toNat / 2 ^ w = (vget s.thr.r.v vd.toNat).toNat / 2 ^ w) ∧
      ((descTFmt v.shape).scaled = true →
        let k := 8 * (v.line col n).2.length
        (vget t.thr.r.v (vd.toNat + 1)).toNat % 2 ^ k = packElems 8 (v.line col n).2 ∧
        (vget t.thr.r.v (vd.toNat + 1)).toNat / 2 ^ k = (vget s.thr.r.v (vd.toNat + 1)).toNat / 2 ^ k) ∧
      ∀ r < 64, r ≠ vd.toNat → ((descTFmt v.shape).scaled = true → r ≠ vd.toNat + 1) → vget t.thr.r.v r = vget s.thr.r.v r

/-- Tile sync points. -/
def Obligations.TileSync : Prop := TileWait ∧ TileGet

/-- R162, R175, R369, R374: a multiplication whose formats, depths or accumulator do not fit is held with TILE_FORMAT and its reason, and
changes no tile; an entry that has waited 2^26 cycles for a slot, and for which there is still no candidate, is held with WATCHDOG. The held entry stays in the queue. -/
def Obligations.TileFaults : Prop :=
  (∀ (s : State) (e : TqEnt) (o : TOp) (f : TFault), e.ins = .mma o → tileAlone s e → (∀ x ∈ tReads e.ins, tileReady s x.1.toNat) →
    s.freeArray.isSome = true → (s.core s.thr.id.core).pool ≠ [] →
    mmaCheck (mmaMods false o) (s.ent o.ma.toNat).shape (s.ent o.mb.toNat).shape (s.ent o.md.toNat).shape = some f →
    ∃ t g, exec .tileEntryIssue s = .next t ∧ t.thr.tq.map TqEnt.st = [.held g] ∧ g.cause = 0x07 ∧
      g.i1.toNat / 2 ^ 20 = f.reason ∧ g.i1.toNat % 256 = 0x88 ∧ t.thr.tmap = s.thr.tmap ∧ s.KeepsMem t) ∧
  (∀ (s : State) (e : TqEnt) (l : List TqEnt), s.thr.tq = e :: l → e.st = .posted → e.res = noResult → s.thr.sup = false → e.since ≠ 0 →
    e.since + 2 ^ 26 ≤ s.cycle + 1 → s.slotless e = true →
    ∃ t g, exec .tileWatchdog s = .next t ∧ (t.thr.tq.head?.map TqEnt.st) = some (.held g) ∧ g.cause = 0x13 ∧ s.KeepsMem t) ∧
  (∀ (s : State), (∀ e ∈ s.thr.tq.head?, e.since = 0 ∨ s.cycle + 1 < e.since + 2 ^ 26 ∨ s.slotless e = false) → exec .tileWatchdog s = .fault .notEnabled)

/-- R225, R230, R233, R235, R236: a fill puts the checked value of the backing region into its slot and the tile becomes RESIDENT; a spill
writes the value back, frees the slot and the tile becomes BACKED; a slot asked of another core is given up with its value backed. -/
def Obligations.FillsAndSpills : Prop :=
  let only := fun (s : State) (m : Move) => s.thr.id.core < 192 ∧ (s.core s.thr.id.core).moves = [m] ∧ s.thr.owns m.tag = true ∧
    (s.ent m.tag.tile).gen = m.tag.gen ∧ (∀ c < 192, c ≠ s.thr.id.core → (s.core c).moves = []) ∧ s.damage.slots = []
  (∀ (s : State) (m : Move) (v : TileVal), only s m → m.spill = false →
    s.readRegion m.tag.ctx m.tag.base m.bidx m.tag.tile m.tag.gen m.shape = .ok v →
    ∃ t x, exec (.fillComplete m.slot) s = .next t ∧ (t.core s.thr.id.core).moves = [] ∧
      (t.core s.thr.id.core).slotAt m.slot = some x ∧ x.val = v ∧ x.tag = m.tag ∧ x.dirty = false ∧
      (t.ent m.tag.tile).state = 3 ∧ s.KeepsMem t ∧ s.KeepsG t []) ∧
  (∀ (s : State) (m : Move) (s' : State), only s m → m.spill = true → s.inUse s.thr.id.core m.tag = false →
    s.writeRegion m.tag.ctx m.tag.base m.bidx m.tag.tile m.tag.gen m.flags m.val = (s', none) →
    ∃ t, exec (.spillComplete m.slot) s = .next t ∧ (t.core s.thr.id.core).moves = [] ∧
      (t.core s.thr.id.core).slotAt m.slot = none ∧ (t.ent m.tag.tile).state = 1 ∧ t.mem = s'.mem ∧ s.KeepsG t []) ∧
  (∀ (s : State) (k t : Nat) (x : Slot), k < 192 → k ≠ s.thr.id.core → (∀ c < 192, (s.core c).moves = []) → s.damage.slots = [] → t < s.thr.tmap.length →
    (∀ u, u ≠ t → u < s.thr.tmap.length → (s.ent u).slot ≠ (s.ent t).slot) → (s.ent t).resident = true → (s.ent t).core.toNat = k →
    s.tileSlot t = some x →
    (x.report = true → exec (.tileSlotRequest k (s.ent t).slot.toNat) s = .next s) ∧
    (x.report = false → x.dirty = false → ∃ u, exec (.tileSlotRequest k (s.ent t).slot.toNat) s = .next u ∧
      (u.ent t).state = 1 ∧ (u.core k).slotAt x.num = none ∧ s.KeepsMem u) ∧
    (∀ s', x.report = false → x.dirty = true → x.full = true →
      s.writeRegion s.thr.id.ctx s.thr.c.tmapb (s.ent t).bidx.toNat t (s.ent t).gen (s.ent t).flags x.val = (s', none) →
      ∃ u, exec (.tileSlotRequest k (s.ent t).slot.toNat) s = .next u ∧ (u.ent t).state = 1 ∧ (u.core k).slotAt x.num = none ∧
        u.mem = s'.mem))

/-! ### The engine, barriers, pages, mailboxes, hachure, fences, calls (spec/08) -/

namespace Sys2Proof.Claim

/-- Nothing holds or damages the registers that a scalar instruction names, and its thread runs no region. -/
def plain (s : State) (srcs dst : List (BitVec 6)) : Prop :=
  s.gWait (srcs ++ dst) = none ∧ s.gDamaged srcs = false ∧ s.takeMismatch = (0, s) ∧ s.Serial

/-- No convoy and no tile entry is in flight, and the thread waits for nothing. -/
def quiet (s : State) : Prop := s.thr.vq = [] ∧ s.thr.tq = [] ∧ s.thr.wait = .none

/-- A precise trap of the scalar stream has been taken (R365, R366). -/
def trapped (s t : State) (cause : Nat) (i0 i1 i2 : Word) : Prop :=
  t.thr.sup = true ∧ t.thr.c.trappc = s.thr.pc.zeroExtend 64 ∧ t.thr.c.trapcause = trapCause s.thr.pc 0 cause ∧
    t.thr.c.trapinfo = #v[i0, i1, i2, 0] ∧ t.thr.r = s.thr.r ∧ t.thr.pc = s.tctx.trapvec.setWidth 48

/-- An 8-byte word of the data space that passes the checks of R118, with its physical address. -/
def wordAt (s : State) (ea : Word) (read write : Bool) (pa : Nat) : Prop :=
  ea.toNat % 8 = 0 ∧ s.xlate s.thr.id.ctx s.thr.sup write ea.toNat = .ok pa ∧ s.dataErr s.thr.id.ctx read write pa = none

/-- One arrival on a barrier word (R195, R312): the count modulo 2^32, bits above it kept, and the error bit set where asked. -/
def arrived (w : Word) (n : Nat) (err : Bool) : Word :=
  BitVec.ofNat 64 (w.toNat / 2 ^ 32 * 2 ^ 32 + (w.toNat + n) % 2 ^ 32) ||| (if err then 0x8000000000000000 else 0)

/-- The thread stands in its slot, and its record is not the one that a save has filled. -/
def placed (s : State) : Prop :=
  s.thr.live = true ∧ ∀ g, s.group s.thr.id.gid = some g → ∀ y ∈ g.threads, y.1 = s.thr.id.tidx → y.2.2 = false

/-- The thread's word has committed, and its registers, streams and tiles are as they were. -/
def committed (s t : State) : Prop := t.thr = s.commit.thr

end Sys2Proof.Claim

/-- R191: a transfer within its limit, its barrier address checked, is posted with its operands where fewer than sixteen are pending, and
the word commits; a longer one traps ILLEGAL with the length. -/
def Sys2Proof.Claim.TransferPosting : Prop :=
  ∀ (s : State) (o : AOp) (sp : CpySp), s.accessWaits = false →
    let x := fun (two : Bool) (rows : Nat) (sp2 dp2 : Word) =>
      ({ core := s.thr.id.core, tslot := s.thr.id.slot, tid := s.thr.id, sup := s.thr.sup, two := two, sp := sp, dst := s.g o.dst,
         src := s.g o.src, len := (s.g o.len).toNat, rows := rows, sp2 := sp2, dp2 := dp2, bar := s.g o.bar, acq := o.acq, rel := o.rel,
         scope := o.scope, posts := s.thr.posts, since := 0, err := false } : Transfer)
    let bar := s.g o.bar = 0 ∨ (s.g o.bar).toNat % 8 = 0 ∧ ∃ pa, s.xlate s.thr.id.ctx s.thr.sup true (s.g o.bar).toNat = .ok pa
    let one := [o.dst, o.src, o.len, o.bar]
    let two := [o.dst, o.src, o.len, o.len + 1, o.len + 2, o.len + 3, o.bar]
    let n := (s.g o.len).toNat
    let m := n * (s.g (o.len + 1)).toNat
    (plain s one [] → s.myTransfers.length < 16 → bar → n ≤ 2 ^ 40 →
      exec (.cpy sp o) s = .next { s with transfers := s.transfers ++ [x false 1 0 0] }.commit) ∧
    (plain s two [] → s.myTransfers.length < 16 → bar → m ≤ 2 ^ 40 →
      exec (.cpy2d sp o) s = .next
        { s with transfers := s.transfers ++ [x true (s.g (o.len + 1)).toNat (s.g (o.len + 2)) (s.g (o.len + 3))] }.commit) ∧
    (plain s one [] → 16 ≤ s.myTransfers.length → s.g o.bar = 0 → n ≤ 2 ^ 40 → exec (.cpy sp o) s = .next s) ∧
    (plain s one [] → quiet s → s.thr.sup = false → 2 ^ 40 < n →
      ∃ t, exec (.cpy sp o) s = .next t ∧ trapped s t 0x01 ((encode64 (.cpy sp o)).getD 0) 4 (s.g o.len)) ∧
    (plain s two [] → quiet s → s.thr.sup = false → 2 ^ 40 < m →
      ∃ t, exec (.cpy2d sp o) s = .next t ∧ trapped s t 0x01 ((encode64 (.cpy2d sp o)).getD 0) 4 (s.g o.len))

/-- R191, R192: a transfer of one chunk, alone on its core, moves its bytes between the data space and the thread's scratchpad, leaves
every other byte, and arrives on no barrier where its address is 0; one of length 0 accesses nothing and still arrives. One with rel waits
for the accesses of the thread's older tile entries. The model's own: an acquire is a step before the first access (log entry 10), and a
chunk whose source and destination overlap is read whole before it is written, where R192 leaves each byte open (log entry 90). -/
def Sys2Proof.Claim.TransferResult : Prop :=
  ∀ (s : State) (x : Transfer) (a b n : Nat), s.transfers = [x] → placed s → x.tid = s.thr.id → s.Serial →
    (x.acq = true → exec (.transferComplete 0) s = .next { s with transfers := [{ x with acq := false }] }) ∧
    (x.acq = false → x.err = false →
    (s.relWaits x = true → exec (.transferComplete 0) s = .next s) ∧
    (s.relWaits x = false →
    let src := fun (pa : Nat) => pieces a n = [(a, n)] ∧ s.xlate x.tid.ctx x.sup false a = .ok pa ∧ s.dataErr x.tid.ctx true false pa = none
    let dst := fun (pa : Nat) => s.xlate x.tid.ctx x.sup true b = .ok pa ∧ s.dataErr x.tid.ctx false true pa = none
    let pad := fun (k : Nat) => k + n ≤ (192 - s.thr.hdr.slots) * 36864
    (x.bar = 0 → x.chunks = [(a, b, n)] →
      (∀ p q, x.sp = .dd → src p → dst q →
        ∃ t, exec (.transferComplete 0) s = .next t ∧ t.mem = s.mem.write q (s.mem.read p n) ∧ t.transfers = [] ∧ t.thr = s.thr) ∧
      (∀ p, x.sp = .tos → src p → pad b →
        ∃ t, exec (.transferComplete 0) s = .next t ∧ t.thr.spad = s.thr.spad.write b (s.mem.read p n) ∧ t.mem = s.mem ∧
          t.transfers = [] ∧ t.thr.r = s.thr.r) ∧
      (∀ q, x.sp = .froms → pad a → dst q →
        ∃ t, exec (.transferComplete 0) s = .next t ∧ t.mem = s.mem.write q (s.thr.spad.read a n) ∧ t.transfers = [] ∧ t.thr = s.thr) ∧
      (x.sp = .ss → pad a → pad b →
        ∃ t, exec (.transferComplete 0) s = .next t ∧ t.thr.spad = s.thr.spad.write b (s.thr.spad.read a n) ∧ t.mem = s.mem ∧
          t.transfers = [] ∧ t.thr.r = s.thr.r)) ∧
    (∀ q, x.chunks = [] → x.bar ≠ 0 → x.bar.toNat % 8 = 0 → s.xlate x.tid.ctx x.sup true x.bar.toNat = .ok q →
      s.dataErr x.tid.ctx true true q = none →
      ∃ t, exec (.transferComplete 0) s = .next t ∧
        t.mem = s.mem.write q (toBytes 8 (arrived (BitVec.ofNat 64 (s.mem.num q 8)) 1 false).toNat) ∧ t.transfers = [] ∧ t.thr = s.thr)))

/-- R193: a transfer whose only chunk fails writes nothing, records the cause and the chunk's address where no failure is recorded
yet, and arrives with the error bit. That ENGADDR takes the chunk's destination, for a failed read too, is the model's reading (log
entry 50). -/
def Sys2Proof.Claim.TransferFailure : Prop :=
  ∀ (s : State) (x : Transfer) (a b n c : Nat), s.transfers = [x] → placed s → x.tid = s.thr.id → x.acq = false → x.err = false → s.relWaits x = false → x.sp = .dd →
    x.chunks = [(a, b, n)] → pieces a n = [(a, n)] → s.xlate x.tid.ctx x.sup false a = .error c → c ≠ 0x12 →
    (x.bar = 0 →
      ∃ t, exec (.transferComplete 0) s = .next t ∧ t.mem = s.mem ∧ t.transfers = [] ∧
        (s.thr.c.engerr.getLsbD 8 = false → t.thr.c.engerr = BitVec.ofNat 64 (256 + c) ∧ t.thr.c.engaddr = BitVec.ofNat 64 b) ∧
        (s.thr.c.engerr.getLsbD 8 = true → t.thr.c.engerr = s.thr.c.engerr ∧ t.thr.c.engaddr = s.thr.c.engaddr)) ∧
    (∀ q, x.bar ≠ 0 → x.bar.toNat % 8 = 0 → s.xlate x.tid.ctx x.sup true x.bar.toNat = .ok q → s.dataErr x.tid.ctx true true q = none →
      ∃ t, exec (.transferComplete 0) s = .next t ∧
        t.mem = s.mem.write q (toBytes 8 (arrived (BitVec.ofNat 64 (s.mem.num q 8)) 1 true).toNat) ∧ t.transfers = [])

/-- Engine transfers. -/
def Obligations.EngineTransfers : Prop := TransferPosting ∧ TransferResult ∧ TransferFailure

/-- R195, R196: `BINIT` stores its count with every other bit 0; `BARRIVE` adds 1 or g(src) to the count modulo 2^32, whatever bits stand
above it, and `.err` sets the error bit. Every other byte and register is as it was. -/
def Sys2Proof.Claim.BarrierWords : Prop :=
  ∀ (s : State) (o : AOp) (pa : Nat), plain s [o.src, o.bar] [] → s.accessWaits = false →
    let w := BitVec.ofNat 64 (s.mem.num pa 8)
    (wordAt s (s.g o.bar) false true pa →
      ∃ t, exec (.binit o) s = .next t ∧ committed s t ∧ t.mem = s.mem.write pa (toBytes 8 ((s.g o.src).toNat % 2 ^ 32)) ∧ s.OnlyMemory t) ∧
    (wordAt s (s.g o.bar) true true pa →
      ∀ f, ∃ t, exec (.barrive f o) s = .next t ∧ committed s t ∧ s.OnlyMemory t ∧
        t.mem = s.mem.write pa (toBytes 8 (arrived w (if f = .n then (s.g o.src).toNat else 1) (decide (f = .err))).toNat))

/-- R197: `BWAIT` returns the word once its count, compared unsigned, reaches g(N)[31:0] or one of bits 61 to 63 is set, else it waits;
a poll returns at once. Neither writes memory. -/
def Sys2Proof.Claim.BarrierWait : Prop :=
  ∀ (s : State) (o : AOp) (pa : Nat), s.accessWaits = false → wordAt s (s.g o.bar) true false pa →
    let w := BitVec.ofNat 64 (s.mem.num pa 8)
    let n := (s.g o.len).toNat % 2 ^ 32
    let ends := n ≤ w.toNat % 2 ^ 32 ∨ 2 ^ 61 ≤ w.toNat
    (plain s [o.bar] [o.dst] → exec (.bwait true o) s = .next (s.writeG o.dst w)) ∧
    (plain s [o.bar, o.len] [o.dst] → ends → exec (.bwait false o) s = .next (s.writeG o.dst w)) ∧
    (plain s [o.bar, o.len] [o.dst] → ¬ ends →
      ∃ t, exec (.bwait false o) s = .next t ∧ t.thr.pc = s.thr.pc ∧ t.thr.r = s.thr.r ∧ t.mem = s.mem ∧
        ∃ sc, t.thr.wait = .bwait o.dst (s.g o.bar) n sc) ∧
    (∀ d m sc, s.Serial → s.thr.wait = .bwait d (s.g o.bar) m sc →
      (m ≤ w.toNat % 2 ^ 32 ∨ 2 ^ 61 ≤ w.toNat → exec .bwaitWake s = .next (s.writeG d w)) ∧
      (w.toNat % 2 ^ 32 < m → w.toNat < 2 ^ 61 → exec .bwaitWake s = .next s))

/-- R198, R306, R307: the last thread to reach a group barrier passes and opens the next instance; one that others have still to reach
arrives and stays; a group of one thread passes at once. -/
def Sys2Proof.Claim.GroupBarrier : Prop :=
  ∀ (s : State) (o : AOp) (g : Group), plain s [] [] → quiet s → s.myTransfers = [] → s.group s.thr.id.gid = some g →
    let i := s.thr.id.tidx
    i < g.n → g.n ≤ 96 → i < g.counts.length → g.counts.getD i 0 = g.opened →
    ((∀ k < g.n, k ≠ i → g.arr.getLsbD k = true ∨ g.exited.getLsbD k = true) →
      ∃ t h, exec (.gbar o) s = .next t ∧ committed s t ∧ t.group s.thr.id.gid = some h ∧ h.opened = g.opened + 1 ∧ h.arr = 0 ∧
        h.counts.getD i 0 = g.counts.getD i 0 + 1 ∧ s.KeepsMem t) ∧
    ((∃ k < g.n, k ≠ i ∧ g.arr.getLsbD k = false ∧ g.exited.getLsbD k = false) →
      ∃ t h, exec (.gbar o) s = .next t ∧ t.thr = (s.setWait .gbar).thr ∧ t.group s.thr.id.gid = some h ∧ h.opened = g.opened ∧
        h.arr = g.arr ||| (1 <<< i) ∧ h.counts = g.counts ∧ s.KeepsMem t)

/-- Barrier words and the group barrier. -/
def Obligations.Barriers : Prop := BarrierWords ∧ BarrierWait ∧ GroupBarrier

/-- R199, R278: `SPAWN` appends its node at the tail of a queue that exists and runs, and answers 0; 1 for one that is FROZEN or DRAINING,
2 for one that does not exist, 3 for an index above 15, and then appends nothing. -/
def Sys2Proof.Claim.Spawning : Prop :=
  ∀ (s : State) (o : AOp) (pn : Nat), plain s [o.src, o.len] [o.dst] → s.accessWaits = false → (s.g o.src).toNat % 128 = 0 →
    s.xlate s.thr.id.ctx s.thr.sup false (s.g o.src).toNat = .ok pn →
    let n := s.thr.id.ctx
    let k := (s.g o.len).toNat
    let q := s.queue n k
    (15 < k → exec (.spawn o) s = .next (s.writeG o.dst 3)) ∧
    (k ≤ 15 → s.qva n k = 0 ∨ q.state = .destroyed → exec (.spawn o) s = .next (s.writeG o.dst 2)) ∧
    (k ≤ 15 → s.qva n k ≠ 0 → q.state = .frozen ∨ q.state = .draining → exec (.spawn o) s = .next (s.writeG o.dst 1)) ∧
    (∀ old pa pb, k ≤ 15 → s.qva n k ≠ 0 → q.state = .empty ∨ q.state = .active → q.errd = false → s.qget n k 8 = .ok old →
      s.xlate n true true (s.qva n k + 8) = .ok pa → s.dataErr n true true pa = none → s.loadPA8 pa = old →
      let s1 := s.storePA8 pa (s.g o.src)
      let at_ := if old = 0 then s.qva n k else old.toNat
      at_ % 8 = 0 → s1.xlate n true true at_ = .ok pb → s1.dataErr n true true pb = none →
      exec (.spawn o) s = .next ((s1.storePA8 pb (s.g o.src)).writeG o.dst 0))

/-- R200, R280, R301: `GSIG` answers 3 for a node in no queue of the context, 1 for a node that is not WAITING, 2 where fewer
predecessors are left than it takes; else it takes them from PREDS and answers 0, and at 0 the node is READY. -/
def Sys2Proof.Claim.Signalling : Prop :=
  ∀ (s : State) (n : Bool) (o : AOp) (pn pa : Nat), plain s (if n then [o.src, o.len] else [o.src]) [o.dst] → s.accessWaits = false →
    (s.g o.src).toNat % 128 = 0 → s.xlate s.thr.id.ctx s.thr.sup true (s.g o.src).toNat = .ok pn →
    let node := s.g o.src
    let m := if n then (s.g o.len).toNat % 2 ^ 32 else 1
    (s.inQueue s.thr.id.ctx node = false → exec (.gsig n o) s = .next (s.writeG o.dst 3)) ∧
    (s.inQueue s.thr.id.ctx node = true → s.portless s.thr.id.ctx s.thr.sup true (node.toNat + 8) 8 = false →
      s.xlate s.thr.id.ctx s.thr.sup true (node.toNat + 8) = .ok pa → s.dataErr s.thr.id.ctx true true pa = none →
      let w := s.loadPA8 pa
      let preds := w.toNat / 2 ^ 32
      let st := w.toNat / 2 ^ 12 % 8
      (st ≠ 0 → exec (.gsig n o) s = .next (s.writeG o.dst 1)) ∧
      (st = 0 → preds < m → exec (.gsig n o) s = .next (s.writeG o.dst 2)) ∧
      (st = 0 → m < preds → exec (.gsig n o) s = .next
        ((s.storePA8 pa (BitVec.ofNat 64 ((preds - m) * 2 ^ 32 + w.toNat % 2 ^ 32))).writeG o.dst 0)) ∧
      (st = 0 → m = preds → ∀ q x, s.findNode s.thr.id.ctx node = some (q, x) →
        ∃ t y, exec (.gsig n o) s = .next t ∧ t.node s.thr.id.ctx q node = some y ∧ y.state = .ready ∧
          (o.dst ≠ 0 → t.g o.dst = 0) ∧ s.KeepsG t [o.dst]))

/-- Work that a thread makes. -/
def Obligations.DeviceMadeWork : Prop := Spawning ∧ Signalling

/-- R201, R202, R321 to R325: a handle instruction on a valid handle. `PGALLOC` raises the capacity by 128 rows a page, or answers 0;
`PGFREE` drops a reference, and the last one frees the entry with its generation advanced; `HMARK` sets the mark to the length; `HTRUNC`
cuts length, mark and capacity; `HCHK` reads; all ones for a handle that is not valid. -/
def Sys2Proof.Claim.HandleResult : Prop :=
  ∀ (s : State) (o : SOp), quiet s → s.MemOk →
    let c := s.tctx
    let h := s.g o.a
    let i := handleIdx h
    let e := s.hent c i
    let ok := s.handleReason s.thr.id.ctx h = 0
    let n := (s.g o.b).toNat
    (plain s [o.a, o.b] [o.d] → ok → 1 ≤ n → n ≤ 64 →
      (∀ e' s', e.cap / 128 + n ≤ c.maxpg → s.takePages c e n = some (e', s') →
        e'.cap = e.cap + 128 * n ∧ exec (.pgalloc o) s = .next ((s'.setHent c i e').writeG o.d (BitVec.ofNat 64 e'.cap))) ∧
      (c.maxpg < e.cap / 128 + n ∨ s.takePages c e n = none → exec (.pgalloc o) s = .next (s.writeG o.d 0))) ∧
    (plain s [o.a] [o.d] → ok →
      (1 < e.refs → ∃ t, exec (.pgfree o) s = .next t ∧ t.hent c i = { e with refs := e.refs - 1 } ∧ s.KeepsG t [o.d] ∧
        (o.d ≠ 0 → t.g o.d = BitVec.ofNat 64 (e.refs - 1))) ∧
      (e.refs ≤ 1 → ∃ t, exec (.pgfree o) s = .next t ∧ t.hent c i = { e with v := false, refs := 0, gen := (e.gen + 1) % 256 } ∧
        s.KeepsG t [o.d] ∧ (o.d ≠ 0 → t.g o.d = 0)) ∧
      (∃ t, exec (.hmark o) s = .next t ∧ t.hent c i = { e with mark := e.len } ∧ s.KeepsG t [o.d] ∧
        (o.d ≠ 0 → t.g o.d = BitVec.ofNat 64 e.len))) ∧
    (plain s [o.a, o.b] [] → ok → n ≤ e.mark →
      ∃ t, exec (.htrunc o) s = .next t ∧ t.hent c i = { e with len := n, mark := n, cap := min e.cap (128 * ((n + 127) / 128)) } ∧
        s.KeepsG t []) ∧
    (plain s [o.a] [o.d] → ∀ f, exec (.hchk f o) s = .next (s.writeG o.d (if s.handleReason s.thr.id.ctx h = 0 then
      BitVec.ofNat 64 (match f with | .length => e.len | .cap => e.cap | .mark => e.mark) else BitVec.allOnes 64)))

/-- R201, R320, R321: `HMAKE` takes the lowest free entry above 0 with an empty list and one reference, and answers its handle; a fork
also takes the length asked for, sharing the full pages and copying the rows of the last. Where no entry or no page is free, 0. -/
def Sys2Proof.Claim.HandleMaking : Prop :=
  ∀ (s : State) (o : SOp), quiet s → s.MemOk →
    let n := s.thr.id.ctx
    let c := s.tctx
    let fits := fun (i : Nat) => c.listsAt + 4 * c.maxpg * i < 2 ^ 64
    let fresh := fun (i : Nat) => ({ list := c.listsAt + 4 * c.maxpg * i, gen := (s.hent c i).gen, refs := 1, cur := i % 192, v := true,
                                     cap := 0, mark := 0, len := 0 } : HEnt)
    let name := fun (i : Nat) => BitVec.ofNat 64 (n % 64 * 2 ^ 58 + (s.hent c i).gen % 256 * 2 ^ 50 + i % 2 ^ 24 * 2 ^ 26)
    let len := (s.g o.b).toNat
    let a := s.hent c (handleIdx (s.g o.a))
    (plain s [] [o.d] →
      (s.freeHandle c = none → exec (.hmake false o) s = .next (s.writeG o.d 0)) ∧
      (∀ i, s.freeHandle c = some i → fits i →
        ∃ t, exec (.hmake false o) s = .next t ∧ t.hent c i = fresh i ∧ (o.d ≠ 0 → t.g o.d = name i) ∧ s.KeepsG t [o.d])) ∧
    (plain s [o.a, o.b] [o.d] → s.handleReason n (s.g o.a) = 0 → len ≤ a.len →
      (s.freeHandle c = none → exec (.hmake true o) s = .next (s.writeG o.d 0)) ∧
      (∀ i, s.freeHandle c = some i → fits i → len % 128 ≠ 0 → s.takePage c (i % 192) = none → exec (.hmake true o) s = .next (s.writeG o.d 0)) ∧
      (∀ i, s.freeHandle c = some i → fits i → len % 128 = 0 →
        ∃ t, exec (.hmake true o) s = .next t ∧ t.hent c i = { fresh i with len := len, mark := len, cap := len } ∧
          (o.d ≠ 0 → t.g o.d = name i) ∧ s.KeepsG t [o.d]) ∧
      (∀ i p k s', s.freeHandle c = some i → fits i → len % 128 ≠ 0 → s.takePage c (i % 192) = some (p, k, s') → len < 2 ^ 31 →
        s.noPort (s.pageRows c (s.listPage a (len / 128))) = false → s'.noPort (s'.pageRows c p) = false →
        ∃ t, exec (.hmake true o) s = .next t ∧
          t.hent c i = { fresh i with len := len, mark := len, cap := 128 * (len / 128) + 128, cur := k } ∧
          (o.d ≠ 0 → t.g o.d = name i) ∧ s.KeepsG t [o.d]))

/-- R202, R365: a handle that is not valid faults HANDLE with the handle and the first reason that fails, and changes nothing. -/
def Sys2Proof.Claim.HandleFaults : Prop :=
  ∀ (s : State) (o : SOp) (i : Instr), (i = .pgalloc o ∨ i = .pgfree o ∨ i = .hmark o ∨ i = .htrunc o ∨ i = .hmake true o) →
    plain s [o.a, o.b] [o.d] → plain s [o.a] [o.d] → plain s [o.a, o.b] [] → quiet s → s.thr.sup = false →
    s.handleReason s.thr.id.ctx (s.g o.a) ≠ 0 →
    ∃ t, exec i s = .next t ∧ trapped s t 0x0A (s.g o.a) (BitVec.ofNat 64 (s.handleReason s.thr.id.ctx (s.g o.a))) 0 ∧ s.KeepsMem t

/-- Pages and handles. -/
def Obligations.Handles : Prop := HandleResult ∧ HandleMaking ∧ HandleFaults

namespace Sys2Proof.Claim

/-- An episode of the thread's context that is loaded, by the number in a register (R207). -/
def episodeOf (s : State) (g : Word) (x : Episode) : Prop :=
  g.toNat < 256 ∧ s.tctx.epcbase ≠ 0 ∧ s.ep s.thr.id.ctx g.toNat = some x ∧ x.state ≠ .free ∧ x.state ≠ .loading

/-- It is loaded and has not ended. -/
def episodeLive (s : State) (g : Word) (x : Episode) : Prop :=
  episodeOf s g x ∧ (x.state = .ready ∨ x.state = .stepping ∨ x.state = .awaiting)

end Sys2Proof.Claim

/-- R203, R204, R341: `MBPOST` to an episode that has not ended appends an action of imm + 1 bytes of va under the step counter, which
advances, and commits; with sixteen actions waiting it waits, and its wake posts as it would have. -/
def Sys2Proof.Claim.MailboxPost : Prop :=
  ∀ (s : State) (o : VOp) (x : Episode), plain s [o.vb] [] → quiet s → episodeLive s (s.g o.vb) x →
    vget s.thr.r.arr o.va.toNat = BitVec.allOnes 32 → s.damage.vec = [] →
    let n := o.imm.toNat + 1
    (x.acts.length < 16 →
      ∃ t y a, exec (.mbpost o) s = .next t ∧ exec .mbpostWake (s.setWait (.mbpost o)) = .next t ∧
        t.ep s.thr.id.ctx (s.g o.vb).toNat = some y ∧ y.acts = x.acts ++ [a] ∧ y.step = x.step + 1 ∧ y.state = x.state ∧ y.obs = x.obs ∧
        a.payload = toBytes n (vget s.thr.r.v o.va.toNat).toNat ∧
        a.tag.toNat % 2 ^ 64 = x.e % 256 * 2 ^ 24 + n ∧ (a.tag.extractLsb' 64 32 = x.step) ∧
        t.thr.pc = s.commit.thr.pc ∧ s.KeepsG t [] ∧ t.thr.r.v = s.thr.r.v) ∧
    (16 ≤ x.acts.length → exec (.mbpost o) s = .next (s.setWait (.mbpost o)))

/-- R205: `MBTAKE` removes the oldest observation and leaves its payload, padded to 256 bytes, and its tag in the first 512 bytes of vd,
whose element groups 0 and 1 are full; with none it waits with these two empty, and its wake takes as it would have. -/
def Sys2Proof.Claim.MailboxTake : Prop :=
  ∀ (s : State) (o : VOp) (x : Episode), plain s [o.vb] [] → quiet s → episodeOf s (s.g o.vb) x → x.returned = [] → x.final = none →
    (∀ a rest, x.obs = a :: rest →
      ∃ t y, exec (.mbtake o) s = .next t ∧ exec .mbtakeWake (s.setWait (.mbtake o)) = .next t ∧
        t.ep s.thr.id.ctx (s.g o.vb).toNat = some y ∧ y.obs = rest ∧ y.acts = x.acts ∧ y.state = x.state ∧
        (vget t.thr.r.v o.vd.toNat).toNat % 2 ^ 4096 =
          (ofBytes ((a.payload ++ List.replicate 256 0).take 256) + 2 ^ 2048 * a.tag.toNat) % 2 ^ 4096 ∧
        (vget t.thr.r.v o.vd.toNat).toNat / 2 ^ 4096 = (vget s.thr.r.v o.vd.toNat).toNat / 2 ^ 4096 ∧
        vget t.thr.r.arr o.vd.toNat = vget s.thr.r.arr o.vd.toNat ||| 3 ∧ (∀ r < 64, r ≠ o.vd.toNat → vget t.thr.r.v r = vget s.thr.r.v r) ∧
        t.thr.pc = s.commit.thr.pc ∧ s.KeepsG t []) ∧
    (x.obs = [] → episodeLive s (s.g o.vb) x →
      ∃ t, exec (.mbtake o) s = .next t ∧ t.thr.wait = .mbtake o ∧ t.thr.pc = s.thr.pc ∧ vget t.thr.r.arr o.vd.toNat = vget s.thr.r.arr o.vd.toNat &&& ~~~3 ∧
        t.eps = s.eps)

/-- R206, R207: `MBPOLL` reads an episode's state, its observations and the room for actions; the forms of `MBCTL` record a mode or a
budget for the next step, and kill an episode that has not ended; checks of R207 that fail fault MAILBOX with their number. -/
def Sys2Proof.Claim.MailboxControl : Prop :=
  ∀ (s : State) (o : SOp) (x : Episode), quiet s →
    let g := s.g o.a
    let b := (s.g o.b).toNat
    (plain s [o.a] [o.d] → episodeOf s g x → exec (.mbpoll o) s = .next
      (s.writeG o.d (BitVec.ofNat 64 (x.state.code * 2 ^ 16 + x.obs.length * 2 ^ 8 + (16 - x.acts.length))))) ∧
    (plain s [o.a, o.b] [] → episodeLive s g x → x.state = .stepping → b ≤ 2 →
      exec (.mbctlMode o) s = .next (s.setEp { x with modeNext := some b }).commit) ∧
    (plain s [o.a, o.b] [] → episodeLive s g x → x.state ≠ .stepping → b = 0 →
      ∃ t y, exec (.mbctlMode o) s = .next t ∧ t.ep s.thr.id.ctx g.toNat = some y ∧ y.mode = 0 ∧ y.modeNext = none ∧
        y.base = s.tctx.policygen.setWidth 32 ∧ y.state = x.state ∧ s.KeepsG t []) ∧
    (plain s [o.a, o.b] [] → episodeLive s g x → 1 ≤ b → b ≤ 2 ^ 40 →
      exec (.mbctlBudget o) s = .next (s.setEp { x with budgetNext := some b }).commit) ∧
    (plain s [o.a] [] → episodeLive s g x →
      ∃ t y, exec (.mbctlKill o) s = .next t ∧ t.ep s.thr.id.ctx g.toNat = some y ∧ y.state = .killed ∧ y.acts = [] ∧ y.scrubbing = true ∧
        t.thr.pc = s.commit.thr.pc ∧ s.KeepsG t []) ∧
    (plain s [o.a] [] → episodeOf s g x → x.state = .done ∨ x.state = .killed ∨ x.state = .stale → exec (.mbctlKill o) s = .next s.commit) ∧
    (plain s [o.a, o.b] [] → s.thr.sup = false → 256 ≤ g.toNat → ∃ t, exec (.mbctlMode o) s = .next t ∧ trapped s t 0x0B g 1 0) ∧
    (plain s [o.a, o.b] [] → s.thr.sup = false → episodeLive s g x → 2 < b → ∃ t, exec (.mbctlMode o) s = .next t ∧ trapped s t 0x0B g 4 0)

/-- The mailbox instructions. -/
def Obligations.Mailboxes : Prop := MailboxPost ∧ MailboxTake ∧ MailboxControl

/-- R211, R213, R214: a `FENCE` commits once the streams that it waits for are empty, and waits while the thread has a transfer that it
must see complete; `ISYNC` drops the thread's cached blocks of its range, or all; `RNG` reads one Philox block at RNGCTR, which advances. -/
def Sys2Proof.Claim.FencesAndRandom : Prop :=
  ∀ (s : State) (o : AOp), quiet s →
    (∀ k, plain s [] [] → (k = .rel ∨ k = .full → s.myTransfers = []) → exec (.fence k o) s = .next s.commit) ∧
    (plain s [] [] → s.myTransfers ≠ [] → exec (.fence .full o) s = .next s) ∧
    (plain s [] [] → exec (.isync true o) s = .next
      { s with icache := s.icache.filter fun b => !(b.core == s.thr.id.core && b.ctx == s.thr.id.ctx) }.commit) ∧
    (plain s [o.dst, o.len] [] → ∃ t, exec (.isync false o) s = .next t ∧ committed s t ∧
      ∀ b, b ∈ t.icache ↔ b ∈ s.icache ∧ ¬ (b.core = s.thr.id.core ∧ b.ctx = s.thr.id.ctx ∧
        b.block.toNat * 64 < (s.g o.dst).toNat + (s.g o.len).toNat ∧ (s.g o.dst).toNat < b.block.toNat * 64 + 64)) ∧
    (∀ (r : SOp) (w : Bool), plain s [] [r.d] → s.csrLost [0x013, 0x014] = false →
      let b := philoxBlock s.thr.c.rngkey s.thr.c.rngctr.toNat
      exec (.rng w r) s = .next ((s.onThr fun t => { t with c := { t.c with rngctr := t.c.rngctr + 1 } }).writeG r.d
        (BitVec.ofNat 64 (if w then b.1 else b.2.1 * 2 ^ 32 + b.1))))

/-- R188, R212: `CMO` over a range of at most 2^40 bytes whose lines all translate acts on each line, in ascending order, and commits: a
clean, with a discard after it or not, changes no byte, and a discard alone leaves a line as it was, or as L2 or its home holds it. A
longer range traps ILLEGAL with the length; a line that fails traps with its cause. The model's own: that the check is a write's and
TRAPINFO1 is 1 (log entry 51), that TRAPINFO0 is the line's address, and what a discard of a dirty line leaves (log entry 122). -/
def Sys2Proof.Claim.CacheOps : Prop :=
  ∀ (s : State) (o : AOp) (op : CmoOp), plain s [o.dst, o.len] [] → quiet s → s.accessWaits = false →
    let len := (s.g o.len).toNat
    let lines := rangeLines (s.g o.dst).toNat len
    (∀ t, len ≤ 2 ^ 40 → State.cmoLines op o.scope.toNat lines s = (t, none) →
      exec (.cmo op o) s = .next t.commit ∧ (s.MemOk → op ≠ .inval → s.KeepsMem t)) ∧
    (∀ pa, op = .inval → lines = [(s.g o.dst).toNat / 64 * 64] → len ≤ 2 ^ 40 →
      s.xlate s.thr.id.ctx s.thr.sup true ((s.g o.dst).toNat / 64 * 64) = .ok pa →
      let at_ := pa / 64 * 64
      ∃ t b, exec (.cmo op o) s = .next t ∧ committed s t ∧ t.mem = s.mem.write at_ b ∧
        (b = s.mem.read at_ 64 ∨ b = toBytes 64 (s.lineBelow (pa / 64)).toNat ∨ b = s.coh.home.read at_ 64)) ∧
    (s.thr.sup = false → 2 ^ 40 < len →
      ∃ t, exec (.cmo op o) s = .next t ∧ trapped s t 0x01 ((encode64 (.cmo op o)).getD 0) 4 (s.g o.len)) ∧
    (∀ t a c, s.thr.sup = false → len ≤ 2 ^ 40 → State.cmoLines op o.scope.toNat lines s = (t, some (a, c)) →
      ∃ u, exec (.cmo op o) s = .next u ∧ trapped s u c (BitVec.ofNat 64 a) 1 0)

/-- R221: `WFE` waits at an address that translates, returns at once at one that does not, and its wake commits. -/
def Sys2Proof.Claim.EventWait : Prop :=
  ∀ (s : State) (o : YOp),
    (∀ pa, plain s [o.g] [] → s.xlate s.thr.id.ctx s.thr.sup false (s.g o.g).toNat = .ok pa → exec (.wfe o) s = .next (s.setWait (.wfe (s.g o.g)))) ∧
    (∀ c, plain s [o.g] [] → s.xlate s.thr.id.ctx s.thr.sup false (s.g o.g).toNat = .error c → exec (.wfe o) s = .next s.commit) ∧
    (∀ a, s.thr.wait = .wfe a → exec .wfeWake s = .next s.commit)

/-- R222, R391, R392: `HCALL` takes the context's next sequence number and waits for its ring entry; once that is free the call is written
there with its identity, value and code; the host's reply is read into g, the entry is zeroed, and the word commits. -/
def Sys2Proof.Claim.HostCall : Prop :=
  (∀ (s : State) (o : YOp), plain s [o.g] [o.g] → quiet s → s.thr.hcall = none → s.tctx.hring ≠ 0 →
    ∃ t h, exec (.hcall o) s = .next t ∧ t.thr.hcall = some h ∧ h.seq = s.tctx.hseq + 1 ∧ h.code = o.n12.toNat ∧ h.value = s.g o.g ∧
      h.written = false ∧ t.thr.wait = .hcallEntry o.g ∧ t.tctx.hseq = s.tctx.hseq + 1 ∧ t.thr.pc = s.thr.pc ∧ t.thr.r = s.thr.r) ∧
  (∀ (s : State) (o : YOp), plain s [o.g] [o.g] → quiet s → s.thr.hcall = none → s.tctx.hring = 0 → s.thr.sup = false →
    ∃ t, exec (.hcall o) s = .next t ∧ trapped s t 0x01 ((encode64 (.hcall o)).getD 0) 7 0) ∧
  (∀ (s : State) (g : BitVec 6) (h : Hcall), s.thr.wait = .hcallEntry g → s.thr.hcall = some h → s.MemOk → s.tctx.hien = false →
    let at_ := s.tctx.hring + 32 * (h.seq.toNat % 64)
    (s.ringFree s.thr.id.ctx h.seq.toNat = false → exec .hcallEntryFree s = .next s) ∧
    (s.ringFree s.thr.id.ctx h.seq.toNat = true →
      ∃ t, exec .hcallEntryFree s = .next t ∧ t.thr.wait = .hcallReply g ∧ t.thr.hcall = some { h with written := true } ∧
        t.mem.num at_ 8 = (s.thr.id.ctx * 2 ^ 58 + h.seq.toNat % 2 ^ 58) % 2 ^ 64 ∧ t.mem.num (at_ + 8) 8 = h.value.toNat ∧
        t.mem.num (at_ + 16) 8 = (2 ^ 63 + h.code * 2 ^ 32 + s.thr.id.record) % 2 ^ 64 ∧ t.mem.num (at_ + 24) 8 = 0 ∧
        s.KeepsMemBut t at_ 32)) ∧
  (∀ (s : State) (g : BitVec 6) (h : Hcall), s.thr.wait = .hcallReply g → s.thr.hcall = some h →
    let at_ := s.tctx.hring + 32 * (h.seq.toNat % 64)
    ((s.loadPA8 (at_ + 16)).getLsbD 62 = true → s.loadPA8 at_ = BitVec.ofNat 64 (s.thr.id.ctx * 2 ^ 58 + h.seq.toNat % 2 ^ 58) →
      ∃ t, exec .hcallReply s = .next t ∧ t.thr.hcall = none ∧ t.thr.wait = .none ∧ t.mem = s.mem.write at_ (List.replicate 32 0) ∧
        (g ≠ 0 → t.g g = s.loadPA8 (at_ + 24)) ∧ s.KeepsG t [g] ∧ t.thr.pc = s.commit.thr.pc) ∧
    ((s.loadPA8 (at_ + 16)).getLsbD 62 = false → exec .hcallReply s = .next s))

/-- Fences, cache operations, instruction synchronisation, random numbers; events and calls of the host. -/
def Obligations.FencesAndCalls : Prop := FencesAndRandom ∧ CacheOps ∧ EventWait ∧ HostCall

namespace Sys2Proof.Claim

/-- The thread is the first stroke of the only region, which carries no vector register and no tile (R350). -/
def leads (s : State) (r : Region) (k : Stroke) : Prop :=
  s.thr.live = true ∧ s.regions = [r] ∧ r.gid = s.thr.id.gid ∧ r.strokes.head? = some k ∧ k.tidx = s.thr.id.tidx ∧
    (r.strokes.map Stroke.tidx).Nodup ∧ (∀ x ∈ r.strokes, x.left = false) ∧ r.vmask = 0 ∧ r.tiles = [] ∧ 1 ≤ r.ireg ∧ r.ireg ≤ 61 ∧
    r.smask.getLsbD r.ireg = false ∧ r.smask.getLsbD 0 = false ∧ 1 ≤ r.strokes.length

/-- The interlocks of a hachure instruction. -/
def free (s : State) (srcs : List (BitVec 6)) : Prop := s.gWait (srcs ++ []) = none ∧ s.gDamaged srcs = false ∧ s.takeMismatch = (0, s)

end Sys2Proof.Claim

/-- R208, R209, R354: the first participant of a region to pass the checks of `XLOOP` arms it and stays; the last to arrive starts it: with
a count the oldest stroke begins iteration 0 at the word after its `XLOOP` with its index in IREG; with a count of 0 the region is DONE and
its threads go on at their `XEND`. A thread whose header allows no region faults LIMIT with reason 1. -/
def Sys2Proof.Claim.RegionStart : Prop :=
  ∀ (s : State) (o : SOp), free s [o.a, o.b, o.c] → quiet s → (s.g o.a).toNat % 8 = 0 → (s.g o.b).toNat % 64 = 0 →
    (s.thr.hdr.hach = false → s.Serial → s.thr.sup = false → ∃ t, exec (.xloop o) s = .next t ∧ trapped s t 0x14 0 1 0) ∧
    (∀ pa, s.thr.hdr.hach = true → s.xlate s.thr.id.ctx s.thr.sup false (s.g o.b).toNat = .ok pa →
      s.dataErr s.thr.id.ctx true false pa = none →
      let blk := BitVec.ofNat 512 (s.mem.num pa 64)
      let r := Region.ofBlock s.nextRid s.thr.id.gid (s.g o.b) (s.g o.c).toNat blk
      blockOk blk r s.thr.hdr = true → r.part.getLsbD s.thr.id.tidx = true →
      (s.regions = [] → ∃ t r', exec (.xloop o) s = .next t ∧ t.regions = [r'] ∧ r'.state = .armed ∧ r'.part = r.part ∧ r'.count = r.count ∧
        (r'.strokes.any fun k => k.tidx == s.thr.id.tidx && k.arrived && k.xloop == s.thr.pc) = true ∧ t.thr.pc = s.thr.pc ∧
        t.thr.r = s.thr.r ∧ s.KeepsMem t) ∧
      (∀ x k, leads s x k → x.state = .armed → x.part = r.part → x.block = s.g o.b → x.count = (s.g o.c).toNat → x.body = r.body →
        (∀ y ∈ x.strokes, y.sst = .none ∧ (y.tidx ≠ s.thr.id.tidx → y.arrived = true)) → k.arrived = false →
        (x.count ≠ 0 → ∃ t r', exec (.xloop o) s = .next t ∧ t.thr.pc = s.thr.pc + 8 ∧ t.g (BitVec.ofNat 6 x.ireg) = 0 ∧
          s.KeepsG t [BitVec.ofNat 6 x.ireg] ∧ t.regions = [r'] ∧ r'.state = .running ∧ r'.i0 = 0) ∧
        (x.count = 0 → ∃ t r', exec (.xloop o) s = .next t ∧ t.thr.pc = s.thr.pc + BitVec.ofNat 48 (8 * (x.body + 1)) ∧
          t.g (BitVec.ofNat 6 x.ireg) = 0 ∧ s.KeepsG t [BitVec.ofNat 6 x.ireg] ∧ t.regions = [r'] ∧ r'.state = .done)))

/-- R210, R350 to R353, R361: `XGRET` ends a guess routine: carried registers keep what it left, the others return to what they were, and the
iteration begins; `XACC` of the oldest stroke's last iteration ends the region DONE with the count in IREG, and a speculative one waits
with its carried values taken; `XEND` leaves a region that is DONE or ABORTED; `XABORT` of the oldest ends it ABORTED with the index. -/
def Sys2Proof.Claim.RegionRun : Prop :=
  ∀ (s : State) (r : Region) (k : Stroke) (j : Nat), leads s r k → quiet s → k.iter = some j →
    let ireg := BitVec.ofNat 6 r.ireg
    let xend := k.xloop + BitVec.ofNat 48 (8 * (r.body + 1))
    let stays := fun (t : State) (ck : Checkpoint) => ∀ n < 64, n ≠ r.ireg → n ≠ 0 →
      vget t.thr.r.g n = if r.smask.getLsbD n then vget s.thr.r.g n else vget ck.r.g n
    (∀ (o : YOp) ck, free s [] → k.arrived = true → k.sst = .guessing → k.ckpt = some ck → ck.tiles = [] →
      ∃ t r' k', exec (.xgret o) s = .next t ∧ t.thr.pc = k.xloop + 8 ∧ t.g ireg = BitVec.ofNat 64 j ∧ stays t ck ∧ t.regions = [r'] ∧
        r'.strokes.head? = some k' ∧ k'.sst = .running ∧ k'.iter = some j) ∧
    (∀ (o : SOp), free s [] → k.arrived = true → k.sst = .running → r.state = .running → s.thr.pc = k.xloop + BitVec.ofNat 48 (8 * r.body) →
      (j = r.i0 → j + 1 = r.count → j % r.strokes.length = 0 →
        ∃ t r', exec (.xacc o) s = .next t ∧ t.thr.pc = xend ∧ t.g ireg = BitVec.ofNat 64 r.count ∧ s.KeepsG t [ireg] ∧ t.regions = [r'] ∧
          r'.state = .done) ∧
      (j ≠ r.i0 →
        ∃ t r' k', exec (.xacc o) s = .next t ∧ t.thr.pc = s.thr.pc ∧ t.thr.r = s.thr.r ∧ t.regions = [r'] ∧ r'.strokes.head? = some k' ∧
          k'.sst = .awaiting ∧ k'.out = some (s.carryOf r))) ∧
    (∀ (o : YOp), free s [] → k.arrived = true → k.sst ≠ .guessing → r.state = .done ∨ r.state = .aborted → s.thr.pc = xend →
      ∃ t, exec (.xend o) s = .next t ∧ t.thr = s.commit.thr ∧ s.KeepsMem t ∧
        (r.strokes.length = 1 → t.regions = []) ∧ (1 < r.strokes.length → ∃ r', t.regions = [r'] ∧ (r'.strokes.head?.map Stroke.left) = some true)) ∧
    (∀ (o : YOp) ck, free s [] → k.arrived = true → k.sst = .running → r.state = .running → j = r.i0 → k.ckpt = some ck → ck.tiles = [] →
      (∀ x ∈ r.strokes, x.tidx ≠ k.tidx → x.sst = .none) →
      ∃ t r', exec (.xabort o) s = .next t ∧ t.thr.pc = xend ∧ t.g ireg = BitVec.ofNat 64 j ∧ stays t ck ∧ t.regions = [r'] ∧
        r'.state = .aborted ∧ r'.versions = [])

/-- R189, R210: outside the state that it is valid in, `XGRET`, `XACC`, `XEND` or `XABORT` traps ILLEGAL with step 7. R190, R359: an
instruction that traps XSERIAL is held in a speculative iteration, and nothing is performed. -/
def Sys2Proof.Claim.RegionTraps : Prop :=
  (∀ (s : State) (i : Instr), ((∃ o, i = .xgret o) ∨ (∃ o, i = .xacc o) ∨ (∃ o, i = .xend o) ∨ (∃ o, i = .xabort o)) → plain s [] [] → quiet s →
    s.thr.sup = false → ∃ t, exec i s = .next t ∧ trapped s t 0x01 ((encode64 i).getD 0) 7 0) ∧
  (∀ (s : State) (i : Instr) (srcs dst : List (BitVec 6)),
    ((∃ o sp, i = .cpy sp o ∧ srcs = [o.dst, o.src, o.len, o.bar] ∧ dst = []) ∨ (∃ o f, i = .barrive f o ∧ srcs = [o.src, o.bar] ∧ dst = []) ∨
     (∃ o, i = .spawn o ∧ srcs = [o.src, o.len] ∧ dst = [o.dst]) ∨ (∃ o, i = .pgalloc o ∧ s.thr.memPending = false ∧ srcs = [o.a, o.b] ∧ dst = [o.d]) ∨
     (∃ o, i = .mbpost o ∧ srcs = [o.vb] ∧ dst = []) ∨ (∃ o op, i = .cmo op o ∧ srcs = [o.dst, o.len] ∧ dst = []) ∨
     (∃ o, i = .wfe o ∧ srcs = [o.g] ∧ dst = []) ∨ (∃ o, i = .hcall o ∧ srcs = [o.g] ∧ dst = [o.g])) →
    s.gWait (srcs ++ dst) = none → s.gDamaged srcs = false → s.takeMismatch = (0, s) → s.speculative = true → s.guessing = false →
    s.thr.heldX = false →
    ∃ t, exec i s = .next t ∧ t.thr.heldX = true ∧ t.thr.pc = s.thr.pc ∧ t.thr.r = s.thr.r ∧ t.thr.sup = s.thr.sup ∧ t.mem = s.mem ∧
      t.transfers = s.transfers ∧ t.eps = s.eps ∧ t.regions = s.regions)

/-- Hachure regions. -/
def Obligations.Hachure : Prop := RegionStart ∧ RegionRun ∧ RegionTraps

/-! ### Etesian cores and episodes (spec/17) -/

namespace Sys2Proof.Claim

/-- A base instruction as it stands, of 32 bits or as a compressed parcel, with its length in bytes (R331). -/
def standsFor (r : Rv) (i : RvI) (len : Nat) : Prop := (r = .full i ∧ len = 4) ∨ ∃ h, r = .compressed h ∧ RvI.expand h = some i ∧ len = 2

/-- An instruction has retired: its register written, its PC moved, its cycle charged to the step (R345); memory and the compute side are
as they were. -/
def retired (s t : State) (x : Episode) (rd : BitVec 5) (v pc : Word) : Prop :=
  t.ep x.ctx x.e = some { x with count := x.count + 1, hart := { x.hart.put rd v with pc := pc, instret := x.hart.instret + 1 } } ∧
    t.mem = s.mem ∧ t.thr = s.thr ∧ (∀ k < 64, (t.ecore k).sram = (s.ecore k).sram)

/-- The episode has been killed (R344, R345): its actions are gone, the scrub runs, and a final entry of a kind is due. -/
def killed (t : State) (x : Episode) (kind : Nat) (aux : BitVec 32) : Prop :=
  ∃ y f, t.ep x.ctx x.e = some y ∧ y.state = .killed ∧ y.acts = [] ∧ y.scrubbing = true ∧ y.final = some f ∧ tagKind f.tag = kind ∧ tagAux f.tag = aux

/-- A signed 32-bit value in a register. -/
def word32 (v : Nat) : Word := (BitVec.ofNat 32 v).signExtend 64

/-- What RV64I's operations give on 64 bits; the shift amount is the low 6 bits. -/
def rv64 (f : RvAlu) (a b : Word) : Word :=
  match f with
  | .add => BitVec.ofNat 64 (a.toNat + b.toNat)
  | .sub => BitVec.ofInt 64 (a.toInt - b.toInt)
  | .sll => BitVec.ofNat 64 (a.toNat * 2 ^ (b.toNat % 64))
  | .slt => if a.toInt < b.toInt then 1 else 0
  | .sltu => if a.toNat < b.toNat then 1 else 0
  | .xor => a ^^^ b
  | .srl => BitVec.ofNat 64 (a.toNat / 2 ^ (b.toNat % 64))
  | .sra => BitVec.ofInt 64 (a.toInt / 2 ^ (b.toNat % 64))
  | .or => a ||| b
  | .and => a &&& b

/-- The forms on the low 32 bits, sign-extended; the shift amount is the low 5 bits. -/
def rv32 (f : RvAlu) (a b : Word) : Option Word :=
  let x := a.toNat % 2 ^ 32
  match f with
  | .add => some (word32 (a.toNat + b.toNat))
  | .sub => some (word32 (a - b).toNat)
  | .sll => some (word32 (x * 2 ^ (b.toNat % 32)))
  | .srl => some (word32 (x / 2 ^ (b.toNat % 32)))
  | .sra => some (BitVec.ofInt 64 ((BitVec.ofNat 32 x).toInt / 2 ^ (b.toNat % 32)))
  | _ => none

/-- The M extension on 64 bits: a zero divisor gives all ones and leaves the dividend. -/
def rvMul (f : RvMul) (a b : Word) : Word :=
  match f with
  | .mul => a * b
  | .mulh => highHalf false a b
  | .mulhu => highHalf true a b
  | .mulhsu => BitVec.ofInt 64 (a.toInt * b.toNat / 2 ^ 64)
  | .div => quotient false a b
  | .divu => quotient true a b
  | .rem => residue false a b
  | .remu => residue true a b

/-- A base instruction that only computes: its destination and result. -/
def rvForm (x : Episode) : RvI → Option (BitVec 5 × Word)
  | .lui rd imm => some (rd, word32 (imm.toNat * 2 ^ 12))
  | .auipc rd imm => some (rd, x.hart.pc + word32 (imm.toNat * 2 ^ 12))
  | .opImm f rd a imm => some (rd, rv64 f (x.hart.get a) (imm.signExtend 64))
  | .opImm32 f rd a imm => (rv32 f (x.hart.get a) (imm.signExtend 64)).map fun v => (rd, v)
  | .op f rd a b => some (rd, rv64 f (x.hart.get a) (x.hart.get b))
  | .op32 f rd a b => (rv32 f (x.hart.get a) (x.hart.get b)).map fun v => (rd, v)
  | .mul f rd a b => some (rd, rvMul f (x.hart.get a) (x.hart.get b))
  | .mul32 f rd a b =>
    match f with
    | .mul => some (rd, word32 ((x.hart.get a).toNat * (x.hart.get b).toNat))
    | .divu => some (rd, if (x.hart.get b).toNat % 2 ^ 32 = 0 then BitVec.allOnes 64
        else word32 ((x.hart.get a).toNat % 2 ^ 32 / ((x.hart.get b).toNat % 2 ^ 32)))
    | .remu => some (rd, if (x.hart.get b).toNat % 2 ^ 32 = 0 then word32 (x.hart.get a).toNat
        else word32 ((x.hart.get a).toNat % 2 ^ 32 % ((x.hart.get b).toNat % 2 ^ 32)))
    | _ => none
  | _ => none

/-- The counters and registers that U-mode reads (R331, R340). -/
def hartRegister (s : State) (x : Episode) (n : Nat) : Option Word :=
  [(0xC00, (s.ecore x.core).cycles), (0xC02, x.hart.instret), (0xCC0, BitVec.ofNat 64 x.e), (0xCC1, x.hart.estep.zeroExtend 64),
   (0xCC2, x.hart.egen.zeroExtend 64), (0xCC3, BitVec.ofNat 64 (x.budget - x.count)), (0xCC4, BitVec.ofNat 64 x.kicks),
   (0xCC5, BitVec.ofNat 64 x.mode)].lookup n

/-- The partition's bytes from a local address (R332). -/
def partBytes (s : State) (x : Episode) (a n : Nat) : List Byte := (s.ecore x.core).sram.read (32768 * x.unit + a) n

end Sys2Proof.Claim

/-- R331, R345 (the results are RV64IM's, which R9 names, log entry 33): a base instruction that computes writes its result and retires,
charged as one cycle (log entry 13). -/
def Sys2Proof.Claim.HartArithmetic : Prop :=
  ∀ (s : State) (x : Episode) (r : Rv) (i : RvI) (len : Nat) (rd : BitVec 5) (v : Word), s.hartEp = some x → standsFor r i len →
    rvForm x i = some (rd, v) →
    ∃ t, exec (.baseRiscv r) s = .next t ∧ retired s t x rd v (x.hart.pc + BitVec.ofNat 64 len)

/-- Jumps link the next address and branches test their condition; fences and `wfi` only advance (`wfi` as a NOP: log entry 33). -/
def Sys2Proof.Claim.HartControl : Prop :=
  ∀ (s : State) (x : Episode) (r : Rv) (len : Nat), s.hartEp = some x →
    let pc := x.hart.pc
    let next := pc + BitVec.ofNat 64 len
    (∀ rd off, standsFor r (.jal rd off) len →
      ∃ t, exec (.baseRiscv r) s = .next t ∧ retired s t x rd next (pc + BitVec.ofInt 64 (2 * off.toInt))) ∧
    (∀ rd a imm, standsFor r (.jalr rd a imm) len → ∃ t, exec (.baseRiscv r) s = .next t ∧
      retired s t x rd next (BitVec.ofNat 64 ((x.hart.get a + imm.signExtend 64).toNat / 2 * 2))) ∧
    (∀ c a b off, standsFor r (.branch c a b off) len →
      let u := x.hart.get a
      let v := x.hart.get b
      let taken := match c with
        | .eq => u = v | .ne => u ≠ v | .lt => u.toInt < v.toInt | .ge => v.toInt ≤ u.toInt | .ltu => u.toNat < v.toNat | .geu => v.toNat ≤ u.toNat
      ∃ t, exec (.baseRiscv r) s = .next t ∧
        (taken → retired s t x 0 0 (pc + BitVec.ofInt 64 (2 * off.toInt))) ∧ (¬ taken → retired s t x 0 0 next)) ∧
    (∀ i, (i = .wfi ∨ (∃ a b c d e, i = .fence a b c d e) ∨ ∃ a b c, i = .fenceI a b c) → standsFor r i len →
      ∃ t, exec (.baseRiscv r) s = .next t ∧ retired s t x 0 0 next) ∧
    (∀ f im rd a n v, standsFor r (.csr f im rd a n) len → f ≠ .rw → a = 0 → hartRegister s x n.toNat = some v →
      ∃ t, exec (.baseRiscv r) s = .next t ∧ retired s t x rd v next)

/-- R332: a load or store of a naturally aligned address inside the partition reads or writes the core's SRAM there, least significant
byte first; an atomic does both, and writes the old value to its register. -/
def Sys2Proof.Claim.HartMemory : Prop :=
  ∀ (s : State) (x : Episode) (r : Rv) (len : Nat), s.hartEp = some x → x.core < 64 → s.MemOk →
    let next := x.hart.pc + BitVec.ofNat 64 len
    let inside := fun (a : Word) (n : Nat) => a.toNat % n = 0 ∧ a.toNat + n ≤ 32768 * x.lunits
    let old := fun (a : Word) (n : Nat) => ofBytes (partBytes s x a.toNat n)
    let stored := fun (t : State) (a : Word) (n v : Nat) =>
      (t.ecore x.core).sram = (s.ecore x.core).sram.write (32768 * x.unit + a.toNat) (toBytes n v) ∧ t.mem = s.mem ∧
      t.thr = s.thr ∧ ∀ k < 64, k ≠ x.core → (t.ecore k).sram = (s.ecore k).sram
    (∀ f rd a imm, standsFor r (.load f rd a imm) len →
      let ea := x.hart.get a + imm.signExtend 64
      let n := (rvLdSize f).1
      inside ea n → ∃ t, exec (.baseRiscv r) s = .next t ∧
        retired s t x rd (if (rvLdSize f).2 then (BitVec.ofNat (8 * n) (old ea n)).signExtend 64 else BitVec.ofNat 64 (old ea n)) next) ∧
    (∀ f a b imm, standsFor r (.store f a b imm) len →
      let ea := x.hart.get a + imm.signExtend 64
      inside ea (rvStSize f) → ∃ t y, exec (.baseRiscv r) s = .next t ∧ stored t ea (rvStSize f) (x.hart.get b).toNat ∧
        t.ep x.ctx x.e = some y ∧ y.hart.pc = next ∧ y.hart.x = x.hart.x ∧ y.count = x.count + 1) ∧
    (∀ f d aq rl rd a b, standsFor r (.amo f d aq rl rd a b) len →
      let ea := x.hart.get a
      let n := if d then 8 else 4
      inside ea n → ∃ t y, exec (.baseRiscv r) s = .next t ∧
        stored t ea n (rvAmoNew (8 * n) f (BitVec.ofNat _ (old ea n)) (BitVec.ofNat _ (x.hart.get b).toNat)).toNat ∧
        t.ep x.ctx x.e = some y ∧ y.hart.pc = next ∧ y.hart.x = (x.hart.put rd ((BitVec.ofNat (8 * n) (old ea n)).signExtend 64)).x) ∧
    (∀ d aq rl rd a, standsFor r (.lr d aq rl rd a) len →
      let ea := x.hart.get a
      let n := if d then 8 else 4
      inside ea n → ∃ t y, exec (.baseRiscv r) s = .next t ∧ t.ep x.ctx x.e = some y ∧ y.hart.pc = next ∧ y.hart.resv.isSome = true ∧
        y.hart.x = (x.hart.put rd ((BitVec.ofNat (8 * n) (old ea n)).signExtend 64)).x ∧ t.mem = s.mem) ∧
    (∀ d aq rl rd a b, standsFor r (.sc d aq rl rd a b) len → inside (x.hart.get a) (if d then 8 else 4) → x.hart.resv = none →
      ∃ t, exec (.baseRiscv r) s = .next t ∧ retired s t x rd 1 next)

/-- The reservation of R331's A extension (RV64A, which R9 names): a store-conditional on other bytes than the last `lr` reserved, or on bytes
that another agent has written since, stores nothing and answers 1; on the reserved bytes of the partition, which no other agent writes, it
stores and answers 0, or stores nothing and answers 1 (log entry 22). Each drops the reservation. -/
def Sys2Proof.Claim.HartReservation : Prop :=
  ∀ (s : State) (x : Episode) (r : Rv) (len : Nat) (d aq rl : Bool) (rd a b : BitVec 5), s.hartEp = some x → x.core < 64 → s.MemOk →
    standsFor r (.sc d aq rl rd a b) len →
    let ea := x.hart.get a
    let n := if d then 8 else 4
    let at_ := 32768 * x.unit + ea.toNat
    ea.toNat % n = 0 →
    (∀ places, x.bytesAt ea n = some places → x.hart.resv ≠ some (ea.toNat, n) ∨ s.resvHolds x places = false →
      ∃ t y, exec (.baseRiscv r) s = .next t ∧ t.ep x.ctx x.e = some y ∧ y.hart.resv = none ∧ y.hart.x = (x.hart.put rd 1).x ∧
        y.hart.pc = x.hart.pc + BitVec.ofNat 64 len ∧ t.mem = s.mem ∧ ∀ k < 64, (t.ecore k).sram = (s.ecore k).sram) ∧
    (ea.toNat + n ≤ 32768 * x.lunits → x.hart.resv = some (ea.toNat, n) →
    ∃ t y, exec (.baseRiscv r) s = .next t ∧ t.ep x.ctx x.e = some y ∧ y.hart.resv = none ∧
      y.hart.pc = x.hart.pc + BitVec.ofNat 64 len ∧ t.mem = s.mem ∧
      ((y.hart.x = (x.hart.put rd 0).x ∧ (t.ecore x.core).sram = (s.ecore x.core).sram.write at_ (toBytes n (x.hart.get b).toNat)) ∨
       (y.hart.x = (x.hart.put rd 1).x ∧ (t.ecore x.core).sram = (s.ecore x.core).sram)))

/-- R331, R332, R340, R345: a call, a breakpoint, an access with no place, a register that U-mode does not have or may not write, and an
exception of the fetch all go to the monitor, which kills the episode with the RISC-V cause in AUX. -/
def Sys2Proof.Claim.HartTraps : Prop :=
  ∀ (s : State) (x : Episode) (r : Rv) (len : Nat), s.hartEp = some x → x.freeAfter = false →
    (∀ i c, (i = .ecall ∧ c = 8) ∨ (i = .ebreak ∧ c = 3) → standsFor r i len →
      ∃ t, exec (.baseRiscv r) s = .next t ∧ killed t x 5 c) ∧
    (∀ f rd a imm, standsFor r (.load f rd a imm) len →
      let ea := x.hart.get a + imm.signExtend 64
      ea.toNat % (rvLdSize f).1 = 0 → 32768 * x.lunits ≤ ea.toNat → ea.toNat < 0x40000000 →
      ∃ t, exec (.baseRiscv r) s = .next t ∧ killed t x 5 5) ∧
    (∀ f a b imm, standsFor r (.store f a b imm) len →
      let ea := x.hart.get a + imm.signExtend 64
      ea.toNat % rvStSize f = 0 → 32768 * x.lunits ≤ ea.toNat → ea.toNat < 0x40000000 →
      ∃ t, exec (.baseRiscv r) s = .next t ∧ killed t x 5 7) ∧
    (∀ f im rd a n, standsFor r (.csr f im rd a n) len → hartRegister s x n.toNat = none ∨ f = .rw ∨ a ≠ 0 →
      ∃ t, exec (.baseRiscv r) s = .next t ∧ killed t x 5 2) ∧
    (∀ c, ∃ t, exec (.episodeException c) s = .next t ∧ killed t x 5 (BitVec.ofNat 32 c))

/-- The base instructions of an Etesian core. -/
def Obligations.EtesianBase : Prop := HartArithmetic ∧ HartControl ∧ HartMemory ∧ HartReservation ∧ HartTraps

/-- R338, R341, R345, R346: `etake` removes the oldest action, puts its payload and tag in its buffer, answers the tag's low word and
starts a step: STEPPING, the count at 0, the kicks and a recorded budget taken. With no action it waits; its wake takes as it would have. -/
def Sys2Proof.Claim.TakeAction : Prop :=
  ∀ (s : State) (x : Episode) (o : ROp), s.hartEp = some x → x.core < 64 → x.lunits ≤ 31 →
    let b := x.hart.get o.rs1
    b.toNat % 16 = 0 → b.toNat + 272 ≤ 32768 * x.lunits →
    (∀ a rest, x.acts = a :: rest →
      ∃ t y, exec (.etake o) s = .next t ∧ (x.wait = .take o → exec .etakeWake s = .next t) ∧ t.ep x.ctx x.e = some y ∧ y.acts = rest ∧
        y.obs = x.obs ∧ y.state = .stepping ∧ y.wait = .none ∧ y.count = 0 ∧ y.kicks = x.kicksCfg ∧ y.budget = x.budgetNext.getD x.budget ∧
        y.budgetNext = none ∧ y.hart.x = (x.hart.put o.rd (a.tag.setWidth 64)).x ∧ y.hart.estep = a.tag.extractLsb' 64 32 ∧
        y.hart.egen = a.tag.extractLsb' 96 32 ∧ y.hart.pc = x.hart.pc + 4 ∧
        (t.ecore x.core).sram = (s.ecore x.core).sram.write (32768 * x.unit + b.toNat)
          ((a.payload ++ List.replicate 256 0).take 256 ++ toBytes 16 a.tag.toNat)) ∧
    (x.acts = [] → ∃ t y, exec (.etake o) s = .next t ∧ t.ep x.ctx x.e = some y ∧ y = { x with wait := .take o } ∧ t.mem = s.mem)

/-- R338, R341, R342: `epost` of 1 to 256 bytes that it can read appends an observation with the step's number and ends the step:
AWAITING; with fifteen observations waiting it waits, and its wake posts as it would have. -/
def Sys2Proof.Claim.PostObservation : Prop :=
  ∀ (s : State) (x : Episode) (o : ROp), s.hartEp = some x → x.lunits ≤ 31 → x.modeNext = none → x.mode ≠ 2 → x.state = .stepping →
    let a := x.hart.get o.rs1
    let b := (x.hart.get o.rs2).toNat
    let n := b % 2 ^ 32
    1 ≤ n → n ≤ 256 → a.toNat + n ≤ 32768 * x.lunits →
    (x.obs.length < 15 →
      ∃ t y m, exec (.epost o) s = .next t ∧ (x.wait = .post o → x.count < x.budget → exec .epostWake s = .next t) ∧ t.ep x.ctx x.e = some y ∧
        y.obs = x.obs ++ [m] ∧ y.acts = x.acts ∧ y.state = .awaiting ∧ y.wait = .none ∧ y.count = x.count + 1 ∧
        y.hart.x = (x.hart.put o.rd (x.hart.estep.zeroExtend 64)).x ∧ y.hart.pc = x.hart.pc + 4 ∧
        m.payload = partBytes s x a.toNat n ∧ m.tag.extractLsb' 64 32 = x.hart.estep ∧
        m.tag.toNat % 2 ^ 64 = b / 2 ^ 32 * 2 ^ 32 + x.e % 256 * 2 ^ 24 + 2 ^ 16 + n) ∧
    (15 ≤ x.obs.length → ∃ t, exec (.epost o) s = .next t ∧ t.ep x.ctx x.e = some { x with wait := .post o } ∧ t.mem = s.mem)

/-- R339: `ewdkick` in a step with kicks left restarts the count and answers the kicks that remain, else all ones; `eyield` retires and
passes the core on; `eexit` ends the episode DONE with a final observation of KIND FINAL and its argument. -/
def Sys2Proof.Claim.StepControl : Prop :=
  ∀ (s : State) (x : Episode) (o : ROp), s.hartEp = some x → x.core < 64 →
    (x.state = .stepping → x.kicks ≠ 0 →
      ∃ t, exec (.ewdkick o) s = .next t ∧ t.mem = s.mem ∧ t.ep x.ctx x.e = some { x with
        kicks := x.kicks - 1, count := 0
        hart := { x.hart.put o.rd (BitVec.ofNat 64 (x.kicks - 1)) with pc := x.hart.pc + 4, instret := x.hart.instret + 1 } }) ∧
    (x.state ≠ .stepping ∨ x.kicks = 0 →
      ∃ t, exec (.ewdkick o) s = .next t ∧ retired s t x o.rd (BitVec.allOnes 64) (x.hart.pc + 4)) ∧
    (∃ t, exec (.eyield o) s = .next t ∧ retired s t x 0 0 (x.hart.pc + 4)) ∧
    (x.returned = [] →
      ∃ t y f, exec (.eexit o) s = .next t ∧ t.ep x.ctx x.e = some y ∧ y.state = .done ∧ y.acts = [] ∧ y.obs = x.obs ++ [f] ∧ y.final = none ∧
        tagKind f.tag = 3 ∧ tagAux f.tag = (x.hart.get o.rs1).setWidth 32 ∧ y.scrubbing = false)

/-- R345: a step that has executed its budget is killed before its next instruction that is charged (all but an `etake`, an `epost` that
waits, and an `ewdkick` that acts), with KIND TIMEOUT and the kicks used in AUX; so is one whose `epost` has waited and finds room. That each instruction counts one cycle, and
that the kill comes before the next charged one, are the model's (log entries 13 and 14). -/
def Sys2Proof.Claim.StepBudget : Prop :=
  ∀ (s : State) (x : Episode) (k : Nat), (s.ecore k).running = some (x.ctx, x.e) → s.ep x.ctx x.e = some x → x.state.live = true →
    x.core = k → x.freeAfter = false →
    let ends := fun (t : State) => killed t x 4 (BitVec.ofNat 32 (x.kicksCfg - x.kicks))
    (x.wait = .none → x.budget ≤ x.count → s.charged x = true → ∃ t, exec (.budgetExceeded k) s = .next t ∧ ends t) ∧
    (x.count < x.budget ∨ s.charged x = false → exec (.budgetExceeded k) s = .fault .notEnabled) ∧
    (∀ o, s.ecur = k → x.wait = .post o → x.obs.length < 15 → x.budget ≤ x.count → ∃ t, exec .epostWake s = .next t ∧ ends t)

/-- The Etesian extension. -/
def Obligations.EtesianExtension : Prop := TakeAction ∧ PostObservation ∧ StepControl ∧ StepBudget

namespace Sys2Proof.Claim

/-- The only pending command of a context's episodes is this one: its entry, its SEQ, its OP, and whether a reserved bit is set (R334). -/
def episodeCommand (s : State) (n e : Nat) (seq : BitVec 32) (op : Nat) (rz : Bool) : Prop :=
  e < 256 ∧ (s.ctx n).epcbase ≠ 0 ∧ s.epCommand n e = some (seq, op, rz) ∧ ∀ k < 256, k ≠ e → s.epCommand n k = none

/-- DONE of an episode's entry once a command has been answered (R333, R334): the SEQ, the status, the state; the unit keeps the SEQ. -/
def episodeDone (s t : State) (n e : Nat) (seq : BitVec 32) (status st : Nat) : Prop :=
  let s1 := s.setCtx n { s.ctx n with epSeqs := (e, seq) :: (s.ctx n).epSeqs.filter (·.1 != e) }
  ∀ s', s1.devWrite8 n ((s.ctx n).epcbase.toNat + 128 * e + 8) (BitVec.ofNat 64 (seq.toNat * 2 ^ 32 + status * 2 ^ 8 + st)) = .ok s' → t = s'

end Sys2Proof.Claim

/-- R334, R335: `LOAD` of a FREE episode whose fields, core, units, image and window pass claims its units, copies the image to the
partition's start, zeroes the rest, sets the hart with the episode in x10 and ARG in x11, and the episode is LOADING; its completion
makes it READY with BASE the context's POLICYGEN. A bad OP answers 5, a reserved bit 2, an episode that is not FREE 1: the order of R428,
applied to these commands by the model (log entry 92). -/
def Sys2Proof.Claim.EpisodeLoads : Prop :=
  (∀ (s : State) (n e : Nat) (seq : BitVec 32) (unit : Nat) (bytes : List Byte) (frames : List Nat), episodeCommand s n e seq 1 false →
    s.ep n e = none →
    let f := s.epField n e
    let cfg := f 0x10
    let core := cfg % 64
    let lunits := cfg / 2 ^ 48 % 32
    loadFields cfg (f 0x18) (f 0x20) (f 0x28) (f 0x30) (f 0x38) ([0x58, 0x60, 0x68, 0x70, 0x78].map f) = true →
    (s.ctx n).ecores.getLsbD core = true → s.freeUnits core lunits = some unit →
    s.devReadN n (f 0x20) (f 0x28 % 2 ^ 32) = .ok bytes → s.windowFrames n (f 0x30) (f 0x38 / 65536) = some frames →
    ∃ t y, exec (.episodeLoad n) s = .next t ∧ t.ep n e = some y ∧ y.state = .loading ∧ y.core = core ∧ y.unit = unit ∧ y.lunits = lunits ∧
      y.frames = frames ∧ y.hart.pc = BitVec.ofNat 64 (f 0x28 / 2 ^ 32) ∧ y.hart.get 10 = BitVec.ofNat 64 e ∧
      y.hart.get 11 = BitVec.ofNat 64 (f 0x40) ∧ y.budget = f 0x18 ∧ y.acts = [] ∧ y.obs = [] ∧
      (t.ecore core).sram = ((s.ecore core).sram.zero (32768 * unit) (32768 * lunits)).write (32768 * unit) bytes) ∧
  (∀ (s : State) (n e : Nat) (seq : BitVec 32) (op : Nat) (rz : Bool), episodeCommand s n e seq op rz → op ≠ 2 → op ≠ 3 →
    s.epField n e 0x10 / 2 ^ 21 % 2 = 0 → (∀ x, s.ep n e = some x → x.icmd = false) →
    let st := (match s.ep n e with | some x => x.state.code | none => 0)
    (op ≠ 1 → ∃ t, exec (.episodeLoad n) s = .next t ∧ episodeDone s t n e seq 5 st) ∧
    (op = 1 → rz = true → ∃ t, exec (.episodeLoad n) s = .next t ∧ episodeDone s t n e seq 2 st) ∧
    (op = 1 → rz = false → s.ep n e ≠ none → ∃ t, exec (.episodeLoad n) s = .next t ∧ episodeDone s t n e seq 1 st)) ∧
  (∀ (s : State) (x : Episode), s.epOn x.core x.unit = some x → s.ep x.ctx x.e = some x → x.state = .loading → x.core < 64 →
    ∃ t, exec (.episodeLoadComplete x.core x.unit) s = .next t ∧
      t.ep x.ctx x.e = some { x with state := .ready, base := (s.ctx x.ctx).policygen.setWidth 32, cmdSeq := none } ∧
      ((s.ecore x.core).running = none → (t.ecore x.core).running = some (x.ctx, x.e)))

/-- R334, R345: `RELEASE` of an ended episode starts a scrub after which it is FREE; `KILL` of a live one kills it with KIND 5; of any other
both answer 1. A scrub's end leaves the partition and the window zero, and brings the final entry or the FREE state. -/
def Sys2Proof.Claim.EpisodeEnds : Prop :=
  (∀ (s : State) (n e : Nat) (seq : BitVec 32) (x : Episode), episodeCommand s n e seq 2 false → s.ep n e = some x → x.state.ended = true →
    exec (.episodeRelease n) s = .next (s.setEp { x with scrubbing := true, freeAfter := true, cmdSeq := some seq })) ∧
  (∀ (s : State) (n e : Nat) (seq : BitVec 32) (x : Episode), episodeCommand s n e seq 2 false → s.ep n e = some x → x.state.ended = false →
    x.icmd = false → ∃ t, exec (.episodeRelease n) s = .next t ∧ episodeDone s t n e seq 1 x.state.code) ∧
  (∀ (s : State) (n e : Nat) (seq : BitVec 32) (x : Episode), episodeCommand s n e seq 3 false → s.ep n e = some x →
    (x.state.live = true → x.freeAfter = false → ∃ t, exec (.episodeKill n) s = .next t ∧ killed t x 5 0xFFFFFFFF) ∧
    (x.state.live = false → x.icmd = false → ∃ t, exec (.episodeKill n) s = .next t ∧ episodeDone s t n e seq 1 x.state.code)) ∧
  (∀ (s : State) (x : Episode), s.epOn x.core x.unit = some x → s.ep x.ctx x.e = some x → x.scrubbing = true → x.core < 64 →
    (x.freeAfter = true → ∃ t, exec (.scrubComplete x.core x.unit) s = .next t ∧ t.ep x.ctx x.e = none ∧
      ∀ a, 32768 * x.unit ≤ a → a < 32768 * (x.unit + x.lunits) → (t.ecore x.core).sram.get a = 0) ∧
    (∀ f, x.freeAfter = false → x.final = some f → x.returned = [] → x.cmdSeq = none → x.iend = false →
      ∃ t y g, exec (.scrubComplete x.core x.unit) s = .next t ∧ t.ep x.ctx x.e = some y ∧ y.scrubbing = false ∧ y.final = none ∧
        y.obs = x.obs ++ [g] ∧ tagKind g.tag = tagKind f.tag ∧ tagAux g.tag = tagAux f.tag ∧
        (∀ a, (t.ecore x.core).sram.get a =
          if 32768 * x.unit ≤ a ∧ a < 32768 * (x.unit + x.lunits) then 0 else (s.ecore x.core).sram.get a) ∧
        (∀ a, t.mem.get a = if ∃ p ∈ x.frames, p ≤ a ∧ a < p + 65536 then 0 else s.mem.get a)))

/-- The commands and ends of episodes. -/
def Obligations.EpisodeEvents : Prop := EpisodeLoads ∧ EpisodeEnds

/-! ### Contexts, queues, nodes, placement (spec/11 to spec/14) -/

namespace Sys2Proof.Claim

/-- The pending command of a context: its SEQ differs from DONE's, and no other command runs (R267). -/
def contextCommand (s : State) (n : Nat) (seq : BitVec 32) (op : Nat) (rz : Bool) : Prop :=
  n < 64 ∧ (s.ctx n).cmdSeq = none ∧ (s.ctx n).inv = none ∧ (s.cget n 0).extractLsb' 32 32 = seq ∧ (s.cget n 8).extractLsb' 32 32 ≠ seq ∧
    (s.cget n 0).toNat % 256 = op ∧ rz = decide ((s.cget n 0).toNat / 256 % 2 ^ 24 ≠ 0)

/-- DONE of a context's block: the SEQ, the status, the state that the context has (R267). -/
def answered (t : State) (n : Nat) (seq : BitVec 32) (status : Nat) : Prop :=
  t.cget n 8 = BitVec.ofNat 64 (seq.toNat * 2 ^ 32 + status * 2 ^ 8 + (t.ctx n).state.code)

/-- Of memory, only DONE and the mask byte of CVEC in the context's block may have changed. -/
def onlyDone (s t : State) (n : Nat) : Prop :=
  ∀ a, a < s.cblock n + 8 ∨ s.cblock n + 16 ≤ a → a ≠ s.cblock n + 0x2C → t.mem.get a = s.mem.get a

/-- A command that has been answered and has changed nothing else of its context. -/
def turnedAway (s t : State) (n : Nat) (seq : BitVec 32) (status : Nat) : Prop :=
  answered t n seq status ∧ t.ctx n = s.ctx n ∧ onlyDone s t n ∧ t.thr = s.thr ∧ t.groups = s.groups

/-- The command rows of a context with the OP that each answers. -/
def contextRow (n op : Nat) (i : Instr) : Prop :=
  (op = 1 ∧ i = .contextCreate n) ∨ (op = 2 ∧ i = .contextSuspend n) ∨ (op = 3 ∧ i = .contextResume n) ∨ (op = 4 ∧ i = .contextDestroy n) ∨
    (op = 5 ∧ i = .contextUpdate n) ∨ (op = 6 ∧ i = .tlbinv n)

end Sys2Proof.Claim

/-- R267, R270, R428: an OP that is not assigned is answered with 5, a reserved bit with 2, a command that the state does not allow with 1;
`SUSPEND` of a SUSPENDED and `RESUME` of an ACTIVE context answer 0. None of them changes the context. -/
def Sys2Proof.Claim.ContextStatus : Prop :=
  ∀ (s : State) (n : Nat) (seq : BitVec 32) (op : Nat) (rz : Bool), contextCommand s n seq op rz → s.MemOk →
    let st := (s.ctx n).state
    (op = 0 ∨ 6 < op → ∃ t, exec (.contextCreate n) s = .next t ∧ turnedAway s t n seq 5) ∧
    (∀ i, contextRow n op i →
      (rz = true → ∃ t, exec i s = .next t ∧ turnedAway s t n seq 2) ∧
      (rz = false →
        ((op = 1 ∧ st ≠ .free) ∨ ((op = 2 ∨ op = 3 ∨ op = 4 ∨ op = 5) ∧ st ≠ .active ∧ st ≠ .suspended) ∨ (op = 6 ∧ st = .free) →
          ∃ t, exec i s = .next t ∧ turnedAway s t n seq 1) ∧
        ((op = 2 ∧ st = .suspended) ∨ (op = 3 ∧ st = .active) → ∃ t, exec i s = .next t ∧ turnedAway s t n seq 0)))

/-- R260 to R262, R268, R270: `CREATE` of a FREE context answers 2 where a field breaks its layout, 3 where an area or a window meets
another, 4 where a quota or a core is not free; else the context is ACTIVE with the fields of its block, its queues destroyed and its
save records free. -/
def Sys2Proof.Claim.ContextCreation : Prop :=
  ∀ (s : State) (n : Nat) (seq : BitVec 32), contextCommand s n seq 1 false → s.MemOk → (s.ctx n).state = .free →
    let c := s.readPool (s.takeBlock n { Ctx.reset with
      livemax := (s.cget n 0x40).toNat / 2 ^ 48, savebase := (s.cget n 0x48).toNat, hseq := (s.ctx n).hseq })
    let clear := s.winsApart n c = true ∧ s.areasApart n c = true
    let free := s.quotaOk n c = true ∧ s.ecoresFree n c.ecores = true
    (s.createFormat n c = false → ∃ t, exec (.contextCreate n) s = .next t ∧ turnedAway s t n seq 2) ∧
    (s.createFormat n c = true → ¬ clear → ∃ t, exec (.contextCreate n) s = .next t ∧ turnedAway s t n seq 3) ∧
    (s.createFormat n c = true → clear → ¬ free → ∃ t, exec (.contextCreate n) s = .next t ∧ turnedAway s t n seq 4) ∧
    (s.createFormat n c = true → clear → free → (s.cget n 0x70) = 0 →
      ∃ t, exec (.contextCreate n) s = .next t ∧ answered t n seq 0 ∧ onlyDone s t n ∧ t.thr = s.thr ∧ t.groups = s.groups ∧
        let y := t.ctx n
        y.state = .active ∧ y.droot = s.cget n 0x30 ∧ y.croot = s.cget n 0x38 ∧ y.weight = (s.cget n 0x40).toNat / 2 ^ 8 % 256 ∧
        y.cls = (s.cget n 0x40).toNat % 4 ∧ y.livemax = (s.cget n 0x40).toNat / 2 ^ 48 ∧ y.savebase = (s.cget n 0x48).toNat ∧
        y.trapvec = s.cget n 0x50 ∧ y.epcbase = s.cget n 0x58 ∧ y.policygen = s.cget n 0x60 ∧ y.ecores = s.cget n 0x68 ∧
        (∀ i < 16, vget y.qblk i = s.cget n (0x80 + 8 * i) ∧ vget y.queues i = Queue.reset) ∧ y.records = [] ∧ y.seen = s.mem ∧ y.stale = [] ∧ y.gone = [])

/-- R271, R304, R307: `SUSPEND` of an ACTIVE context begins its quiescing and orders its RUNNING groups to stop, of whose threads those pass
their `GBAR` whose instance has completed by then; with no thread in a slot and no
transfer in flight the context is SUSPENDED and the command answered; `RESUME` of a SUSPENDED context makes it ACTIVE. -/
def Sys2Proof.Claim.ContextPause : Prop :=
  (∀ (s : State) (n : Nat) (seq : BitVec 32), contextCommand s n seq 2 false → (s.ctx n).state = .active → s.Serial →
    (s.groups.map Group.gid).Nodup →
    exec (.contextSuspend n) s = .next { s.setCtx n { s.ctx n with state := .quiescing, cmdSeq := some seq } with
      groups := s.groups.map fun g => if g.ctx = n ∧ g.state = .running then { g with state := .stopping, passing := g.pass } else g } ∧
    ∀ g ∈ s.groups, ∀ i < g.n, g.n ≤ 96 → (g.pass.getLsbD i = true ↔ g.counts.getD i 0 ≠ g.opened)) ∧
  (∀ (s : State) (n : Nat), n < 64 → (s.ctx n).state = .quiescing →
    ((∃ t ∈ s.threads, t.live = true ∧ t.id.ctx = n) ∨ (∃ x ∈ s.transfers, x.tid.ctx = n) → exec (.quiesceComplete n) s = .fault .notEnabled) ∧
    ((∀ t ∈ s.threads, t.live = true → t.id.ctx ≠ n) → s.ctxTransfers n = false → s.MemOk → ∀ seq, (s.ctx n).cmdSeq = some seq →
      ∃ t, exec (.quiesceComplete n) s = .next t ∧ t.ctx n = { s.ctx n with state := .suspended, cmdSeq := none } ∧ answered t n seq 0 ∧
        onlyDone s t n ∧ t.thr = s.thr)) ∧
  (∀ (s : State) (n : Nat) (seq : BitVec 32), contextCommand s n seq 3 false → (s.ctx n).state = .suspended → s.MemOk →
    ∃ t, exec (.contextResume n) s = .next t ∧ t.ctx n = { s.ctx n with state := .active } ∧ answered t n seq 0 ∧ onlyDone s t n ∧
      t.thr = s.thr ∧ t.groups = s.groups)

/-- R272: `DESTROY` of an ACTIVE or SUSPENDED context begins its teardown; once no thread stands in a slot, no transfer is in flight and no
page is pinned, nothing of the context remains: its groups, episodes, slots, receive windows and cached code are gone, its fields are
those of a FREE context but for the call sequence, which goes on (the model's reading, log entry 19), and a scrub leaves its windows over device memory zero. -/
def Sys2Proof.Claim.ContextTeardown : Prop :=
  (∀ (s : State) (n : Nat) (seq : BitVec 32), contextCommand s n seq 4 false → (s.ctx n).state = .active ∨ (s.ctx n).state = .suspended →
    (2 ≤ (s.cget n 0x10).toNat → s.MemOk → ∃ t, exec (.contextDestroy n) s = .next t ∧ turnedAway s t n seq 2) ∧
    ((s.cget n 0x10).toNat < 2 →
      ∃ t, exec (.contextDestroy n) s = .next t ∧ (t.ctx n).state = .destroying ∧ (t.ctx n).cmdSeq = some seq ∧
        (t.ctx n).scrub = (s.cget n 0x10).getLsbD 0 ∧
        (s.Serial → (∀ g ∈ s.groups, ∀ x ∈ g.threads, x.2.2 = false) → t.mem = s.mem ∧ t.thr = s.thr) ∧
        ∀ g ∈ t.groups, g.ctx = n → g.state = .aborted ∨ g.state = .ended)) ∧
  (∀ (s : State) (n : Nat), n < 64 → (s.ctx n).state = .destroying → (∀ t ∈ s.threads, t.live = true → t.id.ctx ≠ n) →
    s.ctxTransfers n = false → s.ctxPinned (s.ctx n) = false →
    ∃ t, exec (.teardownComplete n) s = .next t ∧ t.ctx n = { Ctx.reset with hseq := (s.ctx n).hseq } ∧ t.thr = s.thr ∧
      (∀ g ∈ t.groups, g.ctx ≠ n) ∧ (∀ x ∈ t.eps, x.ctx ≠ n) ∧ (∀ w ∈ t.rwins, w.ctx ≠ n) ∧ (∀ b ∈ t.icache, b.ctx ≠ n) ∧
      (∀ k < 192, ∀ x ∈ (t.core k).slots, x.tag.ctx ≠ n) ∧
      ((s.ctx n).scrub = true → s.mgmt.held = [] → ∀ w ∈ (s.ctx n).wins.toList, w.valid = true → paKind (w.base * 65536) = 0 →
        ∀ a, w.base * 65536 ≤ a → a < w.last * 65536 → a < s.mgmt.cbase ∨ s.mgmt.cbase + 0x12000 ≤ a → t.mem.get a = 0))

/-- The life of a context. -/
def Obligations.ContextLife : Prop := ContextStatus ∧ ContextCreation ∧ ContextPause ∧ ContextTeardown

/-- R267, R269: `UPDATE` of an ACTIVE context takes its vectors, class and weight and nothing else, and checks only them (the model's
reading, log entry 34); of a SUSPENDED one it answers the first
refusal of its checks, and with none it takes the block's fields. -/
def Sys2Proof.Claim.ContextUpdates : Prop :=
  ∀ (s : State) (n : Nat) (seq : BitVec 32), contextCommand s n seq 5 false → s.MemOk →
    let c := s.ctx n
    let weight := (s.cget n 0x40).toNat / 2 ^ 8 % 256
    (c.state = .active → s.vecsOk n = true → weight ≠ 0 →
      ∃ t, exec (.contextUpdate n) s = .next t ∧ answered t n seq 0 ∧ onlyDone s t n ∧ t.thr = s.thr ∧ t.ctx n = { c with
        cvec := s.readVec n 0x20, ivec := Vector.ofFn fun i => s.readVec n (0x200 + 16 * i.val)
        cls := (s.cget n 0x40).toNat % 4, weight := weight }) ∧
    (c.state = .active → s.vecsOk n = false ∨ weight = 0 → ∃ t, exec (.contextUpdate n) s = .next t ∧ turnedAway s t n seq 2) ∧
    (c.state = .suspended → (s.cget n 0x70).toNat = c.pblk →
      let st := s.updateStatus n c (s.takeBlock n c)
      (st ≠ 0 → ∃ t, exec (.contextUpdate n) s = .next t ∧ turnedAway s t n seq st) ∧
      (st = 0 → s.cget n 0x60 = c.blkPolgen →
        ∃ t, exec (.contextUpdate n) s = .next t ∧ answered t n seq 0 ∧ onlyDone s t n ∧ t.thr = s.thr ∧
          let y := t.ctx n
          y.state = .suspended ∧ y.droot = s.cget n 0x30 ∧ y.croot = s.cget n 0x38 ∧ y.weight = weight ∧ y.ecores = s.cget n 0x68 ∧
          y.policygen = c.policygen ∧ y.records = c.records ∧
          y.trapvec = (if s.cget n 0x50 = c.blkTrapvec then c.trapvec else s.cget n 0x50) ∧
          (∀ i < 16, vget y.wins i = s.readWin n i ∧ vget y.qblk i = s.cget n (0x80 + 8 * i))))

/-- R266, R267: `TLBINV` waits for the context's transfers, fills and spills, and no other command runs meanwhile; then the pages
of its range translate by the tables as they stand, and with a count of 0 no older form of any table is left. A reserved bit of an argument answers 2. -/
def Sys2Proof.Claim.Invalidation : Prop :=
  let busy := fun (s : State) (n : Nat) => s.ctxTransfers n = true ∨ s.ctxMoves n = true
  let finished := fun (s t : State) (n : Nat) (seq : BitVec 32) (a0 a1 : Nat) =>
    let c := t.ctx n
    answered t n seq 0 ∧ onlyDone s t n ∧ t.thr = s.thr ∧
      c = { s.ctx n with seen := c.seen, stale := c.stale, gone := c.gone, cmdSeq := none, inv := none } ∧
      (a1 = 0 → c.seen = s.mem ∧ c.stale = [] ∧ c.gone = []) ∧
      (∀ va, a0 % 2 ^ 56 ≤ va → va < a0 % 2 ^ 56 + 65536 * a1 → ∀ cycle sup write ls root,
        c.translate t.mem cycle (decide (2 ^ 63 ≤ a0)) sup write va ls root = walk t.mem c (decide (2 ^ 63 ≤ a0)) sup write va ls root)
  (∀ (s : State) (n : Nat) (seq : BitVec 32), contextCommand s n seq 6 false → s.MemOk → (s.ctx n).state ≠ .free →
    let a0 := (s.cget n 0x10).toNat
    let a1 := (s.cget n 0x18).toNat
    let bad := a0 / 2 ^ 56 % 2 ^ 7 ≠ 0 ∨ a0 % 2 ^ 16 ≠ 0 ∨ 2 ^ 40 ≤ a1
    (bad → ∃ t, exec (.tlbinv n) s = .next t ∧ turnedAway s t n seq 2) ∧
    (¬ bad → busy s n → exec (.tlbinv n) s = .next (s.setCtx n { s.ctx n with cmdSeq := some seq, inv := some (s.cget n 0x10, s.cget n 0x18) })) ∧
    (¬ bad → ¬ busy s n → ∃ t, exec (.tlbinv n) s = .next t ∧ finished s t n seq a0 a1)) ∧
  (∀ (s : State) (n : Nat) (seq : BitVec 32) (a0 a1 : Word), n < 64 → (s.ctx n).cmdSeq = some seq → (s.ctx n).inv = some (a0, a1) → s.MemOk →
    a0.toNat % 2 ^ 16 = 0 →
    (busy s n → exec (.tlbinv n) s = .fault .notEnabled) ∧
    (¬ busy s n → ∃ t, exec (.tlbinv n) s = .next t ∧ finished s t n seq a0.toNat a1.toNat))

/-- R273, R390: a vector whose mask is clear with its pending bit set delivers one interrupt: the bit is cleared, and the write leaves over
Turward, or waits until Turward is usable. With no such vector nothing happens. -/
def Sys2Proof.Claim.Unmasking : Prop :=
  ∀ (s : State) (n : Nat), n < 64 → (s.ctx n).state ≠ .free →
    let at_ := fun (i : Nat) => s.cblock n + (if i = 0 then 0x20 else 0x200 + 16 * (i - 1))
    let vec := fun (i : Nat) => if i = 0 then (s.ctx n).cvec else vget (s.ctx n).ivec (i - 1)
    let due := fun (i : Nat) => s.mem.get (at_ i + 12) &&& 3 = 2
    ((∀ i < 17, ¬ due i) → exec (.interruptUnmask n) s = .fault .notEnabled) ∧
    (∀ i < 17, due i → (∀ j < i, ¬ due j) →
      ∃ t, exec (.interruptUnmask n) s = .next t ∧ t.mem = s.mem.write (at_ i + 12) [s.mem.get (at_ i + 12) &&& ~~~2] ∧ t.thr = s.thr ∧
        t.ctxs = s.ctxs ∧ (s.turward.usable = true → t.irqs = s.irqs ++ [((vec i).addr, (vec i).data)] ∧ t.irqHeld = s.irqHeld) ∧
        (s.turward.usable = false → t.irqs = s.irqs ∧ t.irqHeld = s.irqHeld ++ [((vec i).addr, (vec i).data)]))

/-- Updates, translations and interrupts of a context. -/
def Obligations.ContextUpkeep : Prop := ContextUpdates ∧ Invalidation ∧ Unmasking

namespace Sys2Proof.Claim

/-- The block of a queue stands at `pa`, and stays there whatever its own 64 bytes hold. -/
def blockAt (s : State) (n q pa : Nat) : Prop :=
  n < 64 ∧ q < 16 ∧ s.qva n q ≠ 0 ∧ s.qva n q % 64 = 0 ∧ s.MemOk ∧ ∀ m : Mem, (∀ a, a < pa ∨ pa + 64 ≤ a → m.get a = s.mem.get a) →
    ∀ (k : Nat) (r w : Bool), k < 8 →
      ({ s with mem := m } : State).xlate n true w (s.qva n q + 8 * k) = .ok (pa + 8 * k) ∧ s.dataErr n r w (pa + 8 * k) = none

/-- The pending command of a queue that the dispatcher watches (R282): no other runs, but for a `DRAIN` that waits; its SEQ is not that of the
last command taken, or, before the first, of DONE. -/
def queueCommand (s : State) (n q pa : Nat) (seq : BitVec 32) (op : Nat) (rz : Bool) : Prop :=
  blockAt s n q pa ∧ (s.ctx n).state.takes = true ∧ (s.queue n q).errd = false ∧
    ((s.queue n q).cmdSeq = none ∨ (s.queue n q).cmdOp = 3) ∧
    (s.loadPA8 (pa + 0x18)).extractLsb' 32 32 = seq ∧ (s.queue n q).taken.getD ((s.loadPA8 (pa + 0x20)).extractLsb' 32 32) ≠ seq ∧
    (s.loadPA8 (pa + 0x18)).toNat % 256 = op ∧ rz = decide ((s.loadPA8 (pa + 0x18)).toNat / 256 % 2 ^ 24 ≠ 0)

/-- DONE of a queue's block: the SEQ, the status, the state that the queue has. -/
def queueAnswered (t : State) (n q pa : Nat) (seq : BitVec 32) (status : Nat) : Prop :=
  t.loadPA8 (pa + 0x20) = BitVec.ofNat 64 (seq.toNat * 2 ^ 32 + status * 2 ^ 8 + (t.queue n q).state.code)

/-- CTL of a queue's block keeps to its layout (R276). -/
abbrev legalCtl (ctl : Word) : Prop := ctl.toNat < 2 ^ 22 ∧ ctl.toNat % 2 ^ 16 / 4 = 0

/-- The end of a `DRAIN` with the interrupt that a CTL asks for (R276). -/
def drained (n : Nat) (ctl : Word) (u : State) : State := if ctl.getLsbD 21 then u.interrupt n (ctl.extractLsb' 16 4).toNat else u

/-- Of memory, only the block has changed. -/
def onlyBlock (s t : State) (pa : Nat) : Prop := ∀ a, a < pa ∨ pa + 64 ≤ a → t.mem.get a = s.mem.get a

/-- The command rows of a queue with the OP that each answers. -/
def queueRow (n q op : Nat) (i : Instr) : Prop :=
  (op = 1 ∧ i = .queueCreate n q) ∨ (op = 2 ∧ i = .queueResume n q) ∨ (op = 3 ∧ i = .queueDrain n q) ∨ (op = 4 ∧ i = .queueDestroy n q)

end Sys2Proof.Claim

/-- R276, R282, R428: an OP that is not assigned is answered with 5, a reserved bit with 2, a command that the state does not allow with 1, a
CTL that breaks its layout with 2, and one that finds its end state reached with 0. None of them changes the queue's state or its nodes; a
`DRAIN` answered for its state raises the interrupt that CTL asks for. -/
def Sys2Proof.Claim.QueueStatus : Prop :=
  ∀ (s : State) (n q pa : Nat) (seq : BitVec 32) (op : Nat) (rz : Bool), queueCommand s n q pa seq op rz →
    let st := (s.queue n q).state
    let ctl := s.loadPA8 (pa + 0x10)
    let same := fun (u : State) (status : Nat) => queueAnswered u n q pa seq status ∧ onlyBlock s u pa ∧
      u.thr = s.thr ∧ u.groups = s.groups ∧ u.queue n q = { s.queue n q with ctl := (u.queue n q).ctl, taken := some seq }
    let gives := fun (i : Instr) (status : Nat) => ∃ u, exec i s = .next u ∧ same u status
    let ends := fun (i : Instr) (status : Nat) => ∃ u, exec i s = .next (if op = 3 ∧ legalCtl ctl then drained n ctl u else u) ∧ same u status
    let no := (op = 1 ∧ st ≠ .destroyed) ∨ (op = 2 ∧ (st = .destroyed ∨ st = .draining)) ∨ (op = 3 ∧ (st = .destroyed ∨ st = .frozen))
    (op = 0 ∨ 4 < op → gives (.queueCreate n q) 5) ∧
    (∀ i, queueRow n q op i →
      (rz = true → gives i 2) ∧
      (rz = false → no → ends i 1) ∧
      (rz = false → ¬ no → ¬ legalCtl ctl → gives i 2) ∧
      (rz = false → legalCtl ctl →
        (op = 2 ∧ (st = .empty ∨ st = .active)) ∨ (op = 3 ∧ st = .draining) ∨ (op = 4 ∧ st = .destroyed) → ends i 0))

/-- R276, R282: `CREATE` of a DESTROYED queue whose HEAD and TAIL are 0 and whose CTL is legal makes it EMPTY; else it answers 2. `RESUME` of
a FROZEN queue clears V and the overflow bit of its fault record, frees the held records, and the queue is ACTIVE where it has an unretired
node or HEAD names one, else EMPTY. -/
def Sys2Proof.Claim.QueueOpening : Prop :=
  (∀ (s : State) (n q pa : Nat) (seq : BitVec 32), queueCommand s n q pa seq 1 false → (s.queue n q).state = .destroyed →
    let ctl := s.loadPA8 (pa + 0x10)
    let legal := s.loadPA8 pa = 0 ∧ s.loadPA8 (pa + 8) = 0 ∧ legalCtl ctl
    (legal → ∃ t, exec (.queueCreate n q) s = .next t ∧ queueAnswered t n q pa seq 0 ∧ onlyBlock s t pa ∧ t.thr = s.thr ∧
      t.queue n q = { Queue.reset with ctl := ctl, state := .empty, taken := some seq }) ∧
    (¬ legal → ∃ t, exec (.queueCreate n q) s = .next t ∧ queueAnswered t n q pa seq 2 ∧ onlyBlock s t pa ∧ t.thr = s.thr ∧
      t.queue n q = { s.queue n q with taken := some seq })) ∧
  (∀ (s : State) (n q pa : Nat) (seq : BitVec 32), queueCommand s n q pa seq 2 false → (s.queue n q).state = .frozen →
    (s.queue n q).waits = [] → legalCtl (s.loadPA8 (pa + 0x10)) →
    ((s.queue n q).nodes = [] → ∃ t, exec (.queueResume n q) s = .next t ∧ queueAnswered t n q pa seq 0 ∧ onlyBlock s t pa ∧ t.thr = s.thr ∧
      (t.queue n q).state = (if s.loadPA8 pa = 0 then .empty else .active) ∧ (t.queue n q).heldRec = [] ∧ t.loadPA8 (pa + 0x30) = s.loadPA8 (pa + 0x30) &&& 0x3FFFFFFFFFFFFFFF ∧
      ∀ r ∈ (s.queue n q).heldRec, r ∉ (t.ctx n).records) ∧
    (∀ x, (s.queue n q).nodes = [x] → x.cbar = 0 → x.pend = none →
      ∃ t, exec (.queueResume n q) s = .next t ∧ (t.queue n q).heldRec = [] ∧ (t.queue n q).nodes.map (·.addr) = [x.addr] ∧
        (t.queue n q).state = .active ∧ queueAnswered t n q pa seq 0 ∧ t.thr = s.thr))

/-- R276, R282, R286: `DRAIN` of a queue without unretired nodes destroys it, with the interrupt that CTL asks for; with nodes it waits for
those linked so far. `DESTROY` of an EMPTY queue is answered at once, and of one with nodes it drops them and stops their groups, and is
answered once its threads have left. -/
def Sys2Proof.Claim.QueueClosing : Prop :=
  (∀ (s : State) (n q pa : Nat) (seq : BitVec 32), queueCommand s n q pa seq 3 false →
    let ctl := s.loadPA8 (pa + 0x10)
    legalCtl ctl →
    ((s.queue n q).state = .empty ∨ ((s.queue n q).state = .active ∧ s.lastLinked n q = 0 ∧ (s.queue n q).nodes = []) →
      ∃ u, exec (.queueDrain n q) s = .next (drained n ctl u) ∧ (u.queue n q).state = .destroyed ∧ queueAnswered u n q pa seq 0 ∧
        onlyBlock s u pa ∧ u.thr = s.thr) ∧
    ((s.queue n q).state = .active → s.lastLinked n q ≠ 0 ∨ (s.queue n q).nodes ≠ [] →
      ∃ t, exec (.queueDrain n q) s = .next t ∧ (t.queue n q).state = .draining ∧ (t.queue n q).drainTo = s.lastLinked n q ∧
        ((s.queue n q).lastTaken ≠ 0 → s.devRead8 n (s.queue n q).lastTaken.toNat = .ok 0 → (t.queue n q).drainTo = (s.queue n q).lastTaken) ∧
        (t.queue n q).nodes = (s.queue n q).nodes ∧ (t.queue n q).cmdSeq = some seq ∧ (t.queue n q).cmdOp = 3 ∧ onlyBlock s t pa ∧
        t.thr = s.thr)) ∧
  (∀ (s : State) (n q pa : Nat) (seq : BitVec 32), queueCommand s n q pa seq 4 false →
    legalCtl (s.loadPA8 (pa + 0x10)) →
    ((s.queue n q).state = .empty →
      ∃ t, exec (.queueDestroy n q) s = .next t ∧ (t.queue n q).state = .destroyed ∧ queueAnswered t n q pa seq 0 ∧ onlyBlock s t pa ∧
        t.thr = s.thr) ∧
    ((s.queue n q).state = .active ∨ (s.queue n q).state = .frozen ∨ (s.queue n q).state = .draining →
      ∃ t, exec (.queueDestroy n q) s = .next t ∧ (t.queue n q).nodes = [] ∧ (t.queue n q).cmdSeq = some seq ∧ (t.queue n q).cmdOp = 4 ∧
        (t.queue n q).heldRec = [] ∧ ∀ g ∈ t.groups, g.ctx = n → g.q = q → g.state = .aborted ∨ g.state = .ended)) ∧
  (∀ (s : State) (n q pa : Nat) (seq : BitVec 32), blockAt s n q pa → (s.ctx n).state.takes = true → (s.queue n q).errd = false →
    (s.queue n q).cmdSeq = some seq → (s.queue n q).cmdOp = 4 →
    ((∃ t ∈ s.threads, t.live = true ∧ t.id.ctx = n ∧ t.id.q = q) → exec (.queueDestroy n q) s = .fault .notEnabled) ∧
    ((∀ t ∈ s.threads, t.live = true → ¬ (t.id.ctx = n ∧ t.id.q = q)) →
      ∃ t, exec (.queueDestroy n q) s = .next t ∧ (t.queue n q).state = .destroyed ∧ queueAnswered t n q pa seq 0 ∧ onlyBlock s t pa)) ∧
  (∀ (s : State) (n q pa : Nat), blockAt s n q pa → (s.ctx n).state.takes = true → (s.queue n q).errd = true → (s.cget n 0x300).getLsbD q = false → (s.queue n q).waits = [] →
    ∃ t, exec (.qerrClear n q) s = .next t ∧ t.queue n q = { s.queue n q with errd := false } ∧ onlyBlock s t pa ∧ t.thr = s.thr ∧
      t.loadPA8 (pa + 0x20) = BitVec.ofNat 64 ((s.loadPA8 (pa + 0x20)).toNat / 8 * 8 + (s.queue n q).state.code))

/-- The commands of queues. -/
def Obligations.QueueCommands : Prop := QueueStatus ∧ QueueOpening ∧ QueueClosing

namespace Sys2Proof.Claim

/-- A word of a node with its STATE changed (R277). -/
def stateWord (w : Word) (code : Nat) : Word := BitVec.ofNat 64 (w.toNat / 2 ^ 15 * 2 ^ 15 + code * 2 ^ 12 + w.toNat % 2 ^ 12)

/-- CTL of a node stands at `pc`, outside the block of its queue, whatever the block holds. -/
def ctlAt (s : State) (n pa : Nat) (node : Word) (pc : Nat) : Prop :=
  (pc + 8 ≤ pa ∨ pa + 64 ≤ pc) ∧ ∀ m : Mem, (∀ a, a < pa ∨ pa + 64 ≤ a → m.get a = s.mem.get a) → ∀ r w : Bool,
    ({ s with mem := m } : State).xlate n true w (node.toNat + 8) = .ok pc ∧ s.dataErr n r w pc = none

/-- What a node's groups leave when they stop: no region is held, and none of their threads is saved. -/
def unsaved (s : State) (n q : Nat) (addr : Word) : Prop :=
  s.Serial ∧ ∀ g ∈ s.groups, g.ctx = n → g.q = q → g.node = addr → ∀ x ∈ g.threads, x.2.2 = false

/-- The only node of a queue, its block free of a fault record, no interrupt asked for. -/
def loneNode (s : State) (n q pa pc : Nat) (x : Node) : Prop :=
  blockAt s n q pa ∧ (s.ctx n).state.takes = true ∧ (s.queue n q).errd = false ∧ (s.queue n q).cmdSeq = none ∧ (s.queue n q).nodes = [x] ∧
    ctlAt s n pa x.addr pc ∧ (s.queue n q).ctl.getLsbD 20 = false ∧ (s.loadPA8 (pa + 0x30)).getLsbD 63 = false ∧ x.nsucc = 0 ∧ x.cbar = 0 ∧ x.pend = none ∧
    unsaved s n q x.addr

/-- A node has faulted (R283): its state, the freeze of its queue, the fault record. -/
def nodeFaulted (s t : State) (n q pa pc : Nat) (addr : Word) (kind cause : Nat) : Prop :=
  (∃ y, t.node n q addr = some y ∧ y.state = .faulted ∧ y.copying = false) ∧ (t.queue n q).state = .frozen ∧
    t.loadPA8 (pa + 0x28) = addr ∧ t.loadPA8 (pa + 0x30) = BitVec.ofNat 64 (2 ^ 63 + kind * 2 ^ 16 + cause) ∧ t.loadPA8 (pa + 0x38) = 0 ∧
    t.loadPA8 pc = stateWord (s.loadPA8 pc) 4 ∧ t.thr = s.thr

end Sys2Proof.Claim

/-- R278: a node appended to an empty list becomes HEAD and TAIL; to another, the NEXT of the old TAIL, and TAIL. -/
def Sys2Proof.Claim.NodeAppends : Prop :=
  ∀ (s : State) (n q pa : Nat) (node : Word), blockAt s n q pa →
    let s1 := s.storePA8 (pa + 8) node
    (s.loadPA8 (pa + 8) = 0 → exec (.nodeAppend n q node) s = .next (s1.storePA8 pa node)) ∧
    (∀ pb, s.loadPA8 (pa + 8) ≠ 0 → (s.loadPA8 (pa + 8)).toNat % 8 = 0 → s1.xlate n true true (s.loadPA8 (pa + 8)).toNat = .ok pb →
      s1.dataErr n true true pb = none → exec (.nodeAppend n q node) s = .next (s1.storePA8 pb node))

/-- R277, R279, R301: the next node of the list is taken in: READY where no predecessor is left, else WAITING; one that breaks its layout
faults with KIND 3; one that an error token reached before is CANCELLED (the model's reading, log entry 65). With nothing linked nothing
happens. -/
def Sys2Proof.Claim.NodeTaking : Prop :=
  ∀ (s : State) (n q pa : Nat), blockAt s n q pa → (s.ctx n).state.takes = true → (s.queue n q).errd = false →
    (s.queue n q).state = .active → (s.queue n q).cmdSeq = none → (s.queue n q).owedTake = false →
    let last := (s.queue n q).lastTaken
    (last = 0 → s.loadPA8 pa = 0 → exec (.nodeTakeIn n q) s = .fault .notEnabled) ∧
    (last ≠ 0 → s.loadPA8 (pa + 8) = last → exec (.nodeTakeIn n q) s = .fault .notEnabled) ∧
    (∀ a bs, (last = 0 ∧ s.loadPA8 pa = a) ∨ (last ≠ 0 ∧ s.loadPA8 (pa + 8) ≠ last ∧ s.devRead8 n last.toNat = .ok a) → a ≠ 0 → s.devReadN n a.toNat 128 = .ok bs →
      (∀ x ∈ (s.queue n q).nodes, x.addr ≠ a) →
      let x := Node.ofWords a bs
      let fine := x.bodyOk = true ∧ ∀ i < x.nsucc, s.succOk n (x.word (11 + i)) = true
      (a ∉ (s.ctx n).cancelled → fine → x.ctl.toNat / 2 ^ 32 ≠ 0 →
        ∃ t, exec (.nodeTakeIn n q) s = .next t ∧ t.queue n q = { s.queue n q with lastTaken := a, nodes := (s.queue n q).nodes ++ [x] } ∧
          x.state = .waiting ∧ t.mem = s.mem ∧ t.thr = s.thr) ∧
      (∀ pc, a ∉ (s.ctx n).cancelled → fine → x.ctl.toNat / 2 ^ 32 = 0 → s.xlate n true false (a.toNat + 8) = .ok pc →
        s.xlate n true true (a.toNat + 8) = .ok pc → s.dataErr n true false pc = none → s.dataErr n false true pc = none →
        ∃ t y, exec (.nodeTakeIn n q) s = .next t ∧ t.node n q a = some y ∧ y.state = .ready ∧ y.readyAt = s.cycle ∧
          t.mem = s.mem.write pc (toBytes 8 (stateWord (s.loadPA8 pc) 1).toNat) ∧ t.thr = s.thr) ∧
      (∀ pc, a ∉ (s.ctx n).cancelled → ¬ fine → (s.queue n q).nodes = [] → ctlAt s n pa a pc → (s.queue n q).ctl.getLsbD 20 = false →
        (s.loadPA8 (pa + 0x30)).getLsbD 63 = false → x.nsucc = 0 → x.cbar = 0 → unsaved s n q a →
        ∃ t, exec (.nodeTakeIn n q) s = .next t ∧ nodeFaulted s t n q pa pc a 3 0) ∧
      (a ∈ (s.ctx n).cancelled → ∃ t, exec (.nodeTakeIn n q) s = .next t ∧ t.mem = s.mem ∧ t.thr = s.thr ∧ a ∉ (t.ctx n).cancelled ∧
        (t.queue n q).nodes = (s.queue n q).nodes ++ [{ x with state := .cancelled }]))

/-- R279, R282: a node that has ended retires from HEAD: HEAD takes its NEXT; the last of the list leaves HEAD and TAIL 0 and an ACTIVE
queue EMPTY, and the retirement waits while another node is being linked behind it. An unfinished node does not retire. -/
def Sys2Proof.Claim.NodeRetiring : Prop :=
  ∀ (s : State) (n q pa : Nat) (h : Node) (rest : List Node) (next : Word), blockAt s n q pa → (s.ctx n).state.takes = true →
    (s.queue n q).errd = false → (s.queue n q).nodes = h :: rest → (s.queue n q).owedRetire = false → h.owed = [] →
    s.devRead8 n h.addr.toNat = .ok next →
    (h.state = .waiting ∨ h.state = .ready ∨ h.state = .running → exec (.nodeRetire n q) s = .fault .notEnabled) ∧
    (h.state = .done ∨ h.state = .faulted ∨ h.state = .cancelled → (s.queue n q).state ≠ .draining →
      (next ≠ 0 → ∃ t, exec (.nodeRetire n q) s = .next t ∧ t.mem = s.mem.write pa (toBytes 8 next.toNat) ∧ (t.queue n q).nodes = rest ∧
        (t.queue n q).state = (s.queue n q).state ∧ t.thr = s.thr) ∧
      (next = 0 → s.loadPA8 (pa + 8) ≠ h.addr → ∃ t, exec (.nodeRetire n q) s = .next t ∧ t.mem = s.mem.write pa (toBytes 8 0) ∧
        t.queue n q = s.queue n q ∧ t.thr = s.thr) ∧
      (next = 0 → s.loadPA8 (pa + 8) = h.addr → h.addr ≠ 0 → rest = [] → ∃ t, exec (.nodeRetire n q) s = .next t ∧ t.loadPA8 pa = 0 ∧
        t.loadPA8 (pa + 8) = 0 ∧ (t.queue n q).nodes = [] ∧ onlyBlock s t pa ∧ t.thr = s.thr ∧
        ((s.queue n q).state = .active → (t.queue n q).state = .empty) ∧ ((s.queue n q).state = .frozen → (t.queue n q).state = .frozen))) ∧
    (∀ seq, h.state = .done → (s.queue n q).state = .draining → (s.queue n q).drainTo = h.addr → (s.queue n q).cmdSeq = some seq →
      (s.queue n q).ctl.getLsbD 21 = false → next ≠ 0 →
      ∃ t, exec (.nodeRetire n q) s = .next t ∧ (t.queue n q).state = .destroyed ∧ queueAnswered t n q pa seq 0 ∧ t.loadPA8 pa = next ∧
        onlyBlock s t pa ∧ t.thr = s.thr)

/-- R283, R284: a RUNNING node whose groups have been placed for more than LIMIT microseconds, of 1,700 core cycles each, faults with KIND 2;
one with a LIMIT of 0 or with time left does not. -/
def Sys2Proof.Claim.NodeLimits : Prop :=
  ∀ (s : State) (n q pa pc : Nat) (x : Node), loneNode s n q pa pc x → x.state = .running →
    (x.limit ≠ 0 → 1700 * x.limit < x.ran → ∃ t, exec (.nodeLimitExpiry n q x.addr) s = .next t ∧ nodeFaulted s t n q pa pc x.addr 2 0 ∧
      ∀ g ∈ t.groups, g.ctx = n → g.q = q → g.node = x.addr → g.state = .aborted ∨ g.state = .ended) ∧
    (x.limit = 0 ∨ x.ran ≤ 1700 * x.limit → exec (.nodeLimitExpiry n q x.addr) s = .fault .notEnabled)

/-- The life of a node. -/
def Obligations.NodeLife : Prop := NodeAppends ∧ NodeTaking ∧ NodeRetiring ∧ NodeLimits

/-- R299, R300: a barrier node that starts is DONE, and its successor loses a predecessor; a copy node runs; a conditional or loop node whose
control word is 0, and a switch whose word is past its table, are DONE, else they run their template: a copy, or a kernel's groups. -/
def Sys2Proof.Claim.NodeStarting : Prop :=
  ∀ (s : State) (n q : Nat) (x : Node), s.node n q x.addr = some x → n < 64 → q < 16 → x.state = .ready → (s.ctx n).state = .active →
    (s.queue n q).errd = false → (s.queue n q).state = .active → (s.queue n q).cmdSeq = none → x.pend = none →
    ∀ run, s.writeNState n q x.addr .running = .ok run →
    let ends := fun (t : State) => ∃ y, t.node n q x.addr = some y ∧ y.state = .done
    let start := fun (t : State) => exec (.dispatcherNodeStart n q x.addr) s = .next t
    (x.type = 2 → ∃ t y, start t ∧ t.node n q x.addr = some y ∧ y.state = .running ∧ y.copying = true ∧ y.body = x.body ∧ t.thr = s.thr) ∧
    (∀ done, x.type = 6 → x.cbar = 0 → x.nsucc = 0 → run.writeNState n q x.addr .done = .ok done → ∃ t, start t ∧ ends t ∧ t.thr = s.thr) ∧
    (∀ done b q' z pb ready, x.type = 6 → x.cbar = 0 → x.nsucc = 1 → b ≠ x.addr → run.writeNState n q x.addr .done = .ok done →
      done.succ n x.addr 0 = .ok b → done.findNode n b = some (q', z) → done.xlate n true true (b.toNat + 8) = .ok pb →
      done.dataErr n true true pb = none → (done.loadPA8 pb).toNat / 2 ^ 32 = 1 → (done.loadPA8 pb).toNat / 2 ^ 12 % 8 = 0 →
      (done.storePA8 pb (BitVec.ofNat 64 ((done.loadPA8 pb).toNat % 2 ^ 32))).writeNState n q' b .ready = .ok ready →
      ∃ t y, start t ∧ ends t ∧ t.node n q' b = some y ∧ y.state = .ready) ∧
    (∀ w, x.cbar = 0 → x.nsucc = 0 → run.devRead8 n x.opa.toNat = .ok w →
      (∀ done, run.writeNState n q x.addr .done = .ok done → ((x.type = 3 ∨ x.type = 4) ∧ w = 0) ∨ (x.type = 5 ∧ x.count.toNat ≤ w.toNat) → ∃ t, start t ∧ ends t ∧ t.thr = s.thr) ∧
      (∀ tm bs, ((x.type = 3 ∨ x.type = 4) ∧ w ≠ 0 ∧ tm = x.opb) ∨ (x.type = 5 ∧ w.toNat < x.count.toNat ∧ ∃ l,
          run.devReadN n (x.opb + BitVec.ofNat 64 (8 * w.toNat)).toNat 8 = .ok l ∧ tm = BitVec.ofNat 64 (ofBytes l)) →
        run.devReadN n tm.toNat 128 = .ok bs → (Node.ofWords tm bs).templateOk = true →
        ∃ t y, start t ∧ t.node n q x.addr = some y ∧ y.state = .running ∧ y.work = tm ∧ y.placed = 0 ∧ y.ended = 0 ∧
          y.iters = x.iters + 1 ∧ (y.copying = true ↔ (Node.ofWords tm bs).type = 2) ∧
          y.groups = (if (Node.ofWords tm bs).type = 1 then (Node.ofWords tm bs).count.toNat else 0) ∧ t.thr = s.thr))

/-- R300: a copy's end makes its node DONE, or lets a loop go on, with the bytes moved; a failed one faults the node with KIND 5. A loop whose
iteration has ended reads its control word again: 0, or the count reached, and it is DONE; else the template runs once more. -/
def Sys2Proof.Claim.NodeEnding : Prop :=
  (∀ (s : State) (n q : Nat) (x : Node), s.node n q x.addr = some x → n < 64 → q < 16 → x.state = .running → x.copying = true → x.failed = none →
    (s.ctx n).state.takes = true → s.Serial →
    let w := fun (i : Nat) => vget x.wbody i
    let len := (w 4).toNat
    (∀ p d, x.type = 4 → 1 ≤ len → (w 2).toNat % 64 = 0 → (w 3).toNat % 64 = 0 → len ≤ 64 →
      s.xlate n true false (w 2).toNat = .ok p → s.xlate n true true (w 3).toNat = .ok d → s.dataErr n true false p = none →
      s.dataErr n false true d = none →
      ∃ t y, exec (.copyNodeComplete n q x.addr) s = .next t ∧ t.mem = s.mem.write d (s.mem.read p len) ∧ t.node n q x.addr = some y ∧
        y = { x with copying := false, since := 0 } ∧ t.thr = s.thr) ∧
    (∀ s1 done, x.type ≠ 4 → x.cbar = 0 → x.nsucc = 0 → s.copyWork n x = (s1, none) →
      (s1.mapNode n q x.addr fun y => { y with copying := false, since := 0 }).writeNState n q x.addr .done = .ok done →
      ∃ t y, exec (.copyNodeComplete n q x.addr) s = .next t ∧ t.node n q x.addr = some y ∧ y.state = .done ∧ y.copying = false ∧
        t.thr = s.thr)) ∧
  (∀ (s : State) (n q pa pc : Nat) (x : Node) (e : Nat), loneNode s n q pa pc x → x.state = .running → x.copying = true → x.failed = none →
    1 ≤ (vget x.wbody 4).toNat → s.xlate n true false (vget x.wbody 2).toNat = .error e →
    ∃ t, exec (.copyNodeComplete n q x.addr) s = .next t ∧ nodeFaulted s t n q pa pc x.addr 5 e) ∧
  (∀ (s : State) (n q : Nat) (x : Node) (w : Word), s.node n q x.addr = some x → n < 64 → q < 16 → x.type = 4 → x.state = .running →
    x.copying = false → x.pend = none → x.ended = x.groups → (s.ctx n).state.takes = true → s.devRead8 n x.opa.toNat = .ok w →
    let ends := w = 0 ∨ (x.count ≠ 0 ∧ x.count.toNat ≤ x.iters)
    (∀ done, ends → x.cbar = 0 → x.nsucc = 0 → s.writeNState n q x.addr .done = .ok done →
      ∃ t y, exec (.loopIterationEnd n q x.addr) s = .next t ∧ t.node n q x.addr = some y ∧ y.state = .done ∧ t.thr = s.thr) ∧
    (∀ bs, ¬ ends → s.devReadN n x.opb.toNat 128 = .ok bs → (Node.ofWords x.opb bs).templateOk = true →
      ∃ t y, exec (.loopIterationEnd n q x.addr) s = .next t ∧ t.node n q x.addr = some y ∧ y.state = .running ∧ y.iters = x.iters + 1 ∧
        y.work = x.opb ∧ y.placed = 0 ∧ t.thr = s.thr ∧ t.mem = s.mem))

/-- What the dispatcher runs itself. -/
def Obligations.NodeWork : Prop := NodeStarting ∧ NodeEnding

namespace Sys2Proof.Claim

/-- The only group of the package that waits for slots (R287). -/
def onlyReady (s : State) (r : Ready) : Prop :=
  s.lastServed < 64 ∧ r.ctx < 64 ∧ r.cls ≤ 3 ∧ s.readyOf r.ctx = [r] ∧ ∀ m < 64, m ≠ r.ctx → s.readyOf m = []

/-- A thread of a group that has been placed, in a slot of the quadrant that its group took. -/
def placedIn (t : State) (gid quad : Nat) (u : Thread) : Prop :=
  u ∈ t.parked ∧ u.live = true ∧ u.id.gid = gid ∧ u.id.core / 48 = quad ∧ u.id.slot < 2 ∧ u.vq = []

end Sys2Proof.Claim

/-- R27, R287, R290, R293, R294, R296: the only READY group of a kernel, where a quadrant fits it, is placed in one step: RUNNING, a thread
for each index at the header's entry with ARG, the address of the work's node (of a template's group the template's: the model's reading, log
entry 37) and COUNT in g1 to g3, on distinct free save records; its node counts it and is RUNNING. A header not yet read is read first, and one that is rejected faults the node. With no READY group nothing happens. -/
def Sys2Proof.Claim.GroupLaunch : Prop :=
  (∀ (s : State) (r : Ready) (h : Header) (quad : Nat), onlyReady s r → r.group = none → r.hdr = some h → r.n = h.group → r.q < 16 →
    s.node r.ctx r.q r.node.addr = some r.node → s.fits s.busySlots r = some quad → h.group ≤ 96 * (s.ctx r.ctx).weight →
    (∀ g ∈ s.groups, g.gid < s.nextGid) →
    (r.node.state = .ready → ∃ run, s.writeNState r.ctx r.q r.node.addr .running = .ok run) →
    ∃ t g y, exec .groupPlace s = .next t ∧ t.group s.nextGid = some g ∧ g.state = .running ∧ g.ctx = r.ctx ∧ g.q = r.q ∧
      g.node = r.node.addr ∧ g.gidx = r.node.placed ∧ g.n = h.group ∧ g.quadrant = quad ∧ g.placedAt = s.cycle ∧
      g.quantumAt = s.cycle + 1700 * s.mgmt.minQuantum ∧ g.quantumUp = false ∧ g.arr = 0 ∧ g.exited = 0 ∧
      (t.node r.ctx r.q r.node.addr = some y ∧ y.placed = r.node.placed + 1 ∧ (r.node.state = .ready → y.state = .running)) ∧
      ∀ i < h.group, ∃ u, placedIn t s.nextGid quad u ∧ u.id.tidx = i ∧ u.id.gidx = r.node.placed ∧ u.pc = h.entry.setWidth 48 ∧
        vget u.r.g 1 = vget r.node.wbody 3 ∧ vget u.r.g 2 = r.node.work ∧
        vget u.r.g 3 = BitVec.ofNat 64 ((vget r.node.wbody 4).toNat % 2 ^ 21) ∧ (∀ k < 64, 4 ≤ k → vget u.r.g k = 0) ∧ u.sup = false ∧
        u.c.fstat = 0 ∧ u.c.instret = 0 ∧ u.spad = [] ∧ u.id.record < (s.ctx r.ctx).livemax ∧ u.id.record ∉ (s.ctx r.ctx).records ∧
        (i, u.id.record, false) ∈ g.threads) ∧
  (∀ (s : State) (r : Ready), onlyReady s r → r.group = none → r.hdr = none → r.q < 16 →
    (∀ h, s.readHeader r.ctx r.node = .ok h → s.node r.ctx r.q r.node.addr = some r.node →
      ∃ t y, exec .groupPlace s = .next t ∧ t.node r.ctx r.q r.node.addr = some y ∧ y = { r.node with hdr := some h } ∧ t.mem = s.mem ∧
        t.thr = s.thr ∧ t.groups = s.groups) ∧
    (∀ pa pc kind cause, kind ≠ 1 → cause < 2 ^ 8 → kind < 2 ^ 4 → s.readHeader r.ctx r.node = .error (kind, cause) →
      loneNode s r.ctx r.q pa pc r.node → ∃ t, exec .groupPlace s = .next t ∧ nodeFaulted s t r.ctx r.q pa pc r.node.addr kind cause)) ∧
  (∀ s : State, (∀ n < 64, s.readyOf n = []) → exec .groupPlace s = .fault .notEnabled)

/-- R41, R274, R304: a SUSPENDED group that fits again is RUNNING, each thread with the registers of its save record. -/
def Sys2Proof.Claim.GroupResume : Prop :=
  ∀ (s : State) (r : Ready) (h : Header) (g : Group) (quad : Nat), onlyReady s r → r.group = some g → r.hdr = some h → g.ctx = r.ctx →
    r.n = g.threads.length → s.group g.gid = some g → s.fits s.busySlots r = some quad → r.n ≤ 96 * (s.ctx r.ctx).weight →
    (∀ k < 192, (s.core k).slots = []) →
    ∃ t g', exec .groupPlace s = .next t ∧ t.group g.gid = some g' ∧ g'.state = .running ∧ g'.quadrant = quad ∧ g'.placedAt = s.cycle ∧
      g'.threads = g.threads.map (fun x => (x.1, x.2.1, false)) ∧ g'.arr = g.arr ∧ g'.counts = g.counts ∧
      ∀ x ∈ g.threads, ∃ u, placedIn t g.gid quad u ∧ u.id.tidx = x.1 ∧ u.id.record = x.2.1 ∧
        let at_ := (s.ctx r.ctx).savebase + 0x504000 * x.2.1
        u.sup = (s.loadPA8 (at_ + 8)).getLsbD 0 ∧ u.pc = (s.loadPA8 at_).setWidth 48 ∧
        (∀ k < 64, k ≠ 0 → vget u.r.g k = s.loadPA8 (at_ + 0x80 + 8 * k)) ∧ u.c.shape = s.loadPA8 (at_ + 0x280) ∧
        u.c.fmode = s.loadPA8 (at_ + 0x288) ∧ u.c.instret = s.loadPA8 (at_ + 0x280 + 8 * 14) ∧ u.wait = .none

/-- R288, R304: where the only group that waits does not fit, and stopping one of a lower class that has run its minimum quantum makes room,
that one is ordered to stop; a group reaches its minimum quantum when its time has come, and not before. -/
def Sys2Proof.Claim.Preemption : Prop :=
  (∀ (s : State) (r : Ready) (h : Header) (v : Group), onlyReady s r → r.hdr = some h → s.fits s.busySlots r = none → s.Serial →
    s.admitted r = true → s.victims r.cls = [v] → (∀ g ∈ s.groups, g.state ≠ .stopping ∧ g.state ≠ .aborted) →
    (s.fits (s.busyWithout [v.gid]) r).isSome = true →
    exec .groupPlace s = .next { s with groups := s.groups.map fun g => if g.gid = v.gid then { v with state := .stopping, passing := v.pass } else g }) ∧
  (∀ (s : State) (g : Group), s.group g.gid = some g → g.state = .running ∨ g.state = .stopping → g.quantumUp = false →
    (s.cycle < g.quantumAt → exec (.minQuantumExpiry g.gid) s = .fault .notEnabled) ∧
    (g.quantumAt ≤ s.cycle → (∀ n < 64, s.readyOf n = []) →
      ∃ t g', exec (.minQuantumExpiry g.gid) s = .next t ∧ t.group g.gid = some g' ∧ g' = { g with quantumUp := true } ∧ t.thr = s.thr ∧
        t.mem = s.mem))

/-- Placement and pre-emption. -/
def Obligations.Placement : Prop := GroupLaunch ∧ GroupResume ∧ Preemption

namespace Sys2Proof.Claim

/-- The thread at turn has come to rest (R40), its streams empty, its group stopping. -/
def resting (s : State) (g : Group) : Prop :=
  s.thr.live = true ∧ s.thr.vq = [] ∧ s.thr.tq = [] ∧ s.thr.wait ≠ .exit ∧ s.transfers = [] ∧ s.group s.thr.id.gid = some g ∧
    g.gid = s.thr.id.gid ∧ s.MemOk ∧
    s.thr.held = none ∧ s.thr.trapsEmpty = false ∧ s.thr.tmapReady = true ∧ s.released s.thr = false

/-- The save record of the thread at turn (R274). -/
def recordOf (s : State) : Nat := s.tctx.savebase + 0x504000 * s.thr.id.record

end Sys2Proof.Claim

/-- R40, R41, R274, R304: a thread at rest in a STOPPING group is saved: its record takes its address, its mode, its registers and its control
registers; while others are still to be saved it keeps its slot. The last save suspends the group and empties its slots. A thread of an
aborted group leaves without a save, its record free. -/
def Sys2Proof.Claim.ThreadSave : Prop :=
  ∀ (s : State) (g : Group), resting s g →
    let save := exec (.threadSaveComplete s.thr.id.core s.thr.id.slot) s
    (∀ other r', g.state = .stopping → g.threads = [(s.thr.id.tidx, s.thr.id.record, false), (other, r', false)] → other ≠ s.thr.id.tidx →
      ∃ t g', save = .next t ∧ t.group g.gid = some g' ∧
        g' = { g with threads := [(s.thr.id.tidx, s.thr.id.record, true), (other, r', false)] } ∧ t.thr.live = true ∧
        let num := fun (off : Nat) => t.mem.num (recordOf s + off) 8
        num 0 = s.thr.pc.toNat ∧ num 8 % 2 = s.thr.sup.toNat ∧ num 0x18 = s.thr.vdirty.toNat ∧
        (∀ k < 64, num (0x80 + 8 * k) = (vget s.thr.r.g k).toNat) ∧ num 0x280 = s.thr.c.shape.toNat ∧ num 0x288 = s.thr.c.fmode.toNat ∧
        num 0x290 = s.thr.c.fstat.toNat ∧ num 0x298 = s.thr.c.rngkey.toNat ∧ num 0x2A0 = s.thr.c.rngctr.toNat ∧
        num 0x2F0 = s.thr.c.instret.toNat ∧ num 0x318 = s.thr.c.tmapb.toNat ∧ num 0x320 = s.thr.c.trappc.toNat ∧
        num 0x328 = s.thr.c.trapcause.toNat ∧ ∀ k < 3, num (0x2A8 + 8 * k) = (vget s.thr.r.loops k).count.toNat) ∧
    (g.state = .stopping → g.threads = [(s.thr.id.tidx, s.thr.id.record, false)] →
      ∃ t g', save = .next t ∧ t.thr.live = false ∧ t.group g.gid = some g' ∧ g'.state = .suspended ∧
        g'.threads = [(s.thr.id.tidx, s.thr.id.record, true)]) ∧
    (g.state = .aborted → s.thr.id.ctx < 64 → g.threads = [(s.thr.id.tidx, s.thr.id.record, false)] →
      ∃ t, save = .next t ∧ t.thr.live = false ∧ t.group g.gid = none ∧ s.thr.id.record ∉ (t.ctx s.thr.id.ctx).records) ∧
    (g.state = .running → save = .fault .notEnabled)

/-- R395: a partly filled line of the thread's trace with a packet that has stood unwritten for 4,096 core cycles is written, zeros in its
unused slots; before that it is not, nor where a flush has written all its packets. -/
def Sys2Proof.Claim.TraceFlush : Prop :=
  ∀ (s : State) (pa : Nat), s.thr.live = true → s.thr.trace.queue = [] → s.thr.trace.bits = [] → s.thr.trace.line ≠ [] →
    s.thr.trace.lost = 0 → s.thr.c.tracectl.getLsbD 0 = true →
    let line := s.thr.trace.line
    let size := 2 ^ ((s.thr.c.tracectl.extractLsb' 24 5).toNat - 3)
    let wptr := (s.thr.c.tracectl.extractLsb' 32 32).toNat
    let first := (wptr + 2 ^ 32 - line.length) % size
    let flush := exec (.traceFlushTimeout s.thr.id.core s.thr.id.slot) s
    (s.cycle < s.thr.trace.stamp + 4096 ∨ line.length ≤ s.thr.trace.written → flush = .fault .notEnabled) ∧
    (s.thr.trace.written < line.length → s.thr.trace.stamp + 4096 ≤ s.cycle → s.xlate s.thr.id.ctx true true (s.tctx.tbase.toNat + s.thr.id.record * (8 * size) + 8 * first) = .ok pa →
      s.dataErr s.thr.id.ctx false true pa = none →
      ∃ t, flush = .next t ∧ t.thr = { s.thr with trace := { s.thr.trace with stamp := s.cycle, written := line.length } } ∧
        t.mem = s.mem.write pa ((line ++ List.replicate (8 - first % 8 - line.length) 0).flatMap fun (w : Word) => toBytes 8 w.toNat))

/-- The save of threads, and the trace. -/
def Obligations.ThreadSaving : Prop := ThreadSave ∧ TraceFlush

namespace Sys2Proof.Claim

/-- The pending command of a context's pool (R318). -/
def poolCommand (s : State) (n : Nat) (seq : BitVec 32) (op : Nat) (rz : Bool) : Prop :=
  let c := s.ctx n
  n < 64 ∧ c.state ≠ .free ∧ c.state ≠ .destroying ∧ c.pblk ≠ 0 ∧ (∀ p ∈ s.promotions, p.ctx ≠ n) ∧ s.MemOk ∧ c.pien = false ∧
    (s.loadPA8 c.pblk).extractLsb' 32 32 = seq ∧ (s.loadPA8 (c.pblk + 8)).extractLsb' 32 32 ≠ seq ∧ (s.loadPA8 c.pblk).toNat % 256 = op ∧
    rz = decide ((s.loadPA8 c.pblk).toNat / 256 % 2 ^ 24 ≠ 0)

/-- The pool has answered a command and changed nothing else (R318). -/
def poolAnswered (s t : State) (n : Nat) (seq : BitVec 32) (status : Nat) : Prop :=
  t.mem = s.mem.write ((s.ctx n).pblk + 8) (toBytes 8 (seq.toNat * 2 ^ 32 + status * 2 ^ 8)) ∧ t.thr = s.thr ∧ t.ctxs = s.ctxs ∧
    t.promotions = s.promotions

end Sys2Proof.Claim

/-- R318, R327, R428: an OP that is not assigned is answered with 5, a reserved bit with 2; `PROMOTE` of a page number out of the pool with
2, of a page that is not SLOW with 1, where no device frame is free with 4 (2 before 1: the order of R428, applied to the page's state by the
model, log entry 94); else the page is PROMOTING with a frame. `HOLD` adds references to a valid handle, or answers 2. -/
def Sys2Proof.Claim.PoolCommands : Prop :=
  ∀ (s : State) (n : Nat) (seq : BitVec 32) (op : Nat) (rz : Bool), poolCommand s n seq op rz →
    let c := s.ctx n
    let ends := fun (i : Instr) (status : Nat) => ∃ t, exec i s = .next t ∧ poolAnswered s t n seq status
    (op = 0 ∨ 2 < op → ends (.poolPromote n) 5) ∧
    (op = 1 → rz = true → ends (.poolPromote n) 2) ∧
    (op = 2 → rz = true → ends (.poolHold n) 2) ∧
    (op = 1 → rz = false →
      let p := (s.loadPA8 (c.pblk + 0x10)).toNat
      let r := s.prec c p
      let frame := s.nextFrame c (s.mem.get (c.pblk + 0x3C)).toNat
      (c.ndev + c.nslow ≤ p → ends (.poolPromote n) 2) ∧
      (p < c.ndev + c.nslow → r.state ≠ 4 → ends (.poolPromote n) 1) ∧
      (p < c.ndev + c.nslow → r.state = 4 → frame = none → ends (.poolPromote n) 4) ∧
      (∀ ch k, p < c.ndev + c.nslow → r.state = 4 → frame = some (ch, k) →
        ∃ t, exec (.poolPromote n) s = .next t ∧ t.prec c p = { r with state := 5 } ∧ t.thr = s.thr ∧ t.ctxs = s.ctxs ∧
          t.promotions = s.promotions ++ [⟨n, p, k, BitVec.ofNat 8 r.pgen, seq⟩])) ∧
    (op = 2 → rz = false →
      let h := s.loadPA8 (c.pblk + 0x10)
      let k := (s.loadPA8 (c.pblk + 0x18)).toNat
      let e := s.hent c (handleIdx h)
      let bad := s.handleReason n h ≠ 0 ∨ k = 0 ∨ 2 ^ 24 ≤ k ∨ 2 ^ 24 ≤ e.refs + k
      (bad → ends (.poolHold n) 2) ∧
      (¬ bad → ∃ t, exec (.poolHold n) s = .next t ∧
        t.mem = (s.setHent c (handleIdx h) { e with refs := e.refs + k }).mem.write (c.pblk + 8) (toBytes 8 (seq.toNat * 2 ^ 32)) ∧
        t.thr = s.thr ∧ t.ctxs = s.ctxs))

/-- R325, R327, R328, R390: the end of a promotion waits for Turward (the model's choice, log entry 94); a page that is still PROMOTING in its generation moves to its device
frame, SHARED or ALLOCATED by its references; else the copy is dropped, its frame free again, and the answer is 6. In the teardown of its context it
only ends (R272). -/
def Sys2Proof.Claim.PromotionEnd : Prop :=
  ∀ (s : State) (p : Promotion) (rest : List Promotion), s.promotions = p :: rest → p.ctx < 64 → s.MemOk → (s.ctx p.ctx).pien = false →
    let c := s.ctx p.ctx
    let r := s.prec c p.page
    let moved := r.state = 5 ∧ r.pgen = p.pgen.toNat
    (c.state = .destroying → exec (.promoteCopyEnd 0) s = .next { s with promotions := rest }) ∧
    (c.state ≠ .destroying → s.turward.usable = false → exec (.promoteCopyEnd 0) s = .fault .notEnabled) ∧
    (c.state ≠ .destroying → s.turward.usable = true → moved →
      let new := { r with dfr := p.frame, state := if 2 ≤ r.refs then 2 else 1 }
      ∃ t, exec (.promoteCopyEnd 0) s = .next t ∧ t.promotions = rest ∧ t.thr = s.thr ∧
        t.mem = ((s.storePA ((c.devbase + p.frame) * 65536) (s.mem.read ((c.slowbase + (p.page - c.ndev)) * 65536) 65536)).setPrec c p.page
          new).mem.write (c.pblk + 8) (toBytes 8 (p.seq.toNat * 2 ^ 32))) ∧
    (c.state ≠ .destroying → s.turward.usable = true → ¬ moved →
      ∃ t, exec (.promoteCopyEnd 0) s = .next t ∧ t.promotions = rest ∧ t.thr = s.thr ∧
        t.mem = (s.setFrame c.devMap p.frame true).mem.write (c.pblk + 8) (toBytes 8 (p.seq.toNat * 2 ^ 32 + 6 * 2 ^ 8)))

/-- The commands of a pool, and promotions. -/
def Obligations.PagePool : Prop := PoolCommands ∧ PromotionEnd

/-! ### The link and the management plane (spec/19, spec/20, spec/22) -/

namespace Sys2Proof.Claim

/-- The status word of a port as the link block shows it (R386): REPLAYS, the lanes of a usable port as a power of two, the state. -/
def portShown (t : State) (p : Nat) : Prop :=
  let x := t.port p
  let width := if x.state = .up ∨ x.state = .degraded then Nat.log2 x.lanes else 0
  t.loadPA8 (t.mgmt.cbase + (if p = 24 then 0x10100 else 0x10040 + 8 * p)) =
    BitVec.ofNat 64 (x.replays.toNat * 2 ^ 32 + width * 2 ^ 8 + x.state.code)

/-- Only the port of its number, the link block and the interrupts held for Turward have changed. -/
def onlyPort (s t : State) (p : Nat) : Prop :=
  (∀ k < 25, k ≠ p → t.port k = s.port k) ∧ t.thr = s.thr ∧ t.ctxs = s.ctxs ∧ t.groups = s.groups ∧
    ∀ a, a < s.mgmt.cbase + 0x10000 ∨ s.mgmt.cbase + 0x10108 ≤ a → t.mem.get a = s.mem.get a

end Sys2Proof.Claim

/-- R384, R386: setting EN starts the training of a port that is DOWN; clearing it takes the port DOWN from any state; a port that is DOWN with
EN set trains again after 10 ms, as Turward does on its own, and not before. -/
def Sys2Proof.Claim.PortEnabling : Prop :=
  ∀ (s : State) (p : Nat), s.MemOk →
    (p < 24 → ∃ t, exec (.portEnable p) s = .next t ∧ (t.port p).en = true ∧ portShown t p ∧ onlyPort s t p ∧
      (t.port p).state = (if (s.port p).en = false ∧ (s.port p).state = .down then .training else (s.port p).state)) ∧
    (p < 24 → (∃ t, exec (.portDisable p) s = .next t ∧ (t.port p).en = false ∧ (t.port p).state = .down ∧ portShown t p ∧ onlyPort s t p)) ∧
    (p < 24 → (s.port p).state = .down → (s.port p).en = true →
      ((s.port p).since + 17000000 ≤ s.cycle → ∃ t, exec (.trainingRetry p) s = .next t ∧ (t.port p).state = .training ∧ portShown t p ∧ onlyPort s t p) ∧
      (s.cycle < (s.port p).since + 17000000 → exec (.trainingRetry p) s = .fault .notEnabled)) ∧
    (s.turward.state = .down →
      (s.turward.since + 17000000 ≤ s.cycle → ∃ t, exec .turwardRetrain s = .next t ∧ t.turward.state = .training ∧ portShown t 24 ∧
        onlyPort s t 24) ∧
      (s.cycle < s.turward.since + 17000000 → exec .turwardRetrain s = .fault .notEnabled))

/-- R384: training ends UP with every lane, DEGRADED with half or a quarter of them, or DOWN, and REPLAYS starts at 0; a lost lane leaves a
usable port DEGRADED with the rest, or DOWN with none; too many replays fence a port. The model's own: a lane lost while a port trains, and
the WIDTH of a number of lanes that is no power of two (log entry 97), and REPLAYS, which has grown by at least 1,025 then (log entry 98). -/
def Sys2Proof.Claim.PortChanges : Prop :=
  ∀ (s : State) (p : Nat), p < 25 → s.MemOk →
    let x := s.port p
    let all := if p = 24 then 32 else 4
    let usable := x.state = .up ∨ x.state = .degraded
    (∀ r : TrainResult, x.state = .training → ∃ t, exec (.trainingEnd p r) s = .next t ∧ portShown t p ∧ onlyPort s t p ∧
      (t.port p).replays = 0 ∧ (t.port p).en = x.en ∧ (t.port p).since = s.cycle ∧
      match r with
      | .full => (t.port p).state = .up ∧ (t.port p).lanes = all
      | .half => (t.port p).state = .degraded ∧ (t.port p).lanes = all / 2
      | .quarter => (t.port p).state = .degraded ∧ (t.port p).lanes = all / 4
      | .failed => (t.port p).state = .down) ∧
    (∀ lane < all, usable ∨ x.state = .training → ∃ t, exec (.laneLost p lane) s = .next t ∧ portShown t p ∧ onlyPort s t p ∧
      (x.lanes ≤ 1 → (t.port p).state = .down) ∧
      (1 < x.lanes → (t.port p).state = (if usable then .degraded else .training) ∧ (t.port p).lanes = x.lanes - 1)) ∧
    (usable ∨ x.state = .training → ∃ t, exec (.replayLimit p) s = .next t ∧ (t.port p).state = .fenced ∧ portShown t p ∧ onlyPort s t p ∧
      min (2 ^ 32 - 1) (x.replays.toNat + 1025) ≤ (t.port p).replays.toNat)

/-- R386: a write of PODCFG takes PKGID, PODEN and TMO, PKGID only where PODEN was 0, and the link block shows it; that its other bits are zero
and that it is applied at once is the model's reading (log entry 99). R384, R403: a fence of the management plane takes a port out of use until its EN is cleared. -/
def Sys2Proof.Claim.PodSettings : Prop :=
  (∀ (s : State) (v : Word), s.MemOk →
    let pkg := if s.podcfg.getLsbD 16 = true then s.podcfg.toNat % 2 ^ 10 else v.toNat % 2 ^ 10
    let w := BitVec.ofNat 64 (v.toNat / 2 ^ 48 * 2 ^ 48 + v.toNat / 2 ^ 16 % 2 * 2 ^ 16 + pkg)
    ∃ t, exec (.podcfgWrite v) s = .next t ∧ t.podcfg = w ∧ t.loadPA8 (s.mgmt.cbase + 0x10000) = w ∧ t.thr = s.thr ∧ t.ctxs = s.ctxs ∧
      s.KeepsMemBut t (s.mgmt.cbase + 0x10000) 8) ∧
  (∀ (s : State) (p : Nat), p < 25 → s.MemOk → s.tearing = false →
    ((s.port p).state = .up ∨ (s.port p).state = .degraded ∨ (s.port p).state = .training →
      ∃ t, exec (.portFence p) s = .next t ∧ (t.port p).state = .fenced ∧ portShown t p ∧ onlyPort s t p) ∧
    ((s.port p).state = .down ∨ (s.port p).state = .fenced → exec (.portFence p) s = .next s))

/-- The ports. -/
def Obligations.Ports : Prop := PortEnabling ∧ PortChanges ∧ PodSettings

namespace Sys2Proof.Claim

/-- Bytes that the host reaches: of device memory over a usable Turward, or of the slow tier, which is its own. -/
def hostReaches (s : State) (pa n : Nat) : Prop :=
  1 ≤ n ∧ ((pa + n ≤ 768 * 2 ^ 30 ∧ s.turward.usable = true) ∨ (2 ^ 52 ≤ pa ∧ pa + n ≤ 2 ^ 52 + 2 ^ 42))

/-- The bytes hold no word that acts when written (R386). -/
def inert (s : State) (pa n : Nat) : Prop := pa + n ≤ s.linkBlock ∨ s.linkBlock + 16 ≤ pa

/-- A byte outside the device's bit maps: the fixed part of the control region, the pool blocks and their work areas, the call rings. -/
def uncontrolled (s : State) (a : Nat) : Prop :=
  (a < s.mgmt.cbase ∨ s.mgmt.cbase + 0x12000 ≤ a) ∧ ∀ n < 64, let c := s.ctx n
    (c.pblk = 0 ∨ ((a < c.pblk ∨ c.pblk + 64 ≤ a) ∧ (a < c.tableAt ∨ c.tableAt + workBytes c.log2n c.ndev c.nslow c.maxpg ≤ a))) ∧
    (c.hring = 0 ∨ a < c.hring ∨ c.hring + 2048 ≤ a)

/-- A byte in a call ring, where a stray reply is cleared (R392). -/
def inRing (s : State) (a : Nat) : Prop := ∃ n < 64, (s.ctx n).hring ≠ 0 ∧ (s.ctx n).hring ≤ a ∧ a < (s.ctx n).hring + 2048

/-- A byte of a field that is RO (R7): DONE of a context block, the state of a port. -/
def readOnly (s : State) (a : Nat) : Prop :=
  (∃ n < 64, s.mgmt.cbase + 0x400 * n + 8 ≤ a ∧ a < s.mgmt.cbase + 0x400 * n + 16) ∨ ∃ p < 25, s.portAt p ≤ a ∧ a < s.portAt p + 8

/-- No 64-byte sector that the bytes lie in is damaged. -/
def sound (s : State) (pa n : Nat) : Prop := ∀ k, pa / 64 ≤ k → k ≤ (pa + n - 1) / 64 → s.damage.fails k = false ∧ k ∉ s.damage.uncorr

/-- What the host's write of bytes leaves: each byte takes its new value but for those of RO fields; what lies outside them and the call rings
is as it was; sectors written whole have fresh check values; no thread and no context has changed, but that translations may now be old. -/
def hostWrote (s t : State) (pa : Nat) (bs : List Byte) : Prop :=
  (∀ i b, bs[i]? = some b → uncontrolled s (pa + i) → t.mem.get (pa + i) = b) ∧
    (∀ a, ¬ inRing s a → a < pa ∨ pa + bs.length ≤ a ∨ readOnly s a → t.mem.get a = s.mem.get a) ∧
    (∀ k, (t.damage.fails k = true → s.damage.fails k = true) ∧ (k ∈ t.damage.uncorr → k ∈ s.damage.uncorr) ∧
      (pa ≤ 64 * k → 64 * k + 64 ≤ pa + bs.length → t.damage.fails k = false ∧ k ∉ t.damage.uncorr)) ∧
    t.thr = s.thr ∧ t.podcfg = s.podcfg ∧ t.ports = s.ports ∧
    ∀ n < 64, { t.ctx n with stale := [] } = { s.ctx n with stale := [] } ∧ ((s.ctx n).state ≠ .free → s.mem ∈ (t.ctx n).stale)

end Sys2Proof.Claim

/-- R7, R259, R382, R386, R390, R403: the host reads, writes and adds to device memory over Turward, and to the slow tier; a write of an RO
field is ignored and RZ bits read zero; damaged data is answered as poisoned; a status word shows the flits replayed meanwhile; a write of
PODCFG or PORTCTL is applied; the base and the size of the control region are given; an address outside memory does not exist, and while
Turward is not usable nothing of device memory is reached. The model's own: how far REPLAYS grows (log entry 98), a write of PODCFG or PORTCTL
acts at once (99), the slow tier needs no Turward (100), and which bytes are RO or RZ for the host (127). -/
def Sys2Proof.Claim.HostAccesses : Prop :=
  ∀ (s : State) (pa : Nat), s.MemOk →
    (∀ n, hostReaches s pa n →
      let s1 := if pa < s.linkBlock + 0x108 ∧ s.linkBlock + 0x40 < pa + n then s.replayed else s
      (∀ p < 25, s1.port p = { s.port p with replays := (s1.port p).replays } ∧ (s.port p).replays.toNat ≤ (s1.port p).replays.toNat) ∧
      s1.thr = s.thr ∧ s1.hostOut = s.hostOut ∧
      (sound s pa n → ∃ bs, exec (.turwardHostAccess (.read pa n)) s = .next { s1 with hostOut := s.hostOut ++ [some bs] } ∧ bs.length = n ∧
        ∀ i < n, (uncontrolled s (pa + i) ∨ readOnly s (pa + i) → bs[i]? = some (s1.mem.get (pa + i))) ∧
          (s.linkBlock + 0xA00 ≤ pa + i → pa + i < s.linkBlock + 0x1000 → bs[i]? = some 0)) ∧
      (¬ sound s pa n → exec (.turwardHostAccess (.read pa n)) s = .next { s1 with hostOut := s.hostOut ++ [none] })) ∧
    (s.turward.usable = true →
      exec (.turwardHostAccess .boot) s = .next { s with hostOut := s.hostOut ++ [bootReport s.mgmt.cbase s.mgmt.csize] }) ∧
    (s.turward.usable = false → exec (.turwardHostAccess .boot) s = .fault .notEnabled) ∧
    (∀ bs, hostReaches s pa bs.length → inert s pa bs.length →
      ∃ t, exec (.turwardHostAccess (.write pa bs)) s = .next t ∧ hostWrote s t pa bs ∧ t.hostOut = s.hostOut) ∧
    (∀ v : Word, s.turward.usable = true → s.linkBlock + 16 ≤ 768 * 2 ^ 30 → (∀ n < 64, (s.ctx n).hring = 0) →
      (∃ t u, exec (.turwardHostAccess (.write s.linkBlock (toBytes 8 v.toNat))) s = .next t ∧ exec (.podcfgWrite v) s = .next u ∧
        t.podcfg = u.podcfg ∧ t.ports = s.ports) ∧
      (∃ t, exec (.turwardHostAccess (.write (s.linkBlock + 8) (toBytes 8 v.toNat))) s = .next t ∧ t.podcfg = s.podcfg ∧
        ∀ p < 24, (t.port p).en = v.getLsbD p ∧ ((s.port p).en = true → v.getLsbD p = false → (t.port p).state = .down) ∧
          ((s.port p).en = false → (s.port p).state = .down → v.getLsbD p = true → (t.port p).state = .training))) ∧
    (∀ v : Word, hostReaches s pa 8 → inert s pa 8 → pa % 8 = 0 →
      ((∀ i < 8, uncontrolled s (pa + i)) → s.hostSees pa 8 = s.mem.read pa 8) ∧
      ∃ t, exec (.turwardHostAccess (.atomicAdd pa v)) s = .next t ∧ hostWrote s t pa (toBytes 8 (ofBytes (s.hostSees pa 8) + v.toNat)) ∧
        (sound s pa 8 → t.hostOut = s.hostOut ++ [some (s.hostSees pa 8)]) ∧ (¬ sound s pa 8 → t.hostOut = s.hostOut ++ [none])) ∧
    (∀ n, 1 ≤ n → 768 * 2 ^ 30 ≤ pa → pa < 2 ^ 52 → exec (.turwardHostAccess (.read pa n)) s = .fault .noSuchAddress) ∧
    (∀ n, 1 ≤ n → pa + n ≤ 768 * 2 ^ 30 → s.turward.usable = false → exec (.turwardHostAccess (.read pa n)) s = .fault .notEnabled)

namespace Sys2Proof.Claim

/-- A request of another package that reaches this one: an access of at most 64 bytes inside one line of its memory, over a usable port. -/
def reaches (s : State) (r : RemoteReq) : Prop :=
  paKind r.pa = 2 ∧ paValid r.pa = true ∧ paPkg r.pa = s.pkgid ∧ r.fromPkg ≠ s.pkgid ∧ s.podcfg.getLsbD 16 = true ∧
    s.ports.toArray.any Port.usable = true ∧ remoteForm (r.pa % 2 ^ 42) r.op = true

/-- Some context joined to the pod tenant number covers the line with a valid window (R387). -/
def admitted (s : State) (ptid : Nat) (write : Bool) (pa : Nat) : Prop :=
  ptid ≠ 0 ∧ ∃ n < 64, (s.ctx n).state ≠ .free ∧ (s.ctx n).ptid = ptid ∧ ∃ w ∈ (s.ctx n).wins.toList, w.valid = true ∧
    (write = true → w.w = true) ∧ w.base * 65536 ≤ pa / 64 * 64 ∧ pa / 64 * 64 + 64 ≤ w.last * 65536

end Sys2Proof.Claim

/-- R385, R387, R388: a request that a window admits is performed at its home once and answered with the bytes that it returns: an atomic the
old value; one that no window admits is answered REMOTE and performs nothing; a repeated one is recognised by its sequence (kept as 2·seq: the
model's, log entry 101). -/
def Sys2Proof.Claim.RemoteRequests : Prop :=
  ∀ (s : State) (r : RemoteReq), reaches s r → s.MemOk →
    let pa := r.pa % 2 ^ 42
    let seen := (r.fromPkg, 2 * r.seq) ∈ s.remoteSeen
    let answers := fun (t : State) (cause : Nat) (bs : List Byte) =>
      t.remoteSeen = (r.fromPkg, 2 * r.seq) :: s.remoteSeen ∧ t.remoteOut = s.remoteOut ++ [(r.seq, cause, bs)] ∧ t.thr = s.thr ∧ t.ctxs = s.ctxs
    let fine := s.damage.fails (pa / 64) = false ∧ pa / 64 ∉ s.damage.uncorr
    (seen → exec (.remoteRequest r) s = .next s) ∧
    (¬ seen →
      (∀ n, r.op = .read n → admitted s r.ptid false pa → fine →
        ∃ t, exec (.remoteRequest r) s = .next t ∧ answers t 0 (s.mem.read pa n) ∧ t.mem = s.mem) ∧
      (∀ bs, r.op = .write bs → admitted s r.ptid true pa → ∃ t, exec (.remoteRequest r) s = .next t ∧ answers t 0 [] ∧ t.mem = s.mem.write pa bs) ∧
      (∀ op wide v, r.op = .amo op wide v → admitted s r.ptid true pa → fine →
        let n := if wide then 8 else 4
        ∃ t, exec (.remoteRequest r) s = .next t ∧ answers t 0 (s.mem.read pa n) ∧
          t.mem = s.mem.write pa (toBytes n (amoNew op (8 * n) (s.mem.num pa n) (v.toNat % 2 ^ (8 * n))))) ∧
      (∀ wide e v, r.op = .cas wide e v → admitted s r.ptid true pa → fine →
        let n := if wide then 8 else 4
        ∃ t, exec (.remoteRequest r) s = .next t ∧ answers t 0 (s.mem.read pa n) ∧
          t.mem = if s.mem.num pa n = e.toNat % 2 ^ (8 * n) then s.mem.write pa (toBytes n v.toNat) else s.mem) ∧
      (¬ admitted s r.ptid (match r.op with | .read _ => false | _ => true) pa →
        ∃ t, exec (.remoteRequest r) s = .next t ∧ answers t 0x12 [] ∧ t.mem = s.mem) ∧
      (∀ n, r.op = .read n → admitted s r.ptid false pa → s.damage.fails (pa / 64) = true →
        ∃ t, exec (.remoteRequest r) s = .next t ∧ answers t 0x11 [] ∧ t.mem = s.mem))

/-- Accesses from outside the package. -/
def Obligations.OutsideAccesses : Prop := HostAccesses ∧ RemoteRequests

/-- R184: the decision on a send that has arrived whole. A token that names no armed window, a sender neither of the window's context nor
joined to its tenant, and a shape that differs are turned away and the window stays; a tile whose generation has moved on is turned away
and releases the window; else the data enter the tile and the window is released: its slot where a thread has the map installed and the tile
is there, its backing region where not, as for a thread that has been switched out; where that cannot be written the send is turned away. -/
def Sys2Proof.Claim.SendDecision : Prop :=
  ∀ (s : State) (x : Send), s.sends = [x] → x.answer = none → (x.token.extractLsb' 54 10).toNat = s.pkgid →
    let m := s.localMsg x
    let win := fun (w : RWin) => s.rwins = [w] ∧ w.win = (x.token.extractLsb' 36 12).toNat ∧ w.gen = x.token.extractLsb' 28 8
    let answers := fun (t : State) (ack : Bool) => t.sends = [{ x with answer := some ack }]
    let away := exec (.sendArrival m) s = .next { s with sends := [{ x with answer := some false }] }
    let member := fun (w : RWin) => x.tid.ctx = w.ctx ∨ ((s.ctx x.tid.ctx).ptid ≠ 0 ∧ (s.ctx x.tid.ctx).ptid = (s.ctx w.ctx).ptid)
    ((∀ w ∈ s.rwins, w.win ≠ (x.token.extractLsb' 36 12).toNat ∨ w.gen ≠ x.token.extractLsb' 28 8) → away) ∧
    (∀ w, win w → ¬ member w → away) ∧
    (∀ w, win w → member w → x.tile.shape ≠ w.shape → away) ∧
    (∀ w, win w → member w → x.tile.shape = w.shape → (s.winEnt w).gen ≠ w.tgen →
      exec (.sendArrival m) s = .next { s with rwins := [], sends := [{ x with answer := some false }] }) ∧
    (∀ w slot, win w → member w → x.tile.shape = w.shape → (s.winEnt w).gen = w.tgen → (s.winEnt w).resident = true → (s.winEnt w).core.toNat < 192 →
      s.heldIn w.ctx w.tmapb w.tile (s.winEnt w) = some slot → s.threads.any (·.owns ⟨w.ctx, w.tmapb, w.tile, w.tgen⟩) = true →
      ∃ t y, exec (.sendArrival m) s = .next t ∧ answers t true ∧ t.rwins = [] ∧ y ∈ (t.core (s.winEnt w).core.toNat).slots ∧ y.val = x.tile ∧
        y.tag = slot.tag ∧ y.dirty = true ∧ y.full = true ∧ t.mem = s.mem) ∧
    (∀ w, win w → member w → x.tile.shape = w.shape → (s.winEnt w).gen = w.tgen →
      let e := s.winEnt w
      (s.threads.any (·.owns ⟨w.ctx, w.tmapb, w.tile, w.tgen⟩) = false ∨ e.resident = false ∨ s.heldIn w.ctx w.tmapb w.tile e = none) →
      ∀ u err, (s.flushRegion ⟨w.ctx, w.tmapb, w.tile, w.tgen⟩ e.bidx.toNat).writeRegion w.ctx w.tmapb e.bidx.toNat w.tile w.tgen e.flags x.tile = (u, err) →
        ∃ t, exec (.sendArrival m) s = .next t ∧
          (err ≠ none → answers t false ∧ t.mem = u.mem) ∧
          (err = none → ∀ v, u.putWinEnt w { e with state := tBACKED, f := true, arm := false } = some v →
            answers t true ∧ t.rwins = [] ∧ t.mem = v.mem))

/-- R183, R312, R313, R385, R389: the answer to a send arrives on its barrier, with the error bit where the send was turned away, and the send
is done; a send that has had no answer by its deadline counts as turned away. A barrier address of 0 makes no arrival; one that no usable
port reaches is waited for until TMO has passed, and then dropped. -/
def Sys2Proof.Claim.SendAnswers : Prop :=
  ∀ (s : State) (x : Send) (ack : Bool), s.sends = [x] →
    let dead := { x with answer := some ack }
    let word := fun (pa : Nat) => x.bar ≠ 0 ∧ x.bar.toNat % 8 = 0 ∧ s.xlate x.tid.ctx false true x.bar.toNat = .ok pa ∧
      s.dataErr x.tid.ctx true true pa = none
    let done := fun (o : Out) (ok : Bool) =>
      (x.bar = 0 → o = .next { s with sends := [] }) ∧
      (∀ pa, word pa → ∃ t, o = .next t ∧ t.sends = [] ∧ t.thr = s.thr ∧
        t.mem = s.mem.write pa (toBytes 8 (arrived (BitVec.ofNat 64 (s.mem.num pa 8)) 1 (!ok)).toNat))
    let cut := x.bar ≠ 0 ∧ ∃ pa, s.xlate x.tid.ctx false true x.bar.toNat = .ok pa ∧ s.podRefused x.tid.ctx true pa = false ∧ s.noPort pa = true
    let waits := fun (o : Out) (ok : Bool) => cut → x.waiting = false →
      o = .next { s with sends := [{ x with answer := some ok, waiting := true, deadline := s.cycle + s.tmo }] }
    ((x.token.extractLsb' 54 10).toNat = s.pkgid → x = dead →
      done (exec (.sendResponse x.id ack) s) ack ∧ waits (exec (.sendResponse x.id ack) s) ack) ∧
    ((x.token.extractLsb' 54 10).toNat ≠ s.pkgid → x.waiting = false ∨ x = dead → s.podcfg.getLsbD 16 = true → s.ports.toArray.any Port.usable = true →
      done (exec (.sendResponse x.id ack) s) ack ∧ waits (exec (.sendResponse x.id ack) s) ack) ∧
    (x.deadline ≤ s.cycle → x.waiting = false → done (exec (.sendTimeout x.id) s) false ∧ waits (exec (.sendTimeout x.id) s) false) ∧
    (x.deadline ≤ s.cycle → x.waiting = true →
      done (exec (.sendTimeout x.id) s) (x.answer = some true) ∧ (cut → exec (.sendTimeout x.id) s = .next { s with sends := [] })) ∧
    (s.cycle < x.deadline → exec (.sendTimeout x.id) s = .fault .notEnabled)

/-- Tile sends. -/
def Obligations.TileSends : Prop := SendDecision ∧ SendAnswers

namespace Sys2Proof.Claim

/-- R23, R406: what a request of the management plane leaves: its effect at once, or, while it has to wait, the request held. -/
def orHeld (s : State) (r : Request) (t : State) : State :=
  if s.blocks r = true then { s with mgmt := { s.mgmt with held := s.mgmt.held ++ [r] } } else t

/-- The array clock after a measurement (R405). -/
def clockAfter (mhz : Nat) : Margin → Nat
  | .failing => if mhz ≤ 600 then mhz else max 600 (mhz - 25)
  | .holds => mhz
  | .stepUp => min 850 (mhz + 25)

/-- An answer over the management port. -/
def answering (s : State) (bs : List Byte) : State := { s with mgmt := { s.mgmt with out := s.mgmt.out ++ [bs] } }

end Sys2Proof.Claim

/-- R18, R23, R384, R403 to R406: every request of the management plane completes in every state: it acts at once, or waits while a context is
torn down; a measurement waits for any context command too, and at the end of a SUSPEND those that waited act in their order. A margin
measurement moves the array clock by 25 MHz between 600 and 850 MHz; a junction above its limit takes one step down at once (log entry 103);
the quantum and the region size take values of their range, and others change nothing (log entry 104); an image is staged where its signature
over its SHA-512 digest (log entry 4) verifies against a key in the fuses and its version is not below the count; identity, measurements,
challenges (signed by Ed25519 with the device identity key; the messages are those of SPDM 1.2, log entry 106) and telemetry, with the array
clock and the settings, are answered; a port in use is fenced. A package reset leaves the state after reset but for what log entry 105 keeps,
the region of the size set for it at the top of device memory (log entry 25), and a staged image running; the anti-rollback count stays. -/
def Obligations.ManagementPlane : Prop :=
  ∀ s : State,
    (s.tearing = true ↔ ∃ n < 64, (s.ctx n).state = .destroying) ∧
    (∀ r, s.blocks r = true ↔ s.tearing = true ∨ ((∃ m, r = .margin m) ∧ ∃ n < 64, (s.ctx n).cmdSeq ≠ none)) ∧
    (∀ (n : Nat) (l : List Margin), n < 64 → (s.ctx n).state = .quiescing → (∀ t ∈ s.threads, t.live = true → t.id.ctx ≠ n) →
      s.ctxTransfers n = false → s.tearing = false → (∀ k < 64, k ≠ n → (s.ctx k).cmdSeq = none) → s.mgmt.held = l.map .margin →
      ∃ t, exec (.quiesceComplete n) s = .next t ∧ t.mgmt.held = [] ∧ t.mgmt.arrayClk = l.foldl clockAfter s.mgmt.arrayClk) ∧
    exec .junctionOvertemp s = .next { s with mgmt := { s.mgmt with arrayClk := max 600 (s.mgmt.arrayClk - 25) } } ∧
    exec (.marginMeasurement .failing) s = .next (orHeld s (.margin .failing)
      (if s.mgmt.arrayClk ≤ 600 then { s with mgmt := { s.mgmt with events := s.mgmt.events ++ ["critical margin"] } }
       else { s with mgmt := { s.mgmt with arrayClk := max 600 (s.mgmt.arrayClk - 25), events := s.mgmt.events ++ ["margin"] } })) ∧
    exec (.marginMeasurement .holds) s = .next (orHeld s (.margin .holds) s) ∧
    exec (.marginMeasurement .stepUp) s = .next (orHeld s (.margin .stepUp)
      { s with mgmt := { s.mgmt with arrayClk := min 850 (s.mgmt.arrayClk + 25) } }) ∧
    (∀ us, exec (.minimumQuantumSet us) s = .next (orHeld s (.minQuantum us)
      (if 10 ≤ us ∧ us ≤ 10000 then { s with mgmt := { s.mgmt with minQuantum := us } } else s))) ∧
    (∀ g, exec (.controlRegionSizeSet g) s = .next (orHeld s (.regionSize g)
      (if 1 ≤ g ∧ g ≤ 256 then { s with mgmt := { s.mgmt with csizeNext := g } } else s))) ∧
    (∀ image sig, exec (.firmwareUpdate image sig) s = .next (orHeld s (.firmware image sig)
      (if (∃ k ∈ Config.fusedKeys, Crypto.ed25519Verify k (Crypto.sha512 image) sig = true) ∧ s.mgmt.rollback ≤ Config.imageVersion image
       then { s with mgmt := { s.mgmt with staged := some image } } else s))) ∧
    exec .spdmIdentity s = .next (orHeld s .identity (answering s Config.identity)) ∧
    (let digests := (Config.bootImages ++ s.mgmt.running.toList).map Crypto.sha512
     let record := (digests.zipIdx 1).flatMap fun (d, i) => [BitVec.ofNat 8 i, 1] ++ toBytes 2 (d.length + 3) ++ [1] ++ toBytes 2 d.length ++ d
     let random := spdmRandom s.drawn
     exec .spdmMeasurement s = .next (orHeld s .measurement { answering s
       ([0x12, 0x60, 0, 0, BitVec.ofNat 8 digests.length] ++ toBytes 3 record.length ++ record ++ random ++ [0, 0]) with drawn := s.drawn + 4 }) ∧
     ∀ nonce,
       let auth := [0x12, 0x03, 0, 1] ++ Crypto.sha512 Config.identity ++ random ++ Crypto.sha512 record ++ [0, 0]
       let messages := Config.spdmNegotiated ++ ([0x12, 0x83, 0, 0xFF] ++ nonce) ++ auth
       exec (.spdmChallenge nonce) s = .next (orHeld s (.challenge nonce)
         { answering s (auth ++ Crypto.ed25519Sign Config.deviceKey (spdmSigned messages)) with drawn := s.drawn + 4 })) ∧
    exec .telemetryRead s = .next (orHeld s .telemetry
      { answering s (Config.telemetry s.drawn ++ toBytes 8 s.mgmt.arrayClk ++ (toBytes 8 s.mgmt.minQuantum ++ toBytes 8 s.mgmt.cbase ++
          toBytes 8 s.mgmt.csize ++ toBytes 8 s.mgmt.csizeNext)) with drawn := s.drawn + 1 }) ∧
    (∀ p < 25, s.MemOk → ∃ t, exec (.portFence p) s = .next (orHeld s (.fence p) t) ∧
      ((s.port p).state = .up ∨ (s.port p).state = .degraded ∨ (s.port p).state = .training →
        (t.port p).state = .fenced ∧ portShown t p ∧ onlyPort s t p) ∧
      ((s.port p).state = .down ∨ (s.port p).state = .fenced → t = s)) ∧
    ∃ t, exec .packageReset s = .next t ∧ t = { State.reset with drawn := s.drawn, mgmt := t.mgmt, hostOut := t.hostOut } ∧
      t.mgmt.csize = s.mgmt.csizeNext ∧ t.mgmt.csizeNext = s.mgmt.csizeNext ∧ t.mgmt.cbase = 768 * 2 ^ 30 - s.mgmt.csizeNext * 2 ^ 30 ∧
      t.hostOut = [bootReport t.mgmt.cbase t.mgmt.csize] ∧ t.mgmt.arrayClk = 850 ∧ t.mgmt.minQuantum = 50 ∧ t.mgmt.staged = none ∧
      t.mgmt.held = [] ∧ t.mgmt.rollback = s.mgmt.rollback ∧
      t.mgmt.running = (if s.mgmt.staged = none then s.mgmt.running else s.mgmt.staged)

/-! ### The machine as a whole: words, steps, reset, invariants (spec/04, spec/01, spec/22) -/

/-- R77: the word 0x2F00000000000000 decodes to `NOP`, which commits and has no other effect. R76, R78, R159, R337: other words that the
spec writes out decode to the instructions that it gives them. -/
def Obligations.DecodeWords : Prop :=
  decode 0x2F00000000000000 = some (.nop ⟨0, 0⟩) ∧
  decode 0x01000C3180000000 = some (.add ⟨3, 3, 6, 0⟩) ∧
  decode 0x1000104000000004 = some (.addi ⟨4, 4, 4⟩) ∧
  decode 0x2500140000000004 = some (.loop .lc0 ⟨5, 0, 4⟩) ∧
  decode 0x2600180000000000 = some (.lbrk .lc0 .eq ⟨6, 0, 0⟩) ∧
  decode 0x3006184000000000 = some (.ld .i32 ⟨6, 4, 0, 0, 0⟩) ∧
  decode 0xC0A4180000000000 = some (.convoy ⟨2, 2, 1, 0, 0, false, true, true, false⟩) ∧
  decode 0x74000440000A0000 = some (.vlds .unit ⟨1, 4, 0, 0, 0, 10, 0⟩) ∧
  decode 0x43000C1083057000 = some (.vfma ⟨3, 1, 2, 3, 0, false, 10, 7, false, false, false, false, 0⟩) ∧
  decode 0x8200028000000400 =
    some (.tld false ⟨5, 0, 0, false, false, false, false, false, false, false, 4, false, false, false, false, false, false⟩) ∧
  decode 0x8800020040540000 =
    some (.mma ⟨4, 1, 2, true, false, true, false, false, false, false, 0, false, false, false, false, false, false⟩) ∧
  decode 0xA000105187500000 = some (.cpy .dd ⟨4, 5, 6, 7, false, true, 2⟩) ∧
  decode 0xC105000000100000 = some (.fence .rel ⟨0, 0, 0, 0, false, false, 2⟩) ∧
  decode 0xD000012140000000 = some (.csrr ⟨0x012, 5⟩) ∧
  decodeEtesian 0x0005850B = some (.etake ⟨10, 11, 0⟩) ∧
  decodeEtesian 0x00C5950B = some (.epost ⟨10, 11, 12⟩) ∧
  ∀ s : State, s.Executes [] [] → exec (.nop ⟨0, 0⟩) s = .next s.checked.commit

/-- R73: decoding gives back every well-formed instruction that has a word, of a thread and of a hart, with every operand that the encoding
admits. -/
def Obligations.DecodeEncode : Prop :=
  (∀ (i : Instr) (w : Word), encode64 i = some w → wf i = true → decode w = some i) ∧
  (∀ (i : Instr) (w : BitVec 32), encodeEtesian i = some w → wf i = true → (∀ h, i = .baseRiscv (.compressed h) → RvI.expand h ≠ none) →
    decodeEtesian w = some i)

namespace Sys2Proof.Claim

/-- The thread at turn is free to run a word: it is placed, its group runs, its trace unit has nothing to do, and no fault of it is held. -/
def runs (s : State) : Prop :=
  s.thr.live = true ∧ s.thr.trace.queue = [] ∧ s.thr.trace.since < 4096 ∧ s.thr.wait = .none ∧ s.thr.held = none ∧ s.mayCommit = true ∧
    s.strokeHeld s.thr = false ∧ (s.speculative = true → s.thr.heldX = false ∧ s.thr.faulted = false)

end Sys2Proof.Claim

/-- R71 to R73, R242, R265, R377: the step of a thread that is free to run fetches the word at its address, least significant byte first,
through its code translation, and is what the word decodes to: the instruction, run in the state that the fetch leaves, or the trap with the
number of the check that it fails; then the device's units follow. A block that is not cached is filled first; one that is cached, and has
changed in memory since, is used or filled again by a free choice (log entry 31); of a line that an L1 holds dirty the word is an older one or
the newest. A page that is not mapped faults CODE_PAGE, a line that cannot be corrected UNCORRECTABLE (its TRAPINFO0: log entry 31). Where the
instruction ends the thread and a window reaches a port, the step may wait for the port first (R385; log entry 91). -/
def Sys2Proof.Claim.ThreadStep : Prop :=
  ∀ s : State, s.agenda = [] → s.turn = .thread → runs s.tick →
    let s1 := s.tick
    let page := s1.xlateCode s1.thr.id.ctx s1.thr.sup (s1.thr.pc.toNat / 64 * 64)
    let takes := fun (o : Out) =>
      (s1.reachesPort = false ∨ (∀ t, o = .next t → s1.ended t = false) → step s = andThen o State.toDevice) ∧
      (∀ t, o = .next t → ∃ l, step s = .next (State.toDevice { t with unitWaits := l }) ∨ step s = .next (State.toDevice { s1 with unitWaits := l }))
    let is := fun (s2 : State) (w : Word) =>
      (∀ i, decodeWord w = .ok i → regsOk s1.thr.hdr.vregs s1.thr.hdr.tiles i = true → takes (exec i s2)) ∧
      (∀ i, decodeWord w = .ok i → regsOk s1.thr.hdr.vregs s1.thr.hdr.tiles i = false → takes (exec (.illegalInstruction w 5) s2)) ∧
      (∀ n, decodeWord w = .error n → takes (exec (.illegalInstruction w n) s2))
    let k := s1.thr.pc.toNat % 64 / 8
    let part := fun (line : BitVec 512) => line.extractLsb' (64 * k) 64
    let inMem := fun (pa : Nat) => BitVec.ofNat 64 (s1.mem.num (pa + 8 * k) 8)
    let fresh := fun (pa : Nat) (w : Word) => w = inMem pa ∨ ∃ d ∈ s1.coh.l1, d.line = pa / 64 ∧ w = part d.below
    let lost := fun (pa : Nat) => pa / 64 ∈ s1.damage.uncorr ∧ ∀ b ∈ s1.icache, s1.atPc b = true → b.pa ≠ pa
    (∀ pa, page = some pa → lost pa → takes (.next (s1.raise { cause := 0x10, i0 := s1.thr.pc.zeroExtend 64 }))) ∧
    (∀ pa, page = some pa → s1.icache.find? s1.atPc = none → ¬ lost pa →
      (s1.coh.l1.any (·.line == pa / 64) = false → is (s1.fill pa) (inMem pa)) ∧ ∃ w, fresh pa w ∧ is (s1.fill pa) w) ∧
    (∀ pa b, page = some pa → s1.icache.find? s1.atPc = some b → ¬ lost pa →
      let same := b.data = BitVec.ofNat 512 (s1.mem.num pa 64)
      (b.pa = pa → same → is s1 (inMem pa)) ∧
      (b.pa = pa → ¬ same → pa / 64 ∈ s1.damage.uncorr → is s1 (part b.data)) ∧
      (b.pa = pa → ¬ same → pa / 64 ∉ s1.damage.uncorr →
        (s1.draw.1.getLsbD 0 = true → is s1.draw.2 (part b.data)) ∧
        (s1.draw.1.getLsbD 0 = false → ∃ w, fresh pa w ∧ is (s1.draw.2.fill pa) w)) ∧
      (b.pa ≠ pa → ∃ w, fresh pa w ∧ is (s1.fill pa) w)) ∧
    (page = none → takes (exec .codePageFetch s1))

/-- R331, R332, R337, R345: the step of an Etesian core runs the instruction at its hart's PC from the partition; bytes outside it and words
without a meaning raise the exception of their cause, and a step that has used its budget ends at the next instruction that would retire and
count: a wait, and an instruction that R345 does not count, go on (log entries 13 and 14). -/
def Sys2Proof.Claim.HartStep : Prop :=
  ∀ (s : State) (x : Episode), s.agenda = [] → s.turn = .hart → s.tick.hartEp = some x → x.wait = .none →
    let s1 := s.tick
    let a := x.hart.pc.toNat
    let w := BitVec.ofNat 32 (ofBytes (partBytes s1 x a 4))
    let spent := x.budget ≤ x.count ∧ s1.charged x = true
    (spent → step s = andThen (exec (.budgetExceeded s.ecur) s1) State.toThread) ∧
    (¬ spent → a + 4 ≤ 32768 * x.lunits →
      (∀ i, decodeEtesian w = some i → step s = andThen (exec i s1) State.toThread) ∧
      (decodeEtesian w = none → step s = andThen (exec (.episodeException 2) s1) State.toThread)) ∧
    (¬ spent → a + 2 ≤ 32768 * x.lunits → 32768 * x.lunits < a + 4 → ofBytes (partBytes s1 x a 1) % 4 = 3 →
      step s = andThen (exec (.episodeException 1) s1) State.toThread) ∧
    (¬ spent → 32768 * x.lunits < a + 2 → step s = andThen (exec (.episodeException 1) s1) State.toThread)

/-- An event that is due takes place before the agent at turn goes on; one whose condition does not hold is dropped (log entry 26). -/
def Sys2Proof.Claim.DueStep : Prop :=
  ∀ (s : State) (i : Instr) (l : List Instr), s.agenda = i :: l → isEvent i = true →
    let s1 : State := { s.tick with agenda := l }
    (∀ t, exec i s1 = .next t → step s = .next t) ∧ (exec i s1 = .fault .notEnabled → step s = .next s1)

/-- A step runs the decoded instruction. -/
def Obligations.StepRunsDecoded : Prop := ThreadStep ∧ HartStep ∧ DueStep

/-- R12, R270, R386, R403, R404: after reset no thread runs, every context is FREE, every port is DOWN with EN 0, PODCFG is 0, and the
management settings have their defaults, of which the host is told where the control region lies (log entry 127). What an unlisted byte reads as, and the registers of slots that never held a thread, are the
model's choice (log entries 6, 7) and not claimed here. The invariants of a step hold at reset. -/
def Obligations.AfterReset : Prop :=
  let s := State.reset
  s.thr.live = false ∧ s.parked = [] ∧ s.groups = [] ∧ (∀ n < 64, (s.ctx n).state = .free ∧ ∀ q < 16, (s.queue n q).state = .destroyed) ∧
    (∀ p < 24, (vget s.ports p).state = .down ∧ (vget s.ports p).en = false) ∧ s.podcfg = 0 ∧ s.pkgid = 0 ∧ s.cycle = 0 ∧ s.eps = [] ∧
    s.mgmt.arrayClk = 850 ∧ s.mgmt.minQuantum = 50 ∧ s.hostOut = [bootReport s.mgmt.cbase s.mgmt.csize] ∧ (∀ c < 192, (s.core c).split = 176 ∧ (s.core c).slots = []) ∧ s.MemOk ∧ s.ClockOk

/-- Every step keeps memory, the scratchpads, the SRAM of the Etesian cores, the memories that translations may still be taken from, and those
that the caches' levels hold, in their canonical form: addresses strictly rising, and no entry that an unlisted address reads as. -/
def Obligations.StepKeepsMemory : Prop := ∀ s t : State, s.MemOk → step s = .next t → t.MemOk

/-- R18, R403, R405: every step keeps the array clock on a setting of R18: 600 to 850 MHz in steps of 25 MHz. -/
def Obligations.StepKeepsClock : Prop := ∀ s t : State, s.ClockOk → step s = .next t → t.ClockOk
end

