-- ==== Sys2Proof/Laws/Encoding.lean ====
section
/-! SUPPORT. Packing the fields of a format and reading them back gives the fields: the lemmas that the round trip of
decoding and encoding rests on. -/

namespace Sys2Proof

theorem mkWord_major (mj fn : Nat) (f : BitVec 48) (h : mj < 256) : ((mkWord mj fn f).extractLsb' 56 8).toNat = mj := by
  simp (disch := omega) only [mkWord, BitVec.extractLsb'_append_eq_of_le]
  simp; omega

theorem mkWord_fn (mj fn : Nat) (f : BitVec 48) (h : fn < 256) : ((mkWord mj fn f).extractLsb' 48 8).toNat = fn := by
  simp (disch := omega) only [mkWord, BitVec.extractLsb'_append_eq_of_add_le, BitVec.extractLsb'_append_eq_of_le]
  simp; omega

theorem mkWord_fields (mj fn : Nat) (f : BitVec 48) : (mkWord mj fn f).extractLsb' 0 48 = f := by
  simp (disch := omega) only [mkWord, BitVec.extractLsb'_append_eq_of_add_le]
  simp

@[simp] theorem flag_bit (b : Bool) : (bit b == 1#1) = b := by cases b <;> rfl

@[simp] theorem SOp.unpack_pack (o : SOp) : SOp.unpack o.pack = o := by
  simp (disch := omega) only [SOp.pack, SOp.unpack, BitVec.extractLsb'_append_eq_of_add_le, BitVec.extractLsb'_append_eq_of_le]
  simp

@[simp] theorem IOp.unpack_pack (o : IOp) : IOp.unpack o.pack = o := by
  simp (disch := omega) only [IOp.pack, IOp.unpack, BitVec.extractLsb'_append_eq_of_add_le, BitVec.extractLsb'_append_eq_of_le]
  simp

@[simp] theorem BOp.unpack_pack (o : BOp) : BOp.unpack o.pack = o := by
  simp (disch := omega) only [BOp.pack, BOp.unpack, BitVec.extractLsb'_append_eq_of_add_le, BitVec.extractLsb'_append_eq_of_le]
  simp

@[simp] theorem BIOp.unpack_pack (o : BIOp) : BIOp.unpack o.pack = o := by
  simp (disch := omega) only [BIOp.pack, BIOp.unpack, BitVec.extractLsb'_append_eq_of_add_le, BitVec.extractLsb'_append_eq_of_le]
  simp

@[simp] theorem MOp.unpack_pack (o : MOp) : MOp.unpack o.pack = o := by
  simp (disch := omega) only [MOp.pack, MOp.unpack, BitVec.extractLsb'_append_eq_of_add_le, BitVec.extractLsb'_append_eq_of_le]
  simp

@[simp] theorem VOp.unpack_pack (o : VOp) : VOp.unpack o.pack = o := by
  cases o
  simp (disch := omega) only [VOp.pack, VOp.unpack, flag, BitVec.extractLsb'_append_eq_of_add_le,
    BitVec.extractLsb'_append_eq_of_le, VOp.mk.injEq]
  and_intros <;> simp

@[simp] theorem VMOp.unpack_pack (o : VMOp) : VMOp.unpack o.pack = o := by
  simp (disch := omega) only [VMOp.pack, VMOp.unpack, BitVec.extractLsb'_append_eq_of_add_le, BitVec.extractLsb'_append_eq_of_le]
  simp

@[simp] theorem TOp.unpack_pack (o : TOp) : TOp.unpack o.pack = o := by
  cases o
  simp (disch := omega) only [TOp.pack, TOp.unpack, flag, BitVec.extractLsb'_append_eq_of_add_le,
    BitVec.extractLsb'_append_eq_of_le, TOp.mk.injEq]
  and_intros <;> simp

@[simp] theorem AOp.unpack_pack (o : AOp) : AOp.unpack o.pack = o := by
  cases o
  simp (disch := omega) only [AOp.pack, AOp.unpack, flag, BitVec.extractLsb'_append_eq_of_add_le,
    BitVec.extractLsb'_append_eq_of_le, AOp.mk.injEq]
  and_intros <;> simp

@[simp] theorem YOp.unpack_pack (o : YOp) : YOp.unpack o.pack = o := by
  simp (disch := omega) only [YOp.pack, YOp.unpack, BitVec.extractLsb'_append_eq_of_add_le, BitVec.extractLsb'_append_eq_of_le]
  simp

@[simp] theorem COp.unpack_pack (o : COp) : COp.unpack o.pack = o := by
  cases o
  simp (disch := omega) only [COp.pack, COp.unpack, flag, BitVec.extractLsb'_append_eq_of_add_le,
    BitVec.extractLsb'_append_eq_of_le, COp.mk.injEq]
  and_intros <;> simp

@[simp] theorem Cond.ofCode_code (c : Cond) : Cond.ofCode c.code = some c := by cases c <;> rfl
@[simp] theorem FCond.ofCode_code (c : FCond) : FCond.ofCode c.code = some c := by cases c <;> rfl
@[simp] theorem VCond.ofCode_code (c : VCond) : VCond.ofCode c.code = some c := by cases c <;> rfl
@[simp] theorem FFmt.ofCode_code (c : FFmt) : FFmt.ofCode c.code = some c := by cases c <;> rfl
@[simp] theorem CvtTy.ofCode_code (c : CvtTy) : CvtTy.ofCode c.code = some c := by cases c <;> rfl
@[simp] theorem ClassFmt.ofCode_code (c : ClassFmt) : ClassFmt.ofCode c.code = some c := by cases c <;> rfl
@[simp] theorem LoopIx.ofCode_code (c : LoopIx) : LoopIx.ofCode c.code = some c := by cases c <;> rfl
@[simp] theorem Scope.ofCode_code (x : Scope) : Scope.ofCode x.code = some x := by cases x <;> rfl
@[simp] theorem Size.ofCode_code (c : Size) : Size.ofCode c.code = some c := by cases c <;> rfl
@[simp] theorem LdTy.ofCode_code (c : LdTy) : LdTy.ofCode c.code = some c := by cases c <;> rfl
@[simp] theorem AmoTy.ofCode_code (c : AmoTy) : AmoTy.ofCode c.code = some c := by cases c <;> rfl
@[simp] theorem MOrd.ofCode_code (c : MOrd) : MOrd.ofCode c.code = some c := by cases c <;> rfl
@[simp] theorem Hint.ofCode_code (c : Hint) : Hint.ofCode c.code = some c := by cases c <;> rfl
@[simp] theorem RedOp.ofCode_code (c : RedOp) : RedOp.ofCode c.code = some c := by cases c <;> rfl
@[simp] theorem KSetForm.ofCode_code (c : KSetForm) : KSetForm.ofCode c.code = some c := by cases c <;> rfl
@[simp] theorem KMovForm.ofCode_code (c : KMovForm) : KMovForm.ofCode c.code = some c := by cases c <;> rfl
@[simp] theorem VMForm.ofCode_code (c : VMForm) : VMForm.ofCode c.code = some c := by cases c <;> rfl
@[simp] theorem VSForm.ofCode_code (c : VSForm) : VSForm.ofCode c.code = some c := by cases c <;> rfl
@[simp] theorem CpySp.ofCode_code (c : CpySp) : CpySp.ofCode c.code = some c := by cases c <;> rfl
@[simp] theorem ArrForm.ofCode_code (c : ArrForm) : ArrForm.ofCode c.code = some c := by cases c <;> rfl
@[simp] theorem HchkWhat.ofCode_code (c : HchkWhat) : HchkWhat.ofCode c.code = some c := by cases c <;> rfl
@[simp] theorem FenceKind.ofCode_code (c : FenceKind) : FenceKind.ofCode c.code = some c := by cases c <;> rfl
@[simp] theorem CmoOp.ofCode_code (c : CmoOp) : CmoOp.ofCode c.code = some c := by cases c <;> rfl

end Sys2Proof
end

