-- ==== Sys2Proof/Laws/Manage.lean ====
section
/-! SUPPORT. What the management plane's operations leave as it was: a change of the array clock touches the clock, the events and the
requests that wait. -/

namespace Sys2Proof.Machine

@[simp] theorem Mgmt.replan_cbase (m : Mgmt) (x : Margin) : (m.replan x).cbase = m.cbase := by
  cases x <;> simp only [Mgmt.replan, Mgmt.event, Mgmt.clockDown]; split <;> rfl

@[simp] theorem Mgmt.replan_held (m : Mgmt) (x : Margin) : (m.replan x).held = m.held := by
  cases x <;> simp only [Mgmt.replan, Mgmt.event, Mgmt.clockDown]; split <;> rfl

theorem Mgmt.replanAll_cbase (l : List Margin) (m : Mgmt) : (l.foldl Mgmt.replan m).cbase = m.cbase := by
  induction l generalizing m with
  | nil => rfl
  | cons x l ih => simp [ih]

theorem Mgmt.replanAll_held (l : List Margin) (m : Mgmt) : (l.foldl Mgmt.replan m).held = m.held := by
  induction l generalizing m with
  | nil => rfl
  | cons x l ih => simp [ih]

@[simp] theorem Mgmt.releaseClock_cbase (m : Mgmt) : m.releaseClock.cbase = m.cbase := by
  simp [Mgmt.releaseClock, Mgmt.replanAll_cbase]

/-- The end of a context command changes nothing but the management plane, and leaves the control region where it is. -/
theorem State.releaseClock_spec (s : State) : ∃ m : Mgmt, s.releaseClock = { s with mgmt := m } ∧ m.cbase = s.mgmt.cbase := by
  unfold State.releaseClock
  split
  · exact ⟨s.mgmt, rfl, rfl⟩
  · exact ⟨_, rfl, Mgmt.releaseClock_cbase _⟩

end Sys2Proof.Machine
end

