-- ==== Sys2Proof/Laws/Mem.lean ====
section
/-! SUPPORT. The laws of memory as bytes by address: the canonical form is kept, a byte reads back as written, and every other address
reads as before. -/

namespace Sys2Proof.Machine

/-- Every address of the memory lies above `a`. -/
def Mem.above (a : Nat) : Mem → Prop
  | [] => True
  | (x, _) :: _ => a < x

theorem Mem.wf_cons (x : Nat) (b : Byte) (l : Mem) : Mem.wf ((x, b) :: l) = true ↔ b ≠ 0 ∧ Mem.above x l ∧ Mem.wf l = true := by
  cases l with
  | nil => simp [Mem.wf, Mem.above]
  | cons y l => obtain ⟨y, c⟩ := y; simp [Mem.wf, Mem.above, and_assoc]

theorem Mem.get_of_above (m : Mem) (a x : Nat) (h : Mem.above a m) (hw : m.wf = true) (hx : x ≤ a) : m.get x = 0 := by
  induction m generalizing a with
  | nil => rfl
  | cons e l ih =>
    obtain ⟨y, c⟩ := e
    have hy : a < y := h
    obtain ⟨-, h2, h3⟩ := (Mem.wf_cons y c l).1 hw
    simp only [Mem.get]
    rw [if_neg (by omega)]
    exact ih y h2 h3 (by omega)

theorem Mem.above_set (m : Mem) (a x : Nat) (b : Byte) (h : Mem.above a m) (hw : m.wf = true) (hx : a < x) : Mem.above a (m.set x b) := by
  cases m with
  | nil => simp only [Mem.set]; split <;> simp [Mem.above, hx]
  | cons e l =>
    obtain ⟨y, c⟩ := e
    have hy : a < y := h
    obtain ⟨-, h2, -⟩ := (Mem.wf_cons y c l).1 hw
    simp only [Mem.set]
    split
    · split <;> simp only [Mem.above] <;> omega
    · split
      · split
        · cases l with
          | nil => trivial
          | cons e l => have : y < e.1 := h2; simp only [Mem.above]; omega
        · simp only [Mem.above]; omega
      · simp only [Mem.above]; omega

/-- A write keeps the canonical form. -/
theorem Mem.wf_set (m : Mem) (a : Nat) (b : Byte) (h : m.wf = true) : (m.set a b).wf = true := by
  induction m with
  | nil => simp only [Mem.set]; split <;> simp_all [Mem.wf]
  | cons e l ih =>
    obtain ⟨x, c⟩ := e
    obtain ⟨h1, h2, h3⟩ := (Mem.wf_cons x c l).1 h
    simp only [Mem.set]
    split
    · split
      · exact h
      · next ha hb => exact (Mem.wf_cons _ _ _).2 ⟨hb, ha, h⟩
    · split
      · split
        · exact h3
        · next ha hb => subst ha; exact (Mem.wf_cons _ _ _).2 ⟨hb, h2, h3⟩
      · exact (Mem.wf_cons _ _ _).2 ⟨h1, Mem.above_set l x a b h2 h3 (by omega), ih h3⟩

/-- A run of bytes keeps the canonical form. -/
theorem Mem.wf_write (m : Mem) (a : Nat) (bs : List Byte) (h : m.wf = true) : (m.write a bs).wf = true := by
  induction bs generalizing m a with
  | nil => exact h
  | cons b l ih => exact ih _ _ (Mem.wf_set m a b h)

/-- A byte reads back as written. -/
theorem Mem.get_set_same (m : Mem) (a : Nat) (b : Byte) (h : m.wf = true) : (m.set a b).get a = b := by
  induction m with
  | nil => simp only [Mem.set]; split <;> simp_all [Mem.get]
  | cons e l ih =>
    obtain ⟨x, c⟩ := e
    obtain ⟨-, h2, h3⟩ := (Mem.wf_cons x c l).1 h
    simp only [Mem.set]
    split
    · next ha =>
      split
      · next hb =>
        subst hb
        simp only [Mem.get]
        rw [if_neg (by omega)]
        exact Mem.get_of_above l x a h2 h3 (by omega)
      · simp [Mem.get]
    · split
      · next ha =>
        split
        · next hb => subst ha; subst hb; exact Mem.get_of_above l a a h2 h3 (Nat.le_refl a)
        · simp [Mem.get]
      · next h1 h2 => simp only [Mem.get]; rw [if_neg h2]; exact ih h3

/-- Every other address reads as before. -/
theorem Mem.get_set_other (m : Mem) (a x : Nat) (b : Byte) (h : m.wf = true) (hx : x ≠ a) : (m.set a b).get x = m.get x := by
  induction m with
  | nil => simp only [Mem.set]; split <;> simp [Mem.get, hx]
  | cons e l ih =>
    obtain ⟨y, c⟩ := e
    obtain ⟨-, h2, h3⟩ := (Mem.wf_cons y c l).1 h
    simp only [Mem.set]
    split
    · split <;> simp [Mem.get, hx]
    · split
      · next ha =>
        split
        · subst ha
          simp only [Mem.get]
          rw [if_neg hx]
        · simp only [Mem.get]
          rw [if_neg hx, if_neg (by omega)]
      · simp only [Mem.get]
        split
        · rfl
        · exact ih h3

/-- Outside the bytes of a run, memory reads as before. -/
theorem Mem.get_write_outside (m : Mem) (a x : Nat) (bs : List Byte) (h : m.wf = true) (hx : x < a ∨ a + bs.length ≤ x) :
    (m.write a bs).get x = m.get x := by
  induction bs generalizing m a with
  | nil => rfl
  | cons b l ih =>
    simp only [List.length_cons] at hx
    rw [Mem.write, ih (m.set a b) (a + 1) (Mem.wf_set m a b h) (by omega), Mem.get_set_other m a x b h (by omega)]

/-- Inside them it reads what was written. -/
theorem Mem.get_write_inside (m : Mem) (a i : Nat) (bs : List Byte) (h : m.wf = true) (hi : i < bs.length) :
    (m.write a bs).get (a + i) = bs[i] := by
  induction bs generalizing m a i with
  | nil => simp at hi
  | cons b l ih =>
    rw [Mem.write]
    cases i with
    | zero =>
      rw [Mem.get_write_outside _ _ _ _ (Mem.wf_set m a b h) (by omega)]
      exact Mem.get_set_same m a b h
    | succ i =>
      have := ih (m.set a b) (a + 1) i (Mem.wf_set m a b h) (by simpa using hi)
      rw [show a + (i + 1) = a + 1 + i by omega]
      simpa using this

/-- A read takes only its own bytes. -/
theorem Mem.read_congr {m m' : Mem} {a n : Nat} (h : ∀ i, a ≤ i → i < a + n → m.get i = m'.get i) : m.read a n = m'.read a n := by
  induction n generalizing a with
  | zero => rfl
  | succ n ih => rw [Mem.read, Mem.read, h a (Nat.le_refl a) (by omega), ih fun i lo hi => h i (by omega) (by omega)]

/-- A run of bytes reads back as written. -/
theorem Mem.read_write (m : Mem) (a : Nat) (bs : List Byte) (h : m.wf = true) : (m.write a bs).read a bs.length = bs := by
  have key : ∀ (n k : Nat), k + n = bs.length → (m.write a bs).read (a + k) n = bs.drop k := by
    intro n
    induction n with
    | zero => intro k hk; simp [Mem.read]; omega
    | succ n ih =>
      intro k hk
      rw [Mem.read, Mem.get_write_inside m a k bs h (by omega), show a + k + 1 = a + (k + 1) by omega, ih (k + 1) (by omega)]
      exact (List.drop_eq_getElem_cons (by omega)).symm
  simpa using key bs.length 0 (by omega)

end Sys2Proof.Machine
end

