-- ==== Sys2Proof/Laws/State.lean ====
section
/-! SUPPORT. What each update of the state leaves as it was: one lemma for each field, true by unfolding. -/

namespace Sys2Proof.Machine

@[simp] theorem State.onThr_parked (s : State) (f : Thread → Thread) : (s.onThr f).parked = s.parked := rfl
@[simp] theorem State.onThr_images (s : State) (f : Thread → Thread) : (s.onThr f).images = s.images := rfl
@[simp] theorem State.onThr_mem (s : State) (f : Thread → Thread) : (s.onThr f).mem = s.mem := rfl
@[simp] theorem State.onThr_cores (s : State) (f : Thread → Thread) : (s.onThr f).cores = s.cores := rfl
@[simp] theorem State.onThr_icache (s : State) (f : Thread → Thread) : (s.onThr f).icache = s.icache := rfl
@[simp] theorem State.onThr_transfers (s : State) (f : Thread → Thread) : (s.onThr f).transfers = s.transfers := rfl
@[simp] theorem State.onThr_spads (s : State) (f : Thread → Thread) : (s.onThr f).spads = s.spads := rfl
@[simp] theorem State.onThr_ctxs (s : State) (f : Thread → Thread) : (s.onThr f).ctxs = s.ctxs := rfl
@[simp] theorem State.onThr_groups (s : State) (f : Thread → Thread) : (s.onThr f).groups = s.groups := rfl
@[simp] theorem State.onThr_nextGid (s : State) (f : Thread → Thread) : (s.onThr f).nextGid = s.nextGid := rfl
@[simp] theorem State.onThr_lastServed (s : State) (f : Thread → Thread) : (s.onThr f).lastServed = s.lastServed := rfl
@[simp] theorem State.onThr_regions (s : State) (f : Thread → Thread) : (s.onThr f).regions = s.regions := rfl
@[simp] theorem State.onThr_nextRid (s : State) (f : Thread → Thread) : (s.onThr f).nextRid = s.nextRid := rfl
@[simp] theorem State.onThr_rwins (s : State) (f : Thread → Thread) : (s.onThr f).rwins = s.rwins := rfl
@[simp] theorem State.onThr_wgen (s : State) (f : Thread → Thread) : (s.onThr f).wgen = s.wgen := rfl
@[simp] theorem State.onThr_sends (s : State) (f : Thread → Thread) : (s.onThr f).sends = s.sends := rfl
@[simp] theorem State.onThr_nextSend (s : State) (f : Thread → Thread) : (s.onThr f).nextSend = s.nextSend := rfl
@[simp] theorem State.onThr_eps (s : State) (f : Thread → Thread) : (s.onThr f).eps = s.eps := rfl
@[simp] theorem State.onThr_ecores (s : State) (f : Thread → Thread) : (s.onThr f).ecores = s.ecores := rfl
@[simp] theorem State.onThr_ecur (s : State) (f : Thread → Thread) : (s.onThr f).ecur = s.ecur := rfl
@[simp] theorem State.onThr_podcfg (s : State) (f : Thread → Thread) : (s.onThr f).podcfg = s.podcfg := rfl
@[simp] theorem State.onThr_ports (s : State) (f : Thread → Thread) : (s.onThr f).ports = s.ports := rfl
@[simp] theorem State.onThr_turward (s : State) (f : Thread → Thread) : (s.onThr f).turward = s.turward := rfl
@[simp] theorem State.onThr_podWins (s : State) (f : Thread → Thread) : (s.onThr f).podWins = s.podWins := rfl
@[simp] theorem State.onThr_unitWaits (s : State) (f : Thread → Thread) : (s.onThr f).unitWaits = s.unitWaits := rfl
@[simp] theorem State.onThr_lent (s : State) (f : Thread → Thread) : (s.onThr f).lent = s.lent := rfl
@[simp] theorem State.onThr_remoteSeen (s : State) (f : Thread → Thread) : (s.onThr f).remoteSeen = s.remoteSeen := rfl
@[simp] theorem State.onThr_remoteOut (s : State) (f : Thread → Thread) : (s.onThr f).remoteOut = s.remoteOut := rfl
@[simp] theorem State.onThr_irqs (s : State) (f : Thread → Thread) : (s.onThr f).irqs = s.irqs := rfl
@[simp] theorem State.onThr_irqHeld (s : State) (f : Thread → Thread) : (s.onThr f).irqHeld = s.irqHeld := rfl
@[simp] theorem State.onThr_hostOut (s : State) (f : Thread → Thread) : (s.onThr f).hostOut = s.hostOut := rfl
@[simp] theorem State.onThr_promotions (s : State) (f : Thread → Thread) : (s.onThr f).promotions = s.promotions := rfl
@[simp] theorem State.onThr_promoted (s : State) (f : Thread → Thread) : (s.onThr f).promoted = s.promoted := rfl
@[simp] theorem State.onThr_mgmt (s : State) (f : Thread → Thread) : (s.onThr f).mgmt = s.mgmt := rfl
@[simp] theorem State.onThr_damage (s : State) (f : Thread → Thread) : (s.onThr f).damage = s.damage := rfl
@[simp] theorem State.onThr_coh (s : State) (f : Thread → Thread) : (s.onThr f).coh = s.coh := rfl
@[simp] theorem State.onThr_cycle (s : State) (f : Thread → Thread) : (s.onThr f).cycle = s.cycle := rfl
@[simp] theorem State.onThr_agenda (s : State) (f : Thread → Thread) : (s.onThr f).agenda = s.agenda := rfl
@[simp] theorem State.onThr_turn (s : State) (f : Thread → Thread) : (s.onThr f).turn = s.turn := rfl
@[simp] theorem State.onThr_drawn (s : State) (f : Thread → Thread) : (s.onThr f).drawn = s.drawn := rfl

@[simp] theorem State.setG_parked (s : State) (r : BitVec 6) (x : Word) : (s.setG r x).parked = s.parked := rfl
@[simp] theorem State.setG_images (s : State) (r : BitVec 6) (x : Word) : (s.setG r x).images = s.images := rfl
@[simp] theorem State.setG_mem (s : State) (r : BitVec 6) (x : Word) : (s.setG r x).mem = s.mem := rfl
@[simp] theorem State.setG_cores (s : State) (r : BitVec 6) (x : Word) : (s.setG r x).cores = s.cores := rfl
@[simp] theorem State.setG_icache (s : State) (r : BitVec 6) (x : Word) : (s.setG r x).icache = s.icache := rfl
@[simp] theorem State.setG_transfers (s : State) (r : BitVec 6) (x : Word) : (s.setG r x).transfers = s.transfers := rfl
@[simp] theorem State.setG_spads (s : State) (r : BitVec 6) (x : Word) : (s.setG r x).spads = s.spads := rfl
@[simp] theorem State.setG_ctxs (s : State) (r : BitVec 6) (x : Word) : (s.setG r x).ctxs = s.ctxs := rfl
@[simp] theorem State.setG_groups (s : State) (r : BitVec 6) (x : Word) : (s.setG r x).groups = s.groups := rfl
@[simp] theorem State.setG_nextGid (s : State) (r : BitVec 6) (x : Word) : (s.setG r x).nextGid = s.nextGid := rfl
@[simp] theorem State.setG_lastServed (s : State) (r : BitVec 6) (x : Word) : (s.setG r x).lastServed = s.lastServed := rfl
@[simp] theorem State.setG_regions (s : State) (r : BitVec 6) (x : Word) : (s.setG r x).regions = s.regions := rfl
@[simp] theorem State.setG_nextRid (s : State) (r : BitVec 6) (x : Word) : (s.setG r x).nextRid = s.nextRid := rfl
@[simp] theorem State.setG_rwins (s : State) (r : BitVec 6) (x : Word) : (s.setG r x).rwins = s.rwins := rfl
@[simp] theorem State.setG_wgen (s : State) (r : BitVec 6) (x : Word) : (s.setG r x).wgen = s.wgen := rfl
@[simp] theorem State.setG_sends (s : State) (r : BitVec 6) (x : Word) : (s.setG r x).sends = s.sends := rfl
@[simp] theorem State.setG_nextSend (s : State) (r : BitVec 6) (x : Word) : (s.setG r x).nextSend = s.nextSend := rfl
@[simp] theorem State.setG_eps (s : State) (r : BitVec 6) (x : Word) : (s.setG r x).eps = s.eps := rfl
@[simp] theorem State.setG_ecores (s : State) (r : BitVec 6) (x : Word) : (s.setG r x).ecores = s.ecores := rfl
@[simp] theorem State.setG_ecur (s : State) (r : BitVec 6) (x : Word) : (s.setG r x).ecur = s.ecur := rfl
@[simp] theorem State.setG_podcfg (s : State) (r : BitVec 6) (x : Word) : (s.setG r x).podcfg = s.podcfg := rfl
@[simp] theorem State.setG_ports (s : State) (r : BitVec 6) (x : Word) : (s.setG r x).ports = s.ports := rfl
@[simp] theorem State.setG_turward (s : State) (r : BitVec 6) (x : Word) : (s.setG r x).turward = s.turward := rfl
@[simp] theorem State.setG_podWins (s : State) (r : BitVec 6) (x : Word) : (s.setG r x).podWins = s.podWins := rfl
@[simp] theorem State.setG_unitWaits (s : State) (r : BitVec 6) (x : Word) : (s.setG r x).unitWaits = s.unitWaits := rfl
@[simp] theorem State.setG_lent (s : State) (r : BitVec 6) (x : Word) : (s.setG r x).lent = s.lent := rfl
@[simp] theorem State.setG_remoteSeen (s : State) (r : BitVec 6) (x : Word) : (s.setG r x).remoteSeen = s.remoteSeen := rfl
@[simp] theorem State.setG_remoteOut (s : State) (r : BitVec 6) (x : Word) : (s.setG r x).remoteOut = s.remoteOut := rfl
@[simp] theorem State.setG_irqs (s : State) (r : BitVec 6) (x : Word) : (s.setG r x).irqs = s.irqs := rfl
@[simp] theorem State.setG_irqHeld (s : State) (r : BitVec 6) (x : Word) : (s.setG r x).irqHeld = s.irqHeld := rfl
@[simp] theorem State.setG_hostOut (s : State) (r : BitVec 6) (x : Word) : (s.setG r x).hostOut = s.hostOut := rfl
@[simp] theorem State.setG_promotions (s : State) (r : BitVec 6) (x : Word) : (s.setG r x).promotions = s.promotions := rfl
@[simp] theorem State.setG_promoted (s : State) (r : BitVec 6) (x : Word) : (s.setG r x).promoted = s.promoted := rfl
@[simp] theorem State.setG_mgmt (s : State) (r : BitVec 6) (x : Word) : (s.setG r x).mgmt = s.mgmt := rfl
@[simp] theorem State.setG_coh (s : State) (r : BitVec 6) (x : Word) : (s.setG r x).coh = s.coh := rfl
@[simp] theorem State.setG_cycle (s : State) (r : BitVec 6) (x : Word) : (s.setG r x).cycle = s.cycle := rfl
@[simp] theorem State.setG_agenda (s : State) (r : BitVec 6) (x : Word) : (s.setG r x).agenda = s.agenda := rfl
@[simp] theorem State.setG_turn (s : State) (r : BitVec 6) (x : Word) : (s.setG r x).turn = s.turn := rfl
@[simp] theorem State.setG_drawn (s : State) (r : BitVec 6) (x : Word) : (s.setG r x).drawn = s.drawn := rfl

@[simp] theorem State.setWait_parked (s : State) (w : Wait) : (s.setWait w).parked = s.parked := rfl
@[simp] theorem State.setWait_images (s : State) (w : Wait) : (s.setWait w).images = s.images := rfl
@[simp] theorem State.setWait_mem (s : State) (w : Wait) : (s.setWait w).mem = s.mem := rfl
@[simp] theorem State.setWait_cores (s : State) (w : Wait) : (s.setWait w).cores = s.cores := rfl
@[simp] theorem State.setWait_icache (s : State) (w : Wait) : (s.setWait w).icache = s.icache := rfl
@[simp] theorem State.setWait_transfers (s : State) (w : Wait) : (s.setWait w).transfers = s.transfers := rfl
@[simp] theorem State.setWait_spads (s : State) (w : Wait) : (s.setWait w).spads = s.spads := rfl
@[simp] theorem State.setWait_ctxs (s : State) (w : Wait) : (s.setWait w).ctxs = s.ctxs := rfl
@[simp] theorem State.setWait_groups (s : State) (w : Wait) : (s.setWait w).groups = s.groups := rfl
@[simp] theorem State.setWait_nextGid (s : State) (w : Wait) : (s.setWait w).nextGid = s.nextGid := rfl
@[simp] theorem State.setWait_lastServed (s : State) (w : Wait) : (s.setWait w).lastServed = s.lastServed := rfl
@[simp] theorem State.setWait_regions (s : State) (w : Wait) : (s.setWait w).regions = s.regions := rfl
@[simp] theorem State.setWait_nextRid (s : State) (w : Wait) : (s.setWait w).nextRid = s.nextRid := rfl
@[simp] theorem State.setWait_rwins (s : State) (w : Wait) : (s.setWait w).rwins = s.rwins := rfl
@[simp] theorem State.setWait_wgen (s : State) (w : Wait) : (s.setWait w).wgen = s.wgen := rfl
@[simp] theorem State.setWait_sends (s : State) (w : Wait) : (s.setWait w).sends = s.sends := rfl
@[simp] theorem State.setWait_nextSend (s : State) (w : Wait) : (s.setWait w).nextSend = s.nextSend := rfl
@[simp] theorem State.setWait_eps (s : State) (w : Wait) : (s.setWait w).eps = s.eps := rfl
@[simp] theorem State.setWait_ecores (s : State) (w : Wait) : (s.setWait w).ecores = s.ecores := rfl
@[simp] theorem State.setWait_ecur (s : State) (w : Wait) : (s.setWait w).ecur = s.ecur := rfl
@[simp] theorem State.setWait_podcfg (s : State) (w : Wait) : (s.setWait w).podcfg = s.podcfg := rfl
@[simp] theorem State.setWait_ports (s : State) (w : Wait) : (s.setWait w).ports = s.ports := rfl
@[simp] theorem State.setWait_turward (s : State) (w : Wait) : (s.setWait w).turward = s.turward := rfl
@[simp] theorem State.setWait_podWins (s : State) (w : Wait) : (s.setWait w).podWins = s.podWins := rfl
@[simp] theorem State.setWait_unitWaits (s : State) (w : Wait) : (s.setWait w).unitWaits = s.unitWaits := rfl
@[simp] theorem State.setWait_lent (s : State) (w : Wait) : (s.setWait w).lent = s.lent := rfl
@[simp] theorem State.setWait_remoteSeen (s : State) (w : Wait) : (s.setWait w).remoteSeen = s.remoteSeen := rfl
@[simp] theorem State.setWait_remoteOut (s : State) (w : Wait) : (s.setWait w).remoteOut = s.remoteOut := rfl
@[simp] theorem State.setWait_irqs (s : State) (w : Wait) : (s.setWait w).irqs = s.irqs := rfl
@[simp] theorem State.setWait_irqHeld (s : State) (w : Wait) : (s.setWait w).irqHeld = s.irqHeld := rfl
@[simp] theorem State.setWait_hostOut (s : State) (w : Wait) : (s.setWait w).hostOut = s.hostOut := rfl
@[simp] theorem State.setWait_promotions (s : State) (w : Wait) : (s.setWait w).promotions = s.promotions := rfl
@[simp] theorem State.setWait_promoted (s : State) (w : Wait) : (s.setWait w).promoted = s.promoted := rfl
@[simp] theorem State.setWait_mgmt (s : State) (w : Wait) : (s.setWait w).mgmt = s.mgmt := rfl
@[simp] theorem State.setWait_damage (s : State) (w : Wait) : (s.setWait w).damage = s.damage := rfl
@[simp] theorem State.setWait_coh (s : State) (w : Wait) : (s.setWait w).coh = s.coh := rfl
@[simp] theorem State.setWait_cycle (s : State) (w : Wait) : (s.setWait w).cycle = s.cycle := rfl
@[simp] theorem State.setWait_agenda (s : State) (w : Wait) : (s.setWait w).agenda = s.agenda := rfl
@[simp] theorem State.setWait_turn (s : State) (w : Wait) : (s.setWait w).turn = s.turn := rfl
@[simp] theorem State.setWait_drawn (s : State) (w : Wait) : (s.setWait w).drawn = s.drawn := rfl

@[simp] theorem State.orFlags_parked (s : State) (f : FFlags) : (s.orFlags f).parked = s.parked := rfl
@[simp] theorem State.orFlags_images (s : State) (f : FFlags) : (s.orFlags f).images = s.images := rfl
@[simp] theorem State.orFlags_mem (s : State) (f : FFlags) : (s.orFlags f).mem = s.mem := rfl
@[simp] theorem State.orFlags_cores (s : State) (f : FFlags) : (s.orFlags f).cores = s.cores := rfl
@[simp] theorem State.orFlags_icache (s : State) (f : FFlags) : (s.orFlags f).icache = s.icache := rfl
@[simp] theorem State.orFlags_transfers (s : State) (f : FFlags) : (s.orFlags f).transfers = s.transfers := rfl
@[simp] theorem State.orFlags_spads (s : State) (f : FFlags) : (s.orFlags f).spads = s.spads := rfl
@[simp] theorem State.orFlags_ctxs (s : State) (f : FFlags) : (s.orFlags f).ctxs = s.ctxs := rfl
@[simp] theorem State.orFlags_groups (s : State) (f : FFlags) : (s.orFlags f).groups = s.groups := rfl
@[simp] theorem State.orFlags_nextGid (s : State) (f : FFlags) : (s.orFlags f).nextGid = s.nextGid := rfl
@[simp] theorem State.orFlags_lastServed (s : State) (f : FFlags) : (s.orFlags f).lastServed = s.lastServed := rfl
@[simp] theorem State.orFlags_regions (s : State) (f : FFlags) : (s.orFlags f).regions = s.regions := rfl
@[simp] theorem State.orFlags_nextRid (s : State) (f : FFlags) : (s.orFlags f).nextRid = s.nextRid := rfl
@[simp] theorem State.orFlags_rwins (s : State) (f : FFlags) : (s.orFlags f).rwins = s.rwins := rfl
@[simp] theorem State.orFlags_wgen (s : State) (f : FFlags) : (s.orFlags f).wgen = s.wgen := rfl
@[simp] theorem State.orFlags_sends (s : State) (f : FFlags) : (s.orFlags f).sends = s.sends := rfl
@[simp] theorem State.orFlags_nextSend (s : State) (f : FFlags) : (s.orFlags f).nextSend = s.nextSend := rfl
@[simp] theorem State.orFlags_eps (s : State) (f : FFlags) : (s.orFlags f).eps = s.eps := rfl
@[simp] theorem State.orFlags_ecores (s : State) (f : FFlags) : (s.orFlags f).ecores = s.ecores := rfl
@[simp] theorem State.orFlags_ecur (s : State) (f : FFlags) : (s.orFlags f).ecur = s.ecur := rfl
@[simp] theorem State.orFlags_podcfg (s : State) (f : FFlags) : (s.orFlags f).podcfg = s.podcfg := rfl
@[simp] theorem State.orFlags_ports (s : State) (f : FFlags) : (s.orFlags f).ports = s.ports := rfl
@[simp] theorem State.orFlags_turward (s : State) (f : FFlags) : (s.orFlags f).turward = s.turward := rfl
@[simp] theorem State.orFlags_podWins (s : State) (f : FFlags) : (s.orFlags f).podWins = s.podWins := rfl
@[simp] theorem State.orFlags_unitWaits (s : State) (f : FFlags) : (s.orFlags f).unitWaits = s.unitWaits := rfl
@[simp] theorem State.orFlags_lent (s : State) (f : FFlags) : (s.orFlags f).lent = s.lent := rfl
@[simp] theorem State.orFlags_remoteSeen (s : State) (f : FFlags) : (s.orFlags f).remoteSeen = s.remoteSeen := rfl
@[simp] theorem State.orFlags_remoteOut (s : State) (f : FFlags) : (s.orFlags f).remoteOut = s.remoteOut := rfl
@[simp] theorem State.orFlags_irqs (s : State) (f : FFlags) : (s.orFlags f).irqs = s.irqs := rfl
@[simp] theorem State.orFlags_irqHeld (s : State) (f : FFlags) : (s.orFlags f).irqHeld = s.irqHeld := rfl
@[simp] theorem State.orFlags_hostOut (s : State) (f : FFlags) : (s.orFlags f).hostOut = s.hostOut := rfl
@[simp] theorem State.orFlags_promotions (s : State) (f : FFlags) : (s.orFlags f).promotions = s.promotions := rfl
@[simp] theorem State.orFlags_promoted (s : State) (f : FFlags) : (s.orFlags f).promoted = s.promoted := rfl
@[simp] theorem State.orFlags_mgmt (s : State) (f : FFlags) : (s.orFlags f).mgmt = s.mgmt := rfl
@[simp] theorem State.orFlags_damage (s : State) (f : FFlags) : (s.orFlags f).damage = s.damage := rfl
@[simp] theorem State.orFlags_coh (s : State) (f : FFlags) : (s.orFlags f).coh = s.coh := rfl
@[simp] theorem State.orFlags_cycle (s : State) (f : FFlags) : (s.orFlags f).cycle = s.cycle := rfl
@[simp] theorem State.orFlags_agenda (s : State) (f : FFlags) : (s.orFlags f).agenda = s.agenda := rfl
@[simp] theorem State.orFlags_turn (s : State) (f : FFlags) : (s.orFlags f).turn = s.turn := rfl
@[simp] theorem State.orFlags_drawn (s : State) (f : FFlags) : (s.orFlags f).drawn = s.drawn := rfl

@[simp] theorem State.count_parked (s : State) (ev n : Nat) : (s.count ev n).parked = s.parked := rfl
@[simp] theorem State.count_images (s : State) (ev n : Nat) : (s.count ev n).images = s.images := rfl
@[simp] theorem State.count_mem (s : State) (ev n : Nat) : (s.count ev n).mem = s.mem := rfl
@[simp] theorem State.count_cores (s : State) (ev n : Nat) : (s.count ev n).cores = s.cores := rfl
@[simp] theorem State.count_icache (s : State) (ev n : Nat) : (s.count ev n).icache = s.icache := rfl
@[simp] theorem State.count_transfers (s : State) (ev n : Nat) : (s.count ev n).transfers = s.transfers := rfl
@[simp] theorem State.count_spads (s : State) (ev n : Nat) : (s.count ev n).spads = s.spads := rfl
@[simp] theorem State.count_ctxs (s : State) (ev n : Nat) : (s.count ev n).ctxs = s.ctxs := rfl
@[simp] theorem State.count_groups (s : State) (ev n : Nat) : (s.count ev n).groups = s.groups := rfl
@[simp] theorem State.count_nextGid (s : State) (ev n : Nat) : (s.count ev n).nextGid = s.nextGid := rfl
@[simp] theorem State.count_lastServed (s : State) (ev n : Nat) : (s.count ev n).lastServed = s.lastServed := rfl
@[simp] theorem State.count_regions (s : State) (ev n : Nat) : (s.count ev n).regions = s.regions := rfl
@[simp] theorem State.count_nextRid (s : State) (ev n : Nat) : (s.count ev n).nextRid = s.nextRid := rfl
@[simp] theorem State.count_rwins (s : State) (ev n : Nat) : (s.count ev n).rwins = s.rwins := rfl
@[simp] theorem State.count_wgen (s : State) (ev n : Nat) : (s.count ev n).wgen = s.wgen := rfl
@[simp] theorem State.count_sends (s : State) (ev n : Nat) : (s.count ev n).sends = s.sends := rfl
@[simp] theorem State.count_nextSend (s : State) (ev n : Nat) : (s.count ev n).nextSend = s.nextSend := rfl
@[simp] theorem State.count_eps (s : State) (ev n : Nat) : (s.count ev n).eps = s.eps := rfl
@[simp] theorem State.count_ecores (s : State) (ev n : Nat) : (s.count ev n).ecores = s.ecores := rfl
@[simp] theorem State.count_ecur (s : State) (ev n : Nat) : (s.count ev n).ecur = s.ecur := rfl
@[simp] theorem State.count_podcfg (s : State) (ev n : Nat) : (s.count ev n).podcfg = s.podcfg := rfl
@[simp] theorem State.count_ports (s : State) (ev n : Nat) : (s.count ev n).ports = s.ports := rfl
@[simp] theorem State.count_turward (s : State) (ev n : Nat) : (s.count ev n).turward = s.turward := rfl
@[simp] theorem State.count_podWins (s : State) (ev n : Nat) : (s.count ev n).podWins = s.podWins := rfl
@[simp] theorem State.count_unitWaits (s : State) (ev n : Nat) : (s.count ev n).unitWaits = s.unitWaits := rfl
@[simp] theorem State.count_lent (s : State) (ev n : Nat) : (s.count ev n).lent = s.lent := rfl
@[simp] theorem State.count_remoteSeen (s : State) (ev n : Nat) : (s.count ev n).remoteSeen = s.remoteSeen := rfl
@[simp] theorem State.count_remoteOut (s : State) (ev n : Nat) : (s.count ev n).remoteOut = s.remoteOut := rfl
@[simp] theorem State.count_irqs (s : State) (ev n : Nat) : (s.count ev n).irqs = s.irqs := rfl
@[simp] theorem State.count_irqHeld (s : State) (ev n : Nat) : (s.count ev n).irqHeld = s.irqHeld := rfl
@[simp] theorem State.count_hostOut (s : State) (ev n : Nat) : (s.count ev n).hostOut = s.hostOut := rfl
@[simp] theorem State.count_promotions (s : State) (ev n : Nat) : (s.count ev n).promotions = s.promotions := rfl
@[simp] theorem State.count_promoted (s : State) (ev n : Nat) : (s.count ev n).promoted = s.promoted := rfl
@[simp] theorem State.count_mgmt (s : State) (ev n : Nat) : (s.count ev n).mgmt = s.mgmt := rfl
@[simp] theorem State.count_damage (s : State) (ev n : Nat) : (s.count ev n).damage = s.damage := rfl
@[simp] theorem State.count_coh (s : State) (ev n : Nat) : (s.count ev n).coh = s.coh := rfl
@[simp] theorem State.count_cycle (s : State) (ev n : Nat) : (s.count ev n).cycle = s.cycle := rfl
@[simp] theorem State.count_agenda (s : State) (ev n : Nat) : (s.count ev n).agenda = s.agenda := rfl
@[simp] theorem State.count_turn (s : State) (ev n : Nat) : (s.count ev n).turn = s.turn := rfl
@[simp] theorem State.count_drawn (s : State) (ev n : Nat) : (s.count ev n).drawn = s.drawn := rfl

@[simp] theorem State.emit_parked (s : State) (ty p : Nat) : (s.emit ty p).parked = s.parked := rfl
@[simp] theorem State.emit_images (s : State) (ty p : Nat) : (s.emit ty p).images = s.images := rfl
@[simp] theorem State.emit_mem (s : State) (ty p : Nat) : (s.emit ty p).mem = s.mem := rfl
@[simp] theorem State.emit_cores (s : State) (ty p : Nat) : (s.emit ty p).cores = s.cores := rfl
@[simp] theorem State.emit_icache (s : State) (ty p : Nat) : (s.emit ty p).icache = s.icache := rfl
@[simp] theorem State.emit_transfers (s : State) (ty p : Nat) : (s.emit ty p).transfers = s.transfers := rfl
@[simp] theorem State.emit_spads (s : State) (ty p : Nat) : (s.emit ty p).spads = s.spads := rfl
@[simp] theorem State.emit_ctxs (s : State) (ty p : Nat) : (s.emit ty p).ctxs = s.ctxs := rfl
@[simp] theorem State.emit_groups (s : State) (ty p : Nat) : (s.emit ty p).groups = s.groups := rfl
@[simp] theorem State.emit_nextGid (s : State) (ty p : Nat) : (s.emit ty p).nextGid = s.nextGid := rfl
@[simp] theorem State.emit_lastServed (s : State) (ty p : Nat) : (s.emit ty p).lastServed = s.lastServed := rfl
@[simp] theorem State.emit_regions (s : State) (ty p : Nat) : (s.emit ty p).regions = s.regions := rfl
@[simp] theorem State.emit_nextRid (s : State) (ty p : Nat) : (s.emit ty p).nextRid = s.nextRid := rfl
@[simp] theorem State.emit_rwins (s : State) (ty p : Nat) : (s.emit ty p).rwins = s.rwins := rfl
@[simp] theorem State.emit_wgen (s : State) (ty p : Nat) : (s.emit ty p).wgen = s.wgen := rfl
@[simp] theorem State.emit_sends (s : State) (ty p : Nat) : (s.emit ty p).sends = s.sends := rfl
@[simp] theorem State.emit_nextSend (s : State) (ty p : Nat) : (s.emit ty p).nextSend = s.nextSend := rfl
@[simp] theorem State.emit_eps (s : State) (ty p : Nat) : (s.emit ty p).eps = s.eps := rfl
@[simp] theorem State.emit_ecores (s : State) (ty p : Nat) : (s.emit ty p).ecores = s.ecores := rfl
@[simp] theorem State.emit_ecur (s : State) (ty p : Nat) : (s.emit ty p).ecur = s.ecur := rfl
@[simp] theorem State.emit_podcfg (s : State) (ty p : Nat) : (s.emit ty p).podcfg = s.podcfg := rfl
@[simp] theorem State.emit_ports (s : State) (ty p : Nat) : (s.emit ty p).ports = s.ports := rfl
@[simp] theorem State.emit_turward (s : State) (ty p : Nat) : (s.emit ty p).turward = s.turward := rfl
@[simp] theorem State.emit_podWins (s : State) (ty p : Nat) : (s.emit ty p).podWins = s.podWins := rfl
@[simp] theorem State.emit_unitWaits (s : State) (ty p : Nat) : (s.emit ty p).unitWaits = s.unitWaits := rfl
@[simp] theorem State.emit_lent (s : State) (ty p : Nat) : (s.emit ty p).lent = s.lent := rfl
@[simp] theorem State.emit_remoteSeen (s : State) (ty p : Nat) : (s.emit ty p).remoteSeen = s.remoteSeen := rfl
@[simp] theorem State.emit_remoteOut (s : State) (ty p : Nat) : (s.emit ty p).remoteOut = s.remoteOut := rfl
@[simp] theorem State.emit_irqs (s : State) (ty p : Nat) : (s.emit ty p).irqs = s.irqs := rfl
@[simp] theorem State.emit_irqHeld (s : State) (ty p : Nat) : (s.emit ty p).irqHeld = s.irqHeld := rfl
@[simp] theorem State.emit_hostOut (s : State) (ty p : Nat) : (s.emit ty p).hostOut = s.hostOut := rfl
@[simp] theorem State.emit_promotions (s : State) (ty p : Nat) : (s.emit ty p).promotions = s.promotions := rfl
@[simp] theorem State.emit_promoted (s : State) (ty p : Nat) : (s.emit ty p).promoted = s.promoted := rfl
@[simp] theorem State.emit_mgmt (s : State) (ty p : Nat) : (s.emit ty p).mgmt = s.mgmt := rfl
@[simp] theorem State.emit_damage (s : State) (ty p : Nat) : (s.emit ty p).damage = s.damage := rfl
@[simp] theorem State.emit_coh (s : State) (ty p : Nat) : (s.emit ty p).coh = s.coh := rfl
@[simp] theorem State.emit_cycle (s : State) (ty p : Nat) : (s.emit ty p).cycle = s.cycle := rfl
@[simp] theorem State.emit_agenda (s : State) (ty p : Nat) : (s.emit ty p).agenda = s.agenda := rfl
@[simp] theorem State.emit_turn (s : State) (ty p : Nat) : (s.emit ty p).turn = s.turn := rfl
@[simp] theorem State.emit_drawn (s : State) (ty p : Nat) : (s.emit ty p).drawn = s.drawn := rfl

@[simp] theorem State.commitLen_parked (s : State) (len n : Nat) : (s.commitLen len n).parked = s.parked := rfl
@[simp] theorem State.commitLen_images (s : State) (len n : Nat) : (s.commitLen len n).images = s.images := rfl
@[simp] theorem State.commitLen_mem (s : State) (len n : Nat) : (s.commitLen len n).mem = s.mem := rfl
@[simp] theorem State.commitLen_cores (s : State) (len n : Nat) : (s.commitLen len n).cores = s.cores := rfl
@[simp] theorem State.commitLen_icache (s : State) (len n : Nat) : (s.commitLen len n).icache = s.icache := rfl
@[simp] theorem State.commitLen_transfers (s : State) (len n : Nat) : (s.commitLen len n).transfers = s.transfers := rfl
@[simp] theorem State.commitLen_spads (s : State) (len n : Nat) : (s.commitLen len n).spads = s.spads := rfl
@[simp] theorem State.commitLen_ctxs (s : State) (len n : Nat) : (s.commitLen len n).ctxs = s.ctxs := rfl
@[simp] theorem State.commitLen_groups (s : State) (len n : Nat) : (s.commitLen len n).groups = s.groups := rfl
@[simp] theorem State.commitLen_nextGid (s : State) (len n : Nat) : (s.commitLen len n).nextGid = s.nextGid := rfl
@[simp] theorem State.commitLen_lastServed (s : State) (len n : Nat) : (s.commitLen len n).lastServed = s.lastServed := rfl
@[simp] theorem State.commitLen_regions (s : State) (len n : Nat) : (s.commitLen len n).regions = s.regions := rfl
@[simp] theorem State.commitLen_nextRid (s : State) (len n : Nat) : (s.commitLen len n).nextRid = s.nextRid := rfl
@[simp] theorem State.commitLen_rwins (s : State) (len n : Nat) : (s.commitLen len n).rwins = s.rwins := rfl
@[simp] theorem State.commitLen_wgen (s : State) (len n : Nat) : (s.commitLen len n).wgen = s.wgen := rfl
@[simp] theorem State.commitLen_sends (s : State) (len n : Nat) : (s.commitLen len n).sends = s.sends := rfl
@[simp] theorem State.commitLen_nextSend (s : State) (len n : Nat) : (s.commitLen len n).nextSend = s.nextSend := rfl
@[simp] theorem State.commitLen_eps (s : State) (len n : Nat) : (s.commitLen len n).eps = s.eps := rfl
@[simp] theorem State.commitLen_ecores (s : State) (len n : Nat) : (s.commitLen len n).ecores = s.ecores := rfl
@[simp] theorem State.commitLen_ecur (s : State) (len n : Nat) : (s.commitLen len n).ecur = s.ecur := rfl
@[simp] theorem State.commitLen_podcfg (s : State) (len n : Nat) : (s.commitLen len n).podcfg = s.podcfg := rfl
@[simp] theorem State.commitLen_ports (s : State) (len n : Nat) : (s.commitLen len n).ports = s.ports := rfl
@[simp] theorem State.commitLen_turward (s : State) (len n : Nat) : (s.commitLen len n).turward = s.turward := rfl
@[simp] theorem State.commitLen_podWins (s : State) (len n : Nat) : (s.commitLen len n).podWins = s.podWins := rfl
@[simp] theorem State.commitLen_unitWaits (s : State) (len n : Nat) : (s.commitLen len n).unitWaits = s.unitWaits := rfl
@[simp] theorem State.commitLen_lent (s : State) (len n : Nat) : (s.commitLen len n).lent = s.lent := rfl
@[simp] theorem State.commitLen_remoteSeen (s : State) (len n : Nat) : (s.commitLen len n).remoteSeen = s.remoteSeen := rfl
@[simp] theorem State.commitLen_remoteOut (s : State) (len n : Nat) : (s.commitLen len n).remoteOut = s.remoteOut := rfl
@[simp] theorem State.commitLen_irqs (s : State) (len n : Nat) : (s.commitLen len n).irqs = s.irqs := rfl
@[simp] theorem State.commitLen_irqHeld (s : State) (len n : Nat) : (s.commitLen len n).irqHeld = s.irqHeld := rfl
@[simp] theorem State.commitLen_hostOut (s : State) (len n : Nat) : (s.commitLen len n).hostOut = s.hostOut := rfl
@[simp] theorem State.commitLen_promotions (s : State) (len n : Nat) : (s.commitLen len n).promotions = s.promotions := rfl
@[simp] theorem State.commitLen_promoted (s : State) (len n : Nat) : (s.commitLen len n).promoted = s.promoted := rfl
@[simp] theorem State.commitLen_mgmt (s : State) (len n : Nat) : (s.commitLen len n).mgmt = s.mgmt := rfl
@[simp] theorem State.commitLen_damage (s : State) (len n : Nat) : (s.commitLen len n).damage = s.damage := rfl
@[simp] theorem State.commitLen_coh (s : State) (len n : Nat) : (s.commitLen len n).coh = s.coh := rfl
@[simp] theorem State.commitLen_cycle (s : State) (len n : Nat) : (s.commitLen len n).cycle = s.cycle := rfl
@[simp] theorem State.commitLen_agenda (s : State) (len n : Nat) : (s.commitLen len n).agenda = s.agenda := rfl
@[simp] theorem State.commitLen_turn (s : State) (len n : Nat) : (s.commitLen len n).turn = s.turn := rfl
@[simp] theorem State.commitLen_drawn (s : State) (len n : Nat) : (s.commitLen len n).drawn = s.drawn := rfl

@[simp] theorem State.commit_parked (s : State) : s.commit.parked = s.parked := rfl
@[simp] theorem State.commit_images (s : State) : s.commit.images = s.images := rfl
@[simp] theorem State.commit_mem (s : State) : s.commit.mem = s.mem := rfl
@[simp] theorem State.commit_cores (s : State) : s.commit.cores = s.cores := rfl
@[simp] theorem State.commit_icache (s : State) : s.commit.icache = s.icache := rfl
@[simp] theorem State.commit_transfers (s : State) : s.commit.transfers = s.transfers := rfl
@[simp] theorem State.commit_spads (s : State) : s.commit.spads = s.spads := rfl
@[simp] theorem State.commit_ctxs (s : State) : s.commit.ctxs = s.ctxs := rfl
@[simp] theorem State.commit_groups (s : State) : s.commit.groups = s.groups := rfl
@[simp] theorem State.commit_nextGid (s : State) : s.commit.nextGid = s.nextGid := rfl
@[simp] theorem State.commit_lastServed (s : State) : s.commit.lastServed = s.lastServed := rfl
@[simp] theorem State.commit_regions (s : State) : s.commit.regions = s.regions := rfl
@[simp] theorem State.commit_nextRid (s : State) : s.commit.nextRid = s.nextRid := rfl
@[simp] theorem State.commit_rwins (s : State) : s.commit.rwins = s.rwins := rfl
@[simp] theorem State.commit_wgen (s : State) : s.commit.wgen = s.wgen := rfl
@[simp] theorem State.commit_sends (s : State) : s.commit.sends = s.sends := rfl
@[simp] theorem State.commit_nextSend (s : State) : s.commit.nextSend = s.nextSend := rfl
@[simp] theorem State.commit_eps (s : State) : s.commit.eps = s.eps := rfl
@[simp] theorem State.commit_ecores (s : State) : s.commit.ecores = s.ecores := rfl
@[simp] theorem State.commit_ecur (s : State) : s.commit.ecur = s.ecur := rfl
@[simp] theorem State.commit_podcfg (s : State) : s.commit.podcfg = s.podcfg := rfl
@[simp] theorem State.commit_ports (s : State) : s.commit.ports = s.ports := rfl
@[simp] theorem State.commit_turward (s : State) : s.commit.turward = s.turward := rfl
@[simp] theorem State.commit_podWins (s : State) : s.commit.podWins = s.podWins := rfl
@[simp] theorem State.commit_unitWaits (s : State) : s.commit.unitWaits = s.unitWaits := rfl
@[simp] theorem State.commit_lent (s : State) : s.commit.lent = s.lent := rfl
@[simp] theorem State.commit_remoteSeen (s : State) : s.commit.remoteSeen = s.remoteSeen := rfl
@[simp] theorem State.commit_remoteOut (s : State) : s.commit.remoteOut = s.remoteOut := rfl
@[simp] theorem State.commit_irqs (s : State) : s.commit.irqs = s.irqs := rfl
@[simp] theorem State.commit_irqHeld (s : State) : s.commit.irqHeld = s.irqHeld := rfl
@[simp] theorem State.commit_hostOut (s : State) : s.commit.hostOut = s.hostOut := rfl
@[simp] theorem State.commit_promotions (s : State) : s.commit.promotions = s.promotions := rfl
@[simp] theorem State.commit_promoted (s : State) : s.commit.promoted = s.promoted := rfl
@[simp] theorem State.commit_mgmt (s : State) : s.commit.mgmt = s.mgmt := rfl
@[simp] theorem State.commit_damage (s : State) : s.commit.damage = s.damage := rfl
@[simp] theorem State.commit_coh (s : State) : s.commit.coh = s.coh := rfl
@[simp] theorem State.commit_cycle (s : State) : s.commit.cycle = s.cycle := rfl
@[simp] theorem State.commit_agenda (s : State) : s.commit.agenda = s.agenda := rfl
@[simp] theorem State.commit_turn (s : State) : s.commit.turn = s.turn := rfl
@[simp] theorem State.commit_drawn (s : State) : s.commit.drawn = s.drawn := rfl

@[simp] theorem State.jump_parked (s : State) (a : CodeAddr) : (s.jump a).parked = s.parked := rfl
@[simp] theorem State.jump_images (s : State) (a : CodeAddr) : (s.jump a).images = s.images := rfl
@[simp] theorem State.jump_mem (s : State) (a : CodeAddr) : (s.jump a).mem = s.mem := rfl
@[simp] theorem State.jump_cores (s : State) (a : CodeAddr) : (s.jump a).cores = s.cores := rfl
@[simp] theorem State.jump_icache (s : State) (a : CodeAddr) : (s.jump a).icache = s.icache := rfl
@[simp] theorem State.jump_transfers (s : State) (a : CodeAddr) : (s.jump a).transfers = s.transfers := rfl
@[simp] theorem State.jump_spads (s : State) (a : CodeAddr) : (s.jump a).spads = s.spads := rfl
@[simp] theorem State.jump_ctxs (s : State) (a : CodeAddr) : (s.jump a).ctxs = s.ctxs := rfl
@[simp] theorem State.jump_groups (s : State) (a : CodeAddr) : (s.jump a).groups = s.groups := rfl
@[simp] theorem State.jump_nextGid (s : State) (a : CodeAddr) : (s.jump a).nextGid = s.nextGid := rfl
@[simp] theorem State.jump_lastServed (s : State) (a : CodeAddr) : (s.jump a).lastServed = s.lastServed := rfl
@[simp] theorem State.jump_regions (s : State) (a : CodeAddr) : (s.jump a).regions = s.regions := rfl
@[simp] theorem State.jump_nextRid (s : State) (a : CodeAddr) : (s.jump a).nextRid = s.nextRid := rfl
@[simp] theorem State.jump_rwins (s : State) (a : CodeAddr) : (s.jump a).rwins = s.rwins := rfl
@[simp] theorem State.jump_wgen (s : State) (a : CodeAddr) : (s.jump a).wgen = s.wgen := rfl
@[simp] theorem State.jump_sends (s : State) (a : CodeAddr) : (s.jump a).sends = s.sends := rfl
@[simp] theorem State.jump_nextSend (s : State) (a : CodeAddr) : (s.jump a).nextSend = s.nextSend := rfl
@[simp] theorem State.jump_eps (s : State) (a : CodeAddr) : (s.jump a).eps = s.eps := rfl
@[simp] theorem State.jump_ecores (s : State) (a : CodeAddr) : (s.jump a).ecores = s.ecores := rfl
@[simp] theorem State.jump_ecur (s : State) (a : CodeAddr) : (s.jump a).ecur = s.ecur := rfl
@[simp] theorem State.jump_podcfg (s : State) (a : CodeAddr) : (s.jump a).podcfg = s.podcfg := rfl
@[simp] theorem State.jump_ports (s : State) (a : CodeAddr) : (s.jump a).ports = s.ports := rfl
@[simp] theorem State.jump_turward (s : State) (a : CodeAddr) : (s.jump a).turward = s.turward := rfl
@[simp] theorem State.jump_podWins (s : State) (a : CodeAddr) : (s.jump a).podWins = s.podWins := rfl
@[simp] theorem State.jump_unitWaits (s : State) (a : CodeAddr) : (s.jump a).unitWaits = s.unitWaits := rfl
@[simp] theorem State.jump_lent (s : State) (a : CodeAddr) : (s.jump a).lent = s.lent := rfl
@[simp] theorem State.jump_remoteSeen (s : State) (a : CodeAddr) : (s.jump a).remoteSeen = s.remoteSeen := rfl
@[simp] theorem State.jump_remoteOut (s : State) (a : CodeAddr) : (s.jump a).remoteOut = s.remoteOut := rfl
@[simp] theorem State.jump_irqs (s : State) (a : CodeAddr) : (s.jump a).irqs = s.irqs := rfl
@[simp] theorem State.jump_irqHeld (s : State) (a : CodeAddr) : (s.jump a).irqHeld = s.irqHeld := rfl
@[simp] theorem State.jump_hostOut (s : State) (a : CodeAddr) : (s.jump a).hostOut = s.hostOut := rfl
@[simp] theorem State.jump_promotions (s : State) (a : CodeAddr) : (s.jump a).promotions = s.promotions := rfl
@[simp] theorem State.jump_promoted (s : State) (a : CodeAddr) : (s.jump a).promoted = s.promoted := rfl
@[simp] theorem State.jump_mgmt (s : State) (a : CodeAddr) : (s.jump a).mgmt = s.mgmt := rfl
@[simp] theorem State.jump_damage (s : State) (a : CodeAddr) : (s.jump a).damage = s.damage := rfl
@[simp] theorem State.jump_coh (s : State) (a : CodeAddr) : (s.jump a).coh = s.coh := rfl
@[simp] theorem State.jump_cycle (s : State) (a : CodeAddr) : (s.jump a).cycle = s.cycle := rfl
@[simp] theorem State.jump_agenda (s : State) (a : CodeAddr) : (s.jump a).agenda = s.agenda := rfl
@[simp] theorem State.jump_turn (s : State) (a : CodeAddr) : (s.jump a).turn = s.turn := rfl
@[simp] theorem State.jump_drawn (s : State) (a : CodeAddr) : (s.jump a).drawn = s.drawn := rfl

@[simp] theorem State.writeG_parked (s : State) (r : BitVec 6) (x : Word) : (s.writeG r x).parked = s.parked := rfl
@[simp] theorem State.writeG_images (s : State) (r : BitVec 6) (x : Word) : (s.writeG r x).images = s.images := rfl
@[simp] theorem State.writeG_mem (s : State) (r : BitVec 6) (x : Word) : (s.writeG r x).mem = s.mem := rfl
@[simp] theorem State.writeG_cores (s : State) (r : BitVec 6) (x : Word) : (s.writeG r x).cores = s.cores := rfl
@[simp] theorem State.writeG_icache (s : State) (r : BitVec 6) (x : Word) : (s.writeG r x).icache = s.icache := rfl
@[simp] theorem State.writeG_transfers (s : State) (r : BitVec 6) (x : Word) : (s.writeG r x).transfers = s.transfers := rfl
@[simp] theorem State.writeG_spads (s : State) (r : BitVec 6) (x : Word) : (s.writeG r x).spads = s.spads := rfl
@[simp] theorem State.writeG_ctxs (s : State) (r : BitVec 6) (x : Word) : (s.writeG r x).ctxs = s.ctxs := rfl
@[simp] theorem State.writeG_groups (s : State) (r : BitVec 6) (x : Word) : (s.writeG r x).groups = s.groups := rfl
@[simp] theorem State.writeG_nextGid (s : State) (r : BitVec 6) (x : Word) : (s.writeG r x).nextGid = s.nextGid := rfl
@[simp] theorem State.writeG_lastServed (s : State) (r : BitVec 6) (x : Word) : (s.writeG r x).lastServed = s.lastServed := rfl
@[simp] theorem State.writeG_regions (s : State) (r : BitVec 6) (x : Word) : (s.writeG r x).regions = s.regions := rfl
@[simp] theorem State.writeG_nextRid (s : State) (r : BitVec 6) (x : Word) : (s.writeG r x).nextRid = s.nextRid := rfl
@[simp] theorem State.writeG_rwins (s : State) (r : BitVec 6) (x : Word) : (s.writeG r x).rwins = s.rwins := rfl
@[simp] theorem State.writeG_wgen (s : State) (r : BitVec 6) (x : Word) : (s.writeG r x).wgen = s.wgen := rfl
@[simp] theorem State.writeG_sends (s : State) (r : BitVec 6) (x : Word) : (s.writeG r x).sends = s.sends := rfl
@[simp] theorem State.writeG_nextSend (s : State) (r : BitVec 6) (x : Word) : (s.writeG r x).nextSend = s.nextSend := rfl
@[simp] theorem State.writeG_eps (s : State) (r : BitVec 6) (x : Word) : (s.writeG r x).eps = s.eps := rfl
@[simp] theorem State.writeG_ecores (s : State) (r : BitVec 6) (x : Word) : (s.writeG r x).ecores = s.ecores := rfl
@[simp] theorem State.writeG_ecur (s : State) (r : BitVec 6) (x : Word) : (s.writeG r x).ecur = s.ecur := rfl
@[simp] theorem State.writeG_podcfg (s : State) (r : BitVec 6) (x : Word) : (s.writeG r x).podcfg = s.podcfg := rfl
@[simp] theorem State.writeG_ports (s : State) (r : BitVec 6) (x : Word) : (s.writeG r x).ports = s.ports := rfl
@[simp] theorem State.writeG_turward (s : State) (r : BitVec 6) (x : Word) : (s.writeG r x).turward = s.turward := rfl
@[simp] theorem State.writeG_podWins (s : State) (r : BitVec 6) (x : Word) : (s.writeG r x).podWins = s.podWins := rfl
@[simp] theorem State.writeG_unitWaits (s : State) (r : BitVec 6) (x : Word) : (s.writeG r x).unitWaits = s.unitWaits := rfl
@[simp] theorem State.writeG_lent (s : State) (r : BitVec 6) (x : Word) : (s.writeG r x).lent = s.lent := rfl
@[simp] theorem State.writeG_remoteSeen (s : State) (r : BitVec 6) (x : Word) : (s.writeG r x).remoteSeen = s.remoteSeen := rfl
@[simp] theorem State.writeG_remoteOut (s : State) (r : BitVec 6) (x : Word) : (s.writeG r x).remoteOut = s.remoteOut := rfl
@[simp] theorem State.writeG_irqs (s : State) (r : BitVec 6) (x : Word) : (s.writeG r x).irqs = s.irqs := rfl
@[simp] theorem State.writeG_irqHeld (s : State) (r : BitVec 6) (x : Word) : (s.writeG r x).irqHeld = s.irqHeld := rfl
@[simp] theorem State.writeG_hostOut (s : State) (r : BitVec 6) (x : Word) : (s.writeG r x).hostOut = s.hostOut := rfl
@[simp] theorem State.writeG_promotions (s : State) (r : BitVec 6) (x : Word) : (s.writeG r x).promotions = s.promotions := rfl
@[simp] theorem State.writeG_promoted (s : State) (r : BitVec 6) (x : Word) : (s.writeG r x).promoted = s.promoted := rfl
@[simp] theorem State.writeG_mgmt (s : State) (r : BitVec 6) (x : Word) : (s.writeG r x).mgmt = s.mgmt := rfl
@[simp] theorem State.writeG_coh (s : State) (r : BitVec 6) (x : Word) : (s.writeG r x).coh = s.coh := rfl
@[simp] theorem State.writeG_cycle (s : State) (r : BitVec 6) (x : Word) : (s.writeG r x).cycle = s.cycle := rfl
@[simp] theorem State.writeG_agenda (s : State) (r : BitVec 6) (x : Word) : (s.writeG r x).agenda = s.agenda := rfl
@[simp] theorem State.writeG_turn (s : State) (r : BitVec 6) (x : Word) : (s.writeG r x).turn = s.turn := rfl
@[simp] theorem State.writeG_drawn (s : State) (r : BitVec 6) (x : Word) : (s.writeG r x).drawn = s.drawn := rfl

@[simp] theorem State.enterTrap_parked (s : State) (a : TrapAt) (f : FaultInfo) : (s.enterTrap a f).parked = s.parked := rfl
@[simp] theorem State.enterTrap_images (s : State) (a : TrapAt) (f : FaultInfo) : (s.enterTrap a f).images = s.images := rfl
@[simp] theorem State.enterTrap_mem (s : State) (a : TrapAt) (f : FaultInfo) : (s.enterTrap a f).mem = s.mem := rfl
@[simp] theorem State.enterTrap_cores (s : State) (a : TrapAt) (f : FaultInfo) : (s.enterTrap a f).cores = s.cores := rfl
@[simp] theorem State.enterTrap_icache (s : State) (a : TrapAt) (f : FaultInfo) : (s.enterTrap a f).icache = s.icache := rfl
@[simp] theorem State.enterTrap_transfers (s : State) (a : TrapAt) (f : FaultInfo) : (s.enterTrap a f).transfers = s.transfers := rfl
@[simp] theorem State.enterTrap_spads (s : State) (a : TrapAt) (f : FaultInfo) : (s.enterTrap a f).spads = s.spads := rfl
@[simp] theorem State.enterTrap_ctxs (s : State) (a : TrapAt) (f : FaultInfo) : (s.enterTrap a f).ctxs = s.ctxs := rfl
@[simp] theorem State.enterTrap_groups (s : State) (a : TrapAt) (f : FaultInfo) : (s.enterTrap a f).groups = s.groups := rfl
@[simp] theorem State.enterTrap_nextGid (s : State) (a : TrapAt) (f : FaultInfo) : (s.enterTrap a f).nextGid = s.nextGid := rfl
@[simp] theorem State.enterTrap_lastServed (s : State) (a : TrapAt) (f : FaultInfo) : (s.enterTrap a f).lastServed = s.lastServed := rfl
@[simp] theorem State.enterTrap_regions (s : State) (a : TrapAt) (f : FaultInfo) : (s.enterTrap a f).regions = s.regions := rfl
@[simp] theorem State.enterTrap_nextRid (s : State) (a : TrapAt) (f : FaultInfo) : (s.enterTrap a f).nextRid = s.nextRid := rfl
@[simp] theorem State.enterTrap_rwins (s : State) (a : TrapAt) (f : FaultInfo) : (s.enterTrap a f).rwins = s.rwins := rfl
@[simp] theorem State.enterTrap_wgen (s : State) (a : TrapAt) (f : FaultInfo) : (s.enterTrap a f).wgen = s.wgen := rfl
@[simp] theorem State.enterTrap_sends (s : State) (a : TrapAt) (f : FaultInfo) : (s.enterTrap a f).sends = s.sends := rfl
@[simp] theorem State.enterTrap_nextSend (s : State) (a : TrapAt) (f : FaultInfo) : (s.enterTrap a f).nextSend = s.nextSend := rfl
@[simp] theorem State.enterTrap_eps (s : State) (a : TrapAt) (f : FaultInfo) : (s.enterTrap a f).eps = s.eps := rfl
@[simp] theorem State.enterTrap_ecores (s : State) (a : TrapAt) (f : FaultInfo) : (s.enterTrap a f).ecores = s.ecores := rfl
@[simp] theorem State.enterTrap_ecur (s : State) (a : TrapAt) (f : FaultInfo) : (s.enterTrap a f).ecur = s.ecur := rfl
@[simp] theorem State.enterTrap_podcfg (s : State) (a : TrapAt) (f : FaultInfo) : (s.enterTrap a f).podcfg = s.podcfg := rfl
@[simp] theorem State.enterTrap_ports (s : State) (a : TrapAt) (f : FaultInfo) : (s.enterTrap a f).ports = s.ports := rfl
@[simp] theorem State.enterTrap_turward (s : State) (a : TrapAt) (f : FaultInfo) : (s.enterTrap a f).turward = s.turward := rfl
@[simp] theorem State.enterTrap_podWins (s : State) (a : TrapAt) (f : FaultInfo) : (s.enterTrap a f).podWins = s.podWins := rfl
@[simp] theorem State.enterTrap_unitWaits (s : State) (a : TrapAt) (f : FaultInfo) : (s.enterTrap a f).unitWaits = s.unitWaits := rfl
@[simp] theorem State.enterTrap_lent (s : State) (a : TrapAt) (f : FaultInfo) : (s.enterTrap a f).lent = s.lent := rfl
@[simp] theorem State.enterTrap_remoteSeen (s : State) (a : TrapAt) (f : FaultInfo) : (s.enterTrap a f).remoteSeen = s.remoteSeen := rfl
@[simp] theorem State.enterTrap_remoteOut (s : State) (a : TrapAt) (f : FaultInfo) : (s.enterTrap a f).remoteOut = s.remoteOut := rfl
@[simp] theorem State.enterTrap_irqs (s : State) (a : TrapAt) (f : FaultInfo) : (s.enterTrap a f).irqs = s.irqs := rfl
@[simp] theorem State.enterTrap_irqHeld (s : State) (a : TrapAt) (f : FaultInfo) : (s.enterTrap a f).irqHeld = s.irqHeld := rfl
@[simp] theorem State.enterTrap_hostOut (s : State) (a : TrapAt) (f : FaultInfo) : (s.enterTrap a f).hostOut = s.hostOut := rfl
@[simp] theorem State.enterTrap_promotions (s : State) (a : TrapAt) (f : FaultInfo) : (s.enterTrap a f).promotions = s.promotions := rfl
@[simp] theorem State.enterTrap_promoted (s : State) (a : TrapAt) (f : FaultInfo) : (s.enterTrap a f).promoted = s.promoted := rfl
@[simp] theorem State.enterTrap_mgmt (s : State) (a : TrapAt) (f : FaultInfo) : (s.enterTrap a f).mgmt = s.mgmt := rfl
@[simp] theorem State.enterTrap_damage (s : State) (a : TrapAt) (f : FaultInfo) : (s.enterTrap a f).damage = s.damage := rfl
@[simp] theorem State.enterTrap_coh (s : State) (a : TrapAt) (f : FaultInfo) : (s.enterTrap a f).coh = s.coh := rfl
@[simp] theorem State.enterTrap_cycle (s : State) (a : TrapAt) (f : FaultInfo) : (s.enterTrap a f).cycle = s.cycle := rfl
@[simp] theorem State.enterTrap_agenda (s : State) (a : TrapAt) (f : FaultInfo) : (s.enterTrap a f).agenda = s.agenda := rfl
@[simp] theorem State.enterTrap_turn (s : State) (a : TrapAt) (f : FaultInfo) : (s.enterTrap a f).turn = s.turn := rfl
@[simp] theorem State.enterTrap_drawn (s : State) (a : TrapAt) (f : FaultInfo) : (s.enterTrap a f).drawn = s.drawn := rfl

@[simp] theorem State.returnFromTrap_parked (s : State) : s.returnFromTrap.parked = s.parked := rfl
@[simp] theorem State.returnFromTrap_images (s : State) : s.returnFromTrap.images = s.images := rfl
@[simp] theorem State.returnFromTrap_mem (s : State) : s.returnFromTrap.mem = s.mem := rfl
@[simp] theorem State.returnFromTrap_cores (s : State) : s.returnFromTrap.cores = s.cores := rfl
@[simp] theorem State.returnFromTrap_icache (s : State) : s.returnFromTrap.icache = s.icache := rfl
@[simp] theorem State.returnFromTrap_transfers (s : State) : s.returnFromTrap.transfers = s.transfers := rfl
@[simp] theorem State.returnFromTrap_spads (s : State) : s.returnFromTrap.spads = s.spads := rfl
@[simp] theorem State.returnFromTrap_ctxs (s : State) : s.returnFromTrap.ctxs = s.ctxs := rfl
@[simp] theorem State.returnFromTrap_groups (s : State) : s.returnFromTrap.groups = s.groups := rfl
@[simp] theorem State.returnFromTrap_nextGid (s : State) : s.returnFromTrap.nextGid = s.nextGid := rfl
@[simp] theorem State.returnFromTrap_lastServed (s : State) : s.returnFromTrap.lastServed = s.lastServed := rfl
@[simp] theorem State.returnFromTrap_regions (s : State) : s.returnFromTrap.regions = s.regions := rfl
@[simp] theorem State.returnFromTrap_nextRid (s : State) : s.returnFromTrap.nextRid = s.nextRid := rfl
@[simp] theorem State.returnFromTrap_rwins (s : State) : s.returnFromTrap.rwins = s.rwins := rfl
@[simp] theorem State.returnFromTrap_wgen (s : State) : s.returnFromTrap.wgen = s.wgen := rfl
@[simp] theorem State.returnFromTrap_sends (s : State) : s.returnFromTrap.sends = s.sends := rfl
@[simp] theorem State.returnFromTrap_nextSend (s : State) : s.returnFromTrap.nextSend = s.nextSend := rfl
@[simp] theorem State.returnFromTrap_eps (s : State) : s.returnFromTrap.eps = s.eps := rfl
@[simp] theorem State.returnFromTrap_ecores (s : State) : s.returnFromTrap.ecores = s.ecores := rfl
@[simp] theorem State.returnFromTrap_ecur (s : State) : s.returnFromTrap.ecur = s.ecur := rfl
@[simp] theorem State.returnFromTrap_podcfg (s : State) : s.returnFromTrap.podcfg = s.podcfg := rfl
@[simp] theorem State.returnFromTrap_ports (s : State) : s.returnFromTrap.ports = s.ports := rfl
@[simp] theorem State.returnFromTrap_turward (s : State) : s.returnFromTrap.turward = s.turward := rfl
@[simp] theorem State.returnFromTrap_podWins (s : State) : s.returnFromTrap.podWins = s.podWins := rfl
@[simp] theorem State.returnFromTrap_unitWaits (s : State) : s.returnFromTrap.unitWaits = s.unitWaits := rfl
@[simp] theorem State.returnFromTrap_lent (s : State) : s.returnFromTrap.lent = s.lent := rfl
@[simp] theorem State.returnFromTrap_remoteSeen (s : State) : s.returnFromTrap.remoteSeen = s.remoteSeen := rfl
@[simp] theorem State.returnFromTrap_remoteOut (s : State) : s.returnFromTrap.remoteOut = s.remoteOut := rfl
@[simp] theorem State.returnFromTrap_irqs (s : State) : s.returnFromTrap.irqs = s.irqs := rfl
@[simp] theorem State.returnFromTrap_irqHeld (s : State) : s.returnFromTrap.irqHeld = s.irqHeld := rfl
@[simp] theorem State.returnFromTrap_hostOut (s : State) : s.returnFromTrap.hostOut = s.hostOut := rfl
@[simp] theorem State.returnFromTrap_promotions (s : State) : s.returnFromTrap.promotions = s.promotions := rfl
@[simp] theorem State.returnFromTrap_promoted (s : State) : s.returnFromTrap.promoted = s.promoted := rfl
@[simp] theorem State.returnFromTrap_mgmt (s : State) : s.returnFromTrap.mgmt = s.mgmt := rfl
@[simp] theorem State.returnFromTrap_damage (s : State) : s.returnFromTrap.damage = s.damage := rfl
@[simp] theorem State.returnFromTrap_coh (s : State) : s.returnFromTrap.coh = s.coh := rfl
@[simp] theorem State.returnFromTrap_cycle (s : State) : s.returnFromTrap.cycle = s.cycle := rfl
@[simp] theorem State.returnFromTrap_agenda (s : State) : s.returnFromTrap.agenda = s.agenda := rfl
@[simp] theorem State.returnFromTrap_turn (s : State) : s.returnFromTrap.turn = s.turn := rfl
@[simp] theorem State.returnFromTrap_drawn (s : State) : s.returnFromTrap.drawn = s.drawn := rfl

@[simp] theorem State.setEnt_parked (s : State) (n : Nat) (e : TEnt) : (s.setEnt n e).parked = s.parked := rfl
@[simp] theorem State.setEnt_images (s : State) (n : Nat) (e : TEnt) : (s.setEnt n e).images = s.images := rfl
@[simp] theorem State.setEnt_mem (s : State) (n : Nat) (e : TEnt) : (s.setEnt n e).mem = s.mem := rfl
@[simp] theorem State.setEnt_cores (s : State) (n : Nat) (e : TEnt) : (s.setEnt n e).cores = s.cores := rfl
@[simp] theorem State.setEnt_icache (s : State) (n : Nat) (e : TEnt) : (s.setEnt n e).icache = s.icache := rfl
@[simp] theorem State.setEnt_transfers (s : State) (n : Nat) (e : TEnt) : (s.setEnt n e).transfers = s.transfers := rfl
@[simp] theorem State.setEnt_spads (s : State) (n : Nat) (e : TEnt) : (s.setEnt n e).spads = s.spads := rfl
@[simp] theorem State.setEnt_ctxs (s : State) (n : Nat) (e : TEnt) : (s.setEnt n e).ctxs = s.ctxs := rfl
@[simp] theorem State.setEnt_groups (s : State) (n : Nat) (e : TEnt) : (s.setEnt n e).groups = s.groups := rfl
@[simp] theorem State.setEnt_nextGid (s : State) (n : Nat) (e : TEnt) : (s.setEnt n e).nextGid = s.nextGid := rfl
@[simp] theorem State.setEnt_lastServed (s : State) (n : Nat) (e : TEnt) : (s.setEnt n e).lastServed = s.lastServed := rfl
@[simp] theorem State.setEnt_regions (s : State) (n : Nat) (e : TEnt) : (s.setEnt n e).regions = s.regions := rfl
@[simp] theorem State.setEnt_nextRid (s : State) (n : Nat) (e : TEnt) : (s.setEnt n e).nextRid = s.nextRid := rfl
@[simp] theorem State.setEnt_rwins (s : State) (n : Nat) (e : TEnt) : (s.setEnt n e).rwins = s.rwins := rfl
@[simp] theorem State.setEnt_wgen (s : State) (n : Nat) (e : TEnt) : (s.setEnt n e).wgen = s.wgen := rfl
@[simp] theorem State.setEnt_sends (s : State) (n : Nat) (e : TEnt) : (s.setEnt n e).sends = s.sends := rfl
@[simp] theorem State.setEnt_nextSend (s : State) (n : Nat) (e : TEnt) : (s.setEnt n e).nextSend = s.nextSend := rfl
@[simp] theorem State.setEnt_eps (s : State) (n : Nat) (e : TEnt) : (s.setEnt n e).eps = s.eps := rfl
@[simp] theorem State.setEnt_ecores (s : State) (n : Nat) (e : TEnt) : (s.setEnt n e).ecores = s.ecores := rfl
@[simp] theorem State.setEnt_ecur (s : State) (n : Nat) (e : TEnt) : (s.setEnt n e).ecur = s.ecur := rfl
@[simp] theorem State.setEnt_podcfg (s : State) (n : Nat) (e : TEnt) : (s.setEnt n e).podcfg = s.podcfg := rfl
@[simp] theorem State.setEnt_ports (s : State) (n : Nat) (e : TEnt) : (s.setEnt n e).ports = s.ports := rfl
@[simp] theorem State.setEnt_turward (s : State) (n : Nat) (e : TEnt) : (s.setEnt n e).turward = s.turward := rfl
@[simp] theorem State.setEnt_podWins (s : State) (n : Nat) (e : TEnt) : (s.setEnt n e).podWins = s.podWins := rfl
@[simp] theorem State.setEnt_unitWaits (s : State) (n : Nat) (e : TEnt) : (s.setEnt n e).unitWaits = s.unitWaits := rfl
@[simp] theorem State.setEnt_lent (s : State) (n : Nat) (e : TEnt) : (s.setEnt n e).lent = s.lent := rfl
@[simp] theorem State.setEnt_remoteSeen (s : State) (n : Nat) (e : TEnt) : (s.setEnt n e).remoteSeen = s.remoteSeen := rfl
@[simp] theorem State.setEnt_remoteOut (s : State) (n : Nat) (e : TEnt) : (s.setEnt n e).remoteOut = s.remoteOut := rfl
@[simp] theorem State.setEnt_irqs (s : State) (n : Nat) (e : TEnt) : (s.setEnt n e).irqs = s.irqs := rfl
@[simp] theorem State.setEnt_irqHeld (s : State) (n : Nat) (e : TEnt) : (s.setEnt n e).irqHeld = s.irqHeld := rfl
@[simp] theorem State.setEnt_hostOut (s : State) (n : Nat) (e : TEnt) : (s.setEnt n e).hostOut = s.hostOut := rfl
@[simp] theorem State.setEnt_promotions (s : State) (n : Nat) (e : TEnt) : (s.setEnt n e).promotions = s.promotions := rfl
@[simp] theorem State.setEnt_promoted (s : State) (n : Nat) (e : TEnt) : (s.setEnt n e).promoted = s.promoted := rfl
@[simp] theorem State.setEnt_mgmt (s : State) (n : Nat) (e : TEnt) : (s.setEnt n e).mgmt = s.mgmt := rfl
@[simp] theorem State.setEnt_damage (s : State) (n : Nat) (e : TEnt) : (s.setEnt n e).damage = s.damage := rfl
@[simp] theorem State.setEnt_coh (s : State) (n : Nat) (e : TEnt) : (s.setEnt n e).coh = s.coh := rfl
@[simp] theorem State.setEnt_cycle (s : State) (n : Nat) (e : TEnt) : (s.setEnt n e).cycle = s.cycle := rfl
@[simp] theorem State.setEnt_agenda (s : State) (n : Nat) (e : TEnt) : (s.setEnt n e).agenda = s.agenda := rfl
@[simp] theorem State.setEnt_turn (s : State) (n : Nat) (e : TEnt) : (s.setEnt n e).turn = s.turn := rfl
@[simp] theorem State.setEnt_drawn (s : State) (n : Nat) (e : TEnt) : (s.setEnt n e).drawn = s.drawn := rfl

@[simp] theorem State.mapThreads_images (s : State) (f : Thread → Thread) : (s.mapThreads f).images = s.images := rfl
@[simp] theorem State.mapThreads_mem (s : State) (f : Thread → Thread) : (s.mapThreads f).mem = s.mem := rfl
@[simp] theorem State.mapThreads_cores (s : State) (f : Thread → Thread) : (s.mapThreads f).cores = s.cores := rfl
@[simp] theorem State.mapThreads_icache (s : State) (f : Thread → Thread) : (s.mapThreads f).icache = s.icache := rfl
@[simp] theorem State.mapThreads_transfers (s : State) (f : Thread → Thread) : (s.mapThreads f).transfers = s.transfers := rfl
@[simp] theorem State.mapThreads_spads (s : State) (f : Thread → Thread) : (s.mapThreads f).spads = s.spads := rfl
@[simp] theorem State.mapThreads_ctxs (s : State) (f : Thread → Thread) : (s.mapThreads f).ctxs = s.ctxs := rfl
@[simp] theorem State.mapThreads_groups (s : State) (f : Thread → Thread) : (s.mapThreads f).groups = s.groups := rfl
@[simp] theorem State.mapThreads_nextGid (s : State) (f : Thread → Thread) : (s.mapThreads f).nextGid = s.nextGid := rfl
@[simp] theorem State.mapThreads_lastServed (s : State) (f : Thread → Thread) : (s.mapThreads f).lastServed = s.lastServed := rfl
@[simp] theorem State.mapThreads_regions (s : State) (f : Thread → Thread) : (s.mapThreads f).regions = s.regions := rfl
@[simp] theorem State.mapThreads_nextRid (s : State) (f : Thread → Thread) : (s.mapThreads f).nextRid = s.nextRid := rfl
@[simp] theorem State.mapThreads_rwins (s : State) (f : Thread → Thread) : (s.mapThreads f).rwins = s.rwins := rfl
@[simp] theorem State.mapThreads_wgen (s : State) (f : Thread → Thread) : (s.mapThreads f).wgen = s.wgen := rfl
@[simp] theorem State.mapThreads_sends (s : State) (f : Thread → Thread) : (s.mapThreads f).sends = s.sends := rfl
@[simp] theorem State.mapThreads_nextSend (s : State) (f : Thread → Thread) : (s.mapThreads f).nextSend = s.nextSend := rfl
@[simp] theorem State.mapThreads_eps (s : State) (f : Thread → Thread) : (s.mapThreads f).eps = s.eps := rfl
@[simp] theorem State.mapThreads_ecores (s : State) (f : Thread → Thread) : (s.mapThreads f).ecores = s.ecores := rfl
@[simp] theorem State.mapThreads_ecur (s : State) (f : Thread → Thread) : (s.mapThreads f).ecur = s.ecur := rfl
@[simp] theorem State.mapThreads_podcfg (s : State) (f : Thread → Thread) : (s.mapThreads f).podcfg = s.podcfg := rfl
@[simp] theorem State.mapThreads_ports (s : State) (f : Thread → Thread) : (s.mapThreads f).ports = s.ports := rfl
@[simp] theorem State.mapThreads_turward (s : State) (f : Thread → Thread) : (s.mapThreads f).turward = s.turward := rfl
@[simp] theorem State.mapThreads_podWins (s : State) (f : Thread → Thread) : (s.mapThreads f).podWins = s.podWins := rfl
@[simp] theorem State.mapThreads_unitWaits (s : State) (f : Thread → Thread) : (s.mapThreads f).unitWaits = s.unitWaits := rfl
@[simp] theorem State.mapThreads_lent (s : State) (f : Thread → Thread) : (s.mapThreads f).lent = s.lent := rfl
@[simp] theorem State.mapThreads_remoteSeen (s : State) (f : Thread → Thread) : (s.mapThreads f).remoteSeen = s.remoteSeen := rfl
@[simp] theorem State.mapThreads_remoteOut (s : State) (f : Thread → Thread) : (s.mapThreads f).remoteOut = s.remoteOut := rfl
@[simp] theorem State.mapThreads_irqs (s : State) (f : Thread → Thread) : (s.mapThreads f).irqs = s.irqs := rfl
@[simp] theorem State.mapThreads_irqHeld (s : State) (f : Thread → Thread) : (s.mapThreads f).irqHeld = s.irqHeld := rfl
@[simp] theorem State.mapThreads_hostOut (s : State) (f : Thread → Thread) : (s.mapThreads f).hostOut = s.hostOut := rfl
@[simp] theorem State.mapThreads_promotions (s : State) (f : Thread → Thread) : (s.mapThreads f).promotions = s.promotions := rfl
@[simp] theorem State.mapThreads_promoted (s : State) (f : Thread → Thread) : (s.mapThreads f).promoted = s.promoted := rfl
@[simp] theorem State.mapThreads_mgmt (s : State) (f : Thread → Thread) : (s.mapThreads f).mgmt = s.mgmt := rfl
@[simp] theorem State.mapThreads_damage (s : State) (f : Thread → Thread) : (s.mapThreads f).damage = s.damage := rfl
@[simp] theorem State.mapThreads_coh (s : State) (f : Thread → Thread) : (s.mapThreads f).coh = s.coh := rfl
@[simp] theorem State.mapThreads_cycle (s : State) (f : Thread → Thread) : (s.mapThreads f).cycle = s.cycle := rfl
@[simp] theorem State.mapThreads_agenda (s : State) (f : Thread → Thread) : (s.mapThreads f).agenda = s.agenda := rfl
@[simp] theorem State.mapThreads_turn (s : State) (f : Thread → Thread) : (s.mapThreads f).turn = s.turn := rfl
@[simp] theorem State.mapThreads_drawn (s : State) (f : Thread → Thread) : (s.mapThreads f).drawn = s.drawn := rfl

@[simp] theorem State.setCtx_thr (s : State) (n : Nat) (c : Ctx) : (s.setCtx n c).thr = s.thr := rfl
@[simp] theorem State.setCtx_parked (s : State) (n : Nat) (c : Ctx) : (s.setCtx n c).parked = s.parked := rfl
@[simp] theorem State.setCtx_images (s : State) (n : Nat) (c : Ctx) : (s.setCtx n c).images = s.images := rfl
@[simp] theorem State.setCtx_mem (s : State) (n : Nat) (c : Ctx) : (s.setCtx n c).mem = s.mem := rfl
@[simp] theorem State.setCtx_cores (s : State) (n : Nat) (c : Ctx) : (s.setCtx n c).cores = s.cores := rfl
@[simp] theorem State.setCtx_icache (s : State) (n : Nat) (c : Ctx) : (s.setCtx n c).icache = s.icache := rfl
@[simp] theorem State.setCtx_transfers (s : State) (n : Nat) (c : Ctx) : (s.setCtx n c).transfers = s.transfers := rfl
@[simp] theorem State.setCtx_spads (s : State) (n : Nat) (c : Ctx) : (s.setCtx n c).spads = s.spads := rfl
@[simp] theorem State.setCtx_groups (s : State) (n : Nat) (c : Ctx) : (s.setCtx n c).groups = s.groups := rfl
@[simp] theorem State.setCtx_nextGid (s : State) (n : Nat) (c : Ctx) : (s.setCtx n c).nextGid = s.nextGid := rfl
@[simp] theorem State.setCtx_lastServed (s : State) (n : Nat) (c : Ctx) : (s.setCtx n c).lastServed = s.lastServed := rfl
@[simp] theorem State.setCtx_regions (s : State) (n : Nat) (c : Ctx) : (s.setCtx n c).regions = s.regions := rfl
@[simp] theorem State.setCtx_nextRid (s : State) (n : Nat) (c : Ctx) : (s.setCtx n c).nextRid = s.nextRid := rfl
@[simp] theorem State.setCtx_rwins (s : State) (n : Nat) (c : Ctx) : (s.setCtx n c).rwins = s.rwins := rfl
@[simp] theorem State.setCtx_wgen (s : State) (n : Nat) (c : Ctx) : (s.setCtx n c).wgen = s.wgen := rfl
@[simp] theorem State.setCtx_sends (s : State) (n : Nat) (c : Ctx) : (s.setCtx n c).sends = s.sends := rfl
@[simp] theorem State.setCtx_nextSend (s : State) (n : Nat) (c : Ctx) : (s.setCtx n c).nextSend = s.nextSend := rfl
@[simp] theorem State.setCtx_eps (s : State) (n : Nat) (c : Ctx) : (s.setCtx n c).eps = s.eps := rfl
@[simp] theorem State.setCtx_ecores (s : State) (n : Nat) (c : Ctx) : (s.setCtx n c).ecores = s.ecores := rfl
@[simp] theorem State.setCtx_ecur (s : State) (n : Nat) (c : Ctx) : (s.setCtx n c).ecur = s.ecur := rfl
@[simp] theorem State.setCtx_podcfg (s : State) (n : Nat) (c : Ctx) : (s.setCtx n c).podcfg = s.podcfg := rfl
@[simp] theorem State.setCtx_ports (s : State) (n : Nat) (c : Ctx) : (s.setCtx n c).ports = s.ports := rfl
@[simp] theorem State.setCtx_turward (s : State) (n : Nat) (c : Ctx) : (s.setCtx n c).turward = s.turward := rfl
@[simp] theorem State.setCtx_podWins (s : State) (n : Nat) (c : Ctx) : (s.setCtx n c).podWins = s.podWins := rfl
@[simp] theorem State.setCtx_unitWaits (s : State) (n : Nat) (c : Ctx) : (s.setCtx n c).unitWaits = s.unitWaits := rfl
@[simp] theorem State.setCtx_lent (s : State) (n : Nat) (c : Ctx) : (s.setCtx n c).lent = s.lent := rfl
@[simp] theorem State.setCtx_remoteSeen (s : State) (n : Nat) (c : Ctx) : (s.setCtx n c).remoteSeen = s.remoteSeen := rfl
@[simp] theorem State.setCtx_remoteOut (s : State) (n : Nat) (c : Ctx) : (s.setCtx n c).remoteOut = s.remoteOut := rfl
@[simp] theorem State.setCtx_irqs (s : State) (n : Nat) (c : Ctx) : (s.setCtx n c).irqs = s.irqs := rfl
@[simp] theorem State.setCtx_irqHeld (s : State) (n : Nat) (c : Ctx) : (s.setCtx n c).irqHeld = s.irqHeld := rfl
@[simp] theorem State.setCtx_hostOut (s : State) (n : Nat) (c : Ctx) : (s.setCtx n c).hostOut = s.hostOut := rfl
@[simp] theorem State.setCtx_promotions (s : State) (n : Nat) (c : Ctx) : (s.setCtx n c).promotions = s.promotions := rfl
@[simp] theorem State.setCtx_promoted (s : State) (n : Nat) (c : Ctx) : (s.setCtx n c).promoted = s.promoted := rfl
@[simp] theorem State.setCtx_mgmt (s : State) (n : Nat) (c : Ctx) : (s.setCtx n c).mgmt = s.mgmt := rfl
@[simp] theorem State.setCtx_damage (s : State) (n : Nat) (c : Ctx) : (s.setCtx n c).damage = s.damage := rfl
@[simp] theorem State.setCtx_coh (s : State) (n : Nat) (c : Ctx) : (s.setCtx n c).coh = s.coh := rfl
@[simp] theorem State.setCtx_cycle (s : State) (n : Nat) (c : Ctx) : (s.setCtx n c).cycle = s.cycle := rfl
@[simp] theorem State.setCtx_agenda (s : State) (n : Nat) (c : Ctx) : (s.setCtx n c).agenda = s.agenda := rfl
@[simp] theorem State.setCtx_turn (s : State) (n : Nat) (c : Ctx) : (s.setCtx n c).turn = s.turn := rfl
@[simp] theorem State.setCtx_drawn (s : State) (n : Nat) (c : Ctx) : (s.setCtx n c).drawn = s.drawn := rfl

@[simp] theorem State.storePA_thr (s : State) (a : Nat) (l : List Byte) : (s.storePA a l).thr = s.thr := rfl
@[simp] theorem State.storePA_parked (s : State) (a : Nat) (l : List Byte) : (s.storePA a l).parked = s.parked := rfl
@[simp] theorem State.storePA_images (s : State) (a : Nat) (l : List Byte) : (s.storePA a l).images = s.images := rfl
@[simp] theorem State.storePA_cores (s : State) (a : Nat) (l : List Byte) : (s.storePA a l).cores = s.cores := rfl
@[simp] theorem State.storePA_icache (s : State) (a : Nat) (l : List Byte) : (s.storePA a l).icache = s.icache := rfl
@[simp] theorem State.storePA_transfers (s : State) (a : Nat) (l : List Byte) : (s.storePA a l).transfers = s.transfers := rfl
@[simp] theorem State.storePA_spads (s : State) (a : Nat) (l : List Byte) : (s.storePA a l).spads = s.spads := rfl
@[simp] theorem State.storePA_ctxs (s : State) (a : Nat) (l : List Byte) : (s.storePA a l).ctxs = s.ctxs := rfl
@[simp] theorem State.storePA_groups (s : State) (a : Nat) (l : List Byte) : (s.storePA a l).groups = s.groups := rfl
@[simp] theorem State.storePA_nextGid (s : State) (a : Nat) (l : List Byte) : (s.storePA a l).nextGid = s.nextGid := rfl
@[simp] theorem State.storePA_lastServed (s : State) (a : Nat) (l : List Byte) : (s.storePA a l).lastServed = s.lastServed := rfl
@[simp] theorem State.storePA_regions (s : State) (a : Nat) (l : List Byte) : (s.storePA a l).regions = s.regions := rfl
@[simp] theorem State.storePA_nextRid (s : State) (a : Nat) (l : List Byte) : (s.storePA a l).nextRid = s.nextRid := rfl
@[simp] theorem State.storePA_rwins (s : State) (a : Nat) (l : List Byte) : (s.storePA a l).rwins = s.rwins := rfl
@[simp] theorem State.storePA_wgen (s : State) (a : Nat) (l : List Byte) : (s.storePA a l).wgen = s.wgen := rfl
@[simp] theorem State.storePA_sends (s : State) (a : Nat) (l : List Byte) : (s.storePA a l).sends = s.sends := rfl
@[simp] theorem State.storePA_nextSend (s : State) (a : Nat) (l : List Byte) : (s.storePA a l).nextSend = s.nextSend := rfl
@[simp] theorem State.storePA_eps (s : State) (a : Nat) (l : List Byte) : (s.storePA a l).eps = s.eps := rfl
@[simp] theorem State.storePA_ecores (s : State) (a : Nat) (l : List Byte) : (s.storePA a l).ecores = s.ecores := rfl
@[simp] theorem State.storePA_ecur (s : State) (a : Nat) (l : List Byte) : (s.storePA a l).ecur = s.ecur := rfl
@[simp] theorem State.storePA_podcfg (s : State) (a : Nat) (l : List Byte) : (s.storePA a l).podcfg = s.podcfg := rfl
@[simp] theorem State.storePA_ports (s : State) (a : Nat) (l : List Byte) : (s.storePA a l).ports = s.ports := rfl
@[simp] theorem State.storePA_turward (s : State) (a : Nat) (l : List Byte) : (s.storePA a l).turward = s.turward := rfl
@[simp] theorem State.storePA_podWins (s : State) (a : Nat) (l : List Byte) : (s.storePA a l).podWins = s.podWins := rfl
@[simp] theorem State.storePA_unitWaits (s : State) (a : Nat) (l : List Byte) : (s.storePA a l).unitWaits = s.unitWaits := rfl
@[simp] theorem State.storePA_lent (s : State) (a : Nat) (l : List Byte) : (s.storePA a l).lent = s.lent := rfl
@[simp] theorem State.storePA_remoteSeen (s : State) (a : Nat) (l : List Byte) : (s.storePA a l).remoteSeen = s.remoteSeen := rfl
@[simp] theorem State.storePA_remoteOut (s : State) (a : Nat) (l : List Byte) : (s.storePA a l).remoteOut = s.remoteOut := rfl
@[simp] theorem State.storePA_irqs (s : State) (a : Nat) (l : List Byte) : (s.storePA a l).irqs = s.irqs := rfl
@[simp] theorem State.storePA_irqHeld (s : State) (a : Nat) (l : List Byte) : (s.storePA a l).irqHeld = s.irqHeld := rfl
@[simp] theorem State.storePA_hostOut (s : State) (a : Nat) (l : List Byte) : (s.storePA a l).hostOut = s.hostOut := rfl
@[simp] theorem State.storePA_promotions (s : State) (a : Nat) (l : List Byte) : (s.storePA a l).promotions = s.promotions := rfl
@[simp] theorem State.storePA_promoted (s : State) (a : Nat) (l : List Byte) : (s.storePA a l).promoted = s.promoted := rfl
@[simp] theorem State.storePA_mgmt (s : State) (a : Nat) (l : List Byte) : (s.storePA a l).mgmt = s.mgmt := rfl
@[simp] theorem State.storePA_cycle (s : State) (a : Nat) (l : List Byte) : (s.storePA a l).cycle = s.cycle := rfl
@[simp] theorem State.storePA_agenda (s : State) (a : Nat) (l : List Byte) : (s.storePA a l).agenda = s.agenda := rfl
@[simp] theorem State.storePA_turn (s : State) (a : Nat) (l : List Byte) : (s.storePA a l).turn = s.turn := rfl
@[simp] theorem State.storePA_drawn (s : State) (a : Nat) (l : List Byte) : (s.storePA a l).drawn = s.drawn := rfl

@[simp] theorem State.setCore_thr (s : State) (n : Nat) (c : Core) : (s.setCore n c).thr = s.thr := rfl
@[simp] theorem State.setCore_parked (s : State) (n : Nat) (c : Core) : (s.setCore n c).parked = s.parked := rfl
@[simp] theorem State.setCore_images (s : State) (n : Nat) (c : Core) : (s.setCore n c).images = s.images := rfl
@[simp] theorem State.setCore_mem (s : State) (n : Nat) (c : Core) : (s.setCore n c).mem = s.mem := rfl
@[simp] theorem State.setCore_icache (s : State) (n : Nat) (c : Core) : (s.setCore n c).icache = s.icache := rfl
@[simp] theorem State.setCore_transfers (s : State) (n : Nat) (c : Core) : (s.setCore n c).transfers = s.transfers := rfl
@[simp] theorem State.setCore_spads (s : State) (n : Nat) (c : Core) : (s.setCore n c).spads = s.spads := rfl
@[simp] theorem State.setCore_ctxs (s : State) (n : Nat) (c : Core) : (s.setCore n c).ctxs = s.ctxs := rfl
@[simp] theorem State.setCore_groups (s : State) (n : Nat) (c : Core) : (s.setCore n c).groups = s.groups := rfl
@[simp] theorem State.setCore_nextGid (s : State) (n : Nat) (c : Core) : (s.setCore n c).nextGid = s.nextGid := rfl
@[simp] theorem State.setCore_lastServed (s : State) (n : Nat) (c : Core) : (s.setCore n c).lastServed = s.lastServed := rfl
@[simp] theorem State.setCore_regions (s : State) (n : Nat) (c : Core) : (s.setCore n c).regions = s.regions := rfl
@[simp] theorem State.setCore_nextRid (s : State) (n : Nat) (c : Core) : (s.setCore n c).nextRid = s.nextRid := rfl
@[simp] theorem State.setCore_rwins (s : State) (n : Nat) (c : Core) : (s.setCore n c).rwins = s.rwins := rfl
@[simp] theorem State.setCore_wgen (s : State) (n : Nat) (c : Core) : (s.setCore n c).wgen = s.wgen := rfl
@[simp] theorem State.setCore_sends (s : State) (n : Nat) (c : Core) : (s.setCore n c).sends = s.sends := rfl
@[simp] theorem State.setCore_nextSend (s : State) (n : Nat) (c : Core) : (s.setCore n c).nextSend = s.nextSend := rfl
@[simp] theorem State.setCore_eps (s : State) (n : Nat) (c : Core) : (s.setCore n c).eps = s.eps := rfl
@[simp] theorem State.setCore_ecores (s : State) (n : Nat) (c : Core) : (s.setCore n c).ecores = s.ecores := rfl
@[simp] theorem State.setCore_ecur (s : State) (n : Nat) (c : Core) : (s.setCore n c).ecur = s.ecur := rfl
@[simp] theorem State.setCore_podcfg (s : State) (n : Nat) (c : Core) : (s.setCore n c).podcfg = s.podcfg := rfl
@[simp] theorem State.setCore_ports (s : State) (n : Nat) (c : Core) : (s.setCore n c).ports = s.ports := rfl
@[simp] theorem State.setCore_turward (s : State) (n : Nat) (c : Core) : (s.setCore n c).turward = s.turward := rfl
@[simp] theorem State.setCore_podWins (s : State) (n : Nat) (c : Core) : (s.setCore n c).podWins = s.podWins := rfl
@[simp] theorem State.setCore_unitWaits (s : State) (n : Nat) (c : Core) : (s.setCore n c).unitWaits = s.unitWaits := rfl
@[simp] theorem State.setCore_lent (s : State) (n : Nat) (c : Core) : (s.setCore n c).lent = s.lent := rfl
@[simp] theorem State.setCore_remoteSeen (s : State) (n : Nat) (c : Core) : (s.setCore n c).remoteSeen = s.remoteSeen := rfl
@[simp] theorem State.setCore_remoteOut (s : State) (n : Nat) (c : Core) : (s.setCore n c).remoteOut = s.remoteOut := rfl
@[simp] theorem State.setCore_irqs (s : State) (n : Nat) (c : Core) : (s.setCore n c).irqs = s.irqs := rfl
@[simp] theorem State.setCore_irqHeld (s : State) (n : Nat) (c : Core) : (s.setCore n c).irqHeld = s.irqHeld := rfl
@[simp] theorem State.setCore_hostOut (s : State) (n : Nat) (c : Core) : (s.setCore n c).hostOut = s.hostOut := rfl
@[simp] theorem State.setCore_promotions (s : State) (n : Nat) (c : Core) : (s.setCore n c).promotions = s.promotions := rfl
@[simp] theorem State.setCore_promoted (s : State) (n : Nat) (c : Core) : (s.setCore n c).promoted = s.promoted := rfl
@[simp] theorem State.setCore_mgmt (s : State) (n : Nat) (c : Core) : (s.setCore n c).mgmt = s.mgmt := rfl
@[simp] theorem State.setCore_damage (s : State) (n : Nat) (c : Core) : (s.setCore n c).damage = s.damage := rfl
@[simp] theorem State.setCore_coh (s : State) (n : Nat) (c : Core) : (s.setCore n c).coh = s.coh := rfl
@[simp] theorem State.setCore_cycle (s : State) (n : Nat) (c : Core) : (s.setCore n c).cycle = s.cycle := rfl
@[simp] theorem State.setCore_agenda (s : State) (n : Nat) (c : Core) : (s.setCore n c).agenda = s.agenda := rfl
@[simp] theorem State.setCore_turn (s : State) (n : Nat) (c : Core) : (s.setCore n c).turn = s.turn := rfl
@[simp] theorem State.setCore_drawn (s : State) (n : Nat) (c : Core) : (s.setCore n c).drawn = s.drawn := rfl

@[simp] theorem State.setEcore_thr (s : State) (n : Nat) (c : ECore) : (s.setEcore n c).thr = s.thr := rfl
@[simp] theorem State.setEcore_parked (s : State) (n : Nat) (c : ECore) : (s.setEcore n c).parked = s.parked := rfl
@[simp] theorem State.setEcore_images (s : State) (n : Nat) (c : ECore) : (s.setEcore n c).images = s.images := rfl
@[simp] theorem State.setEcore_mem (s : State) (n : Nat) (c : ECore) : (s.setEcore n c).mem = s.mem := rfl
@[simp] theorem State.setEcore_cores (s : State) (n : Nat) (c : ECore) : (s.setEcore n c).cores = s.cores := rfl
@[simp] theorem State.setEcore_icache (s : State) (n : Nat) (c : ECore) : (s.setEcore n c).icache = s.icache := rfl
@[simp] theorem State.setEcore_transfers (s : State) (n : Nat) (c : ECore) : (s.setEcore n c).transfers = s.transfers := rfl
@[simp] theorem State.setEcore_spads (s : State) (n : Nat) (c : ECore) : (s.setEcore n c).spads = s.spads := rfl
@[simp] theorem State.setEcore_ctxs (s : State) (n : Nat) (c : ECore) : (s.setEcore n c).ctxs = s.ctxs := rfl
@[simp] theorem State.setEcore_groups (s : State) (n : Nat) (c : ECore) : (s.setEcore n c).groups = s.groups := rfl
@[simp] theorem State.setEcore_nextGid (s : State) (n : Nat) (c : ECore) : (s.setEcore n c).nextGid = s.nextGid := rfl
@[simp] theorem State.setEcore_lastServed (s : State) (n : Nat) (c : ECore) : (s.setEcore n c).lastServed = s.lastServed := rfl
@[simp] theorem State.setEcore_regions (s : State) (n : Nat) (c : ECore) : (s.setEcore n c).regions = s.regions := rfl
@[simp] theorem State.setEcore_nextRid (s : State) (n : Nat) (c : ECore) : (s.setEcore n c).nextRid = s.nextRid := rfl
@[simp] theorem State.setEcore_rwins (s : State) (n : Nat) (c : ECore) : (s.setEcore n c).rwins = s.rwins := rfl
@[simp] theorem State.setEcore_wgen (s : State) (n : Nat) (c : ECore) : (s.setEcore n c).wgen = s.wgen := rfl
@[simp] theorem State.setEcore_sends (s : State) (n : Nat) (c : ECore) : (s.setEcore n c).sends = s.sends := rfl
@[simp] theorem State.setEcore_nextSend (s : State) (n : Nat) (c : ECore) : (s.setEcore n c).nextSend = s.nextSend := rfl
@[simp] theorem State.setEcore_eps (s : State) (n : Nat) (c : ECore) : (s.setEcore n c).eps = s.eps := rfl
@[simp] theorem State.setEcore_ecur (s : State) (n : Nat) (c : ECore) : (s.setEcore n c).ecur = s.ecur := rfl
@[simp] theorem State.setEcore_podcfg (s : State) (n : Nat) (c : ECore) : (s.setEcore n c).podcfg = s.podcfg := rfl
@[simp] theorem State.setEcore_ports (s : State) (n : Nat) (c : ECore) : (s.setEcore n c).ports = s.ports := rfl
@[simp] theorem State.setEcore_turward (s : State) (n : Nat) (c : ECore) : (s.setEcore n c).turward = s.turward := rfl
@[simp] theorem State.setEcore_podWins (s : State) (n : Nat) (c : ECore) : (s.setEcore n c).podWins = s.podWins := rfl
@[simp] theorem State.setEcore_unitWaits (s : State) (n : Nat) (c : ECore) : (s.setEcore n c).unitWaits = s.unitWaits := rfl
@[simp] theorem State.setEcore_lent (s : State) (n : Nat) (c : ECore) : (s.setEcore n c).lent = s.lent := rfl
@[simp] theorem State.setEcore_remoteSeen (s : State) (n : Nat) (c : ECore) : (s.setEcore n c).remoteSeen = s.remoteSeen := rfl
@[simp] theorem State.setEcore_remoteOut (s : State) (n : Nat) (c : ECore) : (s.setEcore n c).remoteOut = s.remoteOut := rfl
@[simp] theorem State.setEcore_irqs (s : State) (n : Nat) (c : ECore) : (s.setEcore n c).irqs = s.irqs := rfl
@[simp] theorem State.setEcore_irqHeld (s : State) (n : Nat) (c : ECore) : (s.setEcore n c).irqHeld = s.irqHeld := rfl
@[simp] theorem State.setEcore_hostOut (s : State) (n : Nat) (c : ECore) : (s.setEcore n c).hostOut = s.hostOut := rfl
@[simp] theorem State.setEcore_promotions (s : State) (n : Nat) (c : ECore) : (s.setEcore n c).promotions = s.promotions := rfl
@[simp] theorem State.setEcore_promoted (s : State) (n : Nat) (c : ECore) : (s.setEcore n c).promoted = s.promoted := rfl
@[simp] theorem State.setEcore_mgmt (s : State) (n : Nat) (c : ECore) : (s.setEcore n c).mgmt = s.mgmt := rfl
@[simp] theorem State.setEcore_damage (s : State) (n : Nat) (c : ECore) : (s.setEcore n c).damage = s.damage := rfl
@[simp] theorem State.setEcore_coh (s : State) (n : Nat) (c : ECore) : (s.setEcore n c).coh = s.coh := rfl
@[simp] theorem State.setEcore_cycle (s : State) (n : Nat) (c : ECore) : (s.setEcore n c).cycle = s.cycle := rfl
@[simp] theorem State.setEcore_agenda (s : State) (n : Nat) (c : ECore) : (s.setEcore n c).agenda = s.agenda := rfl
@[simp] theorem State.setEcore_turn (s : State) (n : Nat) (c : ECore) : (s.setEcore n c).turn = s.turn := rfl
@[simp] theorem State.setEcore_drawn (s : State) (n : Nat) (c : ECore) : (s.setEcore n c).drawn = s.drawn := rfl

@[simp] theorem State.setRegion_thr (s : State) (r : Region) : (s.setRegion r).thr = s.thr := rfl
@[simp] theorem State.setRegion_parked (s : State) (r : Region) : (s.setRegion r).parked = s.parked := rfl
@[simp] theorem State.setRegion_images (s : State) (r : Region) : (s.setRegion r).images = s.images := rfl
@[simp] theorem State.setRegion_mem (s : State) (r : Region) : (s.setRegion r).mem = s.mem := rfl
@[simp] theorem State.setRegion_cores (s : State) (r : Region) : (s.setRegion r).cores = s.cores := rfl
@[simp] theorem State.setRegion_icache (s : State) (r : Region) : (s.setRegion r).icache = s.icache := rfl
@[simp] theorem State.setRegion_transfers (s : State) (r : Region) : (s.setRegion r).transfers = s.transfers := rfl
@[simp] theorem State.setRegion_spads (s : State) (r : Region) : (s.setRegion r).spads = s.spads := rfl
@[simp] theorem State.setRegion_ctxs (s : State) (r : Region) : (s.setRegion r).ctxs = s.ctxs := rfl
@[simp] theorem State.setRegion_groups (s : State) (r : Region) : (s.setRegion r).groups = s.groups := rfl
@[simp] theorem State.setRegion_nextGid (s : State) (r : Region) : (s.setRegion r).nextGid = s.nextGid := rfl
@[simp] theorem State.setRegion_lastServed (s : State) (r : Region) : (s.setRegion r).lastServed = s.lastServed := rfl
@[simp] theorem State.setRegion_nextRid (s : State) (r : Region) : (s.setRegion r).nextRid = s.nextRid := rfl
@[simp] theorem State.setRegion_rwins (s : State) (r : Region) : (s.setRegion r).rwins = s.rwins := rfl
@[simp] theorem State.setRegion_wgen (s : State) (r : Region) : (s.setRegion r).wgen = s.wgen := rfl
@[simp] theorem State.setRegion_sends (s : State) (r : Region) : (s.setRegion r).sends = s.sends := rfl
@[simp] theorem State.setRegion_nextSend (s : State) (r : Region) : (s.setRegion r).nextSend = s.nextSend := rfl
@[simp] theorem State.setRegion_eps (s : State) (r : Region) : (s.setRegion r).eps = s.eps := rfl
@[simp] theorem State.setRegion_ecores (s : State) (r : Region) : (s.setRegion r).ecores = s.ecores := rfl
@[simp] theorem State.setRegion_ecur (s : State) (r : Region) : (s.setRegion r).ecur = s.ecur := rfl
@[simp] theorem State.setRegion_podcfg (s : State) (r : Region) : (s.setRegion r).podcfg = s.podcfg := rfl
@[simp] theorem State.setRegion_ports (s : State) (r : Region) : (s.setRegion r).ports = s.ports := rfl
@[simp] theorem State.setRegion_turward (s : State) (r : Region) : (s.setRegion r).turward = s.turward := rfl
@[simp] theorem State.setRegion_podWins (s : State) (r : Region) : (s.setRegion r).podWins = s.podWins := rfl
@[simp] theorem State.setRegion_unitWaits (s : State) (r : Region) : (s.setRegion r).unitWaits = s.unitWaits := rfl
@[simp] theorem State.setRegion_lent (s : State) (r : Region) : (s.setRegion r).lent = s.lent := rfl
@[simp] theorem State.setRegion_remoteSeen (s : State) (r : Region) : (s.setRegion r).remoteSeen = s.remoteSeen := rfl
@[simp] theorem State.setRegion_remoteOut (s : State) (r : Region) : (s.setRegion r).remoteOut = s.remoteOut := rfl
@[simp] theorem State.setRegion_irqs (s : State) (r : Region) : (s.setRegion r).irqs = s.irqs := rfl
@[simp] theorem State.setRegion_irqHeld (s : State) (r : Region) : (s.setRegion r).irqHeld = s.irqHeld := rfl
@[simp] theorem State.setRegion_hostOut (s : State) (r : Region) : (s.setRegion r).hostOut = s.hostOut := rfl
@[simp] theorem State.setRegion_promotions (s : State) (r : Region) : (s.setRegion r).promotions = s.promotions := rfl
@[simp] theorem State.setRegion_promoted (s : State) (r : Region) : (s.setRegion r).promoted = s.promoted := rfl
@[simp] theorem State.setRegion_mgmt (s : State) (r : Region) : (s.setRegion r).mgmt = s.mgmt := rfl
@[simp] theorem State.setRegion_damage (s : State) (r : Region) : (s.setRegion r).damage = s.damage := rfl
@[simp] theorem State.setRegion_coh (s : State) (r : Region) : (s.setRegion r).coh = s.coh := rfl
@[simp] theorem State.setRegion_cycle (s : State) (r : Region) : (s.setRegion r).cycle = s.cycle := rfl
@[simp] theorem State.setRegion_agenda (s : State) (r : Region) : (s.setRegion r).agenda = s.agenda := rfl
@[simp] theorem State.setRegion_turn (s : State) (r : Region) : (s.setRegion r).turn = s.turn := rfl
@[simp] theorem State.setRegion_drawn (s : State) (r : Region) : (s.setRegion r).drawn = s.drawn := rfl

@[simp] theorem State.setGroup_thr (s : State) (g : Group) : (s.setGroup g).thr = s.thr := rfl
@[simp] theorem State.setGroup_parked (s : State) (g : Group) : (s.setGroup g).parked = s.parked := rfl
@[simp] theorem State.setGroup_images (s : State) (g : Group) : (s.setGroup g).images = s.images := rfl
@[simp] theorem State.setGroup_mem (s : State) (g : Group) : (s.setGroup g).mem = s.mem := rfl
@[simp] theorem State.setGroup_cores (s : State) (g : Group) : (s.setGroup g).cores = s.cores := rfl
@[simp] theorem State.setGroup_icache (s : State) (g : Group) : (s.setGroup g).icache = s.icache := rfl
@[simp] theorem State.setGroup_transfers (s : State) (g : Group) : (s.setGroup g).transfers = s.transfers := rfl
@[simp] theorem State.setGroup_spads (s : State) (g : Group) : (s.setGroup g).spads = s.spads := rfl
@[simp] theorem State.setGroup_ctxs (s : State) (g : Group) : (s.setGroup g).ctxs = s.ctxs := rfl
@[simp] theorem State.setGroup_nextGid (s : State) (g : Group) : (s.setGroup g).nextGid = s.nextGid := rfl
@[simp] theorem State.setGroup_lastServed (s : State) (g : Group) : (s.setGroup g).lastServed = s.lastServed := rfl
@[simp] theorem State.setGroup_regions (s : State) (g : Group) : (s.setGroup g).regions = s.regions := rfl
@[simp] theorem State.setGroup_nextRid (s : State) (g : Group) : (s.setGroup g).nextRid = s.nextRid := rfl
@[simp] theorem State.setGroup_rwins (s : State) (g : Group) : (s.setGroup g).rwins = s.rwins := rfl
@[simp] theorem State.setGroup_wgen (s : State) (g : Group) : (s.setGroup g).wgen = s.wgen := rfl
@[simp] theorem State.setGroup_sends (s : State) (g : Group) : (s.setGroup g).sends = s.sends := rfl
@[simp] theorem State.setGroup_nextSend (s : State) (g : Group) : (s.setGroup g).nextSend = s.nextSend := rfl
@[simp] theorem State.setGroup_eps (s : State) (g : Group) : (s.setGroup g).eps = s.eps := rfl
@[simp] theorem State.setGroup_ecores (s : State) (g : Group) : (s.setGroup g).ecores = s.ecores := rfl
@[simp] theorem State.setGroup_ecur (s : State) (g : Group) : (s.setGroup g).ecur = s.ecur := rfl
@[simp] theorem State.setGroup_podcfg (s : State) (g : Group) : (s.setGroup g).podcfg = s.podcfg := rfl
@[simp] theorem State.setGroup_ports (s : State) (g : Group) : (s.setGroup g).ports = s.ports := rfl
@[simp] theorem State.setGroup_turward (s : State) (g : Group) : (s.setGroup g).turward = s.turward := rfl
@[simp] theorem State.setGroup_podWins (s : State) (g : Group) : (s.setGroup g).podWins = s.podWins := rfl
@[simp] theorem State.setGroup_unitWaits (s : State) (g : Group) : (s.setGroup g).unitWaits = s.unitWaits := rfl
@[simp] theorem State.setGroup_lent (s : State) (g : Group) : (s.setGroup g).lent = s.lent := rfl
@[simp] theorem State.setGroup_remoteSeen (s : State) (g : Group) : (s.setGroup g).remoteSeen = s.remoteSeen := rfl
@[simp] theorem State.setGroup_remoteOut (s : State) (g : Group) : (s.setGroup g).remoteOut = s.remoteOut := rfl
@[simp] theorem State.setGroup_irqs (s : State) (g : Group) : (s.setGroup g).irqs = s.irqs := rfl
@[simp] theorem State.setGroup_irqHeld (s : State) (g : Group) : (s.setGroup g).irqHeld = s.irqHeld := rfl
@[simp] theorem State.setGroup_hostOut (s : State) (g : Group) : (s.setGroup g).hostOut = s.hostOut := rfl
@[simp] theorem State.setGroup_promotions (s : State) (g : Group) : (s.setGroup g).promotions = s.promotions := rfl
@[simp] theorem State.setGroup_promoted (s : State) (g : Group) : (s.setGroup g).promoted = s.promoted := rfl
@[simp] theorem State.setGroup_mgmt (s : State) (g : Group) : (s.setGroup g).mgmt = s.mgmt := rfl
@[simp] theorem State.setGroup_damage (s : State) (g : Group) : (s.setGroup g).damage = s.damage := rfl
@[simp] theorem State.setGroup_coh (s : State) (g : Group) : (s.setGroup g).coh = s.coh := rfl
@[simp] theorem State.setGroup_cycle (s : State) (g : Group) : (s.setGroup g).cycle = s.cycle := rfl
@[simp] theorem State.setGroup_agenda (s : State) (g : Group) : (s.setGroup g).agenda = s.agenda := rfl
@[simp] theorem State.setGroup_turn (s : State) (g : Group) : (s.setGroup g).turn = s.turn := rfl
@[simp] theorem State.setGroup_drawn (s : State) (g : Group) : (s.setGroup g).drawn = s.drawn := rfl

@[simp] theorem State.setEp_thr (s : State) (x : Episode) : (s.setEp x).thr = s.thr := rfl
@[simp] theorem State.setEp_parked (s : State) (x : Episode) : (s.setEp x).parked = s.parked := rfl
@[simp] theorem State.setEp_images (s : State) (x : Episode) : (s.setEp x).images = s.images := rfl
@[simp] theorem State.setEp_mem (s : State) (x : Episode) : (s.setEp x).mem = s.mem := rfl
@[simp] theorem State.setEp_cores (s : State) (x : Episode) : (s.setEp x).cores = s.cores := rfl
@[simp] theorem State.setEp_icache (s : State) (x : Episode) : (s.setEp x).icache = s.icache := rfl
@[simp] theorem State.setEp_transfers (s : State) (x : Episode) : (s.setEp x).transfers = s.transfers := rfl
@[simp] theorem State.setEp_spads (s : State) (x : Episode) : (s.setEp x).spads = s.spads := rfl
@[simp] theorem State.setEp_ctxs (s : State) (x : Episode) : (s.setEp x).ctxs = s.ctxs := rfl
@[simp] theorem State.setEp_groups (s : State) (x : Episode) : (s.setEp x).groups = s.groups := rfl
@[simp] theorem State.setEp_nextGid (s : State) (x : Episode) : (s.setEp x).nextGid = s.nextGid := rfl
@[simp] theorem State.setEp_lastServed (s : State) (x : Episode) : (s.setEp x).lastServed = s.lastServed := rfl
@[simp] theorem State.setEp_regions (s : State) (x : Episode) : (s.setEp x).regions = s.regions := rfl
@[simp] theorem State.setEp_nextRid (s : State) (x : Episode) : (s.setEp x).nextRid = s.nextRid := rfl
@[simp] theorem State.setEp_rwins (s : State) (x : Episode) : (s.setEp x).rwins = s.rwins := rfl
@[simp] theorem State.setEp_wgen (s : State) (x : Episode) : (s.setEp x).wgen = s.wgen := rfl
@[simp] theorem State.setEp_sends (s : State) (x : Episode) : (s.setEp x).sends = s.sends := rfl
@[simp] theorem State.setEp_nextSend (s : State) (x : Episode) : (s.setEp x).nextSend = s.nextSend := rfl
@[simp] theorem State.setEp_ecores (s : State) (x : Episode) : (s.setEp x).ecores = s.ecores := rfl
@[simp] theorem State.setEp_ecur (s : State) (x : Episode) : (s.setEp x).ecur = s.ecur := rfl
@[simp] theorem State.setEp_podcfg (s : State) (x : Episode) : (s.setEp x).podcfg = s.podcfg := rfl
@[simp] theorem State.setEp_ports (s : State) (x : Episode) : (s.setEp x).ports = s.ports := rfl
@[simp] theorem State.setEp_turward (s : State) (x : Episode) : (s.setEp x).turward = s.turward := rfl
@[simp] theorem State.setEp_podWins (s : State) (x : Episode) : (s.setEp x).podWins = s.podWins := rfl
@[simp] theorem State.setEp_unitWaits (s : State) (x : Episode) : (s.setEp x).unitWaits = s.unitWaits := rfl
@[simp] theorem State.setEp_lent (s : State) (x : Episode) : (s.setEp x).lent = s.lent := rfl
@[simp] theorem State.setEp_remoteSeen (s : State) (x : Episode) : (s.setEp x).remoteSeen = s.remoteSeen := rfl
@[simp] theorem State.setEp_remoteOut (s : State) (x : Episode) : (s.setEp x).remoteOut = s.remoteOut := rfl
@[simp] theorem State.setEp_irqs (s : State) (x : Episode) : (s.setEp x).irqs = s.irqs := rfl
@[simp] theorem State.setEp_irqHeld (s : State) (x : Episode) : (s.setEp x).irqHeld = s.irqHeld := rfl
@[simp] theorem State.setEp_hostOut (s : State) (x : Episode) : (s.setEp x).hostOut = s.hostOut := rfl
@[simp] theorem State.setEp_promotions (s : State) (x : Episode) : (s.setEp x).promotions = s.promotions := rfl
@[simp] theorem State.setEp_promoted (s : State) (x : Episode) : (s.setEp x).promoted = s.promoted := rfl
@[simp] theorem State.setEp_mgmt (s : State) (x : Episode) : (s.setEp x).mgmt = s.mgmt := rfl
@[simp] theorem State.setEp_damage (s : State) (x : Episode) : (s.setEp x).damage = s.damage := rfl
@[simp] theorem State.setEp_coh (s : State) (x : Episode) : (s.setEp x).coh = s.coh := rfl
@[simp] theorem State.setEp_cycle (s : State) (x : Episode) : (s.setEp x).cycle = s.cycle := rfl
@[simp] theorem State.setEp_agenda (s : State) (x : Episode) : (s.setEp x).agenda = s.agenda := rfl
@[simp] theorem State.setEp_turn (s : State) (x : Episode) : (s.setEp x).turn = s.turn := rfl
@[simp] theorem State.setEp_drawn (s : State) (x : Episode) : (s.setEp x).drawn = s.drawn := rfl

@[simp] theorem State.draw_thr (s : State) : s.draw.2.thr = s.thr := rfl
@[simp] theorem State.draw_parked (s : State) : s.draw.2.parked = s.parked := rfl
@[simp] theorem State.draw_images (s : State) : s.draw.2.images = s.images := rfl
@[simp] theorem State.draw_mem (s : State) : s.draw.2.mem = s.mem := rfl
@[simp] theorem State.draw_cores (s : State) : s.draw.2.cores = s.cores := rfl
@[simp] theorem State.draw_icache (s : State) : s.draw.2.icache = s.icache := rfl
@[simp] theorem State.draw_transfers (s : State) : s.draw.2.transfers = s.transfers := rfl
@[simp] theorem State.draw_spads (s : State) : s.draw.2.spads = s.spads := rfl
@[simp] theorem State.draw_ctxs (s : State) : s.draw.2.ctxs = s.ctxs := rfl
@[simp] theorem State.draw_groups (s : State) : s.draw.2.groups = s.groups := rfl
@[simp] theorem State.draw_nextGid (s : State) : s.draw.2.nextGid = s.nextGid := rfl
@[simp] theorem State.draw_lastServed (s : State) : s.draw.2.lastServed = s.lastServed := rfl
@[simp] theorem State.draw_regions (s : State) : s.draw.2.regions = s.regions := rfl
@[simp] theorem State.draw_nextRid (s : State) : s.draw.2.nextRid = s.nextRid := rfl
@[simp] theorem State.draw_rwins (s : State) : s.draw.2.rwins = s.rwins := rfl
@[simp] theorem State.draw_wgen (s : State) : s.draw.2.wgen = s.wgen := rfl
@[simp] theorem State.draw_sends (s : State) : s.draw.2.sends = s.sends := rfl
@[simp] theorem State.draw_nextSend (s : State) : s.draw.2.nextSend = s.nextSend := rfl
@[simp] theorem State.draw_eps (s : State) : s.draw.2.eps = s.eps := rfl
@[simp] theorem State.draw_ecores (s : State) : s.draw.2.ecores = s.ecores := rfl
@[simp] theorem State.draw_ecur (s : State) : s.draw.2.ecur = s.ecur := rfl
@[simp] theorem State.draw_podcfg (s : State) : s.draw.2.podcfg = s.podcfg := rfl
@[simp] theorem State.draw_ports (s : State) : s.draw.2.ports = s.ports := rfl
@[simp] theorem State.draw_turward (s : State) : s.draw.2.turward = s.turward := rfl
@[simp] theorem State.draw_podWins (s : State) : s.draw.2.podWins = s.podWins := rfl
@[simp] theorem State.draw_unitWaits (s : State) : s.draw.2.unitWaits = s.unitWaits := rfl
@[simp] theorem State.draw_lent (s : State) : s.draw.2.lent = s.lent := rfl
@[simp] theorem State.draw_remoteSeen (s : State) : s.draw.2.remoteSeen = s.remoteSeen := rfl
@[simp] theorem State.draw_remoteOut (s : State) : s.draw.2.remoteOut = s.remoteOut := rfl
@[simp] theorem State.draw_irqs (s : State) : s.draw.2.irqs = s.irqs := rfl
@[simp] theorem State.draw_irqHeld (s : State) : s.draw.2.irqHeld = s.irqHeld := rfl
@[simp] theorem State.draw_hostOut (s : State) : s.draw.2.hostOut = s.hostOut := rfl
@[simp] theorem State.draw_promotions (s : State) : s.draw.2.promotions = s.promotions := rfl
@[simp] theorem State.draw_promoted (s : State) : s.draw.2.promoted = s.promoted := rfl
@[simp] theorem State.draw_mgmt (s : State) : s.draw.2.mgmt = s.mgmt := rfl
@[simp] theorem State.draw_damage (s : State) : s.draw.2.damage = s.damage := rfl
@[simp] theorem State.draw_coh (s : State) : s.draw.2.coh = s.coh := rfl
@[simp] theorem State.draw_cycle (s : State) : s.draw.2.cycle = s.cycle := rfl
@[simp] theorem State.draw_agenda (s : State) : s.draw.2.agenda = s.agenda := rfl
@[simp] theorem State.draw_turn (s : State) : s.draw.2.turn = s.turn := rfl

@[simp] theorem State.onThr_thr (s : State) (f : Thread → Thread) : (s.onThr f).thr = f s.thr := rfl
@[simp] theorem State.setWait_thr (s : State) (w : Wait) : (s.setWait w).thr = { s.thr with wait := w } := rfl
@[simp] theorem State.storePA_mem (s : State) (a : Nat) (l : List Byte) : (s.storePA a l).mem = s.mem.write a l := rfl
@[simp] theorem State.draw_drawn (s : State) : s.draw.2.drawn = s.drawn + 1 := rfl

end Sys2Proof.Machine
end

