-- ==== Sys2Proof/Laws/Thread.lean ====
section
/-! SUPPORT. What the operations that the instructions of a thread share can do: the interlocks, the commit, the writes of registers, the
traps. -/

namespace Sys2Proof.Machine

/-! ### Execution -/

/-- An instruction that executes has its effect on the checked state. -/
theorem State.scalar_of_executes {s : State} {i : Instr} {srcs dst : List (BitVec 6)} {f : State → Out} (h : s.Executes srcs dst) :
    s.scalar i srcs dst f = f s.checked := by
  obtain ⟨hw, hd, hm⟩ := h
  unfold State.scalar State.checked
  rw [hw]
  simp only [hd]
  rcases hk : s.takeMismatch with ⟨n, u⟩
  rw [hk] at hm
  have hn : n < 2 := hm
  simp [hn]

/-- Meeting mismatches changes the damage alone. -/
theorem State.mismatches_eq (s : State) (a : CodeAddr) : ∃ d, (s.mismatches a).2 = { s with damage := d } := by
  unfold State.mismatches
  split
  · exact ⟨s.damage, rfl⟩
  · split
    · exact ⟨_, rfl⟩
    · exact ⟨s.damage, rfl⟩

/-- Taking a mismatch changes the damage alone. -/
theorem State.checked_eq (s : State) : ∃ d, s.checked = { s with damage := d } := s.mismatches_eq s.thr.pc

@[simp] theorem State.checked_thr (s : State) : s.checked.thr = s.thr := by obtain ⟨d, h⟩ := s.checked_eq; rw [h]
@[simp] theorem State.checked_mem (s : State) : s.checked.mem = s.mem := by obtain ⟨d, h⟩ := s.checked_eq; rw [h]
@[simp] theorem State.checked_ctxs (s : State) : s.checked.ctxs = s.ctxs := by obtain ⟨d, h⟩ := s.checked_eq; rw [h]
@[simp] theorem State.checked_cycle (s : State) : s.checked.cycle = s.cycle := by obtain ⟨d, h⟩ := s.checked_eq; rw [h]
@[simp] theorem State.checked_regions (s : State) : s.checked.regions = s.regions := by obtain ⟨d, h⟩ := s.checked_eq; rw [h]
@[simp] theorem State.checked_groups (s : State) : s.checked.groups = s.groups := by obtain ⟨d, h⟩ := s.checked_eq; rw [h]
@[simp] theorem State.checked_mgmt (s : State) : s.checked.mgmt = s.mgmt := by obtain ⟨d, h⟩ := s.checked_eq; rw [h]
@[simp] theorem State.checked_g (s : State) (r : BitVec 6) : s.checked.g r = s.g r := by unfold State.g; rw [State.checked_thr]

/-- A thread with empty streams and nothing damaged executes every scalar instruction, and its state needs no check. -/
theorem State.Clear.executes {s : State} (h : s.Clear) (srcs dst : List (BitVec 6)) : s.Executes srcs dst := by
  obtain ⟨hv, ht, hg, hm, -⟩ := h
  refine ⟨?_, ?_, ?_⟩
  · simp [State.gWait, Thread.vqPending, State.syncOn, hv, ht]
  · simp [State.gDamaged, hg]
  · simp [State.takeMismatch, State.mismatches, hm]

theorem State.Clear.checked {s : State} (h : s.Clear) : s.checked = s := by
  simp [State.checked, State.takeMismatch, State.mismatches, h.2.2.2.1]

/-! ### Without a hachure region -/

theorem State.Serial.myRegion {s : State} (h : s.Serial) : s.myRegion = none := by
  unfold State.myRegion State.regionOf
  rw [show s.regions = [] from h]; rfl

theorem State.Serial.guessing {s : State} (h : s.Serial) : s.guessing = false := by
  simp [State.guessing, State.iteration, h.myRegion]

theorem State.Serial.speculative {s : State} (h : s.Serial) : s.speculative = false := by
  simp [State.speculative, State.iteration, h.myRegion]

/-! ### Traps -/

/-- A fault in user mode outside a region, with no convoy in flight, enters the trap handler. -/
theorem State.raiseAt_user {s : State} (h : s.Serial) (hv : s.thr.vq = []) (hu : s.thr.sup = false) (a : TrapAt) (f : FaultInfo) :
    s.raiseAt a f = s.enterTrap a f := by
  simp [State.raiseAt, h.guessing, h.speculative, hv, hu]

/-- A fault in supervisor mode outside a region, with no convoy in flight, is a double fault. -/
theorem State.raiseAt_sup {s : State} (h : s.Serial) (hv : s.thr.vq = []) (hu : s.thr.sup = true) (a : TrapAt) (f : FaultInfo) :
    s.raiseAt a f = s.doubleFault a f := by
  simp [State.raiseAt, h.guessing, h.speculative, hv, hu]

/-! ### Registers -/

theorem vget_vset_same {α : Type} {n : Nat} [NeZero n] (v : Vector α n) (i : Nat) (x : α) : vget (vset v i x) i = x := by
  simp [vget, vset]

theorem vget_vset_other {α : Type} {n : Nat} [NeZero n] (v : Vector α n) (i j : Nat) (x : α) (h : i % n ≠ j % n) :
    vget (vset v i x) j = vget v j := by
  simp [vget, vset, h]

/-- A write of `g d` shows in `g d` alone, and a write of `g0` nowhere. -/
theorem State.setG_g (s : State) (d r : BitVec 6) (x : Word) :
    (s.setG d x).g r = if r = 0 then 0 else if r = d then x else s.g r := by
  unfold State.g State.setG Thread.setG
  by_cases hr : r = 0
  · simp [hr]
  · by_cases hd : d = 0
    · subst hd
      have hr' : ¬ r = 0#6 := hr
      simp [hr']
    · simp only [hr, hd, if_false]
      by_cases he : r = d
      · subst he; simp [vget_vset_same]
      · have : d.toNat % 64 ≠ r.toNat % 64 := by
          rw [Nat.mod_eq_of_lt d.isLt, Nat.mod_eq_of_lt r.isLt]
          exact fun h => he (BitVec.eq_of_toNat_eq h.symm)
        simp [he, vget_vset_other _ _ _ _ this]

/-! ### The commit -/

/-- Of a thread, only its trace and its counters are others. -/
def Thread.OnlyTrace (a b : Thread) : Prop := b = { a with trace := b.trace, c := { a.c with pmc := b.c.pmc } }

theorem Thread.OnlyTrace.refl (t : Thread) : t.OnlyTrace t := rfl

theorem Thread.OnlyTrace.trans {a b c : Thread} (h : a.OnlyTrace b) (k : b.OnlyTrace c) : a.OnlyTrace c := by
  unfold Thread.OnlyTrace at *
  rw [k, h]

theorem Thread.push_only (t : Thread) (cycle : Nat) (ws : List Word) : t.OnlyTrace (t.push cycle ws) := by
  unfold Thread.push
  dsimp only
  split <;> rfl

theorem Thread.pushLost_only (t : Thread) (cycle : Nat) : t.OnlyTrace (t.pushLost cycle) := by
  unfold Thread.pushLost
  split
  · rfl
  · exact Thread.OnlyTrace.trans (b := { t with trace := { t.trace with lost := 0 } }) rfl (Thread.push_only _ cycle _)

theorem Thread.enqueue_only (t : Thread) (cycle : Nat) (ws : List Word) : t.OnlyTrace (t.enqueue cycle ws) :=
  (t.pushLost_only cycle).trans (Thread.push_only _ cycle ws)

theorem Thread.flushBits_only (t : Thread) (cycle : Nat) : t.OnlyTrace (t.flushBits cycle) := by
  unfold Thread.flushBits
  split
  · rfl
  · exact Thread.OnlyTrace.trans (b := { t with trace := { t.trace with bits := [] } }) rfl (Thread.enqueue_only _ cycle _)

theorem Thread.branchBit_only (t : Thread) (cycle : Nat) (b : Bool) : t.OnlyTrace (t.branchBit cycle b) := by
  unfold Thread.branchBit
  split
  · rfl
  · dsimp only
    split
    · exact Thread.OnlyTrace.trans (b := { t with trace := { t.trace with bits := t.trace.bits ++ [b] } }) rfl (Thread.flushBits_only _ cycle)
    · rfl

/-- Loop stepping changes the loop registers, the trace and the counters alone. -/
theorem Thread.loopSteps_only (cycle : Nat) (a : CodeAddr) (l : List Nat) (t : Thread) :
    (Thread.loopSteps cycle a l t).1 =
      { t with
        r := { t.r with loops := (Thread.loopSteps cycle a l t).1.r.loops }
        c := { t.c with pmc := (Thread.loopSteps cycle a l t).1.c.pmc }
        trace := (Thread.loopSteps cycle a l t).1.trace } := by
  induction l generalizing t with
  | nil => rfl
  | cons n l ih =>
    unfold Thread.loopSteps
    dsimp only
    split
    · split
      · have := Thread.branchBit_only
          { t with r := { t.r with loops := vset t.r.loops n { vget t.r.loops n with count := (vget t.r.loops n).count - 1 } } } cycle true
        unfold Thread.OnlyTrace at this
        rw [this]
      · have := Thread.branchBit_only
          { t with r := { t.r with loops := vset t.r.loops n { vget t.r.loops n with count := (vget t.r.loops n).count - 1 } } } cycle false
        unfold Thread.OnlyTrace at this
        rw [ih, this]
    · exact ih t

/-- A commit leaves of the thread what `Thread.OnlyScalar` says, and its `g` registers. -/
theorem State.commit_only (s : State) : s.thr.OnlyScalar s.commit.thr ∧ s.commit.thr.r.g = s.thr.r.g := by
  unfold State.commit State.commitLen Thread.OnlyScalar
  dsimp only
  split
  · exact ⟨rfl, rfl⟩
  · have h := Thread.loopSteps_only s.cycle s.thr.pc [2, 1, 0] s.thr
    rw [h]
    exact ⟨rfl, rfl⟩

@[simp] theorem State.commit_g (s : State) (r : BitVec 6) : s.commit.g r = s.g r := by
  unfold State.g; rw [s.commit_only.2]

/-- A taken transfer leaves of the thread what `Thread.OnlyScalar` says, and its `g` registers. -/
theorem State.jump_only (s : State) (a : CodeAddr) : s.thr.OnlyScalar (s.jump a).thr ∧ (s.jump a).thr.r.g = s.thr.r.g := ⟨rfl, rfl⟩

/-- A result is written to its register alone. -/
theorem State.writeG_keepsG (s : State) (d : BitVec 6) (x : Word) : s.KeepsG (s.writeG d x) [d] := by
  intro r hr
  have : r ≠ d := by simpa using hr
  unfold State.writeG
  rw [State.commit_g, State.setG_g]
  by_cases h0 : r = 0
  · simp [h0, State.g]
  · rw [if_neg h0, if_neg this]

theorem State.writeG_g (s : State) (d : BitVec 6) (x : Word) (h : d ≠ 0) : (s.writeG d x).g d = x := by
  unfold State.writeG
  rw [State.commit_g, State.setG_g, if_neg h, if_pos rfl]

/-- Writing a result changes the thread alone. -/
theorem State.writeG_onlyThread (s : State) (d : BitVec 6) (x : Word) : s.OnlyThread (s.writeG d x) := rfl

end Sys2Proof.Machine
end

