-- ==== Sys2Proof/Tests/Slice0.lean ====
section
/-! SUPPORT. Tests: ill-formed words are refused, words of the spec decode, steps give the values of the spec, and the hypotheses of the
statements are met by small states. -/

namespace Sys2Proof.Tests

open Machine Claim

set_option maxRecDepth 20000
set_option Elab.async false

/-! ### Small states -/

/-- A thread of context 0, placed and running, at address 0. -/
def user : State := State.reset.placeWord 0

/-- The thread in its trap handler. -/
def handler : State := user.onThr fun t => { t with sup := true }

/-- Two registers of the thread. -/
def regs (a b : Word) : State := (user.setG 1 a).setG 2 b

/-- The data space of context 0 maps its first 2 GiB to themselves; the second gigabyte may be written. -/
def mapData (s : State) : State :=
  let m := (((s.mem.write 0x3000 (toBytes 8 0x4001)).write 0x4000 (toBytes 8 0x5001)).write 0x5000 (toBytes 8 0x3)).write 0x5008
    (toBytes 8 0x40000007)
  { s.setCtx 0 { s.ctx 0 with droot := 0x3000, seen := m } with mem := m }

/-- The thread with its data space, two registers in it. -/
def data (a b : Word) : State := mapData (regs a b)

/-- An instruction ends in a next state that has a property. -/
def gives (o : Host.Outcome State Fault Refusal) (p : State → Bool) : Bool :=
  match o with
  | .next s => p s
  | _ => false

theorem clearI {s : State} (h : s.thr.vq = [] ∧ s.thr.tq = [] ∧ s.damage.greg = [] ∧ s.damage.mismatch = [] ∧ s.damage.csr = []) : s.Clear := h

theorem executesI {s : State} {a b : List (BitVec 6)}
    (h : s.gWait (a ++ b) = none ∧ s.gDamaged a = false ∧ s.takeMismatch.1 < 2) : s.Executes a b := h

/-! ### Hypotheses that are met: scalar arithmetic -/

theorem witness_IntegerResult :
    ∃ (i : Instr) (s : State) (f : Form), intForm i = some f ∧ wf i = true ∧ s.Executes f.srcs [f.dst] :=
  ⟨.add ⟨3, 1, 2, 0⟩, regs 5 7, _, rfl, by decide +kernel, executesI (by decide +kernel)⟩

theorem witness_IntegerResult_g0 :
    ∃ (i : Instr) (s : State) (f : Form), intForm i = some f ∧ wf i = true ∧ s.Executes f.srcs [f.dst] ∧ f.dst = 0 :=
  ⟨.bfi ⟨0, 1, 63 + 64⟩, regs 5 7, _, rfl, by decide +kernel, executesI (by decide +kernel), rfl⟩

theorem witness_IntegerFrame : ∃ (i : Instr) (s : State) (f : Form), intForm i = some f ∧ s.Executes f.srcs [f.dst] :=
  ⟨.sel ⟨3, 1, 2, 1⟩, regs 5 7, _, rfl, executesI (by decide +kernel)⟩

theorem witness_DivisionCorners : ∃ (o : SOp) (s : State), s.Clear ∧ s.g o.a = 0x8000000000000000 ∧ s.g o.b = 0xFFFFFFFFFFFFFFFF :=
  ⟨⟨3, 1, 2, 0⟩, regs 0x8000000000000000 0xFFFFFFFFFFFFFFFF, clearI (by decide +kernel), by decide +kernel⟩

theorem witness_DivisionCorners_zero : ∃ (o : SOp) (s : State), s.Clear ∧ s.g o.b = 0 :=
  ⟨⟨3, 1, 2, 0⟩, regs 5 0, clearI (by decide +kernel), by decide +kernel⟩

theorem witness_DivisionCorners_other :
    ∃ (o : SOp) (s : State), s.Clear ∧ s.g o.b ≠ 0 ∧ ¬ (s.g o.a = 0x8000000000000000 ∧ s.g o.b = 0xFFFFFFFFFFFFFFFF) :=
  ⟨⟨3, 1, 2, 0⟩, regs 0x8000000000000000 1, clearI (by decide +kernel), by decide +kernel⟩

theorem witness_RoundExact : ∃ (f : FpFmt) (c : RCtx) (x : Nat) (n : Bool) (m : Nat) (e : Int),
    f ∈ [fmtF16, fmtBF16, fmtF32, fmtF64] ∧ x < 2 ^ f.width ∧ f.value x = .fin n m e ∧ c.ftz = false :=
  ⟨fmtF32, { rm := .rne, ftz := false, sat := false }, 0x007FFFFF, false, 0x7FFFFF, -149, by simp, by decide, by decide +kernel, rfl⟩

theorem witness_FloatRounding : ∃ (i : Instr) (s : State) (f : FpForm), fpForm i = some f ∧ s.Executes f.srcs [f.dst] :=
  ⟨.fadd .f32 ⟨3, 1, 2, 0⟩, regs 0x3F800000 0x3F800000, _, rfl, executesI (by decide +kernel)⟩

theorem witness_FloatPlain : ∃ (i : Instr) (s : State) (f : Form), fpPlain i = some f ∧ s.Executes f.srcs [f.dst] :=
  ⟨.fmin .f32 ⟨3, 1, 2, 0⟩, regs 0x3F800000 0x7FC00000, _, rfl, executesI (by decide +kernel)⟩

theorem witness_IntegerConversion :
    ∃ (d t : CvtTy) (o : SOp) (s : State), cvtCode d < 8 ∧ cvtCode t < 8 ∧ s.Executes [o.a] [o.d] :=
  ⟨.i32, .i64, ⟨3, 1, 0, 0⟩, regs 0xFFFFFFFF 0, by decide, by decide, executesI (by decide +kernel)⟩

theorem witness_FloatFrame : ∃ (i : Instr) (s t : State) (srcs : List (BitVec 6)) (d : BitVec 6),
    ((∃ f, fpForm i = some f ∧ srcs = f.srcs ∧ d = f.dst) ∨ (∃ f, fpPlain i = some f ∧ srcs = f.srcs ∧ d = f.dst)) ∧
    s.Executes srcs [d] ∧ exec i s = .next t :=
  ⟨.fclass .f32 ⟨3, 1, 0, 0⟩, regs 0x7F800000 0, _, [1], 3, .inr ⟨_, rfl, rfl, rfl⟩, executesI (by decide +kernel), rfl⟩

/-! ### Hypotheses that are met: control transfers, loops, waits, traps -/

/-- Loop 0 active, its last word at the thread's address. -/
def looping (n : Nat) (count : Word) : State :=
  user.onThr fun t => { t with r := { t.r with loops := vset t.r.loops n ⟨count, 0, t.pc⟩ } }

/-- A loop is active and ends at the thread's address. -/
abbrev endsAt (s : State) (k : Nat) : Prop := (vget s.thr.r.loops k).count ≠ 0 ∧ (vget s.thr.r.loops k).last = s.thr.pc

/-- The three loops end at the thread's address, with these counts. -/
def nested (c0 c1 c2 : Word) : State :=
  user.onThr fun t => { t with r := { t.r with loops := #v[⟨c0, 0, t.pc⟩, ⟨c1, 0, t.pc⟩, ⟨c2, 0, t.pc⟩] } }

theorem witness_LoopStep_end : ∃ (s : State) (n : Nat), n < 3 ∧ s.thr.sup = false ∧ endsAt s n ∧ (∀ k < 3, n < k → ¬ endsAt s k) ∧
    (vget s.thr.r.loops n).count = 1 ∧ ∀ k < n, ¬ endsAt s k :=
  ⟨looping 2 1, 2, by decide +kernel⟩

theorem witness_LoopStep_again : ∃ (s : State) (n : Nat), n < 3 ∧ s.thr.sup = false ∧ endsAt s n ∧ (∀ k < 3, n < k → ¬ endsAt s k) ∧
    (vget s.thr.r.loops n).count ≠ 1 :=
  ⟨nested 5 4 0, 1, by decide +kernel⟩

theorem witness_LoopStep_nested : ∃ (s : State) (n m : Nat), n < 3 ∧ s.thr.sup = false ∧ endsAt s n ∧ (∀ k < 3, n < k → ¬ endsAt s k) ∧
    (vget s.thr.r.loops n).count = 1 ∧ m < n ∧ endsAt s m ∧ (∀ k < n, m < k → ¬ endsAt s k) ∧ (vget s.thr.r.loops m).count ≠ 1 :=
  ⟨nested 4 0 1, 2, 0, by decide +kernel⟩

theorem witness_LoopStep_nested_end : ∃ (s : State) (n m : Nat), n < 3 ∧ s.thr.sup = false ∧ endsAt s n ∧ (∀ k < 3, n < k → ¬ endsAt s k) ∧
    (vget s.thr.r.loops n).count = 1 ∧ m < n ∧ endsAt s m ∧ (∀ k < n, m < k → ¬ endsAt s k) ∧ (vget s.thr.r.loops m).count = 1 ∧
    ∀ k < m, ¬ endsAt s k :=
  ⟨nested 0 1 1, 2, 1, by decide +kernel⟩

theorem witness_LoopStep_three : ∃ (s : State) (n m j : Nat), n < 3 ∧ s.thr.sup = false ∧ endsAt s n ∧ (∀ k < 3, n < k → ¬ endsAt s k) ∧
    (vget s.thr.r.loops n).count = 1 ∧ m < n ∧ endsAt s m ∧ (∀ k < n, m < k → ¬ endsAt s k) ∧ (vget s.thr.r.loops m).count = 1 ∧ j < m ∧
    endsAt s j :=
  ⟨nested 1 1 1, 2, 1, 0, by decide +kernel⟩

theorem witness_LoopStep_other : ∃ (s : State), ∀ k < 3, ¬ endsAt s k := ⟨user, by decide +kernel⟩

theorem witness_BranchResult : ∃ (i : Instr) (s : State) (f : Branch), branchForm i = some f ∧ s.Executes f.srcs [] ∧ f.taken s = true :=
  ⟨.br .lt ⟨1, 2, -1⟩, regs 5 7, _, rfl, executesI (by decide +kernel), by decide +kernel⟩

theorem witness_BranchResult_not : ∃ (i : Instr) (s : State) (f : Branch), branchForm i = some f ∧ s.Executes f.srcs [] ∧ f.taken s = false :=
  ⟨.bri .lt ⟨1, 5, 3⟩, regs 5 7, _, rfl, executesI (by decide +kernel), by decide +kernel⟩

theorem witness_JumpResult : ∃ (i : Instr) (s : State) (f : Jump), jumpForm i = some f ∧ s.Executes f.srcs f.dsts ∧
    (f.indirect = true → (f.dest s).toNat < 2 ^ 48 ∧ (f.dest s).toNat % 8 = 0) :=
  ⟨.callr ⟨0, 1, 0, 0⟩, regs 0xFFFFFFFFFFF8 0, _, rfl, executesI (by decide +kernel), fun _ => by decide +kernel⟩

theorem witness_JumpTrap : ∃ (o : SOp) (s : State), s.Clear ∧ s.Serial ∧ s.thr.sup = false ∧ (s.g o.a).toNat ≥ 2 ^ 48 :=
  ⟨⟨0, 1, 0, 0⟩, regs 0x1000000000004 0, clearI (by decide +kernel), rfl, by decide +kernel⟩

theorem witness_JumpTrap_word : ∃ (o : SOp) (s : State), s.Clear ∧ s.Serial ∧ s.thr.sup = false ∧ (s.g o.a).toNat % 8 ≠ 0 :=
  ⟨⟨0, 1, 0, 0⟩, regs 0x44 0, clearI (by decide +kernel), rfl, by decide +kernel⟩

theorem witness_LoopResult : ∃ (n : LoopIx) (o : BOp) (s : State), s.Executes [o.a] [] ∧ 1 ≤ o.off.toInt ∧ s.g o.a ≠ 0 ∧
    ∀ k < 3, k = loopNum n ∨ (vget s.thr.r.loops k).count = 0 ∨ (vget s.thr.r.loops k).last ≠ s.thr.pc :=
  ⟨.lc0, ⟨1, 0, 1⟩, regs 5 0, executesI (by decide +kernel), by decide +kernel⟩

theorem witness_LoopBreak : ∃ (n : LoopIx) (c : Cond) (o : BOp) (s : State), s.Executes [o.a, o.b] [] ∧ s.csrLost [0x018 + loopNum n] = false ∧
    (vget s.thr.r.loops (loopNum n)).count ≠ 0 ∧ holds c (s.g o.a) (s.g o.b) = true :=
  ⟨.lc1, .eq, ⟨6, 0, 0⟩, looping 1 4, executesI (by decide +kernel), by decide +kernel⟩

theorem witness_WaitResult : user.Executes [] [] := executesI (by decide +kernel)

theorem witness_WaitWakes : ∃ s : State, s.thr.wait = .waitf false 3 ∧ vget s.thr.r.arr 3 = BitVec.allOnes 32 :=
  ⟨user.setWait (.waitf false 3), rfl, by decide +kernel⟩

theorem witness_ExitEnds : user.Clear ∧ user.Serial := ⟨clearI (by decide +kernel), rfl⟩

/-- The thread with a convoy posted that has not run. -/
def withConvoy (ms : List Member) (s : State) : State :=
  s.onThr fun t => { t with vq := [{ pc := 0, began := 0, younger := 0, rows := 1, cols := 4, fmode := 0, rngkey := 0, members := ms }] }

/-- A member that captured nothing. -/
def member (i : Instr) : Member := { ins := i, x0 := 0, x1 := 0, x2 := 0, rng := 0, stream := none, early := 0 }

theorem witness_ExitWaits : ∃ s : State, s.Executes [] [] ∧ s.Serial ∧ s.thr.vq ≠ [] :=
  ⟨withConvoy [] user, executesI (by decide +kernel), rfl, by decide +kernel⟩

theorem witness_TrapTaken : user.Serial ∧ user.thr.vq = [] ∧ user.thr.sup = false := ⟨rfl, rfl, by decide +kernel⟩

theorem witness_FetchTraps : ∃ s : State, s.Serial ∧ s.thr.vq = [] ∧ s.thr.sup = false ∧
    s.xlateCode s.thr.id.ctx s.thr.sup (s.thr.pc.toNat / 64 * 64) = none :=
  ⟨user.onThr fun t => { t with pc := 0x40000000 }, rfl, rfl, by decide +kernel⟩

theorem witness_TrapAndBreak : user.Clear ∧ user.Serial ∧ user.thr.sup = false :=
  ⟨clearI (by decide +kernel), rfl, by decide +kernel⟩

theorem witness_ReturnFromTrap : ∃ s : State, s.Executes [] [] ∧ s.thr.sup = true ∧ s.csrLost [0x102, 0x103] = false ∧ s.thr.c.trapcause.toNat / 1024 % 4 = 2 :=
  ⟨handler.onThr fun t => { t with c := { t.c with trapcause := 0x807 } }, executesI (by decide +kernel), by decide +kernel⟩

theorem witness_DoubleFault : handler.Serial ∧ handler.thr.vq = [] ∧ handler.thr.sup = true ∧ handler.thr.settled = true :=
  ⟨rfl, rfl, by decide +kernel⟩

theorem witness_CsrRead : ∃ (s : State) (o : YOp), s.Executes [] [o.g] ∧ csrModeOk s.thr.sup false o.n12.toNat = true ∧ o.n12 = 0x012 ∧
    s.thr.vq = [] := ⟨user, ⟨0x012, 5⟩, executesI (by decide +kernel), by decide +kernel, rfl, rfl⟩

theorem witness_CsrWrite : ∃ (s : State) (o : YOp) (n : Nat), n = o.n12.toNat ∧ csrPlain n ∧ csrModeOk s.thr.sup true n = true ∧
    s.csrValueOk n (s.g o.g) = true ∧ s.thr.vq = [] ∧ s.Executes [o.g] [o.g] :=
  ⟨regs 0x43 0, ⟨0x011, 1⟩, 0x011, rfl, .inl (by decide), by decide +kernel, by decide +kernel, rfl, executesI (by decide +kernel)⟩

theorem witness_CsrWrite_engerr : ∃ (s : State) (o : YOp), o.n12 = 0x031 ∧ csrModeOk s.thr.sup true o.n12.toNat = true ∧
    s.csrValueOk 0x031 (s.g o.g) = true ∧ s.Executes [o.g] [] ∧ s.Executes [o.g] [o.g] ∧ s.csrDamaged 0x031 = false :=
  ⟨regs 0x100 0, ⟨0x031, 1⟩, rfl, by decide +kernel, by decide +kernel, executesI (by decide +kernel), executesI (by decide +kernel), by decide +kernel⟩

theorem witness_CsrWrite_fstat : ∃ (s : State) (o : YOp), o.n12 = 0x012 ∧ csrModeOk s.thr.sup true o.n12.toNat = true ∧
    s.csrValueOk 0x012 (s.g o.g) = true ∧ s.thr.vq = [] ∧ s.Executes [o.g] [] :=
  ⟨regs 0x1F 0, ⟨0x012, 1⟩, rfl, by decide +kernel, by decide +kernel, rfl, executesI (by decide +kernel)⟩

theorem witness_CsrTraps_mode : ∃ (s : State) (o : YOp), s.Clear ∧ s.Serial ∧ s.thr.sup = false ∧ csrModeOk false true o.n12.toNat = false :=
  ⟨regs 0 0, ⟨0x102, 1⟩, clearI (by decide +kernel), rfl, by decide +kernel⟩

theorem witness_CsrTraps_value : ∃ (s : State) (o : YOp), s.Clear ∧ s.Serial ∧ s.thr.sup = false ∧
    csrModeOk false true o.n12.toNat = true ∧ s.csrValueOk o.n12.toNat (s.g o.g) = false :=
  ⟨regs 5 0, ⟨0x011, 1⟩, clearI (by decide +kernel), rfl, by decide +kernel⟩

theorem witness_CsrSpecial_policygen : ∃ (s : State) (o : YOp), s.Clear ∧ s.Serial ∧ s.g o.g < 0x100000000 ∧
    s.tctx.policygen.toNat < (s.g o.g).toNat ∧ s.thr.id.ctx < 64 :=
  ⟨regs 1 0, ⟨0, 1⟩, clearI (by decide +kernel), rfl, by decide +kernel⟩

/-- The thread in its handler, with its data space, and an address in g1. -/
def dataHandler (a : Word) : State := (data a 0).onThr fun t => { t with sup := true }

theorem witness_CsrSpecial_tmapb : ∃ (s : State) (o : YOp), s.Clear ∧ s.Serial ∧ s.csrValueOk 0x100 (s.g o.g) = true ∧
    csrModeOk s.thr.sup true 0x100 = true ∧ s.tmapbState (s.g o.g) = .ready :=
  ⟨dataHandler 0x40010000, ⟨0x100, 1⟩, clearI (by decide +kernel), rfl, by decide +kernel⟩

theorem witness_CsrSpecial_tracectl : ∃ (s : State) (o : YOp), s.Clear ∧ s.Serial ∧ s.csrValueOk 0x109 (s.g o.g) = true ∧
    csrModeOk s.thr.sup true 0x109 = true :=
  ⟨dataHandler 0x500000010, ⟨0x109, 1⟩, clearI (by decide +kernel), rfl, by decide +kernel⟩

/-! ### Hypotheses that are met: scalar memory -/

theorem witness_LoadStore_lda : ∃ (s : State) (t : LdTy) (o : MOp) (pa : Nat), s.Executes [o.base, o.index] [o.t] ∧ s.Serial ∧
    s.accessWaits = false ∧ s.xlate s.thr.id.ctx s.thr.sup false (address s o).toNat = .ok pa ∧
    s.dataErr s.thr.id.ctx true false pa = none ∧ (address s o).toNat % ldBytes t = 0 :=
  ⟨data 0x40000FF8 0, .n64, ⟨3, 1, 0, 0, 0⟩, 0x40000FF8, executesI (by decide +kernel), rfl, by decide +kernel⟩

theorem witness_LoadStore_st : ∃ (s : State) (z : Size) (o : MOp) (pa : Nat), s.Executes [o.t, o.base, o.index] [] ∧ s.Serial ∧
    s.accessWaits = false ∧ s.xlate s.thr.id.ctx s.thr.sup true (address s o).toNat = .ok pa ∧
    s.dataErr s.thr.id.ctx false true pa = none ∧ (address s o).toNat % 64 + szBytes z ≤ 64 :=
  ⟨data 0x4000003F 0, .b1, ⟨2, 1, 0, 0, 0⟩, 0x4000003F, executesI (by decide +kernel), rfl, by decide +kernel⟩

theorem witness_AtomicResult : ∃ (s : State) (t : AmoTy) (o : MOp) (pa : Nat) (op : AmoOp), s.Serial ∧ s.accessWaits = false ∧
    (atomicAddress s o).toNat % amoBytes t = 0 ∧ s.xlate s.thr.id.ctx s.thr.sup true (atomicAddress s o).toNat = .ok pa ∧
    s.dataErr s.thr.id.ctx true true pa = none ∧ AmoOp.ofCode (opOf o) = some op ∧ s.Executes [o.base, o.index] [o.t] :=
  ⟨data 0x40000010 1, .i32, ⟨3, 1, 2, 0, BitVec.ofNat 28 (8 * 2 ^ 24 + 4)⟩, 0x40000014, .swap, rfl, by decide +kernel, by decide +kernel,
    by decide +kernel, by decide +kernel, rfl, executesI (by decide +kernel)⟩

theorem witness_AtomicResult_cas : ∃ (s : State) (t : AmoTy) (o : MOp) (pa : Nat), s.Serial ∧ s.accessWaits = false ∧
    (atomicAddress s o).toNat % amoBytes t = 0 ∧ s.xlate s.thr.id.ctx s.thr.sup true (atomicAddress s o).toNat = .ok pa ∧
    s.dataErr s.thr.id.ctx true true pa = none ∧ s.Executes [o.base, o.index, o.t] [o.t] :=
  ⟨data 0x40000010 1, .n64, ⟨3, 1, 2, 0, 0⟩, 0x40000010, rfl, by decide +kernel, by decide +kernel, by decide +kernel, by decide +kernel,
    executesI (by decide +kernel)⟩

theorem witness_AccessTraps_misaligned : ∃ (s : State) (i : Instr) (f : Access), accessForm i = some f ∧ s.Executes f.srcs f.dsts ∧ s.Serial ∧
    (s.thr.vq = [] ∧ s.acqPending = false) ∧ s.thr.sup = false ∧ f.misaligned s :=
  ⟨data 0x4000003F 0, .ld .i32 ⟨3, 1, 0, 0, 0⟩, _, rfl, executesI (by decide +kernel), rfl, by decide +kernel, by decide +kernel,
    show (if _ then _ else _) from by decide +kernel⟩

theorem witness_AccessTraps_walk : ∃ (s : State) (i : Instr) (f : Access) (cause : Nat), accessForm i = some f ∧ s.Executes f.srcs f.dsts ∧
    s.Serial ∧ (s.thr.vq = [] ∧ s.acqPending = false) ∧ s.thr.sup = false ∧ ¬ f.misaligned s ∧ s.xlate s.thr.id.ctx false f.write (f.ea s).toNat = .error cause :=
  ⟨data 0x80000000 0, .ld .i32 ⟨3, 1, 0, 0, 0⟩, _, 0x03, rfl, executesI (by decide +kernel), rfl, by decide +kernel, by decide +kernel,
    show ¬ (if _ then _ else _) from by decide +kernel, by decide +kernel⟩

theorem witness_AccessTraps_error : ∃ (s : State) (i : Instr) (f : Access) (cause pa : Nat), accessForm i = some f ∧
    s.Executes f.srcs f.dsts ∧ s.Serial ∧ (s.thr.vq = [] ∧ s.acqPending = false) ∧ s.thr.sup = false ∧ ¬ f.misaligned s ∧
    s.xlate s.thr.id.ctx false f.write (f.ea s).toNat = .ok pa ∧ s.noPort pa = false ∧ s.dataErr s.thr.id.ctx f.read f.write pa = some cause :=
  ⟨{ data 0x40000000 0 with damage := { (data 0 0).damage with check := [(0x1000000, 1)] } }, .ld .i32 ⟨3, 1, 0, 0, 0⟩, _, _, 0x40000000, rfl,
    executesI (by decide +kernel), rfl, by decide +kernel, by decide +kernel, show ¬ (if _ then _ else _) from by decide +kernel, by decide +kernel,
    by decide +kernel, rfl⟩

theorem witness_ScratchpadAndHints : ∃ (s : State) (o : MOp) (t : LdTy), s.Serial ∧ (s.thr.vq = [] ∧ s.acqPending = false ∧ s.thr.spad.wf = true) ∧ s.Executes [o.base, o.index] [o.t] ∧
    (address s o).toNat % 64 + ldBytes t ≤ 64 ∧ (address s o).toNat + ldBytes t = (192 - s.thr.hdr.slots) * 36864 :=
  ⟨regs (16 * 36864 - 8) 0, ⟨3, 1, 0, 0, 0⟩, .n64, rfl, by decide +kernel, executesI (by decide +kernel), by decide +kernel⟩

theorem witness_ScratchpadAndHints_beyond : ∃ (s : State) (o : MOp) (t : LdTy), s.Serial ∧ (s.thr.vq = [] ∧ s.acqPending = false ∧ s.thr.spad.wf = true) ∧ s.Executes [o.base, o.index] [o.t] ∧
    s.thr.sup = false ∧ (address s o).toNat % 64 + ldBytes t ≤ 64 ∧ (192 - s.thr.hdr.slots) * 36864 < (address s o).toNat + ldBytes t :=
  ⟨regs (16 * 36864) 0, ⟨3, 1, 0, 0, 0⟩, .n8, rfl, by decide +kernel, executesI (by decide +kernel), by decide +kernel⟩

theorem witness_ScratchpadAndHints_store : ∃ (s : State) (o : MOp) (z : Size), s.Serial ∧ (s.thr.vq = [] ∧ s.acqPending = false ∧ s.thr.spad.wf = true) ∧ s.Executes [o.t, o.base, o.index] [] ∧
    (address s o).toNat % 64 + szBytes z ≤ 64 ∧ (address s o).toNat + szBytes z = (192 - s.thr.hdr.slots) * 36864 :=
  ⟨regs (16 * 36864 - 8) 0, ⟨3, 1, 0, 0, 0⟩, .b8, rfl, by decide +kernel, executesI (by decide +kernel), by decide +kernel⟩

theorem witness_ScratchpadAndHints_store_beyond : ∃ (s : State) (o : MOp) (z : Size), s.Serial ∧ (s.thr.vq = [] ∧ s.acqPending = false ∧ s.thr.spad.wf = true) ∧ s.Executes [o.t, o.base, o.index] [] ∧
    s.thr.sup = false ∧ (address s o).toNat % 64 + szBytes z ≤ 64 ∧ (192 - s.thr.hdr.slots) * 36864 < (address s o).toNat + szBytes z :=
  ⟨regs (16 * 36864) 0, ⟨3, 1, 0, 0, 0⟩, .b1, rfl, by decide +kernel, executesI (by decide +kernel), by decide +kernel⟩

theorem witness_ScratchpadAndHints_crossing : ∃ (s : State) (o : MOp), s.Serial ∧ (s.thr.vq = [] ∧ s.acqPending = false ∧ s.thr.spad.wf = true) ∧
    s.Executes [o.base, o.index] [o.t] ∧ s.Executes [o.t, o.base, o.index] [] ∧ s.thr.sup = false ∧
    64 < (address s o).toNat % 64 + ldBytes .i16 ∧ 64 < (address s o).toNat % 64 + szBytes .b2 :=
  ⟨regs 63 0, ⟨3, 1, 0, 0, 0⟩, rfl, by decide +kernel, executesI (by decide +kernel), executesI (by decide +kernel), by decide +kernel⟩

/-- An address of the slow tier in g1, at 0x8000_0000 of the data space, with Turward down; the thread waits as given. -/
def slow (w : Wait) : State :=
  let m := [(0x3000, 0x4001), (0x4000, 0x5001), (0x5010, 2 ^ 52 + 7)].foldl (fun (m : Mem) (x : Nat × Nat) => m.write x.1 (toBytes 8 x.2)) user.mem
  let s := ((user.setG 1 0x80000000).setWait w).setCtx 0 { user.ctx 0 with
    droot := 0x3000, seen := m, wins := (user.ctx 0).wins.set 2 { valid := true, w := true, base := 2 ^ 36, last := 2 ^ 36 + 2 ^ 14 } }
  { s with mem := m }

theorem witness_ScratchpadAndHints_portless : ∃ (s : State) (i : Instr) (f : Access) (pa : Nat), s.Serial ∧ accessForm i = some f ∧
    s.Executes f.srcs f.dsts ∧ s.accessWaits = false ∧ ¬ f.misaligned s ∧ s.xlate s.thr.id.ctx s.thr.sup f.write (f.ea s).toNat = .ok pa ∧
    s.podRefused s.thr.id.ctx f.write pa = false ∧ s.noPort pa = true ∧ ∀ d g, s.thr.wait ≠ .remote d g :=
  ⟨slow .none, .ld .i32 ⟨3, 1, 0, 0, 0⟩, _, 2 ^ 52, rfl, rfl, executesI (by decide +kernel), by decide +kernel,
    show ¬ (if _ then _ else _) from by decide +kernel, by decide +kernel, by decide +kernel, by decide +kernel, fun _ _ => nofun⟩

theorem witness_ScratchpadAndHints_portless_again : ∃ (s : State) (i : Instr) (f : Access) (pa : Nat), s.Serial ∧ accessForm i = some f ∧
    s.Executes f.srcs f.dsts ∧ s.accessWaits = false ∧ ¬ f.misaligned s ∧ s.xlate s.thr.id.ctx s.thr.sup f.write (f.ea s).toNat = .ok pa ∧
    s.podRefused s.thr.id.ctx f.write pa = false ∧ s.noPort pa = true ∧ s.thr.wait = .remote 9 { cause := 0x12, i0 := 0x80000000, i1 := 1 } :=
  ⟨slow (.remote 9 { cause := 0x12, i0 := 0x80000000, i1 := 1 }), .ld .i32 ⟨3, 1, 0, 0, 0⟩, _, 2 ^ 52, rfl, rfl, executesI (by decide +kernel),
    by decide +kernel, show ¬ (if _ then _ else _) from by decide +kernel, by decide +kernel, by decide +kernel, by decide +kernel, rfl⟩

theorem witness_ScratchpadAndHints_early : ∃ (s : State) (d : Nat) (f : FaultInfo), s.Serial ∧ s.thr.wait = .remote d f ∧ s.cycle < d :=
  ⟨slow (.remote 9 { cause := 0x12 }), 9, _, rfl, rfl, by decide +kernel⟩

theorem witness_ScratchpadAndHints_waits : ∃ (s : State) (i : Instr) (f : Access), s.Serial ∧ accessForm i = some f ∧ s.Executes f.srcs f.dsts ∧
    s.accessWaits = true :=
  ⟨withConvoy [member (.vst .unit ⟨1, 4, 0, 0, 0, 10, 0⟩)] user, .ld .i32 ⟨3, 1, 0, 0, 0⟩, _, rfl, rfl, executesI (by decide +kernel),
    by decide +kernel⟩

theorem witness_ScratchpadAndHints_remote : ∃ (s : State) (d : Nat) (f : FaultInfo), s.Serial ∧ s.thr.wait = .remote d f ∧ d ≤ s.cycle ∧
    s.thr.vq = [] ∧ s.thr.sup = false :=
  ⟨user.setWait (.remote 0 { cause := 0x0C }), 0, _, rfl, rfl, by decide +kernel, rfl, by decide +kernel⟩

/-! ### Hypotheses that are met: the vector stream -/

theorem vecClearI {s : State} (h : (s.thr.vq = [] ∧ s.thr.tq = [] ∧ s.damage.greg = [] ∧ s.damage.mismatch = [] ∧ s.damage.csr = []) ∧ s.regions = [] ∧
    s.damage.vec = [] ∧ s.thr.wait = .none) : vecClear s := ⟨clearI h.1, h.2.1, h.2.2⟩

theorem vecReadyI {s : State} {i : Instr} (h : (vSources i).all (fun r => vget s.thr.r.arr r.toNat == BitVec.allOnes 32) = true ∧
    (trapBits i).all (fun x => vget s.thr.r.arr x.2.toNat == BitVec.allOnes 32) = true) : vecReady s i := by
  simpa [vecReady] using h

/-- The access of one element passes R118, or is none. -/
def placedAt (s : State) (i : Instr) (o : VMOp) (w : Nat) (pa : Nat → Nat) (n : Nat) : Bool :=
  match vplace s i o n with
  | .at a => a.toNat % (w / 8) == 0 &&
      if vspad s i o then decide (a.toNat + w / 8 ≤ (192 - s.thr.hdr.slots) * 36864) && pa n == a.toNat
      else decide (s.xlate s.thr.id.ctx s.thr.sup (vmStore i) a.toNat = .ok (pa n)) &&
        decide (s.dataErr s.thr.id.ctx (!vmStore i) (vmStore i) (pa n) = none)
  | _ => true

theorem vplacedI {s : State} {i : Instr} {o : VMOp} {w : Nat} {pa : Nat → Nat} (h : ∀ n < vcount s w, placedAt s i o w pa n = true) :
    vplaced s i o w pa := by
  intro n hn a ha
  have := h n hn
  unfold placedAt at this
  rw [ha] at this
  by_cases c : vspad s i o <;> simp_all

/-- The thread with SHAPE 1 × 4, and with its data space. -/
def vec (a b : Word) : State := (data a b).onThr fun t => { t with c := { t.c with shape := 0x1004 } }

/-- Register 2 empty. -/
def emptied : State := (vec 0 0).onThr fun t => { t with r := { t.r with arr := vset t.r.arr 2 0 } }

def opVV : VOp := ⟨3, 1, 2, 0, 0, false, 2, 0, false, false, false, false, 0⟩

/-- `opVV` in f32, its scalar operand from g2. -/
def opVS : VOp := ⟨3, 1, 2, 0, 0, false, 10, 7, false, false, false, true, 0⟩

theorem witness_VectorOne : ∃ (i : Instr) (o : VOp) (s : State), vOp i = some o ∧ vecClear s ∧ vecReady s i :=
  ⟨.vadd opVS, _, vec 0 0x3F800000, rfl, vecClearI (by decide +kernel), vecReadyI (by decide +kernel)⟩

/-- What `opVV` computes from at commit. -/
def env : VEnv := envAt (vec 0 0) opVV

theorem witness_IntegerLanes : ∃ (i : Instr) (o : VOp) (f : Int → Int → Int → Int) (e : VEnv), intLane i = some (o, f) ∧ o.ty.toNat < 8 ∧
    wf i = true ∧ e.vlmax ≤ 2048 :=
  ⟨.vadd { opVV with imm := 1 }, _, _, env, rfl, by decide +kernel⟩

theorem witness_FloatLanes : ∃ (i : Instr) (o : VOp) (f : RMode → FVal → FVal → FVal → ExVal) (e : VEnv), fpLane i = some (o, f) ∧
    8 ≤ o.ty.toNat ∧ o.ty.toNat < 12 ∧ e.vlmax ≤ 2048 :=
  ⟨.vfma opVS, _, _, env, rfl, by decide +kernel⟩

theorem witness_MoveLanes : ∃ (o : VOp) (e : VEnv) (hi : BitVec 3), e.vlmax ≤ 2048 ∧ o.ty.toNat < 14 ∧
    256 * hi.toNat + o.imm.toNat < e.cap (tyWidth o.ty.toNat) :=
  ⟨{ opVV with imm := 0xFF }, env, 7, by decide +kernel⟩

theorem witness_ConversionLanes : ∃ (o : VOp) (e : VEnv), e.vlmax ≤ 2048 ∧ o.ty.toNat < 14 ∧ o.imm.toNat < 14 :=
  ⟨{ opVV with ty := 13, imm := 0 }, env, by decide +kernel⟩

theorem witness_SpecialLanes : ∃ (o : VOp) (e : VEnv), e.vlmax ≤ 2048 ∧ 8 ≤ o.ty.toNat ∧ o.ty.toNat ≤ 10 := ⟨opVS, env, by decide +kernel⟩

theorem witness_SpecialLanes_points : fmtF32 ∈ [fmtF16, fmtBF16, fmtF32] ∧ fmtF32.value 0x40000000 = .fin false 0x800000 (-22) ∧
    fmtF32.value 0x3F000000 = .fin false 0x800000 (-24) ∧ specialTable 3 (fmtF32.value 0xBF800000) = some (.nan true) := by
  refine ⟨by simp, by decide +kernel, by decide +kernel, by decide +kernel⟩

theorem witness_BlockLanes : ∃ (o : VOp) (e : VEnv) (f : Nat), e.vlmax ≤ 2048 ∧ 8 ≤ o.ty.toNat ∧ o.ty.toNat ≤ 10 ∧ f = o.imm.toNat ∧ 5 ≤ f ∧ f ≤ 16 ∧
    o.vd ≠ 63 :=
  ⟨{ opVS with imm := 16 }, env, 16, by decide +kernel⟩

theorem witness_CountLanes : ∃ (o : VOp) (e : VEnv), e.vlmax ≤ 2048 ∧ o.ty.toNat < 8 := ⟨opVV, env, by decide +kernel⟩

theorem witness_SumLanes : ∃ (o : VOp) (e : VEnv), e.vlmax ≤ 2048 ∧ o.ty.toNat < 8 ∧ o.imm = 0 := ⟨opVV, env, by decide +kernel, by decide, rfl⟩

def opMem : VMOp := ⟨3, 1, 2, 0, 0, 10, 0⟩

/-- Where the elements of a unit access of 4 bytes from 1 GiB stand. -/
def unitAt (n : Nat) : Nat := 0x40000000 + 4 * n

theorem witness_VectorLoad : ∃ (i : Instr) (o : VMOp) (s : State) (ty : Nat) (pa : Nat → Nat), vmOp i = some o ∧ vmStore i = false ∧
    vtype s i o = some ty ∧ ty < 14 ∧ vbound s i o ∧ (vecClear s ∧ s.acqPosted = false) ∧ vecReady s i ∧ 0 < vcount s (tyWidth ty) ∧ vplaced s i o (tyWidth ty) pa :=
  ⟨.vld .unit opMem, _, vec 0x40000000 0, 10, unitAt, rfl, rfl, rfl, by decide, trivial, ⟨vecClearI (by decide +kernel), by decide +kernel⟩,
    vecReadyI (by decide +kernel), by decide +kernel, vplacedI (by decide +kernel)⟩

theorem witness_VectorLoad_scratchpad : ∃ (i : Instr) (o : VMOp) (s : State) (pa : Nat → Nat), vmOp i = some o ∧ vspad s i o = true ∧
    vtype s i o = some 10 ∧ (vecClear s ∧ s.acqPosted = false) ∧ vecReady s i ∧ vplaced s i o 32 pa :=
  ⟨.vlds .unit opMem, _, vec 0x80 0, fun n => 0x80 + 4 * n, rfl, rfl, rfl, ⟨vecClearI (by decide +kernel), by decide +kernel⟩,
    vecReadyI (by decide +kernel), vplacedI (by decide +kernel)⟩

theorem memOkI {s : State} (h : s.mem.wf = true ∧ s.threads.all (fun t => t.spad.wf) = true ∧
    (List.range 64).all (fun n => (s.ctx n).seen.wf && (s.ctx n).stale.all fun m => m.wf) = true ∧
    (List.range 64).all (fun n => (s.ecore n).sram.wf) = true ∧ s.coh.home.wf = true ∧ s.spads.all (fun k => k.spad.wf) = true) : s.MemOk := by
  obtain ⟨a, b, c, d, e, f⟩ := h
  simp only [List.all_eq_true, Bool.and_eq_true, List.mem_range] at b c d f
  exact ⟨a, b, c, d, e, f⟩

theorem witness_VectorStores : ∃ (i : Instr) (o : VMOp) (s : State) (ty : Nat) (pa : Nat → Nat), vmOp i = some o ∧ vmStore i = true ∧
    vtype s i o = some ty ∧ ty < 14 ∧ vbound s i o ∧ (vecClear s ∧ s.acqPosted = false) ∧ vecReady s i ∧ vplaced s i o (tyWidth ty) pa ∧ s.MemOk :=
  ⟨.vst .unit opMem, _, vec 0x40000000 0, 10, unitAt, rfl, rfl, rfl, by decide, trivial, ⟨vecClearI (by decide +kernel), by decide +kernel⟩,
    vecReadyI (by decide +kernel), vplacedI (by decide +kernel), memOkI (by decide +kernel)⟩

/-- A stream of four words of 4 bytes from 1 GiB, at its element 3. -/
def stream (wrap : Bool) : Stream := ⟨0x40000000, 4, 0, 0, 4, 1, 1, 10, false, wrap, 3, 0x40001000⟩

/-- Stream 1 of the thread bound. -/
def bound (wrap : Bool) : State := (vec 0 0).setSb 1 (some (stream wrap))

theorem witness_StreamPosition : ∃ (i : Instr) (o : VMOp) (s : State) (b : Stream) (pa : Nat → Nat), (i = .vld .sb o ∨ i = .vst .sb o) ∧
    vget s.thr.r.sb (o.base.toNat % 8) = some b ∧ b.ty < 14 ∧ vbound s i o ∧ (vecClear s ∧ s.acqPosted = false) ∧ vecReady s i ∧ vplaced s i o (tyWidth b.ty) pa :=
  ⟨.vld .sb opMem, opMem, bound true, stream true, fun n => 0x40000000 + 4 * ((3 + n) % 4), .inl rfl, rfl, by decide, (by decide +kernel : 1 < 8),
    ⟨vecClearI (by decide +kernel), by decide +kernel⟩, vecReadyI (by decide +kernel), vplacedI (by decide +kernel)⟩

theorem witness_StreamPosition_end : ∃ (i : Instr) (o : VMOp) (s : State) (b : Stream) (pa : Nat → Nat), (i = .vld .sb o ∨ i = .vst .sb o) ∧
    vget s.thr.r.sb (o.base.toNat % 8) = some b ∧ b.wrap = false ∧ vbound s i o ∧ (vecClear s ∧ s.acqPosted = false) ∧ vecReady s i ∧
    vplaced s i o (tyWidth b.ty) pa :=
  ⟨.vld .sb opMem, opMem, bound false, stream false, fun _ => 0x4000000C, .inl rfl, rfl, rfl, (by decide +kernel : 1 < 8),
    ⟨vecClearI (by decide +kernel), by decide +kernel⟩, vecReadyI (by decide +kernel), vplacedI (by decide +kernel)⟩

/-- Two words after a header at address 0: `VADD` and `VMUL`. -/
def convoyAt : State :=
  let s := vec 0 0
  let word := fun i => toBytes 8 ((encode64 i).getD 0).toNat
  { s with mem := (s.mem.write 0x40000008 (word (.vadd opVV))).write 0x40000010 (word (.vmul { opVV with vd := 4 })) }

def header2 : COp := ⟨1, 0, 1, 0, 0, false, false, false, false⟩

theorem witness_ConvoyResult : ∃ (o : COp) (s : State) (ms : List Instr), s.convoyMembers o = some ms ∧ vecClear s ∧
    ∀ i ∈ ms, vecReady s i ∧ vmOp i = none := by
  refine ⟨header2, convoyAt, [.vadd opVV, .vmul { opVV with vd := 4 }], by decide +kernel, vecClearI (by decide +kernel), ?_⟩
  simp only [List.mem_cons, List.not_mem_nil, or_false, forall_eq_or_imp, forall_eq]
  exact ⟨⟨vecReadyI (by decide +kernel), rfl⟩, vecReadyI (by decide +kernel), rfl⟩

theorem witness_ConvoyTraps : ∃ (s : State) (o : COp), vecClear s ∧ s.thr.sup = false ∧ s.convoyMembers o = none :=
  ⟨vec 0 0, ⟨0, 0, 0, 0, 0, false, false, false, false⟩, vecClearI (by decide +kernel), by decide +kernel⟩

theorem witness_ConvoyTraps_empty : ∃ (s : State) (i : Instr) (o : VOp) (n : Nat) (r : BitVec 6), vecClear s ∧ s.thr.sup = false ∧
    vOp i = some o ∧ trapBits i = [(n, r)] ∧ vget s.thr.r.arr r.toNat ≠ BitVec.allOnes 32 :=
  ⟨emptied, .vadd { opVV with eb := true }, _, 1, 2, vecClearI (by decide +kernel), by decide +kernel, rfl, rfl, by decide +kernel⟩

theorem witness_ConvoyTraps_wait : ∃ (s : State) (i : Instr) (o : VOp), vecClear s ∧ s.thr.sup = false ∧ vOp i = some o ∧ trapBits i = [] ∧
    ∃ r ∈ vSources i, vget s.thr.r.arr r.toNat ≠ BitVec.allOnes 32 :=
  ⟨emptied, .vadd opVV, _, vecClearI (by decide +kernel), by decide +kernel, rfl, rfl, 2, by decide +kernel⟩

theorem witness_ShapeResult : ∃ (o : VOp) (s : State), s.Executes [o.vb] [] ∧ (s.g o.vb).toNat < 2 ^ 24 ∧
    1 ≤ (s.g o.vb).toNat / 4096 ∧ 1 ≤ (s.g o.vb).toNat % 4096 ∧ (s.g o.vb).toNat / 4096 * ((s.g o.vb).toNat % 4096) = s.thr.vlmax :=
  ⟨{ opVV with vb := 1 }, vec 0x800001 0, executesI (by decide +kernel), by decide +kernel⟩

theorem witness_ShapeResult_bad : ∃ (o : VOp) (s : State), s.Executes [o.vb] [] ∧ s.g o.vb = 0x1000 ∧ s.Serial ∧ s.thr.vq = [] ∧ s.thr.sup = false :=
  ⟨{ opVV with vb := 1 }, vec 0x1000 0, executesI (by decide +kernel), by decide +kernel, rfl, rfl, by decide +kernel⟩

/-- A stream control block at 1 GiB + 0x1000: four elements of type f32. -/
def withBlock (cnt : Nat) : State :=
  let s := vec 0x40001000 0
  { s with mem := s.mem.write 0x40001000 (toBytes 128 (0x40000000 + 2 ^ 64 * 4 + 2 ^ 256 * cnt + 2 ^ 288 + 2 ^ 320 + 2 ^ 352 * 10)) }

theorem witness_BindingResult : ∃ (o : VMOp) (s : State) (pa : Nat), s.Clear ∧ s.Serial ∧ (s.MemOk ∧ s.acqPending = false) ∧ o.vt.toNat % 8 < s.thr.hdr.nsb ∧
    (s.g o.base).toNat % 128 = 0 ∧ s.xlate s.thr.id.ctx s.thr.sup false (s.g o.base).toNat = .ok pa ∧
    s.dataErr s.thr.id.ctx true false pa = none ∧ s.dataErr s.thr.id.ctx true false (pa + 64) = none ∧
    Stream.valid (s.mem.num pa 128) (Stream.ofNum (s.mem.num pa 128) (s.g o.base)) = true :=
  ⟨⟨7, 1, 0, 0, 0, 0, 0⟩, withBlock 4, 0x40001000, clearI (by decide +kernel), rfl, ⟨memOkI (by decide +kernel), by decide +kernel⟩, by decide +kernel⟩

theorem witness_BindingResult_bad : ∃ (o : VMOp) (s : State) (pa : Nat), s.Clear ∧ s.Serial ∧ (s.MemOk ∧ s.acqPending = false) ∧ o.vt.toNat % 8 < s.thr.hdr.nsb ∧
    (s.g o.base).toNat % 128 = 0 ∧ s.xlate s.thr.id.ctx s.thr.sup false (s.g o.base).toNat = .ok pa ∧
    s.dataErr s.thr.id.ctx true false pa = none ∧ s.dataErr s.thr.id.ctx true false (pa + 64) = none ∧
    Stream.valid (s.mem.num pa 128) (Stream.ofNum (s.mem.num pa 128) (s.g o.base)) = false ∧ s.thr.sup = false :=
  ⟨⟨7, 1, 0, 0, 0, 0, 0⟩, withBlock 0, 0x40001000, clearI (by decide +kernel), rfl, ⟨memOkI (by decide +kernel), by decide +kernel⟩, by decide +kernel⟩

theorem witness_BindingResult_unbind : ∃ (o : VMOp) (s : State) (b : Stream) (pa : Nat), s.Clear ∧ s.Serial ∧ (s.MemOk ∧ s.acqPending = false) ∧
    o.vt.toNat % 8 < s.thr.hdr.nsb ∧ vget s.thr.r.sb (o.vt.toNat % 8) = some b ∧ (b.block + 48).toNat % 8 = 0 ∧
    s.xlate s.thr.id.ctx s.thr.sup true (b.block + 48).toNat = .ok pa ∧ s.dataErr s.thr.id.ctx false true pa = none ∧ b.pos < 2 ^ 64 :=
  ⟨⟨1, 1, 0, 0, 0, 0, 0⟩, bound false, stream false, 0x40001030, clearI (by decide +kernel), rfl, ⟨memOkI (by decide +kernel), by decide +kernel⟩, by decide +kernel,
    rfl, by decide +kernel⟩

/-! ### Hypotheses that are met: the tile stream -/

/-- A tile operand: md, ma, mb, g. -/
def tileOp (md ma mb : BitVec 9) (g : BitVec 5) : TOp :=
  ⟨md, ma, mb, false, false, false, false, false, false, false, g, false, false, false, false, false, false⟩

/-- A tile of 1 × 16 elements of f32, all zero. -/
def rowTile : TileVal := TileVal.zero (mkDesc false 0 1 16)

/-- Tile `t` in slot `n` of core 0, newer than its backing region. -/
def withTile (t n : Nat) (v : TileVal) (s : State) : State :=
  let s := s.setEnt t { s.ent t with state := 4, f := true, slot := BitVec.ofNat 8 n, shape := v.shape }
  s.setCore 0 ((s.core 0).putSlot
    { num := n, tag := s.tagOf t, val := v, zmap := 0, dirty := true, full := true, sf := false, sfAddr := 0,
      report := false, lastUse := 0 })

/-- The thread with its data space and two tiles. -/
def tiles (a b : Word) : State := withTile 1 1 rowTile (withTile 2 2 rowTile (data a b))

/-- An entry that captured two registers. -/
def entry (i : Instr) (g0 g1 : Word) : TqEnt :=
  { post := 0, pc := 0, ins := i, g0 := g0, g1 := g1, fmode := 0, rngkey := 0, rng := 0, st := .posted, done := false, skip := false, slot := none
    chain := none, unit := 0, since := 0, xheld := false, res := noResult }

/-- The entry stands in the queue. -/
def queued (s : State) (e : TqEnt) : State := s.onThr fun t => { t with tq := [e], posts := 1 }

theorem tileFreeI {s : State} {i : Instr} (h : s.regions = [] ∧ s.thr.wait = .none ∧ s.thr.vq = [] ∧ s.thr.tq = [] ∧
    s.gDamaged (tGSources i) = false ∧ s.csrLost (s.tileCsrs i) = false ∧ s.thr.putEmpty i = none ∧ s.thr.tmapReady = true) : tileFree s i := by
  obtain ⟨a, b, c, d, e, f, g, k⟩ := h
  exact ⟨a, b, c, by simp [d], by simp [d], e, f, g, .inl k⟩

theorem stillI {s : State} (h : s.cores.toList.all (fun c => c.moves.isEmpty) = true) : ∀ c < 192, (s.core c).moves = [] := by
  intro c hc
  have : s.core c ∈ s.cores.toList := by
    unfold State.core vget
    simp
  simpa using (List.all_eq_true.mp h) _ this

theorem tileAloneI {s : State} {e : TqEnt} (h : s.thr.live = true ∧ s.thr.sup = false ∧ s.thr.tmapReady = true ∧ s.thr.tq = [e] ∧ e.st = .posted ∧
    e.done = false ∧ e.skip = false ∧ s.poolOwed s.thr.id.core = 0 ∧ e.slot = none ∧ e.chain = none ∧ e.res = noResult ∧ s.regions = [] ∧ s.thr.vq = [] ∧ s.thr.id.core < 192 ∧
    s.cores.toList.all (fun c => c.moves.isEmpty) = true ∧ s.damage = ⟨[], [], [], [], [], [], [], []⟩ ∧
    s.thr.prefs = [] ∧ (s.thr.vReads [] e.ins).all (fun r => vget s.thr.r.arr r.toNat == BitVec.allOnes 32) = true ∧
    (tNames e.ins).all (fun t => !(s.ent t).bad && (s.tileSlot t).all fun y => !y.report) = true) : tileAlone s e := by
  obtain ⟨a, b, c, d, f, g, h, h', i, j, k, l, m, n, o, p, p', q, r⟩ := h
  refine ⟨a, b, c, d, f, g, h, h', i, j, k, l, m, n, stillI o, p, p', by simpa using q, fun t ht => ?_⟩
  have := (List.all_eq_true.mp r) t ht
  simp only [Bool.and_eq_true, Bool.not_eq_true'] at this
  refine ⟨this.1, fun y hy => ?_⟩
  simpa [hy] using this.2

theorem tileReadyI {s : State} {t : Nat} (h : t < s.thr.tmap.length ∧ (s.ent t).bad = false ∧ (s.ent t).f = true ∧ (s.ent t).resident = true ∧
    (s.ent t).core.toNat = s.thr.id.core ∧ (s.tileSlot t).isSome = true) : tileReady s t := h

theorem tileSpareI {s : State} {n : Nat} (h : (s.core s.thr.id.core).pool.head? = some n ∧ n < 192 ∧ (s.core s.thr.id.core).slotAt n = none ∧
    (s.freeGeneral s.thr.id.core).isSome = true) : tileSpare s n := h

theorem witness_TilePosting : ∃ (i : Instr) (o : TOp) (s : State), tilePosted i = some o ∧ tileFree s i ∧ s.thr.sup = false ∧ tileLegal s i :=
  ⟨.tshape (tileOp 3 0 0 1), _, tiles 0x000000F 0, rfl, tileFreeI (by decide +kernel), by decide +kernel,
    (by decide +kernel : (_ : Nat) < 2 ^ 32 ∧ descValid _ = true)⟩

theorem witness_TilePosting_rounding : ∃ (i : Instr) (o : TOp) (s : State), tilePosted i = some o ∧ tileFree s i ∧ s.thr.sup = false ∧
    tileLegal s i ∧ tileBlocks s i = 4 :=
  ⟨.tadd (tileOp 3 1 2 0), _, (tiles 0 0).onThr fun t => { t with c := { t.c with fmode := 4 } }, rfl, tileFreeI (by decide +kernel),
    by decide +kernel, trivial, by decide +kernel⟩

theorem witness_TileCommitTraps : ∃ (i : Instr) (o : TOp) (s : State), (i = .tshape o ∨ i = .tcvt o) ∧ tileFree s i ∧ s.thr.sup = false ∧
    ¬ tileLegal s i :=
  ⟨.tcvt (tileOp 3 1 0 1), tileOp 3 1 0 1, tiles 19 0, .inr rfl, tileFreeI (by decide +kernel), by decide +kernel,
    fun h => absurd h.2.2.2.2.1 (by decide +kernel)⟩

theorem witness_TileResult : ∃ (s : State) (e : TqEnt) (md : BitVec 9) (n : Nat) (r : TileVal × FFlags), tileAlone s e ∧ tileSpare s n ∧
    tDests e.ins = [md] ∧ md.toNat < s.thr.tmap.length ∧ (∀ x ∈ tReads e.ins, tileReady s x.1.toNat) ∧ tileGives s e r :=
  ⟨queued (tiles 0 0) (entry (.tcopy (tileOp 3 1 0 0)) 0 0), entry (.tcopy (tileOp 3 1 0 0)) 0 0, 3, 160, _, tileAloneI (by decide +kernel), tileSpareI (by decide +kernel), rfl,
    by decide +kernel, by simp only [entry, tReads, List.mem_singleton, forall_eq]; exact tileReadyI (by decide +kernel), rfl⟩

theorem isOk_ok {α β : Type} {x : Except α β} (h : x.isOk = true) : ∃ r, x = .ok r := by
  cases x with
  | ok r => exact ⟨r, rfl⟩
  | error _ => simp [Except.isOk, Except.toBool] at h

theorem witness_TileResult_add : ∃ (s : State) (e : TqEnt) (md : BitVec 9) (n : Nat) (r : TileVal × FFlags), tileAlone s e ∧ tileSpare s n ∧
    tDests e.ins = [md] ∧ md.toNat < s.thr.tmap.length ∧ (∀ x ∈ tReads e.ins, tileReady s x.1.toNat) ∧ tileGives s e r := by
  let e := entry (.tadd (tileOp 1 1 2 0)) 0 0
  let s := queued (tiles 0 0) e
  obtain ⟨r, hr⟩ : ∃ r, elementwise false false false e.rctx (e.word (descCols (s.tileVal 1).shape)) (s.tileVal 1) (s.tileVal 2) = .ok r :=
    isOk_ok (by decide +kernel)
  refine ⟨s, e, 1, 160, r, tileAloneI (by decide +kernel), tileSpareI (by decide +kernel), rfl, by decide +kernel, ?_, hr⟩
  simp only [e, entry, tReads, tileOp, List.mem_cons, List.not_mem_nil, or_false, forall_eq_or_imp, forall_eq]
  exact ⟨tileReadyI (by decide +kernel), tileReadyI (by decide +kernel)⟩

/-- Tiles 1 and 2 of 1 × 1 and tile 3, their product's accumulator, in f32. -/
def products : State :=
  let v := TileVal.zero (mkDesc false 2 1 1)
  withTile 1 1 v (withTile 2 2 v (withTile 3 3 (TileVal.zero (mkDesc false 0 1 1)) (data 0 0)))

theorem witness_TileResult_mma : ∃ (s : State) (e : TqEnt) (md : BitVec 9) (n : Nat) (r : TileVal × FFlags), tileAlone s e ∧ tileSpare s n ∧
    tDests e.ins = [md] ∧ md.toNat < s.thr.tmap.length ∧ (∀ x ∈ tReads e.ins, tileReady s x.1.toNat) ∧ tileGives s e r := by
  refine ⟨queued products (entry (.mma (tileOp 3 1 2 0)) 0 0), entry (.mma (tileOp 3 1 2 0)) 0 0, 3, 160, _, tileAloneI (by decide +kernel), tileSpareI (by decide +kernel), rfl,
    by decide +kernel, ?_, by decide +kernel, by decide +kernel, rfl⟩
  simp only [entry, tReads, tileOp, List.mem_append, List.mem_cons, List.not_mem_nil, or_false, Bool.false_eq_true, if_false]
  rintro x ((rfl | rfl) | rfl) <;> exact tileReadyI (by decide +kernel)

theorem witness_TileResult_load : ∃ (s : State) (e : TqEnt) (md : BitVec 9) (n : Nat) (r : TileVal × FFlags), tileAlone s e ∧ tileSpare s n ∧
    tDests e.ins = [md] ∧ md.toNat < s.thr.tmap.length ∧ (∀ x ∈ tReads e.ins, tileReady s x.1.toNat) ∧ tileGives s e r := by
  let e := entry (.tld false (tileOp 1 0 0 1)) 0x40001000 0
  let s := queued (tiles 0x40001000 0) e
  let d := (s.ent 1).shape
  obtain ⟨runs, hr⟩ : ∃ r, s.allPieces false (imageRuns d e.g0 (BitVec.ofNat 64 (rowPitch d)) (rowBytes d)) = .ok r := isOk_ok (by decide +kernel)
  have hx : runs = [[⟨0x40001000, 64, 0x40001000⟩]] := by
    have h2 : s.allPieces false (imageRuns d e.g0 (BitVec.ofNat 64 (rowPitch d)) (rowBytes d)) = .ok [[⟨0x40001000, 64, 0x40001000⟩]] := by
      decide +kernel
    rw [hr] at h2
    injection h2
  subst hx
  exact ⟨s, e, 1, 160, _, tileAloneI (by decide +kernel), tileSpareI (by decide +kernel), rfl, by decide +kernel,
    by simp [e, entry, tReads], by decide +kernel, by decide +kernel, by decide +kernel, by decide +kernel, _, hr, by decide +kernel,
    by decide +kernel, rfl⟩

theorem witness_TileMarks : ∃ (s : State) (e : TqEnt) (o : TOp), e.ins = .tdead o ∧ tileAlone s e ∧ o.md.toNat < s.thr.tmap.length ∧
    tileReady s o.md.toNat :=
  ⟨queued (tiles 0 0) (entry (.tdead (tileOp 1 0 0 0)) 0 0), entry (.tdead (tileOp 1 0 0 0)) 0 0, tileOp 1 0 0 0, rfl, tileAloneI (by decide +kernel), by decide +kernel,
    tileReadyI (by decide +kernel)⟩

theorem witness_TileMarks_flags : ∃ (s : State) (e : TqEnt) (o : TOp), e.ins = .tflagr o ∧ tileAlone s e ∧ o.g ≠ 0 :=
  ⟨queued (tiles 0 0) (entry (.tflagr (tileOp 0 1 0 5)) 0 0), entry (.tflagr (tileOp 0 1 0 5)) 0 0, tileOp 0 1 0 5, rfl, tileAloneI (by decide +kernel), by decide⟩

theorem witness_TileMarks_clear : ∃ (s : State) (e : TqEnt) (o : TOp), e.ins = .tflagc o ∧ tileAlone s e ∧ o.md.toNat < s.thr.tmap.length :=
  ⟨queued (tiles 0 0) (entry (.tflagc (tileOp 1 0 0 0)) 0 0), entry (.tflagc (tileOp 1 0 0 0)) 0 0, tileOp 1 0 0 0, rfl, tileAloneI (by decide +kernel), by decide +kernel⟩

/-- Tile 4 in its backing region. -/
def backed : State := (tiles 0 0).setEnt 4 { (tiles 0 0).ent 4 with state := 1, f := true, shape := rowTile.shape }

theorem witness_TileMarks_prefetch : ∃ (s : State) (e : TqEnt) (o : TOp) (n : Nat), e.ins = .tpref o ∧ tileAlone s e ∧
    o.ma.toNat < s.thr.tmap.length ∧ (s.ent o.ma.toNat).state = 1 ∧ (s.ent o.ma.toNat).f = true ∧ descValid (s.ent o.ma.toNat).shape = true ∧
    s.freeGeneral s.thr.id.core = some n :=
  ⟨queued backed (entry (.tpref (tileOp 0 4 0 0)) 0 0), entry (.tpref (tileOp 0 4 0 0)) 0 0, tileOp 0 4 0 0, 0, rfl, tileAloneI (by decide +kernel), by decide +kernel⟩

theorem witness_TileStores : ∃ (s : State) (e : TqEnt) (o : TOp) (runs : List (List Piece)), e.ins = .tst false o ∧ tileAlone s e ∧
    tileReady s o.ma.toNat ∧ descValid (s.tileVal o.ma.toNat).shape = true ∧ e.g0.toNat % 16 = 0 ∧
    s.allPieces true (imageRuns (s.tileVal o.ma.toNat).shape e.g0 (BitVec.ofNat 64 (rowPitch (s.tileVal o.ma.toNat).shape))
      (rowPitch (s.tileVal o.ma.toNat).shape)) = .ok runs ∧
    s.portWait e true (runs.flatten.map (·.pa)) = false ∧ s.piecesErr false true runs.flatten = none :=
  ⟨queued (tiles 0 0) (entry (.tst false (tileOp 0 1 0 1)) 0x40001000 0), entry (.tst false (tileOp 0 1 0 1)) 0x40001000 0, tileOp 0 1 0 1, [[⟨0x40001000, 64, 0x40001000⟩]], rfl,
    tileAloneI (by decide +kernel), tileReadyI (by decide +kernel), by decide +kernel⟩

theorem witness_TileStores_both : ∃ (s : State) (e : TqEnt) (o : TOp) (vt : TileVal), e.ins = .tstp o ∧ tileAlone s e ∧
    tileReady s o.ma.toNat ∧ (descTFmt (s.tileVal o.ma.toNat).shape).scaled = false ∧ transposeTile false (s.tileVal o.ma.toNat) = .ok (vt, 0) ∧
    (s.allPieces true (imageRuns (s.tileVal o.ma.toNat).shape e.g0 64 64)).isOk = true ∧
    (s.allPieces true (imageRuns vt.shape e.g1 16 16)).isOk = true := by
  let e := entry (.tstp (tileOp 0 1 0 1)) 0x40001000 0x40002000
  let s := queued (tiles 0 0) e
  obtain ⟨r, hr⟩ : ∃ r, transposeTile false (s.tileVal 1) = .ok r := isOk_ok (by decide +kernel)
  have h2 : (transposeTile false (s.tileVal 1)).toOption.any
      (fun r => r.2 == 0 && (s.allPieces true (imageRuns r.1.shape e.g1 16 16)).isOk) = true := by decide +kernel
  rw [hr] at h2
  simp only [Except.toOption, Option.any_some, Bool.and_eq_true, beq_iff_eq] at h2
  obtain ⟨v, f⟩ := r
  simp only at h2
  obtain ⟨rfl, h3⟩ := h2
  exact ⟨s, e, tileOp 0 1 0 1, v, rfl, tileAloneI (by decide +kernel), tileReadyI (by decide +kernel), by decide +kernel, hr, by decide +kernel, h3⟩

theorem witness_TileLinks_send : ∃ (s : State) (e : TqEnt) (o : TOp) (pa : Nat), e.ins = .tsend o ∧ tileAlone s e ∧ tileReady s o.ma.toNat ∧
    e.g1.toNat % 8 = 0 ∧ s.xlate s.thr.id.ctx false true e.g1.toNat = .ok pa :=
  ⟨queued (tiles 0 0) (entry (.tsend (tileOp 0 1 0 1)) 7 0x40000008), entry (.tsend (tileOp 0 1 0 1)) 7 0x40000008, tileOp 0 1 0 1, 0x40000008, rfl, tileAloneI (by decide +kernel),
    tileReadyI (by decide +kernel), by decide +kernel⟩

/-- Context 0 may hold four windows. -/
def windows (s : State) : State := s.setCtx 0 { s.ctx 0 with rwq := 4 }

theorem witness_TileLinks_receive : ∃ (s : State) (e : TqEnt) (o : TOp) (n w pa : Nat), e.ins = .trecv false o ∧ tileAlone s e ∧ tileSpare s n ∧
    o.md.toNat < s.thr.tmap.length ∧ descValid (s.ent o.md.toNat).shape = true ∧ s.freeWindow s.thr.id.ctx = some w ∧ e.g0.toNat % 8 = 0 ∧
    s.xlate s.thr.id.ctx false true e.g0.toNat = .ok pa ∧ s.dataErr s.thr.id.ctx false true pa = none :=
  ⟨queued (windows (tiles 0 0)) (entry (.trecv false (tileOp 1 0 0 1)) 0x40000008 0), entry (.trecv false (tileOp 1 0 0 1)) 0x40000008 0, tileOp 1 0 0 1, 160, 0, 0x40000008, rfl,
    tileAloneI (by decide +kernel), tileSpareI (by decide +kernel), by decide +kernel⟩

/-- A pool of context 0: 16 device pages at 1.5 GiB, 4 slow pages after them, 8 handles. Handle 1 holds one page, number 3, and 3 rows. -/
def pool (s : State) : State :=
  let c := { s.ctx 0 with pblk := 0x41000000, ndev := 16, devbase := 0x6000, nslow := 4, slowbase := 0x7000, work := 0x5000, maxpg := 2, log2n := 3 }
  let s := s.setCtx 0 c
  let h : HEnt := { list := c.listsAt + 8, gen := 5, refs := 1, cur := 0, v := true, cap := 128, mark := 0, len := 3 }
  let s := (s.setHent c 1 h).setListPage h 0 3
  let s := s.setPrec c 3 { dfr := 0, pgen := 1, refs := 1, pins := 0, state := 1 }
  s.storePA c.mapsAt [0xF7, 0xFF, 0x0F]

def handle1 : Word := mkHandle 0 1 5

theorem witness_TilePages_append : ∃ (s : State) (e : TqEnt) (o : TOp), e.ins = .tappend o ∧ tileAlone s e ∧ tileReady s o.ma.toNat ∧ s.MemOk ∧
    s.handleReason s.thr.id.ctx e.g0 = 0 ∧ rowFormat (s.tileVal o.ma.toNat).shape 0 = none ∧
    (s.hent s.tctx (handleIdx e.g0)).len + 1 ≤ (s.hent s.tctx (handleIdx e.g0)).cap ∧
    (s.prec s.tctx (s.listPage (s.hent s.tctx (handleIdx e.g0)) ((s.hent s.tctx (handleIdx e.g0)).len / 128))).state = 1 ∧
    ∀ p ∈ rowLines (s.rowAddr s.tctx (s.hent s.tctx (handleIdx e.g0)) (s.hent s.tctx (handleIdx e.g0)).len) 512,
      s.dataErr s.thr.id.ctx false true p = none :=
  ⟨queued (pool (tiles 0 0)) (entry (.tappend (tileOp 0 1 0 1)) handle1 1), entry (.tappend (tileOp 0 1 0 1)) handle1 1, tileOp 0 1 0 1, rfl, tileAloneI (by decide +kernel),
    tileReadyI (by decide +kernel), memOkI (by decide +kernel), by decide +kernel⟩

theorem witness_TilePages_laid : ∃ (s : State) (e : TqEnt), s.handleReason s.thr.id.ctx e.g0 = 0 ∧ poolLaid s s.tctx (handleIdx e.g0) ∧
    (∀ q < 2, s.listPage (s.hent s.tctx (handleIdx e.g0)) (((s.hent s.tctx (handleIdx e.g0)).len + q) / 128) < s.tctx.ndev + s.tctx.nslow) ∧
    ∀ q < 2, ∀ r < 2, q ≠ r → Claim.apart (appendAt s s.tctx (s.hent s.tctx (handleIdx e.g0)) none q) 512
      (appendAt s s.tctx (s.hent s.tctx (handleIdx e.g0)) none r) 512 :=
  ⟨pool (tiles 0 0), entry (.tappend (tileOp 0 1 0 1)) handle1 2, by unfold poolLaid Claim.apart; decide +kernel⟩

/-- That pool with page 3 SHARED by two handles. -/
def shared (s : State) : State :=
  let s := pool s
  s.setPrec (s.ctx 0) 3 { dfr := 0, pgen := 1, refs := 2, pins := 0, state := 2 }

def sharing : State := queued (shared (tiles 0 0)) (entry (.tappend (tileOp 0 1 0 1)) handle1 1)
def sharingE : TqEnt := entry (.tappend (tileOp 0 1 0 1)) handle1 1

/-- What the witness below says of the page that its append takes. -/
def SharingOk (k : Nat) (s' : State) : Prop :=
  let s := sharing
  let c0 := s.tctx
  let h := s.hent c0 (handleIdx sharingE.g0)
  k ≠ s.listPage h (h.len / 128) ∧ k < 2 ^ 32 ∧ poolLaid s' c0 (handleIdx sharingE.g0) ∧
    Claim.apart (appendAt s c0 h (some (s'.pageRows c0 k)) 0) 512 (s'.pageRows c0 k) (512 * (h.len % 128)) ∧
    (∀ l ∈ (List.range (h.len % 128)).flatMap fun r => rowLines (s.pageRows c0 (s.listPage h (h.len / 128)) + 512 * r) 512,
      s.noPort l = false ∧ s.dataErr s.thr.id.ctx true false l = none) ∧
    ∀ l ∈ ((List.range (h.len % 128)).flatMap fun r => rowLines (s'.pageRows c0 k + 512 * r) 512) ++ rowLines (appendAt s c0 h (some (s'.pageRows c0 k)) 0) 512,
      s.noPort l = false ∧ s.dataErr s.thr.id.ctx false true l = none

theorem sharing_ok : ∃ (k cur : Nat) (s' : State), sharing.takePage sharing.tctx (sharing.hent sharing.tctx (handleIdx sharingE.g0)).cur = some (k, cur, s') ∧
    SharingOk k s' := by
  have h : (sharing.takePage sharing.tctx (sharing.hent sharing.tctx (handleIdx sharingE.g0)).cur).any (fun x =>
      @decide (SharingOk x.1 x.2.2) (by unfold SharingOk poolLaid Claim.apart; infer_instance)) = true := by
    decide +kernel
  rw [Option.any_eq_true] at h
  obtain ⟨⟨k, cur, s'⟩, hx, hp⟩ := h
  exact ⟨k, cur, s', hx, @of_decide_eq_true _ (_) hp⟩

theorem witness_TilePages_shared : ∃ (s : State) (e : TqEnt) (o : TOp) (k cur : Nat) (s' : State), e.ins = .tappend o ∧ tileAlone s e ∧
    tileReady s o.ma.toNat ∧ s.MemOk ∧ s.handleReason s.thr.id.ctx e.g0 = 0 ∧
    let c0 := s.tctx
    let h := s.hent c0 (handleIdx e.g0)
    let p := s.listPage h (h.len / 128)
    rowFormat (s.tileVal o.ma.toNat).shape 0 = none ∧ h.len + 1 ≤ h.cap ∧ e.g1 = 1 ∧ poolLaid s c0 (handleIdx e.g0) ∧
      (s.prec c0 p).state = 2 ∧ (s.prec c0 p).refs = 2 ∧ h.len < h.cap ∧ s.takePage c0 h.cur = some (k, cur, s') ∧ k ≠ p ∧ k < 2 ^ 32 ∧
      poolLaid s' c0 (handleIdx e.g0) ∧
      Claim.apart (appendAt s c0 h (some (s'.pageRows c0 k)) 0) 512 (s'.pageRows c0 k) (512 * (h.len % 128)) ∧
    (∀ l ∈ (List.range (h.len % 128)).flatMap fun r => rowLines (s.pageRows c0 (s.listPage h (h.len / 128)) + 512 * r) 512,
      s.noPort l = false ∧ s.dataErr s.thr.id.ctx true false l = none) ∧
    ∀ l ∈ ((List.range (h.len % 128)).flatMap fun r => rowLines (s'.pageRows c0 k + 512 * r) 512) ++ rowLines (appendAt s c0 h (some (s'.pageRows c0 k)) 0) 512,
      s.noPort l = false ∧ s.dataErr s.thr.id.ctx false true l = none := by
  obtain ⟨k, cur, s', hx, h1, h2, h3, h4, h5, h6⟩ := sharing_ok
  exact ⟨sharing, sharingE, tileOp 0 1 0 1, k, cur, s', rfl, tileAloneI (by decide +kernel), tileReadyI (by decide +kernel),
    memOkI (by decide +kernel), by decide +kernel, by decide +kernel, by decide +kernel, by decide +kernel, by unfold poolLaid Claim.apart; decide +kernel,
    by decide +kernel, by decide +kernel, by decide +kernel, hx, h1, h2, h3, h4, h5, h6⟩

theorem witness_TilePages_gather : ∃ (s : State) (e : TqEnt) (o : TOp) (n : Nat), e.ins = .tgather o ∧ tileAlone s e ∧ tileSpare s n ∧
    o.md.toNat < s.thr.tmap.length ∧ s.handleReason s.thr.id.ctx e.g0 = 0 ∧ rowFormat (s.ent o.md.toNat).shape 2 = none ∧
    (∀ p < s.tctx.ndev + s.tctx.nslow, (s.prec s.tctx p).pins < 65000) ∧
    (∀ r < (s.hent s.tctx (handleIdx e.g0)).len, s.listPage (s.hent s.tctx (handleIdx e.g0)) (r / 128) < s.tctx.ndev + s.tctx.nslow) ∧
    ∀ p ∈ rowLines (s.rowAddr s.tctx (s.hent s.tctx (handleIdx e.g0)) e.g1.toNat) (rowBytes (s.ent o.md.toNat).shape),
      s.noPort p = false ∧ s.dataErr s.thr.id.ctx true false p = none :=
  ⟨queued (pool (tiles 0 0)) (entry (.tgather (tileOp 1 0 0 1)) handle1 2), entry (.tgather (tileOp 1 0 0 1)) handle1 2, tileOp 1 0 0 1, 160, rfl, tileAloneI (by decide +kernel),
    tileSpareI (by decide +kernel), by decide +kernel⟩

theorem witness_IntegerProduct : ∃ (m : MmaMods) (a b c : TileVal), m.int = true ∧ mmaCheck m a.shape b.shape c.shape = none :=
  ⟨⟨false, true, false, false, false, false, true⟩, TileVal.zero (mkDesc false 17 2 3), TileVal.zero (mkDesc false 17 3 4),
    TileVal.zero (mkDesc false 18 2 4), rfl, by decide +kernel⟩

theorem witness_FloatProduct : ∃ (m : MmaMods) (a b c : TileVal), m.int = false ∧ m.skip = false ∧ mmaCheck m a.shape b.shape c.shape = none :=
  ⟨⟨false, true, false, false, false, false, false⟩, TileVal.zero (mkDesc false 2 2 3), TileVal.zero (mkDesc false 2 3 4),
    TileVal.zero (mkDesc false 0 2 4), rfl, rfl, by decide +kernel⟩

theorem witness_TileElements : ∃ v : TileVal, (descTFmt v.shape).scaled = false ∧ (transposeTile false v).isOk = true ∧
    (zeroBlocks 0 v).isOk = true :=
  ⟨rowTile, by decide +kernel⟩

theorem witness_TileArithmetic : ∃ a b : TileVal, descValid a.shape = true ∧ b.shape = a.shape ∧ descFmt a.shape ∈ [0, 1, 2, 18] :=
  ⟨rowTile, rowTile, by decide +kernel⟩

theorem witness_TileScaling : (∃ a : TileVal, descValid a.shape = true ∧ descFmt a.shape < 3) ∧
    ∃ a : TileVal, descValid a.shape = true ∧ blockFormat (descFmt a.shape) :=
  ⟨⟨rowTile, by decide +kernel⟩, ⟨TileVal.zero (mkDesc true 16 33 2), by decide +kernel, by decide +kernel, by decide +kernel⟩⟩

theorem witness_TileConversion : ∃ (a : TileVal) (f : Nat), descValid a.shape = true ∧ f ≤ 18 ∧ blockFormat f ∧
    ∀ g, tileFmt f = some g → descCols a.shape ≤ g.maxCols := by
  refine ⟨rowTile, 5, by decide +kernel, by decide, ⟨by decide, by decide⟩, fun g hg => ?_⟩
  have h : (tileFmt 5).all (fun g => decide (descCols rowTile.shape ≤ g.maxCols)) = true := by decide +kernel
  rw [hg] at h
  simpa using h

theorem witness_TileRequantised : ∃ a : TileVal, descValid a.shape = true ∧ blockFormat (descFmt a.shape) ∧ descCols a.shape ≤ 128 :=
  ⟨TileVal.zero (mkDesc true 5 33 2), by decide +kernel, ⟨by decide +kernel, by decide +kernel⟩, by decide +kernel⟩

theorem witness_TileWait : ∃ (s : State) (o : TOp), s.thr.sup = false ∧ s.Serial ∧ s.thr.vq = [] ∧ s.gDamaged [] = false ∧
    s.takeMismatch.1 = 0 ∧ (∀ e ∈ s.thr.tq, tGDest e.ins = none) ∧ (∃ e ∈ s.thr.tq, tqWrites o.ma e = true) ∧
    ∀ e ∈ s.thr.tq, e.st = .posted :=
  ⟨queued (tiles 0 0) (entry (.tcopy (tileOp 3 1 0 0)) 0 0), tileOp 0 3 0 0, by decide +kernel, rfl, rfl, by decide +kernel⟩

theorem witness_TileWait_held : ∃ (s : State) (o : TOp) (e : TqEnt) (f : FaultInfo), s.thr.sup = false ∧ s.Serial ∧ s.thr.vq = [] ∧
    s.thr.tq = [e] ∧ e.st = .held f ∧ tqWrites o.ma e = true :=
  ⟨queued (tiles 0 0) { entry (.tcopy (tileOp 3 1 0 0)) 0 0 with st := .held { cause := 7 } }, tileOp 0 3 0 0, _, _, by decide +kernel, rfl, rfl, rfl,
    rfl, by decide +kernel⟩

theorem witness_TileGet : ∃ (o : TOp) (s : State), s.Clear ∧ s.Serial ∧ s.thr.sup = false ∧ s.damage.slots = [] ∧ tileReady s o.ma.toNat ∧
    s.thr.tmapReady = true ∧ (∀ a, s.thr.fillErr ≠ some (o.ma.toNat, a)) ∧ (s.tileSlot o.ma.toNat).all (fun y => !y.report) = true ∧
    lineCheck (s.tileVal o.ma.toNat).shape true (s.g (o.g.zeroExtend 6)).toNat s.thr.hdr.vregs (o.md.extractLsb' 0 6) 0 = none :=
  ⟨tileOp 63 1 0 1, tiles 15 0, clearI (by decide +kernel), rfl, by decide +kernel, rfl, tileReadyI (by decide +kernel), by decide +kernel, nofun,
    by decide +kernel⟩

theorem witness_TileFaults : ∃ (s : State) (e : TqEnt) (o : TOp) (f : TFault), e.ins = .mma o ∧ tileAlone s e ∧
    (∀ x ∈ tReads e.ins, tileReady s x.1.toNat) ∧ s.freeArray.isSome = true ∧ (s.core s.thr.id.core).pool ≠ [] ∧
    mmaCheck (mmaMods false o) (s.ent o.ma.toNat).shape (s.ent o.mb.toNat).shape (s.ent o.md.toNat).shape = some f := by
  refine ⟨queued products (entry (.mma (tileOp 2 1 3 0)) 0 0), entry (.mma (tileOp 2 1 3 0)) 0 0, tileOp 2 1 3 0, ⟨3, 1⟩, rfl, tileAloneI (by decide +kernel), ?_, by decide +kernel⟩
  simp only [entry, tReads, tileOp, List.mem_append, List.mem_cons, List.not_mem_nil, or_false, Bool.false_eq_true, if_false]
  rintro x ((rfl | rfl) | rfl) <;> exact tileReadyI (by decide +kernel)

theorem witness_TileFaults_watchdog : ∃ (s : State) (e : TqEnt), s.thr.tq = [e] ∧ e.st = .posted ∧ e.res = noResult ∧ s.thr.sup = false ∧
    e.since ≠ 0 ∧ e.since + 2 ^ 26 ≤ s.cycle + 1 ∧ s.slotless e = true :=
  let e := { entry (.tcopy (tileOp 3 1 0 0)) 0 0 with since := 1 }
  let s := queued (tiles 0 0) e
  let s := s.setCore 0 { s.core 0 with split := 0, pool := [], slots := (s.core 0).slots.map fun x => { x with sf := true } }
  ⟨{ s with cycle := 2 ^ 26 }, e, rfl, rfl, rfl, by decide +kernel⟩

theorem witness_TileFaults_patient : ∃ (s : State) (e : TqEnt), s.thr.tq = [e] ∧ e.since ≠ 0 ∧ e.since + 2 ^ 26 ≤ s.cycle + 1 ∧ s.slotless e = false :=
  ⟨{ queued (tiles 0 0) { entry (.tcopy (tileOp 3 1 0 0)) 0 0 with since := 1 } with cycle := 2 ^ 26 }, _, rfl, by decide +kernel⟩

/-- A fill or a spill of tile 1 is in flight. -/
def moving (spill : Bool) : State :=
  let s := tiles 0 0
  let m : Move := { spill := spill, slot := 1, tag := s.tagOf 1, shape := rowTile.shape, bidx := 0, val := rowTile, flags := 0, pref := false
                    toPool := false, began := 0 }
  let s := s.onThr fun t => { t with c := { t.c with tmapb := 0x50000000 } }
  let s := s.setCore 0 { s.core 0 with moves := [{ m with tag := s.tagOf 1 }] }
  { s with mem := s.mem.write (0x50004000 + 65536 + 4096) (toBytes 64 (shapeLine 0 0 1 rowTile.shape).toNat) }

theorem witness_FillsAndSpills : ∃ (s : State) (m : Move), s.thr.id.core < 192 ∧ (s.core s.thr.id.core).moves = [m] ∧ s.thr.owns m.tag = true ∧
    (s.ent m.tag.tile).gen = m.tag.gen ∧ (∀ c < 192, c ≠ s.thr.id.core → (s.core c).moves = []) ∧ s.damage.slots = [] ∧ m.spill = false ∧
    (s.readRegion m.tag.ctx m.tag.base m.bidx m.tag.tile m.tag.gen m.shape).isOk = true :=
  ⟨moving false, _, by decide +kernel, rfl, by decide +kernel⟩

theorem witness_FillsAndSpills_spill : ∃ (s : State) (m : Move), s.thr.id.core < 192 ∧ (s.core s.thr.id.core).moves = [m] ∧
    s.thr.owns m.tag = true ∧ (s.ent m.tag.tile).gen = m.tag.gen ∧ (∀ c < 192, c ≠ s.thr.id.core → (s.core c).moves = []) ∧
    s.damage.slots = [] ∧ m.spill = true ∧ s.inUse s.thr.id.core m.tag = false ∧
    (s.writeRegion m.tag.ctx m.tag.base m.bidx m.tag.tile m.tag.gen m.flags m.val).2 = none :=
  ⟨moving true, _, by decide +kernel, rfl, by decide +kernel⟩

/-- Tile 1 in a slot of core 5, clean. -/
def away : State :=
  let s := (tiles 0 0).onThr fun t => { t with tmap := t.tmap.take 4 }
  let s := s.setEnt 1 { s.ent 1 with state := 3, core := 5, slot := 7 }
  s.setCore 5 ((s.core 5).putSlot { num := 7, tag := s.tagOf 1, val := rowTile, zmap := 0, dirty := false, full := true
                                    sf := false, sfAddr := 0, report := false, lastUse := 0 })

theorem witness_FillsAndSpills_request : ∃ (s : State) (k t : Nat), k < 192 ∧ k ≠ s.thr.id.core ∧ (∀ c < 192, (s.core c).moves = []) ∧ s.damage.slots = [] ∧
    t < s.thr.tmap.length ∧ (∀ u < s.thr.tmap.length, u ≠ t → (s.ent u).slot ≠ (s.ent t).slot) ∧ (s.ent t).resident = true ∧
    (s.ent t).core.toNat = k ∧ (s.tileSlot t).any (fun x => !x.dirty && !x.report) = true :=
  ⟨away, 5, 1, by decide, by decide +kernel, stillI (by decide +kernel), by decide +kernel⟩

/-- The spill of that tile has failed. -/
theorem witness_FillsAndSpills_report : ∃ (s : State) (k t : Nat), k < 192 ∧ k ≠ s.thr.id.core ∧ t < s.thr.tmap.length ∧ (s.ent t).resident = true ∧
    (s.ent t).core.toNat = k ∧ (s.tileSlot t).any (fun x => x.report) = true :=
  ⟨away.setCore 5 { away.core 5 with slots := (away.core 5).slots.map fun x => { x with report := true } }, 5, 1, by decide +kernel⟩

/-! ### Hypotheses that are met: engine, barriers, pages, mailboxes, fences, calls, hachure -/

theorem plainI {s : State} {a b : List (BitVec 6)}
    (h : s.gWait (a ++ b) = none ∧ s.gDamaged a = false ∧ s.damage.mismatch = [] ∧ s.regions = []) : plain s a b := by
  obtain ⟨p, q, r, t⟩ := h
  refine ⟨p, q, ?_, t⟩
  simp [State.takeMismatch, State.mismatches, r]

/-- An engine operand: g(1) to g(4). -/
def engine : AOp := ⟨1, 2, 3, 4, false, false, 0⟩

/-- The thread with its data space: a destination, a source, a length, a barrier. -/
def copies (dst src len bar : Word) : State := ((data dst src).setG 3 len).setG 4 bar

theorem witness_TransferPosting : ∃ (s : State) (o : AOp), s.accessWaits = false ∧ plain s [o.dst, o.src, o.len, o.bar] [] ∧
    plain s [o.dst, o.src, o.len, o.len + 1, o.len + 2, o.len + 3, o.bar] [] ∧ s.myTransfers.length < 16 ∧ (s.g o.len).toNat = 2 ^ 40 ∧
    (s.g o.bar).toNat % 8 = 0 ∧ s.g o.bar ≠ 0 ∧ s.xlate s.thr.id.ctx s.thr.sup true (s.g o.bar).toNat = .ok 0x40000008 :=
  ⟨copies 0x40001000 0x40002000 0x10000000000 0x40000008, engine, by decide +kernel, plainI (by decide +kernel), plainI (by decide +kernel), by decide +kernel⟩

theorem witness_TransferPosting_long : ∃ (s : State) (o : AOp), s.accessWaits = false ∧ plain s [o.dst, o.src, o.len, o.bar] [] ∧ quiet s ∧
    s.thr.sup = false ∧ (s.g o.len).toNat = 2 ^ 40 + 1 :=
  ⟨copies 0x40001000 0x40002000 0x10000000001 0, engine, by decide +kernel, plainI (by decide +kernel), ⟨rfl, rfl, rfl⟩, by decide +kernel⟩

/-- A transfer of the thread. -/
def transfer (sp : CpySp) (dst src len bar : Word) : Transfer :=
  { core := 0, tslot := 0, tid := user.thr.id, sup := false, two := false, sp := sp, dst := dst, src := src, len := len.toNat, rows := 1, sp2 := 0
    dp2 := 0, bar := bar, acq := false, rel := false, scope := 0, posts := 0, since := 0, err := false }

/-- It is the only one. -/
def moved (x : Transfer) : State := { data 0 0 with transfers := [x] }

theorem moved_placed (x : Transfer) : placed (moved x) := by
  refine ⟨show (data 0 0).thr.live = true by decide +kernel, fun g hg => ?_⟩
  have h : (data 0 0).group (data 0 0).thr.id.gid = some probeGroup := by decide +kernel
  change (data 0 0).group (data 0 0).thr.id.gid = some g at hg
  cases h.symm.trans hg
  simp [probeGroup]

theorem witness_TransferResult : ∃ (s : State) (x : Transfer) (a b n p q : Nat), s.transfers = [x] ∧ placed s ∧ x.tid = s.thr.id ∧ s.Serial ∧
    x.acq = false ∧ x.err = false ∧ s.relWaits x = false ∧ x.bar = 0 ∧ x.chunks = [(a, b, n)] ∧ x.sp = .dd ∧ pieces a n = [(a, n)] ∧ s.xlate x.tid.ctx x.sup false a = .ok p ∧
    s.dataErr x.tid.ctx true false p = none ∧ s.xlate x.tid.ctx x.sup true b = .ok q ∧ s.dataErr x.tid.ctx false true q = none :=
  ⟨moved (transfer .dd 0x40001001 0x1002 5 0), transfer .dd 0x40001001 0x1002 5 0, 0x1002, 0x40001001, 5, 0x1002, 0x40001001, rfl, moved_placed _, rfl, rfl,
    rfl, rfl, by decide +kernel, rfl, rfl, rfl, by decide +kernel⟩

theorem witness_TransferResult_acquire : ∃ (s : State) (x : Transfer), s.transfers = [x] ∧ placed s ∧ x.tid = s.thr.id ∧ s.Serial ∧ x.acq = true :=
  let x : Transfer := { transfer .dd 0x40001001 0x1002 5 0 with acq := true }
  ⟨moved x, x, rfl, moved_placed x, rfl, rfl, rfl⟩

theorem witness_TransferResult_scratchpad : ∃ (s : State) (x : Transfer) (a b n : Nat), s.transfers = [x] ∧ placed s ∧ x.tid = s.thr.id ∧ s.Serial ∧
    (x.acq = false ∧ x.err = false ∧ s.relWaits x = false) ∧ x.bar = 0 ∧ x.chunks = [(a, b, n)] ∧ x.sp = .ss ∧ a + n ≤ (192 - s.thr.hdr.slots) * 36864 ∧ b + n ≤ (192 - s.thr.hdr.slots) * 36864 :=
  ⟨moved (transfer .ss 0x40 0x88 5 0), transfer .ss 0x40 0x88 5 0, 0x88, 0x40, 5, rfl, moved_placed _, rfl, rfl,
    by decide +kernel, rfl, by decide +kernel⟩

theorem witness_TransferResult_arrival : ∃ (s : State) (x : Transfer) (q : Nat), s.transfers = [x] ∧ placed s ∧ x.tid = s.thr.id ∧ s.Serial ∧
    (x.acq = false ∧ x.err = false ∧ s.relWaits x = false) ∧ x.chunks = [] ∧ x.bar ≠ 0 ∧ x.bar.toNat % 8 = 0 ∧ s.xlate x.tid.ctx x.sup true x.bar.toNat = .ok q ∧ s.dataErr x.tid.ctx true true q = none :=
  ⟨moved (transfer .dd 0 0 0 0x40000008), transfer .dd 0 0 0 0x40000008, 0x40000008, rfl, moved_placed _, rfl, rfl, by decide +kernel⟩

theorem witness_TransferFailure : ∃ (s : State) (x : Transfer) (a b n c : Nat), s.transfers = [x] ∧ placed s ∧ x.tid = s.thr.id ∧
    (x.acq = false ∧ x.err = false ∧ s.relWaits x = false) ∧ x.sp = .dd ∧ x.chunks = [(a, b, n)] ∧ pieces a n = [(a, n)] ∧ s.xlate x.tid.ctx x.sup false a = .error c ∧ c ≠ 0x12 :=
  ⟨moved (transfer .dd 0x40001000 0x80000000 8 0), transfer .dd 0x40001000 0x80000000 8 0, 0x80000000, 0x40001000, 8, 3, rfl, moved_placed _,
    rfl, by decide +kernel⟩

theorem witness_TransferResult_waits : ∃ (s : State) (x : Transfer), s.transfers = [x] ∧ placed s ∧ x.tid = s.thr.id ∧ s.Serial ∧
    x.acq = false ∧ x.err = false ∧ s.relWaits x = true := by
  let x : Transfer := { transfer .dd 0x40001000 0x1000 8 0 with rel := true, posts := 1 }
  let s := queued (moved x) (entry (.tst false (tileOp 0 1 0 1)) 0x40001000 0)
  refine ⟨s, x, rfl, ⟨by decide +kernel, (moved_placed x).2⟩, rfl, rfl, rfl, rfl, by decide +kernel⟩

theorem witness_BarrierWords : ∃ (s : State) (o : AOp) (pa : Nat), plain s [o.src, o.bar] [] ∧ s.accessWaits = false ∧
    (s.g o.bar).toNat % 8 = 0 ∧ s.xlate s.thr.id.ctx s.thr.sup true (s.g o.bar).toNat = .ok pa ∧
    s.dataErr s.thr.id.ctx true true pa = none ∧ s.dataErr s.thr.id.ctx false true pa = none :=
  ⟨copies 0 0xFFFFFFFF 0 0x40000008, engine, 0x40000008, plainI (by decide +kernel), by decide +kernel⟩

/-- The barrier word at 0x4000_0008 counts 2. -/
def twice (n : Word) : State := let s := copies 0 0 n 0x40000008; { s with mem := s.mem.write 0x40000008 (toBytes 8 2) }

theorem witness_BarrierWait : ∃ (s : State) (o : AOp) (pa : Nat), s.accessWaits = false ∧ (s.g o.bar).toNat % 8 = 0 ∧
    s.xlate s.thr.id.ctx s.thr.sup false (s.g o.bar).toNat = .ok pa ∧ s.dataErr s.thr.id.ctx true false pa = none ∧
    plain s [o.bar, o.len] [o.dst] ∧ (s.g o.len).toNat % 2 ^ 32 = s.mem.num pa 8 % 2 ^ 32 :=
  ⟨twice 2, engine, 0x40000008, by decide +kernel, by decide +kernel, by decide +kernel, by decide +kernel, plainI (by decide +kernel),
    by decide +kernel⟩

theorem witness_BarrierWait_not : ∃ (s : State) (o : AOp) (pa : Nat), s.accessWaits = false ∧ (s.g o.bar).toNat % 8 = 0 ∧
    s.xlate s.thr.id.ctx s.thr.sup false (s.g o.bar).toNat = .ok pa ∧ s.dataErr s.thr.id.ctx true false pa = none ∧
    plain s [o.bar, o.len] [o.dst] ∧ s.mem.num pa 8 % 2 ^ 32 < (s.g o.len).toNat % 2 ^ 32 ∧ s.mem.num pa 8 < 2 ^ 61 :=
  ⟨twice 3, engine, 0x40000008, by decide +kernel, by decide +kernel, by decide +kernel, by decide +kernel, plainI (by decide +kernel), by decide +kernel⟩

theorem witness_GroupBarrier : ∃ (s : State) (g : Group), plain s [] [] ∧ quiet s ∧ s.myTransfers = [] ∧ s.group s.thr.id.gid = some g ∧
    s.thr.id.tidx < g.n ∧ g.n ≤ 96 ∧ s.thr.id.tidx < g.counts.length ∧ g.counts.getD s.thr.id.tidx 0 = g.opened ∧
    ∀ k < g.n, k ≠ s.thr.id.tidx → g.arr.getLsbD k = true ∨ g.exited.getLsbD k = true :=
  ⟨user, probeGroup, plainI (by decide +kernel), ⟨rfl, rfl, rfl⟩, by decide +kernel⟩

/-- A group of two threads. -/
def pair : Group := { probeGroup with n := 2, counts := [0, 0], threads := [(0, 0, false), (1, 1, false)] }

theorem witness_GroupBarrier_wait : ∃ (s : State) (g : Group), plain s [] [] ∧ quiet s ∧ s.myTransfers = [] ∧ s.group s.thr.id.gid = some g ∧
    s.thr.id.tidx < g.n ∧ g.n ≤ 96 ∧ s.thr.id.tidx < g.counts.length ∧ g.counts.getD s.thr.id.tidx 0 = g.opened ∧
    ∃ k < g.n, k ≠ s.thr.id.tidx ∧ g.arr.getLsbD k = false ∧ g.exited.getLsbD k = false :=
  ⟨{ user with groups := [pair] }, pair, plainI (by decide +kernel), ⟨rfl, rfl, rfl⟩, by decide +kernel⟩

/-- Queue 1 of context 0 in a state, its block at 0x4000_3000. -/
def queueIn (st : QState) (s : State) : State :=
  let s := s.setCtx 0 { s.ctx 0 with qblk := vset (s.ctx 0).qblk 1 0x40003000 }
  s.setQueue 0 1 { s.queue 0 1 with state := st }

theorem witness_Spawning : ∃ (s : State) (o : AOp) (pn pa pb : Nat) (old : Word), plain s [o.src, o.len] [o.dst] ∧ old = 0 ∧ s.accessWaits = false ∧
    (s.g o.src).toNat % 128 = 0 ∧ s.xlate s.thr.id.ctx s.thr.sup false (s.g o.src).toNat = .ok pn ∧ (s.g o.len).toNat ≤ 15 ∧
    s.qva s.thr.id.ctx (s.g o.len).toNat ≠ 0 ∧ (s.queue s.thr.id.ctx (s.g o.len).toNat).state = .empty ∧
    (s.queue s.thr.id.ctx (s.g o.len).toNat).errd = false ∧ s.qget s.thr.id.ctx (s.g o.len).toNat 8 = .ok old ∧
    s.xlate s.thr.id.ctx true true (s.qva s.thr.id.ctx (s.g o.len).toNat + 8) = .ok pa ∧ s.dataErr s.thr.id.ctx true true pa = none ∧
    s.loadPA8 pa = old ∧ s.qva s.thr.id.ctx (s.g o.len).toNat % 8 = 0 ∧
    (s.storePA8 pa (s.g o.src)).xlate s.thr.id.ctx true true (s.qva s.thr.id.ctx (s.g o.len).toNat) = .ok pb ∧
    (s.storePA8 pa (s.g o.src)).dataErr s.thr.id.ctx true true pb = none :=
  ⟨queueIn .empty (copies 0 0x40004000 1 0), engine, 0x40004000, 0x40003008, 0x40003000, 0, plainI (by decide +kernel), rfl,
    by decide +kernel⟩

theorem witness_Spawning_frozen : ∃ (s : State) (o : AOp) (pn : Nat), plain s [o.src, o.len] [o.dst] ∧ s.accessWaits = false ∧
    (s.g o.src).toNat % 128 = 0 ∧ s.xlate s.thr.id.ctx s.thr.sup false (s.g o.src).toNat = .ok pn ∧ (s.g o.len).toNat ≤ 15 ∧
    s.qva s.thr.id.ctx (s.g o.len).toNat ≠ 0 ∧ (s.queue s.thr.id.ctx (s.g o.len).toNat).state = .frozen :=
  ⟨queueIn .frozen (copies 0 0x40004000 1 0), engine, 0x40004000, plainI (by decide +kernel), by decide +kernel⟩

/-- A node at an address that has been taken in. -/
def nodeAt (addr : Word) (st : NState) : Node :=
  { addr := addr, body := Vector.replicate 16 0, state := st, readyAt := 0, work := addr, wbody := Vector.replicate 16 0, hdr := none, groups := 0
    placed := 0, ended := 0, iters := 0, copying := false, since := 0, ran := 0, aff := [], owed := [], failed := none, pend := none }

/-- Queue 1 is ACTIVE with a WAITING node at 0x4000_4000, whose PREDS is given. -/
def waiting (preds : Nat) (s : State) : State :=
  let s := queueIn .active s
  let s := s.setQueue 0 1 { s.queue 0 1 with nodes := [nodeAt 0x40004000 .waiting], lastTaken := 0x40004000 }
  { s with mem := s.mem.write 0x40004008 (toBytes 8 (preds * 2 ^ 32)) }

theorem witness_Signalling : ∃ (s : State) (o : AOp) (pn pa q : Nat) (x : Node), plain s [o.src] [o.dst] ∧ s.accessWaits = false ∧
    (s.g o.src).toNat % 128 = 0 ∧ s.xlate s.thr.id.ctx s.thr.sup true (s.g o.src).toNat = .ok pn ∧ s.inQueue s.thr.id.ctx (s.g o.src) = true ∧
    s.portless s.thr.id.ctx s.thr.sup true ((s.g o.src).toNat + 8) 8 = false ∧
    s.xlate s.thr.id.ctx s.thr.sup true ((s.g o.src).toNat + 8) = .ok pa ∧ s.dataErr s.thr.id.ctx true true pa = none ∧
    (s.loadPA8 pa).toNat / 2 ^ 12 % 8 = 0 ∧ 1 = (s.loadPA8 pa).toNat / 2 ^ 32 ∧ s.findNode s.thr.id.ctx (s.g o.src) = some (q, x) :=
  ⟨waiting 1 (copies 0 0x40004000 0 0), engine, 0x40004000, 0x40004008, 1, nodeAt 0x40004000 .waiting, plainI (by decide +kernel), by decide +kernel⟩

theorem witness_Signalling_none : ∃ (s : State) (o : AOp) (pn : Nat), plain s [o.src] [o.dst] ∧ s.accessWaits = false ∧
    (s.g o.src).toNat % 128 = 0 ∧ s.xlate s.thr.id.ctx s.thr.sup true (s.g o.src).toNat = .ok pn ∧ s.inQueue s.thr.id.ctx (s.g o.src) = false :=
  ⟨copies 0 0x40004000 0 0, engine, 0x40004000, plainI (by decide +kernel), by decide +kernel⟩

/-- A handle in g1, a number in g2, and the pool of context 0. -/
def handles (n : Word) : State := pool (data handle1 n)

theorem witness_HandleResult : ∃ (s : State) (o : SOp) (e' : HEnt) (s' : State), quiet s ∧ s.MemOk ∧ plain s [o.a, o.b] [o.d] ∧
    s.handleReason s.thr.id.ctx (s.g o.a) = 0 ∧ (s.g o.b).toNat = 1 ∧
    (s.hent s.tctx (handleIdx (s.g o.a))).cap / 128 + 1 ≤ s.tctx.maxpg ∧
    s.takePages s.tctx (s.hent s.tctx (handleIdx (s.g o.a))) 1 = some (e', s') := by
  have h : ((handles 1).takePages (handles 1).tctx ((handles 1).hent (handles 1).tctx (handleIdx ((handles 1).g 1))) 1).isSome = true := by
    decide +kernel
  obtain ⟨x, hx⟩ := Option.isSome_iff_exists.mp h
  exact ⟨handles 1, ⟨3, 1, 2, 0⟩, x.1, x.2, ⟨rfl, rfl, rfl⟩, memOkI (by decide +kernel), plainI (by decide +kernel), by decide +kernel,
    by decide +kernel, by decide +kernel, hx⟩

theorem witness_HandleResult_truncate : ∃ (s : State) (o : SOp), quiet s ∧ s.MemOk ∧ plain s [o.a, o.b] [] ∧
    s.handleReason s.thr.id.ctx (s.g o.a) = 0 ∧ (s.g o.b).toNat ≤ (s.hent s.tctx (handleIdx (s.g o.a))).mark ∧
    (s.hent s.tctx (handleIdx (s.g o.a))).refs = 1 :=
  ⟨handles 0, ⟨0, 1, 2, 0⟩, ⟨rfl, rfl, rfl⟩, memOkI (by decide +kernel), plainI (by decide +kernel), by decide +kernel⟩

theorem witness_HandleMaking : ∃ (s : State) (o : SOp) (i : Nat), quiet s ∧ s.MemOk ∧ plain s [] [o.d] ∧ s.freeHandle s.tctx = some i ∧
    s.tctx.listsAt + 4 * s.tctx.maxpg * i < 2 ^ 64 :=
  ⟨handles 3, ⟨3, 1, 2, 0⟩, 2, ⟨rfl, rfl, rfl⟩, memOkI (by decide +kernel), plainI (by decide +kernel), by decide +kernel⟩

theorem witness_HandleMaking_fork : ∃ (s : State) (o : SOp) (i p k : Nat) (s' : State), quiet s ∧ s.MemOk ∧ plain s [o.a, o.b] [o.d] ∧
    s.handleReason s.thr.id.ctx (s.g o.a) = 0 ∧ (s.g o.b).toNat ≤ (s.hent s.tctx (handleIdx (s.g o.a))).len ∧ s.freeHandle s.tctx = some i ∧
    (s.g o.b).toNat % 128 ≠ 0 ∧ (s.g o.b).toNat < 2 ^ 31 ∧
    s.noPort (s.pageRows s.tctx (s.listPage (s.hent s.tctx (handleIdx (s.g o.a))) ((s.g o.b).toNat / 128))) = false ∧
    s.takePage s.tctx (i % 192) = some (p, k, s') ∧ s'.noPort (s'.pageRows s.tctx p) = false := by
  have h : ((handles 3).takePage (handles 3).tctx (2 % 192)).any
      (fun x => !x.2.2.noPort (x.2.2.pageRows (handles 3).tctx x.1)) = true := by decide +kernel
  rw [Option.any_eq_true] at h
  obtain ⟨⟨p, k, s'⟩, hx, hp⟩ := h
  exact ⟨handles 3, ⟨3, 1, 2, 0⟩, 2, p, k, s', ⟨rfl, rfl, rfl⟩, memOkI (by decide +kernel), plainI (by decide +kernel), by decide +kernel,
    by decide +kernel, by decide +kernel, by decide +kernel, by decide +kernel, by decide +kernel, hx, by simpa using hp⟩

theorem witness_HandleFaults : ∃ (s : State) (o : SOp), plain s [o.a, o.b] [o.d] ∧ plain s [o.a] [o.d] ∧ plain s [o.a, o.b] [] ∧ quiet s ∧
    s.thr.sup = false ∧ s.handleReason s.thr.id.ctx (s.g o.a) = 3 :=
  ⟨pool (data (mkHandle 0 1 4) 0), ⟨3, 1, 2, 0⟩, plainI (by decide +kernel), plainI (by decide +kernel), plainI (by decide +kernel),
    ⟨rfl, rfl, rfl⟩, by decide +kernel⟩

/-- An episode of context 0, number 7, on Etesian core 0. -/
def episode (st : EState) (acts obs : List MbEntry) : Episode :=
  { ctx := 0, e := 7, state := st, core := 0, unit := 0, lunits := 1, frames := [], hart := ⟨Vector.replicate 32 0, 0, none, false, 0, 0, 0⟩, wait := .none
    step := 4, base := 0, mode := 0, modeNext := none, budget := 1000, budgetNext := none, kicksCfg := 0, kicks := 0, count := 0, acts := acts
    obs := obs, returned := [], final := none, scrubbing := false, freeAfter := false, cmdSeq := none, icmd := false, iend := false, ivec := 0 }

/-- The thread's context has an episode table, with one episode; its number stands in g1, a value in g2. -/
def hosts (x : Episode) (b : Word) : State :=
  let s := data 7 b
  { s.setCtx 0 { s.ctx 0 with epcbase := 0x40008000 } with eps := [x] }

def letter : MbEntry := ⟨5, [1, 2, 3]⟩

theorem episodeOfI {s : State} {g : Word} {x : Episode} (h : g.toNat < 256 ∧ s.tctx.epcbase ≠ 0 ∧ s.ep s.thr.id.ctx g.toNat = some x ∧
    x.state ≠ .free ∧ x.state ≠ .loading) : episodeOf s g x := h

theorem episodeLiveI {s : State} {g : Word} {x : Episode} (h : (g.toNat < 256 ∧ s.tctx.epcbase ≠ 0 ∧ s.ep s.thr.id.ctx g.toNat = some x ∧
    x.state ≠ .free ∧ x.state ≠ .loading) ∧ (x.state = .ready ∨ x.state = .stepping ∨ x.state = .awaiting)) : episodeLive s g x := h

theorem witness_MailboxPost : ∃ (s : State) (o : VOp) (x : Episode), plain s [o.vb] [] ∧ quiet s ∧ episodeLive s (s.g o.vb) x ∧
    vget s.thr.r.arr o.va.toNat = BitVec.allOnes 32 ∧ s.damage.vec = [] ∧ x.acts.length = 15 :=
  ⟨hosts (episode .ready (List.replicate 15 letter) []) 0, ⟨0, 2, 1, 0, 0, false, 0, 0, false, false, false, true, 255⟩, _, plainI (by decide +kernel),
    ⟨rfl, rfl, rfl⟩, episodeLiveI (x := episode .ready (List.replicate 15 letter) []) (by decide +kernel), by decide +kernel⟩

theorem witness_MailboxTake : ∃ (s : State) (o : VOp) (x : Episode), plain s [o.vb] [] ∧ quiet s ∧ episodeOf s (s.g o.vb) x ∧ x.returned = [] ∧
    x.final = none ∧ x.obs = [letter] :=
  ⟨hosts (episode .done [] [letter]) 0, ⟨2, 0, 1, 0, 0, false, 0, 0, false, false, false, true, 0⟩, episode .done [] [letter], plainI (by decide +kernel),
    ⟨rfl, rfl, rfl⟩, episodeOfI (by decide +kernel), rfl, rfl, rfl⟩

theorem witness_MailboxTake_none : ∃ (s : State) (o : VOp) (x : Episode), plain s [o.vb] [] ∧ quiet s ∧ episodeLive s (s.g o.vb) x ∧
    x.returned = [] ∧ x.final = none ∧ x.obs = [] :=
  ⟨hosts (episode .awaiting [] []) 0, ⟨2, 0, 1, 0, 0, false, 0, 0, false, false, false, true, 0⟩, episode .awaiting [] [], plainI (by decide +kernel),
    ⟨rfl, rfl, rfl⟩, episodeLiveI (by decide +kernel), rfl, rfl, rfl⟩

theorem witness_MailboxControl : ∃ (s : State) (o : SOp) (x : Episode), quiet s ∧ plain s [o.a] [o.d] ∧ plain s [o.a, o.b] [] ∧
    episodeLive s (s.g o.a) x ∧ x.state = .stepping ∧ (s.g o.b).toNat = 2 :=
  ⟨hosts (episode .stepping [] []) 2, ⟨3, 1, 2, 0⟩, episode .stepping [] [], ⟨rfl, rfl, rfl⟩, plainI (by decide +kernel), plainI (by decide +kernel),
    episodeLiveI (by decide +kernel), rfl, by decide +kernel⟩

theorem witness_MailboxControl_now : ∃ (s : State) (o : SOp) (x : Episode), quiet s ∧ plain s [o.a, o.b] [] ∧ episodeLive s (s.g o.a) x ∧
    x.state ≠ .stepping ∧ (s.g o.b).toNat = 0 :=
  ⟨hosts (episode .ready [] []) 0, ⟨3, 1, 2, 0⟩, episode .ready [] [], ⟨rfl, rfl, rfl⟩, plainI (by decide +kernel), episodeLiveI (by decide +kernel), by decide +kernel⟩

theorem witness_MailboxControl_bad : ∃ (s : State) (o : SOp) (x : Episode), quiet s ∧ plain s [o.a, o.b] [] ∧ s.thr.sup = false ∧
    episodeLive s (s.g o.a) x ∧ (s.g o.b).toNat = 3 :=
  ⟨hosts (episode .ready [] []) 3, ⟨3, 1, 2, 0⟩, episode .ready [] [], ⟨rfl, rfl, rfl⟩, plainI (by decide +kernel), by decide +kernel,
    episodeLiveI (by decide +kernel), by decide +kernel⟩

theorem witness_FencesAndRandom : ∃ s : State, quiet s ∧ plain s [] [] ∧ s.myTransfers = [] :=
  ⟨user, ⟨rfl, rfl, rfl⟩, plainI (by decide +kernel), by decide +kernel⟩

theorem witness_FencesAndRandom_random : ∃ (s : State) (r : SOp), quiet s ∧ plain s [] [r.d] ∧ s.csrLost [0x013, 0x014] = false :=
  ⟨user, ⟨5, 0, 0, 0⟩, ⟨rfl, rfl, rfl⟩, plainI (by decide +kernel), by decide +kernel⟩

theorem witness_FencesAndRandom_waits : ∃ s : State, quiet s ∧ plain s [] [] ∧ s.myTransfers ≠ [] :=
  ⟨moved (transfer .dd 0 0 0 0), ⟨rfl, rfl, rfl⟩, plainI (by decide +kernel), by decide +kernel⟩

theorem pairI {α : Type} {x : α × Option (Nat × Nat)} {o : Option (Nat × Nat)} (h : x.2 = o) : ∃ t, x = (t, o) := ⟨x.1, by rw [← h]⟩

theorem witness_CacheOps : ∃ (s : State) (o : AOp) (t : State), plain s [o.dst, o.len] [] ∧ quiet s ∧ s.accessWaits = false ∧ s.MemOk ∧ (s.g o.len).toNat ≤ 2 ^ 40 ∧
    State.cmoLines .clean o.scope.toNat (rangeLines (s.g o.dst).toNat (s.g o.len).toNat) s = (t, none) := by
  obtain ⟨t, h⟩ := pairI (x := State.cmoLines .clean 0 (rangeLines 0x4000103F 2) (copies 0x4000103F 0 2 0)) (o := none) (by decide +kernel)
  exact ⟨copies 0x4000103F 0 2 0, engine, t, plainI (by decide +kernel), ⟨rfl, rfl, rfl⟩, by decide +kernel, memOkI (by decide +kernel), by decide +kernel, h⟩

theorem witness_CacheOps_inval : ∃ (s : State) (o : AOp) (pa : Nat), plain s [o.dst, o.len] [] ∧ quiet s ∧ s.accessWaits = false ∧ (s.g o.len).toNat ≤ 2 ^ 40 ∧
    rangeLines (s.g o.dst).toNat (s.g o.len).toNat = [(s.g o.dst).toNat / 64 * 64] ∧
    s.xlate s.thr.id.ctx s.thr.sup true ((s.g o.dst).toNat / 64 * 64) = .ok pa :=
  ⟨copies 0x4000103F 0 1 0, engine, 0x40001000, plainI (by decide +kernel), ⟨rfl, rfl, rfl⟩, by decide +kernel, by decide +kernel⟩

theorem witness_CacheOps_bad : ∃ (s : State) (o : AOp) (t : State) (a c : Nat), plain s [o.dst, o.len] [] ∧ quiet s ∧ s.accessWaits = false ∧ s.thr.sup = false ∧
    (s.g o.len).toNat ≤ 2 ^ 40 ∧
    State.cmoLines .clean o.scope.toNat (rangeLines (s.g o.dst).toNat (s.g o.len).toNat) s = (t, some (a, c)) := by
  obtain ⟨t, h⟩ := pairI (x := State.cmoLines .clean 0 (rangeLines 0x7FFFFFFF 2) (copies 0x7FFFFFFF 0 2 0)) (o := some (0x80000000, 3))
    (by decide +kernel)
  exact ⟨copies 0x7FFFFFFF 0 2 0, engine, t, 0x80000000, 3, plainI (by decide +kernel), ⟨rfl, rfl, rfl⟩, by decide +kernel, by decide +kernel, by decide +kernel, h⟩

theorem witness_EventWait : ∃ (s : State) (o : YOp) (pa : Nat), plain s [o.g] [] ∧ s.xlate s.thr.id.ctx s.thr.sup false (s.g o.g).toNat = .ok pa :=
  ⟨data 0x40000001 0, ⟨0, 1⟩, 0x40000001, plainI (by decide +kernel), by decide +kernel⟩

theorem witness_EventWait_not : ∃ (s : State) (o : YOp) (c : Nat), plain s [o.g] [] ∧
    s.xlate s.thr.id.ctx s.thr.sup false (s.g o.g).toNat = .error c :=
  ⟨data 0x80000001 0, ⟨0, 1⟩, 3, plainI (by decide +kernel), by decide +kernel⟩

/-- Context 0 has a ring of calls at 0x5000_0000. -/
def ringed (a : Word) : State := let s := data a 0; s.setCtx 0 { s.ctx 0 with hring := 0x50000000 }

/-- The thread has a call with sequence number 1. -/
def calling (w : Wait) (written : Bool) : State := (ringed 0).onThr fun t => { t with hcall := some ⟨1, 5, 77, written⟩, wait := w }

theorem witness_HostCall : ∃ (s : State) (o : YOp), plain s [o.g] [o.g] ∧ quiet s ∧ s.thr.hcall = none ∧ s.tctx.hring ≠ 0 :=
  ⟨ringed 5, ⟨0xFFF, 1⟩, plainI (by decide +kernel), ⟨rfl, rfl, rfl⟩, rfl, by decide +kernel⟩

theorem witness_HostCall_entry : ∃ (s : State) (g : BitVec 6) (h : Hcall), s.thr.wait = .hcallEntry g ∧ s.thr.hcall = some h ∧ s.MemOk ∧
    s.tctx.hien = false ∧ s.ringFree s.thr.id.ctx h.seq.toNat = true :=
  ⟨calling (.hcallEntry 1) false, 1, ⟨1, 5, 77, false⟩, rfl, rfl, memOkI (by decide +kernel), by decide +kernel⟩

theorem witness_HostCall_reply : ∃ (s : State) (g : BitVec 6) (h : Hcall), s.thr.wait = .hcallReply g ∧ s.thr.hcall = some h ∧
    (s.loadPA8 (s.tctx.hring + 32 * (h.seq.toNat % 64) + 16)).getLsbD 62 = true ∧
    s.loadPA8 (s.tctx.hring + 32 * (h.seq.toNat % 64)) = BitVec.ofNat 64 (s.thr.id.ctx * 2 ^ 58 + h.seq.toNat % 2 ^ 58) :=
  ⟨{ calling (.hcallReply 1) true with mem := (((calling (.hcallReply 1) true).mem.write 0x50000020 (toBytes 8 1)).write 0x50000030
      (toBytes 8 0xC000000500000000)) }, 1, ⟨1, 5, 77, true⟩, rfl, rfl, by decide +kernel⟩

/-! ### Hypotheses that are met: hachure regions -/

theorem freeI {s : State} {a : List (BitVec 6)} (h : s.gWait (a ++ []) = none ∧ s.gDamaged a = false ∧ s.damage.mismatch = []) : Claim.free s a := by
  obtain ⟨p, q, r⟩ := h
  refine ⟨p, q, ?_⟩
  simp [State.takeMismatch, State.mismatches, r]

/-- The block of a region: threads 0 and 1, IREG 10, a body of 4 words, nothing carried but g11. -/
def regionBlock : Nat := 2 ^ 384 * 3 + 2 ^ 280 * 4 + 2 ^ 264 * 10 + 2 ^ 256 * 2 + 2 ^ 64 * 2 ^ 11

/-- The thread of a kernel that may open regions: the guess in g1, the block in g2, a count in g3. -/
def opens (count : Word) : State :=
  let s := (data 0x80 0x40005000).setG 3 count
  let s := s.onThr fun t => { t with hdr := { t.hdr with hach := true } }
  { s with mem := s.mem.write 0x40005000 (toBytes 64 regionBlock), groups := [pair] }

def regionOp : SOp := ⟨0, 1, 2, 3⟩

/-- The region of that block, its second thread there already. -/
def region (count : Nat) : Region :=
  let r := Region.ofBlock 0 0 0x40005000 count (BitVec.ofNat 512 regionBlock)
  { r with strokes := r.strokes.map fun k => if k.tidx = 1 then { k with arrived := true, xloop := 0, guess := 0x80 } else k }

theorem witness_RegionStart_limit : ∃ (s : State) (o : SOp), Claim.free s [o.a, o.b, o.c] ∧ quiet s ∧ (s.g o.a).toNat % 8 = 0 ∧
    (s.g o.b).toNat % 64 = 0 ∧ s.thr.hdr.hach = false ∧ s.Serial ∧ s.thr.sup = false :=
  ⟨data 0x80 0x40005000, ⟨0, 1, 2, 2⟩, freeI (by decide +kernel), ⟨rfl, rfl, rfl⟩, by decide +kernel, by decide +kernel,
    by decide +kernel, rfl, by decide +kernel⟩

theorem witness_RegionStart : ∃ (s : State) (o : SOp) (pa : Nat), Claim.free s [o.a, o.b, o.c] ∧ quiet s ∧ (s.g o.a).toNat % 8 = 0 ∧
    (s.g o.b).toNat % 64 = 0 ∧ s.thr.hdr.hach = true ∧
    s.xlate s.thr.id.ctx s.thr.sup false (s.g o.b).toNat = .ok pa ∧ s.dataErr s.thr.id.ctx true false pa = none ∧
    blockOk (BitVec.ofNat 512 (s.mem.num pa 64))
      (Region.ofBlock s.nextRid s.thr.id.gid (s.g o.b) (s.g o.c).toNat (BitVec.ofNat 512 (s.mem.num pa 64))) s.thr.hdr = true ∧
    (Region.ofBlock s.nextRid s.thr.id.gid (s.g o.b) (s.g o.c).toNat (BitVec.ofNat 512 (s.mem.num pa 64))).part.getLsbD s.thr.id.tidx = true ∧ s.regions = [] :=
  ⟨opens 5, regionOp, 0x40005000, freeI (by decide +kernel), ⟨rfl, rfl, rfl⟩, by decide +kernel, by decide +kernel,
    by decide +kernel, by decide +kernel, by decide +kernel, by decide +kernel, by decide +kernel, rfl⟩

theorem leadsI {s : State} {r : Region} {k : Stroke} (h : s.thr.live = true ∧ s.regions = [r] ∧ r.gid = s.thr.id.gid ∧ r.strokes.head? = some k ∧
    k.tidx = s.thr.id.tidx ∧ (r.strokes.map Stroke.tidx).Nodup ∧ (∀ x ∈ r.strokes, x.left = false) ∧ r.vmask = 0 ∧ r.tiles = [] ∧ 1 ≤ r.ireg ∧
    r.ireg ≤ 61 ∧ r.smask.getLsbD r.ireg = false ∧ r.smask.getLsbD 0 = false ∧ 1 ≤ r.strokes.length) : leads s r k := h

/-- The first stroke of a region, by what it does. -/
def stroke (sst : SState) (iter : Option Nat) (arrived : Bool) : Stroke :=
  { tidx := 0, arrived := arrived, left := false, sst := sst, iter := iter, abandoned := false, xloop := 0, guess := 0x80
    ckpt := some ⟨user.thr.r, 0x1800, 0, 0, 0, 0, 0, 0, Vector.replicate 8 0, 0, [], []⟩, input := none, out := none, reads := [], marks := [] }

/-- A region in a state, its first stroke as given, the other without an iteration. -/
def opened (st : RState) (count i0 : Nat) (k : Stroke) : Region :=
  { region count with state := st, i0 := i0, strokes := k :: ((region count).strokes.drop 1) }

/-- The thread in that region, at an address. -/
def strokes (r : Region) (pc : CodeAddr) : State := { (opens 0).onThr fun t => { t with pc := pc } with regions := [r] }

theorem witness_RegionStart_last : ∃ (s : State) (o : SOp) (x : Region) (k : Stroke) (pa : Nat), Claim.free s [o.a, o.b, o.c] ∧ quiet s ∧
    leads s x k ∧ x.state = .armed ∧ (s.g o.a).toNat % 8 = 0 ∧ (s.g o.b).toNat % 64 = 0 ∧ s.thr.hdr.hach = true ∧
    s.xlate s.thr.id.ctx s.thr.sup false (s.g o.b).toNat = .ok pa ∧ s.dataErr s.thr.id.ctx true false pa = none ∧
    (let blk := BitVec.ofNat 512 (s.mem.num pa 64)
     let r := Region.ofBlock s.nextRid s.thr.id.gid (s.g o.b) (s.g o.c).toNat blk
     blockOk blk r s.thr.hdr = true ∧ r.part.getLsbD s.thr.id.tidx = true ∧ x.part = r.part ∧ x.body = r.body) ∧
    x.block = s.g o.b ∧ x.count = (s.g o.c).toNat ∧
    (∀ y ∈ x.strokes, y.sst = .none ∧ (y.tidx ≠ s.thr.id.tidx → y.arrived = true)) ∧ k.arrived = false ∧ x.count = 0 :=
  ⟨strokes (opened .armed 0 0 (stroke .none none false)) 0, regionOp, opened .armed 0 0 (stroke .none none false), stroke .none none false,
    0x40005000, freeI (by decide +kernel), ⟨rfl, rfl, rfl⟩, leadsI (by decide +kernel), rfl, by decide +kernel⟩

theorem witness_RegionRun_guess : ∃ (s : State) (r : Region) (k : Stroke) (j : Nat) (ck : Checkpoint), leads s r k ∧ quiet s ∧ k.iter = some j ∧
    Claim.free s [] ∧ k.arrived = true ∧ k.sst = .guessing ∧ k.ckpt = some ck ∧ ck.tiles = [] :=
  ⟨strokes (opened .running 4 0 (stroke .guessing (some 2) true)) 0x80, opened .running 4 0 (stroke .guessing (some 2) true),
    stroke .guessing (some 2) true, 2, _, leadsI (by decide +kernel), ⟨rfl, rfl, rfl⟩, rfl, freeI (by decide +kernel), rfl, rfl, rfl, rfl⟩

theorem witness_RegionRun_accept : ∃ (s : State) (r : Region) (k : Stroke) (j : Nat), leads s r k ∧ quiet s ∧ k.iter = some j ∧
    Claim.free s [] ∧ k.arrived = true ∧ k.sst = .running ∧ r.state = .running ∧ s.thr.pc = k.xloop + BitVec.ofNat 48 (8 * r.body) ∧
    j = r.i0 ∧ j + 1 = r.count ∧ j % r.strokes.length = 0 :=
  ⟨strokes (opened .running 5 4 (stroke .running (some 4) true)) 0x20, opened .running 5 4 (stroke .running (some 4) true),
    stroke .running (some 4) true, 4, leadsI (by decide +kernel), ⟨rfl, rfl, rfl⟩, rfl, freeI (by decide +kernel), rfl, rfl, rfl,
    by decide +kernel, rfl, rfl, by decide +kernel⟩

theorem witness_RegionRun_end : ∃ (s : State) (r : Region) (k : Stroke) (j : Nat), leads s r k ∧ quiet s ∧ k.iter = some j ∧
    Claim.free s [] ∧ k.arrived = true ∧ k.sst ≠ .guessing ∧ r.state = .done ∧ s.thr.pc = k.xloop + BitVec.ofNat 48 (8 * (r.body + 1)) :=
  ⟨strokes (opened .done 5 4 (stroke .committed (some 4) true)) 0x28, opened .done 5 4 (stroke .committed (some 4) true),
    stroke .committed (some 4) true, 4, leadsI (by decide +kernel), ⟨rfl, rfl, rfl⟩, rfl, freeI (by decide +kernel), rfl, by decide, rfl,
    by decide +kernel⟩

theorem witness_RegionRun_abort : ∃ (s : State) (r : Region) (k : Stroke) (j : Nat) (ck : Checkpoint), leads s r k ∧ quiet s ∧ k.iter = some j ∧
    Claim.free s [] ∧ k.arrived = true ∧ k.sst = .running ∧ r.state = .running ∧ j = r.i0 ∧ k.ckpt = some ck ∧ ck.tiles = [] ∧
    ∀ x ∈ r.strokes, x.tidx ≠ k.tidx → x.sst = .none :=
  ⟨strokes (opened .running 5 4 (stroke .running (some 4) true)) 0x18, opened .running 5 4 (stroke .running (some 4) true),
    stroke .running (some 4) true, 4, _, leadsI (by decide +kernel), ⟨rfl, rfl, rfl⟩, rfl, freeI (by decide +kernel), rfl, rfl, rfl, rfl, rfl, rfl,
    by decide +kernel⟩

theorem witness_RegionTraps : plain user [] [] ∧ quiet user ∧ user.thr.sup = false :=
  ⟨plainI (by decide +kernel), ⟨rfl, rfl, rfl⟩, by decide +kernel⟩

theorem witness_RegionTraps_held : ∃ (s : State), s.gWait ([1, 2] ++ [3]) = none ∧ s.gDamaged [1, 2] = false ∧ s.takeMismatch.1 = 0 ∧
    s.speculative = true ∧ s.guessing = false ∧ s.thr.heldX = false :=
  ⟨strokes (opened .running 5 3 (stroke .running (some 4) true)) 0x18, by decide +kernel⟩

/-! ### Hypotheses that are met: Etesian cores and episodes -/

/-- An Etesian core at turn runs an episode; its x1 and x2 hold two values, and its partition some bytes. -/
def hart (x : Episode) (a b : Word) : State × Episode :=
  let y := { x with e := 0, hart := (x.hart.put 1 a).put 2 b }
  ({ State.reset.placeHart 0 with eps := [y] }, y)

def calm : Episode := episode .stepping [] []

theorem standsI (i : RvI) : standsFor (.full i) i 4 := .inl ⟨rfl, rfl⟩

theorem witness_HartArithmetic : ∃ (s : State) (x : Episode) (r : Rv) (i : RvI) (rd : BitVec 5) (v : Word), s.hartEp = some x ∧
    standsFor r i 4 ∧ rvForm x i = some (rd, v) :=
  ⟨(hart calm 5 7).1, (hart calm 5 7).2, _, .op .sub 3 1 2, _, _, by decide +kernel, standsI _, rfl⟩

theorem witness_HartArithmetic_compressed : ∃ (s : State) (x : Episode) (r : Rv) (i : RvI) (rd : BitVec 5) (v : Word), s.hartEp = some x ∧
    standsFor r i 2 ∧ rvForm x i = some (rd, v) :=
  ⟨(hart calm 5 7).1, (hart calm 5 7).2, .compressed 0x0085, .opImm .add 1 1 1, _, _, by decide +kernel, .inr ⟨0x0085, rfl, by decide +kernel, rfl⟩, rfl⟩

theorem witness_HartControl : ∃ (s : State) (x : Episode) (r : Rv), s.hartEp = some x ∧ standsFor r (.branch .lt 1 2 4) 4 ∧
    (x.hart.get 1).toInt < (x.hart.get 2).toInt :=
  ⟨(hart calm (-1) 7).1, (hart calm (-1) 7).2, _, by decide +kernel, standsI _, by decide +kernel⟩

theorem witness_HartControl_register : ∃ (s : State) (x : Episode) (r : Rv) (v : Word), s.hartEp = some x ∧
    standsFor r (.csr .rs false 3 0 0xCC0) 4 ∧ hartRegister s x 0xCC0 = some v :=
  ⟨(hart calm 0 0).1, (hart calm 0 0).2, _, _, by decide +kernel, standsI _, rfl⟩

theorem witness_HartMemory : ∃ (s : State) (x : Episode) (r : Rv), s.hartEp = some x ∧ x.core < 64 ∧ s.MemOk ∧
    standsFor r (.load .d 3 1 (-8)) 4 ∧ (x.hart.get 1 + (-8 : BitVec 12).signExtend 64).toNat % 8 = 0 ∧
    (x.hart.get 1 + (-8 : BitVec 12).signExtend 64).toNat + 8 = 32768 * x.lunits :=
  ⟨(hart calm 0x8000 7).1, (hart calm 0x8000 7).2, _, by decide +kernel, by decide +kernel, memOkI (by decide +kernel), standsI _, by decide +kernel⟩

theorem witness_HartReservation : ∃ (s : State) (x : Episode) (r : Rv), s.hartEp = some x ∧ x.core < 64 ∧ s.MemOk ∧
    standsFor r (.sc true false false 3 1 2) 4 ∧ (x.hart.get 1).toNat % 8 = 0 ∧ (x.hart.get 1).toNat + 8 ≤ 32768 * x.lunits ∧
    x.hart.resv = some ((x.hart.get 1).toNat, 8) :=
  let c := { calm with hart := { calm.hart with resv := some (0x10, 8) } }
  ⟨(hart c 0x10 7).1, (hart c 0x10 7).2, _, by decide +kernel, by decide +kernel, memOkI (by decide +kernel), standsI _, by decide +kernel⟩

theorem witness_HartReservation_other : ∃ (s : State) (x : Episode) (r : Rv), s.hartEp = some x ∧ x.core < 64 ∧ s.MemOk ∧
    standsFor r (.sc true false false 3 1 2) 4 ∧ (x.hart.get 1).toNat % 8 = 0 ∧ (x.bytesAt (x.hart.get 1) 8).isSome = true ∧
    x.hart.resv ≠ some ((x.hart.get 1).toNat, 8) :=
  let c := { calm with hart := { calm.hart with resv := some (0x10, 4) } }
  ⟨(hart c 0x10 7).1, (hart c 0x10 7).2, _, by decide +kernel, by decide +kernel, memOkI (by decide +kernel), standsI _, by decide +kernel⟩

theorem witness_HartTraps : ∃ (s : State) (x : Episode) (r : Rv), s.hartEp = some x ∧ x.freeAfter = false ∧ standsFor r (.store .w 1 2 0) 4 ∧
    (x.hart.get 1 + (0 : BitVec 12).signExtend 64).toNat % 4 = 0 ∧ (x.hart.get 1 + (0 : BitVec 12).signExtend 64).toNat = 32768 * x.lunits :=
  ⟨(hart calm 0x8000 7).1, (hart calm 0x8000 7).2, _, by decide +kernel, rfl, standsI _, by decide +kernel⟩

theorem witness_TakeAction : ∃ (s : State) (x : Episode) (o : ROp), s.hartEp = some x ∧ x.core < 64 ∧ x.lunits ≤ 31 ∧
    (x.hart.get o.rs1).toNat % 16 = 0 ∧ (x.hart.get o.rs1).toNat + 272 ≤ 32768 * x.lunits ∧ x.acts = [letter] ∧ x.wait = .take o :=
  let c := { episode .ready [letter] [] with wait := .take ⟨10, 1, 0⟩ }
  ⟨(hart c 0x7EF0 0).1, (hart c 0x7EF0 0).2, ⟨10, 1, 0⟩, by decide +kernel, by decide +kernel, by decide +kernel, by decide +kernel, by decide +kernel, rfl,
    rfl⟩

theorem witness_PostObservation : ∃ (s : State) (x : Episode) (o : ROp), s.hartEp = some x ∧ x.lunits ≤ 31 ∧ x.modeNext = none ∧ x.mode ≠ 2 ∧
    x.state = .stepping ∧ (x.hart.get o.rs2).toNat % 2 ^ 32 = 256 ∧ (x.hart.get o.rs1).toNat + 256 = 32768 * x.lunits ∧ x.obs.length = 14 :=
  let c := episode .stepping [] (List.replicate 14 letter)
  ⟨(hart c 0x7F00 0x500000100).1, (hart c 0x7F00 0x500000100).2, ⟨10, 1, 2⟩, by decide +kernel, by decide +kernel, rfl, by decide +kernel, rfl, by decide +kernel⟩

theorem witness_StepControl : ∃ (s : State) (x : Episode), s.hartEp = some x ∧ x.core < 64 ∧ x.state = .stepping ∧ x.kicks ≠ 0 ∧ x.returned = [] :=
  let c := { calm with kicks := 2, kicksCfg := 3 }
  ⟨(hart c 0 0).1, (hart c 0 0).2, by decide +kernel, by decide +kernel, rfl, by decide +kernel, rfl⟩

theorem witness_StepBudget : ∃ (s : State) (x : Episode) (k : Nat), (s.ecore k).running = some (x.ctx, x.e) ∧ s.ep x.ctx x.e = some x ∧
    x.state.live = true ∧ x.core = k ∧ x.freeAfter = false ∧ x.wait = .none ∧ x.budget ≤ x.count ∧ s.charged x = true :=
  let c := { calm with count := 1000 }
  ⟨(hart c 0 0).1, (hart c 0 0).2, 0, by decide +kernel, by decide +kernel, by decide +kernel, rfl, rfl, rfl, by decide +kernel⟩

theorem witness_StepBudget_post : ∃ (s : State) (x : Episode) (k : Nat) (o : ROp), (s.ecore k).running = some (x.ctx, x.e) ∧
    s.ep x.ctx x.e = some x ∧ x.state.live = true ∧ x.core = k ∧ x.freeAfter = false ∧ s.ecur = k ∧ x.wait = .post o ∧ x.obs.length < 15 ∧
    x.budget ≤ x.count :=
  let c := { calm with count := 1000, wait := .post ⟨10, 1, 2⟩ }
  ⟨(hart c 0 0).1, (hart c 0 0).2, 0, ⟨10, 1, 2⟩, by decide +kernel, by decide +kernel, by decide +kernel, rfl, rfl, rfl, rfl, by decide +kernel⟩

/-- Entry 0 of an episode table at the top of the data space (the other entries have no address) holds a command with SEQ 1, and the fields of
a `LOAD` of 8 bytes at the foot of the top GiB into one unit of core 3, with a window of one page above it. -/
def commanded (op : Nat) (l : List Episode) : State :=
  let w := fun (m : Mem) (x : Nat × Nat) => m.write x.1 (toBytes 8 x.2)
  let m := [(0x7FFFFF80, 2 ^ 32 + op), (0x7FFFFF90, 2 ^ 48 + 3), (0x7FFFFF98, 1000), (0x7FFFFFA0, 2 ^ 56 - 2 ^ 30), (0x7FFFFFA8, 8),
    (0x7FFFFFB0, 2 ^ 56 - 2 ^ 30 + 65536), (0x7FFFFFB8, 65536), (0x7FFFFFC0, 9), (0x37F8, 0x4001), (0x4FF8, 0x5001), (0x5FF8, 0x40000007)].foldl w []
  { user.setCtx 0 { user.ctx 0 with droot := 0x3000, epcbase := BitVec.ofNat 64 (2 ^ 56 - 128), ecores := 8, seen := m } with mem := m, eps := l }

theorem episodeCommandI {s : State} {n e : Nat} {seq : BitVec 32} {op : Nat} {rz : Bool} (h : e < 256 ∧ (s.ctx n).epcbase ≠ 0 ∧
    s.epCommand n e = some (seq, op, rz) ∧ (List.range 256).all (fun k => k == e || (s.epCommand n k).isNone) = true) :
    episodeCommand s n e seq op rz := by
  obtain ⟨a, b, c, d⟩ := h
  refine ⟨a, b, c, fun k hk hn => ?_⟩
  have := (List.all_eq_true.mp d) k (List.mem_range.mpr hk)
  simpa [hn] using this

theorem isSome_some {α : Type} {x : Option α} (h : x.isSome = true) : ∃ y, x = some y := Option.isSome_iff_exists.mp h

theorem witness_EpisodeLoads : ∃ (s : State) (unit : Nat) (bytes : List Byte) (frames : List Nat), episodeCommand s 0 0 1 1 false ∧
    s.ep 0 0 = none ∧
    loadFields (s.epField 0 0 0x10) (s.epField 0 0 0x18) (s.epField 0 0 0x20) (s.epField 0 0 0x28) (s.epField 0 0 0x30) (s.epField 0 0 0x38)
      ([0x58, 0x60, 0x68, 0x70, 0x78].map (s.epField 0 0)) = true ∧
    (s.ctx 0).ecores.getLsbD (s.epField 0 0 0x10 % 64) = true ∧ s.freeUnits 3 1 = some unit ∧
    s.devReadN 0 (s.epField 0 0 0x20) (s.epField 0 0 0x28 % 2 ^ 32) = .ok bytes ∧
    s.windowFrames 0 (s.epField 0 0 0x30) (s.epField 0 0 0x38 / 65536) = some frames :=
  ⟨commanded 1 [], 0, [0, 0, 0, 0, 0, 0, 0, 0], [0x40010000], episodeCommandI (by decide +kernel), by decide +kernel⟩

/-- An episode of entry 0. -/
def entry0 (st : EState) : Episode := { episode st [] [] with e := 0 }

theorem witness_EpisodeLoads_state : ∃ (s : State) (x : Episode), episodeCommand s 0 0 1 1 false ∧ s.epField 0 0 0x10 / 2 ^ 21 % 2 = 0 ∧
    s.ep 0 0 = some x ∧ x.icmd = false :=
  ⟨commanded 1 [entry0 .ready], entry0 .ready, episodeCommandI (by decide +kernel), by decide +kernel, by decide +kernel, rfl⟩

theorem witness_EpisodeLoads_complete : ∃ (s : State) (x : Episode), s.epOn x.core x.unit = some x ∧ s.ep x.ctx x.e = some x ∧ x.state = .loading ∧
    x.core < 64 ∧ (s.ecore x.core).running = none :=
  ⟨{ data 0 0 with eps := [episode .loading [] []] }, episode .loading [] [], by decide +kernel, by decide +kernel, rfl, by decide +kernel⟩

theorem witness_EpisodeEnds_release : ∃ (s : State) (x : Episode), episodeCommand s 0 0 1 2 false ∧ s.ep 0 0 = some x ∧ x.state.ended = true :=
  ⟨commanded 2 [entry0 .done], entry0 .done, episodeCommandI (by decide +kernel), by decide +kernel, rfl⟩

theorem witness_EpisodeEnds_kill : ∃ (s : State) (x : Episode), episodeCommand s 0 0 1 3 false ∧ s.ep 0 0 = some x ∧ x.state.live = true ∧
    x.freeAfter = false :=
  ⟨commanded 3 [entry0 .awaiting], entry0 .awaiting, episodeCommandI (by decide +kernel), by decide +kernel, rfl, rfl⟩

theorem witness_EpisodeEnds_scrub : ∃ (s : State) (x : Episode) (f : MbEntry), s.epOn x.core x.unit = some x ∧ s.ep x.ctx x.e = some x ∧
    x.scrubbing = true ∧ x.core < 64 ∧ x.freeAfter = false ∧ x.final = some f ∧ x.returned = [] ∧ x.cmdSeq = none ∧ x.iend = false :=
  ⟨{ data 0 0 with eps := [{ episode .killed [] [] with scrubbing := true, final := some letter }] },
    { episode .killed [] [] with scrubbing := true, final := some letter }, letter, by decide +kernel, by decide +kernel, rfl, by decide, rfl, rfl, rfl, rfl, rfl⟩


/-! ### Hypotheses that are met: contexts -/

/-- The foot of the control region after reset (R259): the block of context 0. -/
def region0 : Nat := 0xBF00000000

/-- The package with context 0 in a state, memory holding the fields of its block that are given, by their offsets. -/
def withFields (st : CtxState) (l : List (Nat × Nat)) : State :=
  let m := l.foldl (fun (m : Mem) (x : Nat × Nat) => m.write (region0 + x.1) (toBytes 8 x.2)) []
  { State.reset.setCtx 0 { State.reset.ctx 0 with state := st, seen := m } with mem := m }

/-- A block with a command, and the fields of a context of four live groups, weight 1 and class 2, with one window. -/
def asked (op : Nat) (st : CtxState) (l : List (Nat × Nat)) : State :=
  withFields st ([(0, 2 ^ 32 + op), (0x30, 0x3000), (0x38, 0x1000), (0x40, 4 * 2 ^ 48 + 2 ^ 8 + 2), (0x48, region0 + 0x100000), (0x50, 0x8000),
    (0x100, 3), (0x108, 0x8000 * 65536)] ++ l)

theorem contextCommandI {s : State} {n : Nat} {seq : BitVec 32} {op : Nat} {rz : Bool} (h : s.ctxCommand n = some (seq, op, rz) ∧
    (s.ctx n).inv = none) : contextCommand s n seq op rz := by
  obtain ⟨h, hi⟩ := h
  unfold State.ctxCommand at h
  split at h
  · cases h
  · rename_i a
    simp only [] at h
    split at h
    · cases h
    · rename_i b
      simp only [Option.some.injEq, Prod.mk.injEq] at h
      obtain ⟨rfl, rfl, rfl⟩ := h
      simp only [Bool.or_eq_true, decide_eq_true_eq, not_or, Bool.not_eq_true, Option.isSome_eq_false_iff, Option.isNone_iff_eq_none] at a
      refine ⟨by omega, a.2, hi, rfl, fun e => b ?_, rfl, ?_⟩
      · have := congrArg BitVec.toNat e
        simp only [BitVec.extractLsb'_toNat, Nat.shiftRight_eq_div_pow] at this
        have h1 := (s.cget n 0).isLt
        have h2 := (s.cget n 8).isLt
        omega
      · rw [Bool.eq_iff_iff]
        simp only [bne_iff_ne, ne_eq, decide_eq_true_eq]
        rw [← BitVec.toNat_inj]
        simp only [BitVec.extractLsb'_toNat, Nat.shiftRight_eq_div_pow]
        simp

theorem witness_ContextStatus : ∃ s : State, contextCommand s 0 1 9 false ∧ s.MemOk :=
  ⟨asked 9 .free [], contextCommandI (by decide +kernel), memOkI (by decide +kernel)⟩

theorem witness_ContextStatus_reserved : ∃ s : State, contextCommand s 0 1 2 true ∧ s.MemOk ∧ contextRow 0 2 (.contextSuspend 0) :=
  ⟨asked 0x102 .active [], contextCommandI (by decide +kernel), memOkI (by decide +kernel), .inr (.inl ⟨rfl, rfl⟩)⟩

theorem witness_ContextStatus_state : ∃ s : State, contextCommand s 0 1 5 false ∧ s.MemOk ∧ contextRow 0 5 (.contextUpdate 0) ∧
    (s.ctx 0).state = .quiescing :=
  ⟨asked 5 .quiescing [], contextCommandI (by decide +kernel), memOkI (by decide +kernel), .inr (.inr (.inr (.inr (.inl ⟨rfl, rfl⟩)))), by decide +kernel⟩

theorem witness_ContextStatus_done : ∃ s : State, contextCommand s 0 1 3 false ∧ s.MemOk ∧ contextRow 0 3 (.contextResume 0) ∧
    (s.ctx 0).state = .active :=
  ⟨asked 3 .active [], contextCommandI (by decide +kernel), memOkI (by decide +kernel), .inr (.inr (.inl ⟨rfl, rfl⟩)), by decide +kernel⟩

/-- The context that `CREATE` reads from the block of context 0. -/
def created (s : State) : Ctx :=
  s.readPool (s.takeBlock 0 { Ctx.reset with
    livemax := (s.cget 0 0x40).toNat / 2 ^ 48, savebase := (s.cget 0 0x48).toNat, hseq := (s.ctx 0).hseq })

theorem witness_ContextCreation : ∃ s : State, contextCommand s 0 1 1 false ∧ s.MemOk ∧ (s.ctx 0).state = .free ∧
    s.createFormat 0 (created s) = true ∧ (s.winsApart 0 (created s) = true ∧ s.areasApart 0 (created s) = true) ∧
    (s.quotaOk 0 (created s) = true ∧ s.ecoresFree 0 (created s).ecores = true) ∧ s.cget 0 0x70 = 0 :=
  ⟨asked 1 .free [], contextCommandI (by decide +kernel), memOkI (by decide +kernel), by decide +kernel⟩

theorem witness_ContextCreation_format : ∃ s : State, contextCommand s 0 1 1 false ∧ s.MemOk ∧ (s.ctx 0).state = .free ∧
    s.createFormat 0 (created s) = false :=
  ⟨asked 1 .free [(0x50, 4)], contextCommandI (by decide +kernel), memOkI (by decide +kernel), by decide +kernel⟩

theorem witness_ContextCreation_overlap : ∃ s : State, contextCommand s 0 1 1 false ∧ s.MemOk ∧ (s.ctx 0).state = .free ∧
    s.createFormat 0 (created s) = true ∧ ¬ (s.winsApart 0 (created s) = true ∧ s.areasApart 0 (created s) = true) :=
  ⟨asked 1 .free [(0x108, region0 + 65536)], contextCommandI (by decide +kernel), memOkI (by decide +kernel), by decide +kernel⟩

theorem witness_ContextCreation_resource : ∃ s : State, contextCommand s 0 1 1 false ∧ s.MemOk ∧ (s.ctx 0).state = .free ∧
    s.createFormat 0 (created s) = true ∧ (s.winsApart 0 (created s) = true ∧ s.areasApart 0 (created s) = true) ∧
    ¬ (s.quotaOk 0 (created s) = true ∧ s.ecoresFree 0 (created s).ecores = true) :=
  ⟨(asked 1 .free [(0x68, 6)]).setCtx 1 { Ctx.reset with state := .active, ecores := 4 }, contextCommandI (by decide +kernel), memOkI (by decide +kernel), by decide +kernel⟩

theorem witness_ContextPause_suspend : ∃ s : State, contextCommand s 0 1 2 false ∧ (s.ctx 0).state = .active ∧ s.Serial ∧
    (s.groups.map Group.gid).Nodup ∧ s.groups ≠ [] :=
  ⟨{ asked 2 .active [] with groups := user.groups }, contextCommandI (by decide +kernel), by decide +kernel, rfl, by decide +kernel⟩

theorem witness_ContextPause_busy : ∃ s : State, (s.ctx 0).state = .quiescing ∧ ∃ t ∈ s.threads, t.live = true ∧ t.id.ctx = 0 :=
  ⟨user.setCtx 0 { user.ctx 0 with state := .quiescing }, by decide +kernel, user.thr, by decide +kernel⟩

theorem witness_ContextPause_complete : ∃ s : State, (s.ctx 0).state = .quiescing ∧ (∀ t ∈ s.threads, t.live = true → t.id.ctx ≠ 0) ∧
    s.ctxTransfers 0 = false ∧ s.MemOk ∧ (s.ctx 0).cmdSeq = some 1 :=
  ⟨(asked 2 .active []).setCtx 0 { Ctx.reset with state := .quiescing, cmdSeq := some 1 }, by decide +kernel, by decide +kernel, by decide +kernel,
    memOkI (by decide +kernel), by decide +kernel⟩

theorem witness_ContextPause_resume : ∃ s : State, contextCommand s 0 1 3 false ∧ (s.ctx 0).state = .suspended ∧ s.MemOk :=
  ⟨asked 3 .suspended [], contextCommandI (by decide +kernel), by decide +kernel, memOkI (by decide +kernel)⟩

theorem witness_ContextTeardown : ∃ s : State, contextCommand s 0 1 4 false ∧ (s.ctx 0).state = .active ∧ (s.cget 0 0x10).toNat = 1 :=
  ⟨asked 4 .active [(0x10, 1)], contextCommandI (by decide +kernel), by decide +kernel⟩

theorem witness_ContextTeardown_reserved : ∃ s : State, contextCommand s 0 1 4 false ∧ (s.ctx 0).state = .suspended ∧ (s.cget 0 0x10).toNat = 2 ∧
    s.MemOk :=
  ⟨asked 4 .suspended [(0x10, 2)], contextCommandI (by decide +kernel), by decide +kernel, by decide +kernel, memOkI (by decide +kernel)⟩

theorem witness_ContextTeardown_complete : ∃ (s : State) (w : Window), (s.ctx 0).state = .destroying ∧
    (∀ t ∈ s.threads, t.live = true → t.id.ctx ≠ 0) ∧ s.ctxTransfers 0 = false ∧ s.ctxPinned (s.ctx 0) = false ∧ (s.ctx 0).scrub = true ∧
    s.mgmt.held = [] ∧ w ∈ (s.ctx 0).wins.toList ∧ w.valid = true ∧ paKind (w.base * 65536) = 0 ∧ s.mem.get 0x3000 ≠ 0 ∧
    w.base * 65536 ≤ 0x3000 ∧ 0x3000 < w.last * 65536 :=
  let c : Ctx := { Ctx.reset with state := .destroying, scrub := true, wins := Ctx.reset.wins.set 0 { valid := true, w := true, base := 0, last := 1 } }
  ⟨{ State.reset.setCtx 0 c with mem := [(0x3000, 1)] }, { valid := true, w := true, base := 0, last := 1 }, by decide +kernel, by decide +kernel,
    by decide +kernel, by decide +kernel, by decide +kernel, by decide +kernel, by decide +kernel, rfl, by decide +kernel⟩

theorem witness_ContextUpdates : ∃ s : State, contextCommand s 0 1 5 false ∧ s.MemOk ∧ (s.ctx 0).state = .active ∧ s.vecsOk 0 = true ∧
    (s.cget 0 0x40).toNat / 2 ^ 8 % 256 ≠ 0 :=
  ⟨asked 5 .active [], contextCommandI (by decide +kernel), memOkI (by decide +kernel), by decide +kernel⟩

theorem witness_ContextUpdates_weight : ∃ s : State, contextCommand s 0 1 5 false ∧ s.MemOk ∧ (s.ctx 0).state = .active ∧
    (s.cget 0 0x40).toNat / 2 ^ 8 % 256 = 0 :=
  ⟨asked 5 .active [(0x40, 2)], contextCommandI (by decide +kernel), memOkI (by decide +kernel), by decide +kernel⟩

theorem witness_ContextUpdates_suspended : ∃ s : State, contextCommand s 0 1 5 false ∧ s.MemOk ∧ (s.ctx 0).state = .suspended ∧
    (s.cget 0 0x70).toNat = (s.ctx 0).pblk ∧ s.updateStatus 0 (s.ctx 0) (s.takeBlock 0 (s.ctx 0)) = 0 ∧ s.cget 0 0x60 = (s.ctx 0).blkPolgen :=
  ⟨asked 5 .suspended [], contextCommandI (by decide +kernel), memOkI (by decide +kernel), by decide +kernel⟩

theorem witness_ContextUpdates_refused : ∃ s : State, contextCommand s 0 1 5 false ∧ s.MemOk ∧ (s.ctx 0).state = .suspended ∧
    (s.cget 0 0x70).toNat = (s.ctx 0).pblk ∧ s.updateStatus 0 (s.ctx 0) (s.takeBlock 0 (s.ctx 0)) = 2 :=
  ⟨asked 5 .suspended [(0x50, 4)], contextCommandI (by decide +kernel), memOkI (by decide +kernel), by decide +kernel⟩

theorem witness_Invalidation : ∃ s : State, contextCommand s 0 1 6 false ∧ s.MemOk ∧ (s.ctx 0).state ≠ .free ∧
    ¬ ((s.cget 0 0x10).toNat / 2 ^ 56 % 2 ^ 7 ≠ 0 ∨ (s.cget 0 0x10).toNat % 2 ^ 16 ≠ 0 ∨ 2 ^ 40 ≤ (s.cget 0 0x18).toNat) ∧
    ¬ (s.ctxTransfers 0 = true ∨ s.ctxMoves 0 = true) ∧ (s.cget 0 0x18).toNat = 1 :=
  ⟨asked 6 .active [(0x10, 65536), (0x18, 1)], contextCommandI (by decide +kernel), memOkI (by decide +kernel), by decide +kernel⟩

theorem witness_Invalidation_reserved : ∃ s : State, contextCommand s 0 1 6 false ∧ s.MemOk ∧ (s.ctx 0).state ≠ .free ∧
    2 ^ 40 ≤ (s.cget 0 0x18).toNat :=
  ⟨asked 6 .active [(0x18, 2 ^ 40)], contextCommandI (by decide +kernel), memOkI (by decide +kernel), by decide +kernel⟩

theorem witness_Invalidation_busy : ∃ s : State, contextCommand s 0 1 6 false ∧ s.MemOk ∧ (s.ctx 0).state ≠ .free ∧
    ¬ ((s.cget 0 0x10).toNat / 2 ^ 56 % 2 ^ 7 ≠ 0 ∨ (s.cget 0 0x10).toNat % 2 ^ 16 ≠ 0 ∨ 2 ^ 40 ≤ (s.cget 0 0x18).toNat) ∧
    s.ctxTransfers 0 = true :=
  ⟨{ asked 6 .active [] with transfers := [transfer .dd 0x40001001 0x1002 5 0] }, contextCommandI (by decide +kernel), memOkI (by decide +kernel), by decide +kernel⟩

theorem witness_Unmasking : ∃ s : State, (s.ctx 0).state ≠ .free ∧ s.mem.get (s.cblock 0 + 0x20C) &&& 3 = 2 ∧
    s.mem.get (s.cblock 0 + 0x2C) &&& 3 ≠ 2 :=
  ⟨asked 0 .active [(0x208, 2 * 2 ^ 32)], by decide +kernel⟩

theorem witness_Unmasking_none : ∃ s : State, (s.ctx 0).state ≠ .free ∧ ∀ i < 17, s.mem.get (s.cblock 0 + (if i = 0 then 0x20 else
    0x200 + 16 * (i - 1)) + 12) &&& 3 ≠ 2 :=
  ⟨asked 0 .active [], by decide +kernel⟩

theorem witness_Invalidation_pending : ∃ s : State, (s.ctx 0).cmdSeq = some 1 ∧ (s.ctx 0).inv = some (65536, 1) ∧ s.MemOk ∧ (65536 : Word).toNat % 2 ^ 16 = 0 ∧
    ¬ (s.ctxTransfers 0 = true ∨ s.ctxMoves 0 = true) :=
  ⟨(asked 6 .active []).setCtx 0 { (asked 6 .active []).ctx 0 with cmdSeq := some 1, inv := some (65536, 1) }, by decide +kernel,
    by decide +kernel, memOkI (by decide +kernel), by decide, by decide +kernel⟩

/-! ### Hypotheses that are met: queues and nodes -/

/-- The addresses of the table entries that a walk reads. -/
def walkPath (m : Mem) (va : Nat) : List Level → Nat → List Nat
  | [], _ => []
  | l :: rest, t =>
    (t + 8 * (va / 2 ^ l.shift % 2 ^ l.bits)) ::
      if (m.num (t + 8 * (va / 2 ^ l.shift % 2 ^ l.bits)) 8).testBit 0 && !(m.num (t + 8 * (va / 2 ^ l.shift % 2 ^ l.bits)) 8).testBit 1 then
        walkPath m va rest (m.num (t + 8 * (va / 2 ^ l.shift % 2 ^ l.bits)) 8 / 256 % 2 ^ 48 * 256)
      else []

/-- A walk over two memories that agree outside 64 bytes which no table entry of the walk meets. -/
theorem walk_same {m m' : Mem} {pa : Nat} (h : ∀ a, a < pa ∨ pa + 64 ≤ a → m.get a = m'.get a) (c : Ctx) (code sup write : Bool) (va : Nat) :
    ∀ (ls : List Level) (t : Nat), (∀ a ∈ walkPath m' va ls t, a + 8 ≤ pa ∨ pa + 64 ≤ a) →
      walk m c code sup write va ls t = walk m' c code sup write va ls t := by
  intro ls
  induction ls with
  | nil => intro t _; rfl
  | cons l rest ih =>
    intro t hp
    simp only [walkPath, List.mem_cons, forall_eq_or_imp] at hp
    have hr : m.num (t + 8 * (va / 2 ^ l.shift % 2 ^ l.bits)) 8 = m'.num (t + 8 * (va / 2 ^ l.shift % 2 ^ l.bits)) 8 := by
      have e := hp.1
      generalize t + 8 * (va / 2 ^ l.shift % 2 ^ l.bits) = x at e ⊢
      rw [Mem.num, Mem.num, Mem.read_congr fun i lo hi => h i (by omega)]
    have key : ((m'.num (t + 8 * (va / 2 ^ l.shift % 2 ^ l.bits)) 8).testBit 0 && !(m'.num (t + 8 * (va / 2 ^ l.shift % 2 ^ l.bits)) 8).testBit 1)
        = true → walk m c code sup write va rest (m'.num (t + 8 * (va / 2 ^ l.shift % 2 ^ l.bits)) 8 / 256 % 2 ^ 48 * 256) =
          walk m' c code sup write va rest (m'.num (t + 8 * (va / 2 ^ l.shift % 2 ^ l.bits)) 8 / 256 % 2 ^ 48 * 256) := by
      intro e
      refine ih _ (fun a ha => hp.2 a ?_)
      rw [if_pos e]
      exact ha
    simp only [walk, hr]
    generalize m'.num (t + 8 * (va / 2 ^ l.shift % 2 ^ l.bits)) 8 = e at key ⊢
    cases h0 : e.testBit 0 <;> cases h1 : e.testBit 1 <;> simp_all

/-- An address translates as before where memory has changed only outside the tables that its walk reads. -/
theorem xlate_same {s : State} {m : Mem} {pa n va : Nat} (h : ∀ a, a < pa ∨ pa + 64 ≤ a → m.get a = s.mem.get a) (w : Bool)
    (hp : ∀ a ∈ walkPath s.mem va dataLevels (s.ctx n).droot.toNat, a + 8 ≤ pa ∨ pa + 64 ≤ a) :
    ({ s with mem := m } : State).xlate n true w va = s.xlate n true w va := by
  have e : ({ s with mem := m } : State).ctx n = s.ctx n := rfl
  simp only [State.xlate, Ctx.translate, e, walk_same h _ false true w va _ _ hp]

theorem blockAtI {s : State} {n q pa : Nat} (hm : s.MemOk) (h : n < 64 ∧ q < 16 ∧ s.qva n q ≠ 0 ∧ s.qva n q % 64 = 0)
    (hx : ∀ k < 8, ∀ w, s.xlate n true w (s.qva n q + 8 * k) = .ok (pa + 8 * k))
    (hp : ∀ k < 8, ∀ a ∈ walkPath s.mem (s.qva n q + 8 * k) dataLevels (s.ctx n).droot.toNat, a + 8 ≤ pa ∨ pa + 64 ≤ a)
    (hd : ∀ k < 8, ∀ r w, s.dataErr n r w (pa + 8 * k) = none) : blockAt s n q pa :=
  ⟨h.1, h.2.1, h.2.2.1, h.2.2.2, hm, fun m hs k r w hk => ⟨by rw [xlate_same hs w (hp k hk)]; exact hx k hk w, hd k hk r w⟩⟩

theorem ctlAtI {s : State} {n pa pc : Nat} {node : Word} (h : pc + 8 ≤ pa ∨ pa + 64 ≤ pc)
    (hx : ∀ w, s.xlate n true w (node.toNat + 8) = .ok pc)
    (hp : ∀ a ∈ walkPath s.mem (node.toNat + 8) dataLevels (s.ctx n).droot.toNat, a + 8 ≤ pa ∨ pa + 64 ≤ a)
    (hd : ∀ r w, s.dataErr n r w pc = none) : ctlAt s n pa node pc :=
  ⟨h, fun _ hs r w => ⟨by rw [xlate_same hs w hp]; exact hx w, hd r w⟩⟩

/-- Context 0 with its second gigabyte mapped, a queue 1 in a state, its block at 0x4000_3000, with the words of memory that are given. -/
def hub (st : QState) (nodes : List Node) (l : List (Nat × Nat)) : State :=
  let m := ([(0x3000, 0x4001), (0x4000, 0x5001), (0x5008, 0x40000007)] ++ l).foldl (fun (m : Mem) (x : Nat × Nat) => m.write x.1 (toBytes 8 x.2)) []
  let s := user.setCtx 0 { user.ctx 0 with droot := 0x3000, seen := m, qblk := vset (user.ctx 0).qblk 1 0x40003000 }
  let s := s.setQueue 0 1 { s.queue 0 1 with state := st, nodes := nodes, lastTaken := (nodes.getLast?.map Node.addr).getD 0 }
  { s with mem := m }

theorem hubBlock {s : State} (h : (s.mem.wf = true ∧ s.threads.all (fun t => t.spad.wf) = true ∧
    (List.range 64).all (fun n => (s.ctx n).seen.wf && (s.ctx n).stale.all fun m => m.wf) = true ∧
    (List.range 64).all (fun n => (s.ecore n).sram.wf) = true ∧ s.coh.home.wf = true ∧ s.spads.all (fun k => k.spad.wf) = true) ∧
    s.qva 0 1 = 0x40003000 ∧ (∀ k < 8, ∀ w, s.xlate 0 true w (0x40003000 + 8 * k) = .ok (0x40003000 + 8 * k)) ∧
    (∀ k < 8, ∀ a ∈ walkPath s.mem (0x40003000 + 8 * k) dataLevels (s.ctx 0).droot.toNat, a + 8 ≤ 0x40003000 ∨ 0x40003000 + 64 ≤ a) ∧
    ∀ k < 8, ∀ r w, s.dataErr 0 r w (0x40003000 + 8 * k) = none) : blockAt s 0 1 0x40003000 := by
  obtain ⟨a, b, c, d, e⟩ := h
  exact blockAtI (memOkI a) ⟨by decide, by decide, by rw [b]; decide, by rw [b]⟩ (by rw [b]; exact c) (by rw [b]; exact d) e

/-- A command of the queue with SEQ 1. -/
theorem hubCommand {s : State} {op : Nat} {rz : Bool} (hb : blockAt s 0 1 0x40003000) (h : (s.ctx 0).state.takes = true ∧ (s.queue 0 1).errd = false ∧
    ((s.queue 0 1).cmdSeq = none ∨ (s.queue 0 1).cmdOp = 3) ∧
    (s.loadPA8 0x40003018).extractLsb' 32 32 = 1 ∧ (s.queue 0 1).taken.getD ((s.loadPA8 0x40003020).extractLsb' 32 32) ≠ 1 ∧
    (s.loadPA8 0x40003018).toNat % 256 = op ∧ rz = decide ((s.loadPA8 0x40003018).toNat / 256 % 2 ^ 24 ≠ 0)) :
    queueCommand s 0 1 0x40003000 1 op rz := ⟨hb, h⟩

theorem witness_QueueStatus : ∃ s : State, queueCommand s 0 1 0x40003000 1 9 false :=
  ⟨hub .empty [] [(0x40003018, 2 ^ 32 + 9)], hubCommand (hubBlock (by decide +kernel)) (by decide +kernel)⟩

theorem witness_QueueStatus_reserved : ∃ s : State, queueCommand s 0 1 0x40003000 1 3 true ∧ queueRow 0 1 3 (.queueDrain 0 1) :=
  ⟨hub .empty [] [(0x40003018, 2 ^ 32 + 0x103)], hubCommand (hubBlock (by decide +kernel)) (by decide +kernel), .inr (.inr (.inl ⟨rfl, rfl⟩))⟩

theorem witness_QueueStatus_state : ∃ s : State, queueCommand s 0 1 0x40003000 1 1 false ∧ queueRow 0 1 1 (.queueCreate 0 1) ∧
    (s.queue 0 1).state ≠ .destroyed :=
  ⟨hub .empty [] [(0x40003018, 2 ^ 32 + 1)], hubCommand (hubBlock (by decide +kernel)) (by decide +kernel), .inl ⟨rfl, rfl⟩, by decide +kernel⟩

theorem witness_QueueStatus_layout : ∃ s : State, queueCommand s 0 1 0x40003000 1 4 false ∧ queueRow 0 1 4 (.queueDestroy 0 1) ∧
    ¬ legalCtl (s.loadPA8 (0x40003000 + 0x10)) :=
  ⟨hub .active [] [(0x40003018, 2 ^ 32 + 4), (0x40003010, 2 ^ 22)], hubCommand (hubBlock (by decide +kernel)) (by decide +kernel), .inr (.inr (.inr ⟨rfl, rfl⟩)),
    by decide +kernel⟩

theorem witness_QueueStatus_done : ∃ s : State, queueCommand s 0 1 0x40003000 1 4 false ∧ queueRow 0 1 4 (.queueDestroy 0 1) ∧
    legalCtl (s.loadPA8 (0x40003000 + 0x10)) ∧ (s.queue 0 1).state = .destroyed :=
  ⟨hub .destroyed [] [(0x40003018, 2 ^ 32 + 4)], hubCommand (hubBlock (by decide +kernel)) (by decide +kernel), .inr (.inr (.inr ⟨rfl, rfl⟩)), by decide +kernel⟩

theorem witness_QueueOpening : ∃ s : State, queueCommand s 0 1 0x40003000 1 1 false ∧ (s.queue 0 1).state = .destroyed ∧
    s.loadPA8 0x40003000 = 0 ∧ s.loadPA8 (0x40003000 + 8) = 0 ∧ legalCtl (s.loadPA8 (0x40003000 + 0x10)) :=
  ⟨hub .destroyed [] [(0x40003018, 2 ^ 32 + 1), (0x40003010, 0x100002)], hubCommand (hubBlock (by decide +kernel)) (by decide +kernel), by decide +kernel⟩

theorem witness_QueueOpening_illegal : ∃ s : State, queueCommand s 0 1 0x40003000 1 1 false ∧ (s.queue 0 1).state = .destroyed ∧
    s.loadPA8 0x40003000 ≠ 0 :=
  ⟨hub .destroyed [] [(0x40003018, 2 ^ 32 + 1), (0x40003000, 0x40004000)], hubCommand (hubBlock (by decide +kernel)) (by decide +kernel), by decide +kernel⟩

theorem witness_QueueOpening_resume : ∃ s : State, queueCommand s 0 1 0x40003000 1 2 false ∧ (s.queue 0 1).state = .frozen ∧
    (s.queue 0 1).waits = [] ∧ legalCtl (s.loadPA8 (0x40003000 + 0x10)) ∧ (s.queue 0 1).nodes = [] :=
  ⟨hub .frozen [] [(0x40003018, 2 ^ 32 + 2)], hubCommand (hubBlock (by decide +kernel)) (by decide +kernel), by decide +kernel⟩

theorem witness_QueueOpening_node : ∃ (s : State) (x : Node), queueCommand s 0 1 0x40003000 1 2 false ∧ (s.queue 0 1).state = .frozen ∧
    (s.queue 0 1).waits = [] ∧ legalCtl (s.loadPA8 (0x40003000 + 0x10)) ∧ (s.queue 0 1).nodes = [x] ∧ x.cbar = 0 ∧ x.pend = none :=
  ⟨hub .frozen [nodeAt 0x40004000 .waiting] [(0x40003018, 2 ^ 32 + 2)], nodeAt 0x40004000 .waiting, hubCommand (hubBlock (by decide +kernel)) (by decide +kernel),
    by decide +kernel⟩

theorem witness_QueueClosing_drain : ∃ s : State, queueCommand s 0 1 0x40003000 1 3 false ∧ legalCtl (s.loadPA8 (0x40003000 + 0x10)) ∧
    (s.queue 0 1).state = .empty :=
  ⟨hub .empty [] [(0x40003018, 2 ^ 32 + 3)], hubCommand (hubBlock (by decide +kernel)) (by decide +kernel), by decide +kernel⟩

theorem witness_QueueClosing_nothing : ∃ s : State, queueCommand s 0 1 0x40003000 1 3 false ∧ legalCtl (s.loadPA8 (0x40003000 + 0x10)) ∧
    (s.queue 0 1).state = .active ∧ s.lastLinked 0 1 = 0 ∧ (s.queue 0 1).nodes = [] :=
  ⟨hub .active [] [(0x40003018, 2 ^ 32 + 3)], hubCommand (hubBlock (by decide +kernel)) (by decide +kernel), by decide +kernel⟩

theorem witness_QueueClosing_draining : ∃ s : State, queueCommand s 0 1 0x40003000 1 3 false ∧ legalCtl (s.loadPA8 (0x40003000 + 0x10)) ∧
    (s.queue 0 1).state = .active ∧ (s.queue 0 1).nodes ≠ [] ∧ (s.queue 0 1).lastTaken ≠ 0 ∧
    s.devRead8 0 (s.queue 0 1).lastTaken.toNat = .ok 0 :=
  ⟨hub .active [nodeAt 0x40004000 .waiting] [(0x40003018, 2 ^ 32 + 3)], hubCommand (hubBlock (by decide +kernel)) (by decide +kernel), by decide +kernel⟩

theorem witness_QueueClosing_destroy : ∃ s : State, queueCommand s 0 1 0x40003000 1 4 false ∧ legalCtl (s.loadPA8 (0x40003000 + 0x10)) ∧
    (s.queue 0 1).state = .empty :=
  ⟨hub .empty [] [(0x40003018, 2 ^ 32 + 4)], hubCommand (hubBlock (by decide +kernel)) (by decide +kernel), by decide +kernel⟩

theorem witness_QueueClosing_drop : ∃ s : State, queueCommand s 0 1 0x40003000 1 4 false ∧ legalCtl (s.loadPA8 (0x40003000 + 0x10)) ∧
    (s.queue 0 1).state = .active :=
  ⟨hub .active [nodeAt 0x40004000 .running] [(0x40003018, 2 ^ 32 + 4)], hubCommand (hubBlock (by decide +kernel)) (by decide +kernel), by decide +kernel⟩

/-- Queue 1 with a `DESTROY` under way. -/
def destroying (s : State) : State := s.setQueue 0 1 { s.queue 0 1 with cmdSeq := some 1, cmdOp := 4 }

/-- Queue 1 with a `DRAIN` of SEQ 9 that waits. -/
def draining (s : State) : State := s.setQueue 0 1 { s.queue 0 1 with cmdSeq := some 9, cmdOp := 3, drainTo := 0x40004000 }

theorem witness_QueueClosing_again : ∃ s : State, queueCommand s 0 1 0x40003000 1 3 false ∧ (s.queue 0 1).state = .draining ∧
    (s.queue 0 1).cmdSeq ≠ none :=
  ⟨draining (hub .draining [nodeAt 0x40004000 .waiting] [(0x40003018, 2 ^ 32 + 3)]), hubCommand (hubBlock (by decide +kernel)) (by decide +kernel),
    by decide +kernel⟩

theorem witness_QueueClosing_busy : ∃ s : State, blockAt s 0 1 0x40003000 ∧ (s.ctx 0).state.takes = true ∧ (s.queue 0 1).errd = false ∧
    (s.queue 0 1).cmdSeq = some 1 ∧ (s.queue 0 1).cmdOp = 4 ∧ ∃ t ∈ s.threads, t.live = true ∧ t.id.ctx = 0 ∧ t.id.q = 1 :=
  ⟨(destroying (hub .active [] [])).onThr fun t => { t with id := { t.id with q := 1 } }, hubBlock (by decide +kernel), by decide +kernel, by decide +kernel,
    by decide +kernel, by decide +kernel, _, List.mem_cons_self, by decide +kernel, by decide +kernel, rfl⟩

theorem witness_QueueClosing_end : ∃ s : State, blockAt s 0 1 0x40003000 ∧ (s.ctx 0).state.takes = true ∧ (s.queue 0 1).errd = false ∧
    (s.queue 0 1).cmdSeq = some 1 ∧ (s.queue 0 1).cmdOp = 4 ∧ ∀ t ∈ s.threads, t.live = true → ¬ (t.id.ctx = 0 ∧ t.id.q = 1) :=
  ⟨destroying (hub .active [] []), hubBlock (by decide +kernel), by decide +kernel⟩

theorem witness_QueueClosing_error : ∃ s : State, blockAt s 0 1 0x40003000 ∧ (s.ctx 0).state.takes = true ∧ (s.queue 0 1).errd = true ∧ (s.cget 0 0x300).getLsbD 1 = false ∧
    (s.queue 0 1).waits = [] :=
  ⟨(hub .active [] []).setQueue 0 1 { (hub .active [] []).queue 0 1 with errd := true }, hubBlock (by decide +kernel), by decide +kernel⟩

theorem witness_NodeAppends : ∃ s : State, blockAt s 0 1 0x40003000 ∧ s.loadPA8 (0x40003000 + 8) = 0 :=
  ⟨hub .empty [] [], hubBlock (by decide +kernel), by decide +kernel⟩

theorem witness_NodeAppends_tail : ∃ s : State, blockAt s 0 1 0x40003000 ∧ s.loadPA8 (0x40003000 + 8) ≠ 0 ∧
    (s.loadPA8 (0x40003000 + 8)).toNat % 8 = 0 ∧
    (s.storePA8 (0x40003000 + 8) 0x40004080).xlate 0 true true (s.loadPA8 (0x40003000 + 8)).toNat = .ok 0x40004000 ∧
    (s.storePA8 (0x40003000 + 8) 0x40004080).dataErr 0 true true 0x40004000 = none :=
  ⟨hub .active [] [(0x40003008, 0x40004000)], hubBlock (by decide +kernel), by decide +kernel⟩

theorem witness_NodeTaking : ∃ s : State, blockAt s 0 1 0x40003000 ∧ (s.ctx 0).state.takes = true ∧ (s.queue 0 1).errd = false ∧
    (s.queue 0 1).state = .active ∧ (s.queue 0 1).cmdSeq = none ∧ (s.queue 0 1).owedTake = false ∧ (s.queue 0 1).lastTaken = 0 ∧
    s.loadPA8 0x40003000 = 0 :=
  ⟨hub .active [] [], hubBlock (by decide +kernel), by decide +kernel⟩

/-- Queue 1 whose HEAD names a node at 0x4000_4000 with the CTL that is given: a kernel of one group where TYPE is 1. -/
def linked (ctl : Nat) : State := hub .active [] [(0x40003000, 0x40004000), (0x40004008, ctl), (0x40004010, 0x40005000), (0x40004020, 1)]

theorem witness_NodeTaking_tail : ∃ s : State, blockAt s 0 1 0x40003000 ∧ (s.queue 0 1).lastTaken = 0x40004000 ∧
    s.loadPA8 (0x40003000 + 8) = 0x40004000 :=
  ⟨hub .active [nodeAt 0x40004000 .waiting] [(0x40003008, 0x40004000)], hubBlock (by decide +kernel), by decide +kernel⟩

theorem witness_NodeTaking_behind : ∃ (s : State) (bs : List Byte), blockAt s 0 1 0x40003000 ∧ (s.queue 0 1).lastTaken = 0x40004000 ∧
    s.loadPA8 (0x40003000 + 8) ≠ 0x40004000 ∧ s.devRead8 0 (0x40004000 : Word).toNat = .ok 0x40004080 ∧
    s.devReadN 0 (0x40004080 : Word).toNat 128 = .ok bs ∧ (∀ x ∈ (s.queue 0 1).nodes, x.addr ≠ 0x40004080) ∧
    (Node.ofWords 0x40004080 bs).bodyOk = true ∧ (Node.ofWords 0x40004080 bs).ctl.toNat / 2 ^ 32 = 2 :=
  let s := hub .active [nodeAt 0x40004000 .waiting] [(0x40003008, 0x40004080), (0x40004000, 0x40004080), (0x40004088, 2 * 2 ^ 32 + 6)]
  ⟨s, s.mem.read 0x40004080 128, hubBlock (by decide +kernel), by decide +kernel⟩

theorem witness_NodeTaking_ready : ∃ (s : State) (bs : List Byte), blockAt s 0 1 0x40003000 ∧ (s.queue 0 1).lastTaken = 0 ∧
    s.loadPA8 0x40003000 = 0x40004000 ∧ s.devReadN 0 (0x40004000 : Word).toNat 128 = .ok bs ∧ (s.queue 0 1).nodes = [] ∧
    (0x40004000 : Word) ∉ (s.ctx 0).cancelled ∧ (Node.ofWords 0x40004000 bs).bodyOk = true ∧ (Node.ofWords 0x40004000 bs).nsucc = 0 ∧
    (Node.ofWords 0x40004000 bs).ctl.toNat / 2 ^ 32 = 0 ∧ s.xlate 0 true false ((0x40004000 : Word).toNat + 8) = .ok 0x40004008 ∧
    s.xlate 0 true true ((0x40004000 : Word).toNat + 8) = .ok 0x40004008 ∧ s.dataErr 0 true false 0x40004008 = none ∧
    s.dataErr 0 false true 0x40004008 = none :=
  ⟨linked 1, (linked 1).mem.read 0x40004000 128, hubBlock (by decide +kernel), by decide +kernel⟩

theorem witness_NodeTaking_waiting : ∃ (s : State) (bs : List Byte), s.devReadN 0 (0x40004000 : Word).toNat 128 = .ok bs ∧
    (Node.ofWords 0x40004000 bs).bodyOk = true ∧ (Node.ofWords 0x40004000 bs).ctl.toNat / 2 ^ 32 = 2 :=
  ⟨linked (2 * 2 ^ 32 + 1), (linked (2 * 2 ^ 32 + 1)).mem.read 0x40004000 128, by decide +kernel⟩

theorem witness_NodeTaking_malformed : ∃ (s : State) (bs : List Byte), blockAt s 0 1 0x40003000 ∧
    s.devReadN 0 (0x40004000 : Word).toNat 128 = .ok bs ∧ (Node.ofWords 0x40004000 bs).bodyOk = false ∧
    ctlAt s 0 0x40003000 0x40004000 0x40004008 ∧ ((s.queue 0 1).ctl.getLsbD 20 = false ∧ (s.loadPA8 (0x40003000 + 0x30)).getLsbD 63 = false ∧
    (Node.ofWords 0x40004000 bs).nsucc = 0 ∧ (Node.ofWords 0x40004000 bs).cbar = 0) ∧ unsaved s 0 1 0x40004000 :=
  ⟨linked 7, (linked 7).mem.read 0x40004000 128, hubBlock (by decide +kernel), by decide +kernel, by decide +kernel, ctlAtI (by decide +kernel) (by decide +kernel) (by decide +kernel) (by decide +kernel),
    by decide +kernel, rfl, by decide +kernel⟩

theorem witness_NodeTaking_cancelled : ∃ (s : State) (bs : List Byte), s.devReadN 0 (0x40004000 : Word).toNat 128 = .ok bs ∧
    (0x40004000 : Word) ∈ (s.ctx 0).cancelled ∧ (s.queue 0 1).state = .active :=
  ⟨(linked 1).setCtx 0 { (linked 1).ctx 0 with cancelled := [0x40004000] }, (linked 1).mem.read 0x40004000 128, by decide +kernel⟩

theorem witness_NodeRetiring : ∃ (s : State) (h : Node), blockAt s 0 1 0x40003000 ∧ (s.queue 0 1).nodes = h :: [] ∧
    (s.queue 0 1).owedRetire = false ∧ h.owed = [] ∧ s.devRead8 0 h.addr.toNat = .ok 0 ∧ h.state = .done ∧ (s.queue 0 1).state = .active ∧
    s.loadPA8 (0x40003000 + 8) = h.addr ∧ h.addr ≠ 0 :=
  ⟨hub .active [nodeAt 0x40004000 .done] [(0x40003000, 0x40004000), (0x40003008, 0x40004000)], nodeAt 0x40004000 .done, hubBlock (by decide +kernel),
    by decide +kernel, by decide +kernel, rfl, by decide +kernel, rfl, by decide +kernel⟩

theorem witness_NodeRetiring_next : ∃ (s : State) (h : Node) (next : Word), blockAt s 0 1 0x40003000 ∧ (s.queue 0 1).nodes = h :: [] ∧
    h.owed = [] ∧ s.devRead8 0 h.addr.toNat = .ok next ∧ h.state = .done ∧ next ≠ 0 :=
  ⟨hub .active [nodeAt 0x40004000 .done] [(0x40003000, 0x40004000), (0x40004000, 0x40004080)], nodeAt 0x40004000 .done, 0x40004080,
    hubBlock (by decide +kernel), by decide +kernel, rfl, by decide +kernel, rfl, by decide⟩

theorem witness_NodeRetiring_linking : ∃ (s : State) (h : Node), (s.queue 0 1).nodes = h :: [] ∧ s.devRead8 0 h.addr.toNat = .ok 0 ∧
    h.state = .done ∧ s.loadPA8 (0x40003000 + 8) ≠ h.addr :=
  ⟨hub .active [nodeAt 0x40004000 .done] [(0x40003000, 0x40004000), (0x40003008, 0x40004080)], nodeAt 0x40004000 .done, by decide +kernel, by decide +kernel,
    rfl, by decide +kernel⟩

theorem witness_NodeRetiring_drain : ∃ (s : State) (h : Node), blockAt s 0 1 0x40003000 ∧ (s.queue 0 1).nodes = h :: [] ∧ h.owed = [] ∧
    s.devRead8 0 h.addr.toNat = .ok 0x40004080 ∧ h.state = .done ∧ (s.queue 0 1).state = .draining ∧ (s.queue 0 1).drainTo = h.addr ∧
    (s.queue 0 1).cmdSeq = some 1 ∧ (s.queue 0 1).ctl.getLsbD 21 = false :=
  let s := hub .draining [nodeAt 0x40004000 .done] [(0x40003000, 0x40004000), (0x40004000, 0x40004080)]
  ⟨s.setQueue 0 1 { s.queue 0 1 with drainTo := 0x40004000, cmdSeq := some 1, cmdOp := 3 }, nodeAt 0x40004000 .done, hubBlock (by decide +kernel),
    by decide +kernel, rfl, by decide +kernel, rfl, by decide +kernel⟩

/-- The node of the witnesses, its body with a TYPE, operands and LIMIT. -/
def work (st : NState) (type : Nat) (a b n : Word) (limit : Nat) : Node :=
  let w := (vset (vset (vset (vset (vset (Vector.replicate 16 0) 1 (BitVec.ofNat 64 type)) 2 a) 3 b) 4 n) 6 (BitVec.ofNat 64 limit))
  { nodeAt 0x40004000 st with body := w, wbody := w }

theorem loneNodeI {s : State} {x : Node} (hb : blockAt s 0 1 0x40003000) (hc : ctlAt s 0 0x40003000 x.addr 0x40004008)
    (h : (s.ctx 0).state.takes = true ∧ (s.queue 0 1).errd = false ∧ (s.queue 0 1).cmdSeq = none ∧ (s.queue 0 1).nodes = [x] ∧
      (s.queue 0 1).ctl.getLsbD 20 = false ∧ (s.loadPA8 (0x40003000 + 0x30)).getLsbD 63 = false ∧ x.nsucc = 0 ∧ x.cbar = 0 ∧ x.pend = none) (hu : unsaved s 0 1 x.addr) :
    loneNode s 0 1 0x40003000 0x40004008 x := ⟨hb, h.1, h.2.1, h.2.2.1, h.2.2.2.1, hc, h.2.2.2.2.1, h.2.2.2.2.2.1, h.2.2.2.2.2.2.1, h.2.2.2.2.2.2.2.1, h.2.2.2.2.2.2.2.2, hu⟩

theorem witness_NodeLimits : ∃ (s : State) (x : Node), loneNode s 0 1 0x40003000 0x40004008 x ∧ x.state = .running ∧ x.limit ≠ 0 ∧
    1700 * x.limit < x.ran :=
  let x := { work .running 1 0x40005000 0 1 1 with ran := 1701 }
  ⟨hub .active [x] [(0x40003000, 0x40004000)], x, loneNodeI (hubBlock (by decide +kernel)) (ctlAtI (by decide +kernel) (by decide +kernel) (by decide +kernel)
    (by decide +kernel)) (by decide +kernel) ⟨rfl, by decide +kernel⟩, rfl, by decide +kernel⟩

theorem witness_NodeLimits_left : ∃ (s : State) (x : Node), loneNode s 0 1 0x40003000 0x40004008 x ∧ x.state = .running ∧ x.ran ≤ 1700 * x.limit :=
  let x := { work .running 1 0x40005000 0 1 1 with ran := 1700 }
  ⟨hub .active [x] [(0x40003000, 0x40004000)], x, loneNodeI (hubBlock (by decide +kernel)) (ctlAtI (by decide +kernel) (by decide +kernel) (by decide +kernel)
    (by decide +kernel)) (by decide +kernel) ⟨rfl, by decide +kernel⟩, rfl, by decide +kernel⟩

theorem wroteI {s : State} {addr : Word} {st : NState} (h : (s.writeNState 0 1 addr st).toBool = true) :
    s.writeNState 0 1 addr st = .ok (s.setNState 0 1 addr st) := by
  unfold State.setNState
  revert h
  cases s.writeNState 0 1 addr st with
  | ok a => exact fun _ => rfl
  | error e => exact fun h => nomatch h

/-- The node at 0x4000_4000 is RUNNING. -/
def run (s : State) : State := s.setNState 0 1 0x40004000 .running

theorem witness_NodeStarting : ∃ (s t : State) (x : Node), s.node 0 1 x.addr = some x ∧ x.state = .ready ∧ (s.ctx 0).state = .active ∧
    (s.queue 0 1).errd = false ∧ (s.queue 0 1).state = .active ∧ (s.queue 0 1).cmdSeq = none ∧ x.pend = none ∧ x.type = 2 ∧
    s.writeNState 0 1 x.addr .running = .ok t :=
  ⟨hub .active [work .ready 2 0x40005000 0x40006000 64 0] [], _, work .ready 2 0x40005000 0x40006000 64 0, by decide +kernel, rfl, by decide +kernel,
    by decide +kernel, by decide +kernel, by decide +kernel, rfl, by decide +kernel, wroteI (by decide +kernel)⟩

theorem witness_NodeStarting_barrier : ∃ (s t u : State) (x : Node), s.node 0 1 x.addr = some x ∧ x.state = .ready ∧ x.pend = none ∧ x.type = 6 ∧
    x.cbar = 0 ∧ x.nsucc = 0 ∧ s.writeNState 0 1 x.addr .running = .ok t ∧ t.writeNState 0 1 x.addr .done = .ok u :=
  let s := hub .active [work .ready 6 0 0 0 0] []
  ⟨s, run s, _, work .ready 6 0 0 0 0, by decide +kernel, rfl, rfl, by decide +kernel, by decide +kernel, by decide +kernel, wroteI (by decide +kernel),
    wroteI (by decide +kernel)⟩

/-- The barrier node with one successor, at 0x4000_4080. -/
def leading : Node := { work .ready (6 + 65536) 0 0 0 0 with body := vset (work .ready (6 + 65536) 0 0 0 0).body 11 0x40004080 }

theorem witness_NodeStarting_successor : ∃ (s run done ready : State) (x z : Node), s.writeNState 0 1 x.addr .running = .ok run ∧
    run.writeNState 0 1 x.addr .done = .ok done ∧
    (done.storePA8 0x40004088 (BitVec.ofNat 64 ((done.loadPA8 0x40004088).toNat % 2 ^ 32))).writeNState 0 1 0x40004080 .ready = .ok ready ∧
    s.node 0 1 x.addr = some x ∧ x.pend = none ∧ x.type = 6 ∧ x.cbar = 0 ∧ x.nsucc = 1 ∧ (0x40004080 : Word) ≠ x.addr ∧
    done.succ 0 x.addr 0 = .ok 0x40004080 ∧ done.findNode 0 0x40004080 = some (1, z) ∧
      done.xlate 0 true true ((0x40004080 : Word).toNat + 8) = .ok 0x40004088 ∧ done.dataErr 0 true true 0x40004088 = none ∧
      (done.loadPA8 0x40004088).toNat / 2 ^ 32 = 1 ∧ (done.loadPA8 0x40004088).toNat / 2 ^ 12 % 8 = 0 :=
  let s := hub .active [leading, nodeAt 0x40004080 .waiting] [(0x40004008, 6 + 65536), (0x40004058, 0x40004080), (0x40004088, 2 ^ 32 + 6)]
  ⟨s, run s, (run s).setNState 0 1 0x40004000 .done, _, leading, nodeAt 0x40004080 .waiting, wroteI (by decide +kernel), wroteI (by decide +kernel),
    wroteI (by decide +kernel), by decide +kernel, rfl, by decide +kernel⟩

theorem witness_NodeStarting_skip : ∃ (s run done : State) (x : Node), s.writeNState 0 1 x.addr .running = .ok run ∧
    run.writeNState 0 1 x.addr .done = .ok done ∧ s.node 0 1 x.addr = some x ∧ x.pend = none ∧ x.cbar = 0 ∧ x.nsucc = 0 ∧
    run.devRead8 0 x.opa.toNat = .ok 2 ∧ x.type = 5 ∧ x.count = 2 :=
  let s := hub .active [work .ready 5 0x40007000 0x40007100 2 0] [(0x40007000, 2)]
  ⟨s, run s, _, work .ready 5 0x40007000 0x40007100 2 0, wroteI (by decide +kernel), wroteI (by decide +kernel), by decide +kernel, rfl, by decide +kernel⟩

/-- A node whose control word is 1, and a template at 0x4000_7100: a kernel of two groups. -/
def templated (x : Node) : State := hub .active [x] [(0x40007000, 1), (0x40007108, 1), (0x40007110, 0x40005000), (0x40007120, 2)]

theorem witness_NodeStarting_template : ∃ (s run : State) (x : Node) (bs : List Byte), s.writeNState 0 1 x.addr .running = .ok run ∧
    s.node 0 1 x.addr = some x ∧ x.pend = none ∧ x.cbar = 0 ∧ x.nsucc = 0 ∧
    run.devRead8 0 x.opa.toNat = .ok 1 ∧ x.type = 3 ∧ x.opb = 0x40007100 ∧
    run.devReadN 0 (0x40007100 : Word).toNat 128 = .ok bs ∧ (Node.ofWords 0x40007100 bs).templateOk = true :=
  let s := templated (work .ready 3 0x40007000 0x40007100 0 0)
  ⟨s, run s, work .ready 3 0x40007000 0x40007100 0 0, (templated (nodeAt 0 .ready)).mem.read 0x40007100 128, wroteI (by decide +kernel),
    by decide +kernel, rfl, by decide +kernel⟩

/-- The node copies `n` bytes from 0x4000_5000 to 0x4000_6000. -/
def copying (type : Nat) (src n : Word) : Node :=
  let w := vset (vset (vset (Vector.replicate 16 0) 2 src) 3 0x40006000) 4 n
  { work .running type 0 0 0 0 with copying := true, wbody := w }

theorem witness_NodeEnding_copy : ∃ (s : State) (x : Node), s.node 0 1 x.addr = some x ∧ x.state = .running ∧ x.copying = true ∧ s.Serial ∧
    x.failed = none ∧ x.type = 4 ∧ vget x.wbody 4 = 32 ∧ s.xlate 0 true false (vget x.wbody 2).toNat = .ok 0x40005000 ∧ s.xlate 0 true true (vget x.wbody 3).toNat = .ok 0x40006000 ∧
    s.dataErr 0 true false 0x40005000 = none ∧ s.dataErr 0 false true 0x40006000 = none ∧ (s.ctx 0).state.takes = true :=
  ⟨hub .active [copying 4 0x40005000 32] [], copying 4 0x40005000 32, by decide +kernel, rfl, rfl, rfl, rfl, by decide +kernel⟩

theorem witness_NodeEnding_done : ∃ (s s1 done : State) (x : Node), s.node 0 1 x.addr = some x ∧ x.state = .running ∧ x.copying = true ∧ x.failed = none ∧
    x.type ≠ 4 ∧ s.Serial ∧ (x.cbar = 0 ∧ x.nsucc = 0 ∧ (s.ctx 0).state.takes = true) ∧ s.copyWork 0 x = (s1, none) ∧
    (s1.mapNode 0 1 x.addr fun y => { y with copying := false, since := 0 }).writeNState 0 1 x.addr .done = .ok done := by
  let s := hub .active [copying 2 0x40005000 0] []
  let x := copying 2 0x40005000 0
  have h : (s.copyWork 0 x).2 = none := by decide +kernel
  exact ⟨s, _, _, x, by decide +kernel, rfl, rfl, rfl, by decide +kernel, rfl, by decide +kernel, Prod.ext rfl h, wroteI (by decide +kernel)⟩

theorem witness_NodeEnding_fault : ∃ (s : State) (x : Node) (e : Nat), loneNode s 0 1 0x40003000 0x40004008 x ∧ x.state = .running ∧ x.copying = true ∧
    x.failed = none ∧ 1 ≤ (vget x.wbody 4).toNat ∧ s.xlate 0 true false (vget x.wbody 2).toNat = .error e :=
  ⟨hub .active [copying 2 0x80000000 32] [(0x40003000, 0x40004000)], copying 2 0x80000000 32, cDATA_PAGE, loneNodeI (hubBlock (by decide +kernel))
    (ctlAtI (by decide +kernel) (by decide +kernel) (by decide +kernel) (by decide +kernel)) (by decide +kernel) ⟨rfl, by decide +kernel⟩, rfl, rfl,
    rfl, by decide +kernel⟩

theorem witness_NodeEnding_loop : ∃ (s : State) (x : Node) (bs : List Byte), s.node 0 1 x.addr = some x ∧ x.type = 4 ∧ x.state = .running ∧
    x.copying = false ∧ x.pend = none ∧ x.ended = x.groups ∧ s.devRead8 0 x.opa.toNat = .ok 1 ∧ x.count = 0 ∧ s.devReadN 0 x.opb.toNat 128 = .ok bs ∧
    (Node.ofWords x.opb bs).templateOk = true ∧ (s.ctx 0).state.takes = true :=
  ⟨templated (work .running 4 0x40007000 0x40007100 0 0), work .running 4 0x40007000 0x40007100 0 0,
    (templated (nodeAt 0 .ready)).mem.read 0x40007100 128, by decide +kernel, by decide +kernel, rfl, rfl, rfl, rfl, by decide +kernel⟩

theorem witness_NodeEnding_last : ∃ (s done : State) (x : Node), s.writeNState 0 1 x.addr .done = .ok done ∧ s.node 0 1 x.addr = some x ∧ x.type = 4 ∧
    x.state = .running ∧ x.copying = false ∧ x.pend = none ∧ x.ended = x.groups ∧ s.devRead8 0 x.opa.toNat = .ok 1 ∧ x.count = 3 ∧ x.count.toNat ≤ x.iters ∧ x.cbar = 0 ∧ x.nsucc = 0 ∧
    (s.ctx 0).state.takes = true :=
  let x := { work .running 4 0x40007000 0x40007100 3 0 with iters := 3 }
  ⟨hub .active [x] [(0x40007000, 1)], _, x, wroteI (by decide +kernel), by decide +kernel, by decide +kernel, rfl, rfl, rfl, rfl, by decide +kernel⟩

/-! ### Hypotheses that are met: placement, pre-emption, saves, pools -/

/-- The header of a kernel of `n` threads in a group, a split of 176. -/
def header (n : Nat) : Header := { probeHdr with entry := 0x701, group := n, slots := 176 }

/-- A kernel node of one group, with its header or before it is read. -/
def kernel (st : NState) (h : Option Header) : Node := { work st 0x701 0x40005000 0x40006000 1 0 with groups := 1, hdr := h }

/-- The queue with its nodes, its context of weight 1 and 8 save records at 0xBF00100000. -/
def placing (x : Node) (l : List (Nat × Nat)) : State :=
  let s := hub .active [x] l
  s.setCtx 0 { s.ctx 0 with weight := 1, livemax := 96, savebase := 0x40100000, cls := 1 }

/-- The group of the node that waits for slots. -/
def ready (x : Node) (g : Option Group) (n : Nat) : Ready := ⟨x.prio % 7, 0, 1, x, g, n, x.hdr⟩

theorem onlyReadyI {s : State} {r : Ready} (h : s.lastServed < 64 ∧ r.ctx = 0 ∧ r.cls ≤ 3 ∧ s.readyOf 0 = [r] ∧
    (List.range 64).all (fun m => m == 0 || (s.readyOf m).isEmpty) = true) : onlyReady s r := by
  obtain ⟨a, b, c, d, e⟩ := h
  refine ⟨a, by omega, c, by rw [b]; exact d, fun m hm hn => ?_⟩
  have := (List.all_eq_true.mp e) m (List.mem_range.mpr hm)
  simpa [show m ≠ 0 by omega] using this

theorem witness_GroupLaunch : ∃ (s : State) (r : Ready) (h : Header) (quad : Nat), onlyReady s r ∧ r.group = none ∧ r.hdr = some h ∧ r.n = h.group ∧
    r.q < 16 ∧ s.node r.ctx r.q r.node.addr = some r.node ∧ s.fits s.busySlots r = some quad ∧ h.group ≤ 96 * (s.ctx r.ctx).weight ∧
    (∀ g ∈ s.groups, g.gid < s.nextGid) ∧ r.node.state = .ready ∧ ∃ run, s.writeNState r.ctx r.q r.node.addr .running = .ok run :=
  let x := kernel .ready (some (header 2))
  let s := { placing x [] with nextGid := 5 }
  ⟨s, ready x none 2, header 2, 1, onlyReadyI (by decide +kernel), rfl, rfl, rfl, by decide +kernel, by decide +kernel, by decide +kernel,
    by decide +kernel, by decide +kernel, rfl, _, wroteI (by decide +kernel)⟩

theorem witness_GroupLaunch_header : ∃ (s : State) (r : Ready) (h : Header), onlyReady s r ∧ r.group = none ∧ r.hdr = none ∧ r.q < 16 ∧
    s.readHeader r.ctx r.node = .ok h ∧ s.node r.ctx r.q r.node.addr = some r.node := by
  let x := kernel .ready none
  let s := placing x [(0x40005000, 0x4B524E4C * 2 ^ 32 + 1), (0x40005010, 2 + 176 * 256), (0x40005018, 0)]
  obtain ⟨h, hh⟩ : ∃ h, s.readHeader 0 x = .ok h := isOk_ok (by decide +kernel)
  exact ⟨s, ready x none 0, h, onlyReadyI (by decide +kernel), rfl, rfl, by decide, hh, by decide +kernel⟩

theorem witness_GroupLaunch_rejected : ∃ (s : State) (r : Ready), onlyReady s r ∧ r.group = none ∧ r.hdr = none ∧ r.q = 1 ∧
    s.readHeader r.ctx r.node = .error (4, 0) ∧ loneNode s 0 1 0x40003000 0x40004008 r.node :=
  let x := kernel .ready none
  ⟨placing x [(0x40003000, 0x40004000)], ready x none 0, onlyReadyI (by decide +kernel), rfl, rfl, rfl, by decide +kernel,
    loneNodeI (hubBlock (by decide +kernel)) (ctlAtI (by decide +kernel) (by decide +kernel) (by decide +kernel) (by decide +kernel)) (by decide +kernel)
      ⟨rfl, by decide +kernel⟩⟩

theorem witness_GroupLaunch_none : ∃ s : State, ∀ n < 64, s.readyOf n = [] := ⟨State.reset, by decide +kernel⟩

/-- A group of the node with two saved threads. -/
def saved : Group := { probeGroup with gid := 3, q := 1, node := 0x40004000, state := .suspended, hdr := header 2, threads := [(0, 4, true), (1, 6, true)] }

theorem witness_GroupResume : ∃ (s : State) (r : Ready) (h : Header) (g : Group) (quad : Nat), onlyReady s r ∧ r.group = some g ∧ r.hdr = some h ∧
    g.ctx = r.ctx ∧ r.n = g.threads.length ∧ s.group g.gid = some g ∧ s.fits s.busySlots r = some quad ∧ r.n ≤ 96 * (s.ctx r.ctx).weight ∧
    ∀ k < 192, (s.core k).slots = [] :=
  let x := { kernel .running (some (header 2)) with placed := 1 }
  ⟨{ placing x [] with groups := [saved] }, ready x (some saved) 2, header 2, saved, 1, onlyReadyI (by decide +kernel), rfl, rfl, rfl, rfl, by decide +kernel⟩

/-- A running group of class 0 whose minimum quantum is up, with a thread in each quadrant. -/
def holder : Group := { probeGroup with gid := 3, state := .running, quantumUp := true }

theorem witness_Preemption : ∃ (s : State) (r : Ready) (h : Header) (v : Group), onlyReady s r ∧ r.hdr = some h ∧ s.fits s.busySlots r = none ∧
    s.Serial ∧ s.admitted r = true ∧ s.victims r.cls = [v] ∧ (∀ g ∈ s.groups, g.state ≠ .stopping ∧ g.state ≠ .aborted) ∧ (s.fits (s.busyWithout [v.gid]) r).isSome = true :=
  let x := { kernel .ready (some (header 96)) with body := vset (kernel .ready none).body 1 0x101 }
  let s := { placing x [] with groups := [holder] }
  let at_ := fun (c : Nat) => { s.thr with id := { s.thr.id with gid := 3, core := c } }
  ⟨{ s with thr := at_ 0, parked := [at_ 48, at_ 96, at_ 144] }, ready x none 96, header 96, holder, onlyReadyI (by decide +kernel), rfl, by decide +kernel,
    by exact rfl, by decide +kernel, by decide +kernel⟩

theorem witness_Preemption_quantum : ∃ (s : State) (g : Group), s.group g.gid = some g ∧ g.state = .running ∧ g.quantumUp = false ∧
    g.quantumAt ≤ s.cycle ∧ ∀ n < 64, s.readyOf n = [] :=
  let g := { holder with quantumUp := false, quantumAt := 0 }
  ⟨{ user with groups := [g] }, g, by decide +kernel, rfl, rfl, by decide +kernel⟩

theorem witness_Preemption_early : ∃ (s : State) (g : Group), s.group g.gid = some g ∧ g.state = .running ∧ g.quantumUp = false ∧ s.cycle < g.quantumAt :=
  let g := { holder with quantumUp := false, quantumAt := 9 }
  ⟨{ user with groups := [g] }, g, by decide +kernel, rfl, rfl, by decide +kernel⟩

/-- The thread's group in a state, with its threads. -/
def grouped (st : GState) (l : List (Nat × Nat × Bool)) : Group := { probeGroup with gid := user.thr.id.gid, state := st, threads := l }

theorem restingI {s : State} {g : Group} (h : s.thr.live = true ∧ s.thr.vq = [] ∧ s.thr.tq = [] ∧ s.thr.wait ≠ .exit ∧ s.transfers = [] ∧
    s.group s.thr.id.gid = some g ∧ g.gid = s.thr.id.gid ∧ s.thr.held = none ∧ s.thr.trapsEmpty = false ∧ s.thr.tmapReady = true ∧ s.released s.thr = false)
    (m : s.MemOk) : resting s g :=
  ⟨h.1, h.2.1, h.2.2.1, h.2.2.2.1, h.2.2.2.2.1, h.2.2.2.2.2.1, h.2.2.2.2.2.2.1, m, h.2.2.2.2.2.2.2⟩

theorem witness_ThreadSave : ∃ (s : State) (g : Group), resting s g ∧ g.state = .stopping ∧
    g.threads = [(s.thr.id.tidx, s.thr.id.record, false), (1, 5, false)] ∧ 1 ≠ s.thr.id.tidx :=
  let g := grouped .stopping [(0, 0, false), (1, 5, false)]
  ⟨{ user with groups := [g] }, g, restingI (by decide +kernel) (memOkI (by decide +kernel)), rfl, by decide +kernel⟩

theorem witness_ThreadSave_last : ∃ (s : State) (g : Group), resting s g ∧ g.state = .stopping ∧ g.threads = [(s.thr.id.tidx, s.thr.id.record, false)] :=
  let g := grouped .stopping [(0, 0, false)]
  ⟨{ user with groups := [g] }, g, restingI (by decide +kernel) (memOkI (by decide +kernel)), rfl, by decide +kernel⟩

theorem witness_ThreadSave_aborted : ∃ (s : State) (g : Group), resting s g ∧ g.state = .aborted ∧ s.thr.id.ctx < 64 ∧
    g.threads = [(s.thr.id.tidx, s.thr.id.record, false)] :=
  let g := grouped .aborted [(0, 0, false)]
  ⟨{ user with groups := [g] }, g, restingI (by decide +kernel) (memOkI (by decide +kernel)), rfl, by decide +kernel⟩

theorem witness_ThreadSave_running : ∃ (s : State) (g : Group), resting s g ∧ g.state = .running :=
  let g := grouped .running [(0, 0, false)]
  ⟨{ user with groups := [g] }, g, restingI (by decide +kernel) (memOkI (by decide +kernel)), rfl⟩

/-- The thread with one word in its trace line, a buffer of 512 words at 0x4000_6000. -/
def traced (cycle : Nat) : State :=
  let s := data 0 0
  let s := s.setCtx 0 { s.ctx 0 with tbase := 0x40006000 }
  { s.onThr fun t => { t with trace := ⟨[], [7], [], 0, 0, 0, 0⟩, c := { t.c with tracectl := 0x10C000001 } } with cycle := cycle }

theorem witness_TraceFlush : ∃ (s : State) (pa : Nat), s.thr.live = true ∧ s.thr.trace.queue = [] ∧ s.thr.trace.bits = [] ∧ s.thr.trace.line ≠ [] ∧
    s.thr.trace.lost = 0 ∧ s.thr.trace.written < s.thr.trace.line.length ∧ s.thr.c.tracectl.getLsbD 0 = true ∧ s.thr.trace.stamp + 4096 ≤ s.cycle ∧
    s.xlate s.thr.id.ctx true true (s.tctx.tbase.toNat + s.thr.id.record * (8 * 512) + 8 * ((1 + 2 ^ 32 - s.thr.trace.line.length) % 512)) = .ok pa ∧
    2 ^ ((s.thr.c.tracectl.extractLsb' 24 5).toNat - 3) = 512 ∧ (s.thr.c.tracectl.extractLsb' 32 32).toNat = 1 ∧
    s.dataErr s.thr.id.ctx false true pa = none :=
  ⟨traced 4096, 0x40006000, by decide +kernel⟩

theorem witness_TraceFlush_written : ∃ s : State, s.thr.live = true ∧ s.thr.trace.line ≠ [] ∧ s.thr.trace.lost = 0 ∧
    s.thr.c.tracectl.getLsbD 0 = true ∧ s.thr.trace.line.length ≤ s.thr.trace.written ∧ s.thr.trace.stamp + 4096 ≤ s.cycle :=
  ⟨(traced 4096).onThr fun t => { t with trace := { t.trace with written := 1 } }, by decide +kernel⟩

theorem witness_TraceFlush_early : ∃ s : State, s.thr.live = true ∧ s.thr.trace.line ≠ [] ∧ s.thr.c.tracectl.getLsbD 0 = true ∧
    s.cycle < s.thr.trace.stamp + 4096 :=
  ⟨traced 4095, by decide +kernel⟩

/-- The pool with a command of SEQ 1, its argument, and a state for its page 17. -/
def pooled (cmd arg n st : Nat) : State :=
  let s := pool (data 0 0)
  let s := s.setPrec (s.ctx 0) 17 { dfr := 0, pgen := 1, refs := 1, pins := 0, state := st }
  { s with mem := ((s.mem.write 0x41000000 (toBytes 8 (2 ^ 32 + cmd))).write 0x41000010 (toBytes 8 arg)).write 0x41000018 (toBytes 8 n) }

theorem poolCommandI {s : State} {n : Nat} {seq : BitVec 32} {op : Nat} {rz : Bool} (m : s.MemOk) (h : n < 64 ∧ (s.ctx n).state ≠ .free ∧
    (s.ctx n).state ≠ .destroying ∧ (s.ctx n).pblk ≠ 0 ∧ (∀ p ∈ s.promotions, p.ctx ≠ n) ∧ (s.ctx n).pien = false ∧
    (s.loadPA8 (s.ctx n).pblk).extractLsb' 32 32 = seq ∧ (s.loadPA8 ((s.ctx n).pblk + 8)).extractLsb' 32 32 ≠ seq ∧
    (s.loadPA8 (s.ctx n).pblk).toNat % 256 = op ∧ rz = decide ((s.loadPA8 (s.ctx n).pblk).toNat / 256 % 2 ^ 24 ≠ 0)) :
    poolCommand s n seq op rz :=
  ⟨h.1, h.2.1, h.2.2.1, h.2.2.2.1, h.2.2.2.2.1, m, h.2.2.2.2.2⟩

theorem witness_PoolCommands : ∃ s : State, poolCommand s 0 1 9 false :=
  ⟨pooled 9 0 0 4, poolCommandI (memOkI (by decide +kernel)) (by decide +kernel)⟩

theorem witness_PoolCommands_reserved : (∃ s : State, poolCommand s 0 1 1 true) ∧ ∃ s : State, poolCommand s 0 1 2 true :=
  ⟨⟨pooled 0x101 0 0 4, poolCommandI (memOkI (by decide +kernel)) (by decide +kernel)⟩,
    ⟨pooled 0x102 0 0 4, poolCommandI (memOkI (by decide +kernel)) (by decide +kernel)⟩⟩

theorem witness_PoolCommands_range : ∃ s : State, poolCommand s 0 1 1 false ∧ (s.ctx 0).ndev + (s.ctx 0).nslow = (s.loadPA8 ((s.ctx 0).pblk + 0x10)).toNat :=
  ⟨pooled 1 20 0 4, poolCommandI (memOkI (by decide +kernel)) (by decide +kernel), by decide +kernel⟩

theorem witness_PoolCommands_state : ∃ s : State, poolCommand s 0 1 1 false ∧ (s.loadPA8 ((s.ctx 0).pblk + 0x10)).toNat = 17 ∧
    (s.prec (s.ctx 0) 17).state ≠ 4 :=
  ⟨pooled 1 17 0 1, poolCommandI (memOkI (by decide +kernel)) (by decide +kernel), by decide +kernel⟩

theorem witness_PoolCommands_promote : ∃ (s : State) (ch k : Nat), poolCommand s 0 1 1 false ∧ (s.loadPA8 ((s.ctx 0).pblk + 0x10)).toNat = 17 ∧
    17 < (s.ctx 0).ndev + (s.ctx 0).nslow ∧ (s.prec (s.ctx 0) 17).state = 4 ∧
    s.nextFrame (s.ctx 0) (s.mem.get ((s.ctx 0).pblk + 0x3C)).toNat = some (ch, k) := by
  let s := pooled 1 17 0 4
  obtain ⟨x, hx⟩ : ∃ x, s.nextFrame (s.ctx 0) (s.mem.get ((s.ctx 0).pblk + 0x3C)).toNat = some x := isSome_some (by decide +kernel)
  exact ⟨s, x.1, x.2, poolCommandI (memOkI (by decide +kernel)) (by decide +kernel), by decide +kernel, by decide +kernel, by decide +kernel, hx⟩

theorem witness_PoolCommands_full : ∃ s : State, poolCommand s 0 1 1 false ∧ (s.loadPA8 ((s.ctx 0).pblk + 0x10)).toNat = 17 ∧
    (s.prec (s.ctx 0) 17).state = 4 ∧ s.nextFrame (s.ctx 0) (s.mem.get ((s.ctx 0).pblk + 0x3C)).toNat = none :=
  let s := pooled 1 17 0 4
  ⟨s.storePA (s.ctx 0).mapsAt [0, 0, 0], poolCommandI (memOkI (by decide +kernel)) (by decide +kernel), by decide +kernel⟩

theorem witness_PoolCommands_hold : ∃ s : State, poolCommand s 0 1 2 false ∧
    let h := s.loadPA8 ((s.ctx 0).pblk + 0x10)
    let k := (s.loadPA8 ((s.ctx 0).pblk + 0x18)).toNat
    ¬ (s.handleReason 0 h ≠ 0 ∨ k = 0 ∨ 2 ^ 24 ≤ k ∨ 2 ^ 24 ≤ (s.hent (s.ctx 0) (handleIdx h)).refs + k) :=
  ⟨pooled 2 handle1.toNat 3 4, poolCommandI (memOkI (by decide +kernel)) (by decide +kernel), by decide +kernel⟩

theorem witness_PoolCommands_bad : ∃ s : State, poolCommand s 0 1 2 false ∧ (s.loadPA8 ((s.ctx 0).pblk + 0x18)).toNat = 0 :=
  ⟨pooled 2 handle1.toNat 0 4, poolCommandI (memOkI (by decide +kernel)) (by decide +kernel), by decide +kernel⟩

theorem witness_PromotionEnd_teardown : ∃ (s : State) (p : Promotion), s.promotions = p :: [] ∧ p.ctx < 64 ∧ s.MemOk ∧
    (s.ctx p.ctx).pien = false ∧ (s.ctx p.ctx).state = .destroying :=
  let s := pooled 1 17 0 5
  ⟨{ s.setCtx 0 { s.ctx 0 with state := .destroying } with promotions := [⟨0, 17, 5, 1, 1⟩] }, ⟨0, 17, 5, 1, 1⟩, rfl, by decide,
    memOkI (by decide +kernel), by decide +kernel⟩

/-- The pool copies page 17 to frame 5; Turward is in a state. -/
def promoting (st : Nat) (port : PState) : State :=
  let s := pooled 1 17 0 st
  { s with promotions := [⟨0, 17, 5, 1, 1⟩], turward := { s.turward with state := port } }

theorem witness_PromotionEnd : ∃ (s : State) (p : Promotion), s.promotions = p :: [] ∧ p.ctx < 64 ∧ s.MemOk ∧ (s.ctx p.ctx).pien = false ∧
    (s.ctx p.ctx).state ≠ .destroying ∧ s.turward.usable = true ∧ (s.prec (s.ctx p.ctx) p.page).state = 5 ∧ (s.prec (s.ctx p.ctx) p.page).pgen = p.pgen.toNat :=
  ⟨promoting 5 .up, ⟨0, 17, 5, 1, 1⟩, rfl, by decide, memOkI (by decide +kernel), by decide +kernel⟩

theorem witness_PromotionEnd_dropped : ∃ (s : State) (p : Promotion), s.promotions = p :: [] ∧ s.MemOk ∧ (s.ctx p.ctx).pien = false ∧
    s.turward.usable = true ∧ (s.prec (s.ctx p.ctx) p.page).state ≠ 5 :=
  ⟨promoting 0 .up, ⟨0, 17, 5, 1, 1⟩, rfl, memOkI (by decide +kernel), by decide +kernel, rfl, by decide +kernel⟩

theorem witness_PromotionEnd_waits : ∃ (s : State) (p : Promotion), s.promotions = p :: [] ∧ s.MemOk ∧ (s.ctx p.ctx).pien = false ∧
    s.turward.usable = false :=
  ⟨promoting 5 .down, ⟨0, 17, 5, 1, 1⟩, rfl, memOkI (by decide +kernel), by decide +kernel⟩

/-! ### Hypotheses that are met: ports, the host, other packages, the management plane -/

/-- The package with one port in a state. -/
def withPort (p : Nat) (x : Port) : State := State.reset.setPort p x

theorem witness_PortEnabling : ∃ s : State, s.MemOk ∧ (s.port 3).state = .down ∧ (s.port 3).en = true ∧ (s.port 3).since + 17000000 ≤ s.cycle :=
  ⟨{ withPort 3 ⟨.down, 0, 0, true, 0⟩ with cycle := 17000000 }, memOkI (by decide +kernel), by decide +kernel⟩

theorem witness_PortEnabling_early : ∃ s : State, s.MemOk ∧ (s.port 3).state = .down ∧ (s.port 3).en = true ∧ s.cycle < (s.port 3).since + 17000000 ∧
    s.turward.state = .down ∧ s.cycle < s.turward.since + 17000000 :=
  ⟨{ withPort 3 ⟨.down, 0, 0, true, 0⟩ with cycle := 16999999 }, memOkI (by decide +kernel), by decide +kernel⟩

theorem witness_PortChanges : ∃ s : State, s.MemOk ∧ (s.port 24).state = .training :=
  ⟨withPort 24 ⟨.training, 0, 0, true, 0⟩, memOkI (by decide +kernel), by decide +kernel⟩

theorem witness_PortChanges_lanes : ∃ s : State, s.MemOk ∧ (s.port 0).state = .up ∧ (s.port 0).lanes = 1 :=
  ⟨withPort 0 ⟨.up, 1, 0, true, 0⟩, memOkI (by decide +kernel), by decide +kernel⟩

theorem witness_PodSettings : ∃ s : State, s.MemOk ∧ s.tearing = false ∧ (s.port 23).state = .degraded :=
  ⟨withPort 23 ⟨.degraded, 2, 0, true, 0⟩, memOkI (by decide +kernel), by decide +kernel⟩

theorem witness_PodSettings_fenced : ∃ s : State, s.MemOk ∧ s.tearing = false ∧ (s.port 23).state = .fenced :=
  ⟨withPort 23 ⟨.fenced, 0, 0, true, 0⟩, memOkI (by decide +kernel), by decide +kernel⟩

/-- The package with Turward in a state. -/
def hosted (p : PState) : State := { State.reset with turward := { State.reset.turward with state := p } }

theorem soundI {s : State} {pa n : Nat} (h : s.damage.check = [] ∧ s.damage.uncorr = []) : sound s pa n := fun _ _ _ => by simp [Damage.fails, h.1, h.2]

theorem witness_HostAccesses : ∃ s : State, hostReaches s 0x1000 8 ∧ sound s 0x1000 8 ∧ inert s 0x1000 8 :=
  ⟨hosted .up, ⟨by decide, .inl ⟨by decide, by decide +kernel⟩⟩, soundI ⟨rfl, rfl⟩, .inl (by decide +kernel)⟩

theorem witness_HostAccesses_last : ∃ s : State, hostReaches s (768 * 2 ^ 30 - 8) 8 ∧ inert s (768 * 2 ^ 30 - 8) 8 :=
  ⟨hosted .up, ⟨by decide, .inl ⟨by decide, by decide +kernel⟩⟩, .inr (by decide +kernel)⟩

/-- The slow tier is the host's own, whatever Turward does. -/
theorem witness_HostAccesses_slow : ∃ s : State, hostReaches s (2 ^ 52) 8 ∧ s.turward.usable = false :=
  ⟨hosted .down, ⟨by decide, .inr ⟨by decide, by decide⟩⟩, by decide +kernel⟩

theorem witness_HostAccesses_poisoned : ∃ s : State, hostReaches s 0x1000 8 ∧ ¬ sound s 0x1000 8 :=
  ⟨{ hosted .up with damage := { State.reset.damage with check := [(0x40, 1)] } }, ⟨by decide, .inl ⟨by decide, by decide +kernel⟩⟩,
    fun h => absurd (h 0x40 (by decide) (by decide)).1 (by decide +kernel)⟩

theorem witness_HostAccesses_control : ∃ s : State, s.MemOk ∧ s.turward.usable = true ∧ s.linkBlock + 16 ≤ 768 * 2 ^ 30 ∧
    ∀ n < 64, (s.ctx n).hring = 0 := ⟨hosted .up, memOkI (by decide +kernel), by decide +kernel⟩

/-- The byte of PODCFG's neighbour that is RZ, and the state of port 2, which is RO. -/
theorem witness_HostAccesses_fields : ∃ s : State, hostReaches s (s.linkBlock + 0xA00) 8 ∧ readOnly s (s.portAt 2) ∧
    ¬ readOnly s (s.linkBlock + 0xA00) := by
  refine ⟨hosted .up, ⟨by decide, .inl ⟨by decide +kernel, by decide +kernel⟩⟩, .inr ⟨2, by decide, Nat.le_refl _, by decide +kernel⟩, ?_⟩
  exact (by decide +kernel : ¬ ((∃ n < 64, (hosted .up).mgmt.cbase + 0x400 * n + 8 ≤ (hosted .up).linkBlock + 0xA00 ∧
    (hosted .up).linkBlock + 0xA00 < (hosted .up).mgmt.cbase + 0x400 * n + 16) ∨
    ∃ p < 25, (hosted .up).portAt p ≤ (hosted .up).linkBlock + 0xA00 ∧ (hosted .up).linkBlock + 0xA00 < (hosted .up).portAt p + 8))

theorem witness_HostAccesses_down : (hosted .down).turward.usable = false := by decide +kernel

/-- Package 5 of a pod with one usable port; context 2 holds PTID 9 and a window over its first page. -/
def joined (w : Bool) (check : List (Nat × BitVec 16)) : State :=
  let s := withPort 0 ⟨.up, 4, 0, true, 0⟩
  let s := s.setCtx 2 { Ctx.reset with state := .active, ptid := 9, wins := Ctx.reset.wins.set 1 { valid := true, w := w, base := 0, last := 1 } }
  { s with podcfg := 0x10005, damage := { s.damage with check := check } }

/-- A request of package 6 for the last 8 bytes of that page. -/
def request (op : RemoteOp) : RemoteReq := ⟨1, 6, 9, 2 * 2 ^ 52 + 5 * 2 ^ 42 + 0xFFF8, op⟩

theorem reachesI {s : State} {r : RemoteReq} (h : paKind r.pa = 2 ∧ paValid r.pa = true ∧ paPkg r.pa = s.pkgid ∧ r.fromPkg ≠ s.pkgid ∧
    s.podcfg.getLsbD 16 = true ∧ s.ports.toArray.any Port.usable = true ∧ remoteForm (r.pa % 2 ^ 42) r.op = true) : reaches s r := h

theorem admittedI {s : State} {write : Bool} (n : Nat) (w : Window) (h : n < 64 ∧ (s.ctx n).state ≠ .free ∧ (s.ctx n).ptid = 9 ∧
    w ∈ (s.ctx n).wins.toList ∧ w.valid = true ∧ (write = true → w.w = true) ∧ w.base * 65536 ≤ 0xFFF8 / 64 * 64 ∧ 0xFFF8 / 64 * 64 + 64 ≤ w.last * 65536) :
    admitted s 9 write 0xFFF8 :=
  ⟨by decide, n, h.1, h.2.1, h.2.2.1, w, h.2.2.2⟩

theorem witness_RemoteRequests : ∃ (s : State) (r : RemoteReq), reaches s r ∧ s.MemOk ∧ (r.fromPkg, 2 * r.seq) ∉ s.remoteSeen ∧ r.op = .read 8 ∧
    admitted s r.ptid false (r.pa % 2 ^ 42) ∧ s.damage.fails (r.pa % 2 ^ 42 / 64) = false ∧ r.pa % 2 ^ 42 / 64 ∉ s.damage.uncorr :=
  ⟨joined true [], request (.read 8), reachesI (by decide +kernel), memOkI (by decide +kernel), by decide +kernel, rfl,
    admittedI 2 { valid := true, w := true, base := 0, last := 1 } (by decide +kernel), by decide +kernel⟩

theorem witness_RemoteRequests_changes : (∃ (s : State) (r : RemoteReq), reaches s r ∧ r.op = .write [1, 2] ∧ admitted s r.ptid true (r.pa % 2 ^ 42)) ∧
    (∃ (s : State) (r : RemoteReq), reaches s r ∧ r.op = .amo .add true 5 ∧ admitted s r.ptid true (r.pa % 2 ^ 42)) ∧
    ∃ (s : State) (r : RemoteReq), reaches s r ∧ r.op = .cas false 0 5 ∧ admitted s r.ptid true (r.pa % 2 ^ 42) :=
  have a := admittedI (s := joined true []) (write := true) 2 { valid := true, w := true, base := 0, last := 1 } (by decide +kernel)
  ⟨⟨joined true [], request (.write [1, 2]), reachesI (by decide +kernel), rfl, a⟩,
    ⟨joined true [], request (.amo .add true 5), reachesI (by decide +kernel), rfl, a⟩,
    ⟨joined true [], request (.cas false 0 5), reachesI (by decide +kernel), rfl, a⟩⟩

/-- The package of the pod without a context. -/
def unjoined : State := { withPort 0 ⟨.up, 4, 0, true, 0⟩ with podcfg := 0x10005 }

theorem witness_RemoteRequests_refused : ∃ (s : State) (r : RemoteReq), reaches s r ∧ s.MemOk ∧ (r.fromPkg, 2 * r.seq) ∉ s.remoteSeen ∧
    r.op = .write [1] ∧ ¬ admitted s r.ptid true (r.pa % 2 ^ 42) := by
  refine ⟨unjoined, request (.write [1]), reachesI (by decide +kernel), memOkI (by decide +kernel), by decide +kernel, rfl, fun h => ?_⟩
  exact h.elim fun _ h => h.elim fun n h => absurd ((by decide +kernel : ∀ n < 64, (unjoined.ctx n).state = .free) n h.1) h.2.1

theorem witness_RemoteRequests_damaged : ∃ (s : State) (r : RemoteReq), reaches s r ∧ r.op = .read 8 ∧ admitted s r.ptid false (r.pa % 2 ^ 42) ∧
    s.damage.fails (r.pa % 2 ^ 42 / 64) = true :=
  ⟨joined true [(0x3FF, 1)], request (.read 8), reachesI (by decide +kernel), rfl,
    admittedI 2 { valid := true, w := true, base := 0, last := 1 } (by decide +kernel), by decide +kernel⟩

theorem witness_RemoteRequests_repeated : ∃ (s : State) (r : RemoteReq), reaches s r ∧ s.MemOk ∧ (r.fromPkg, 2 * r.seq) ∈ s.remoteSeen :=
  ⟨{ joined true [] with remoteSeen := [(6, 2)] }, request (.read 8), reachesI (by decide +kernel), memOkI (by decide +kernel), by decide +kernel⟩

/-- A send of a tile to window 4 of this package, and the window with its tile 1. -/
def sending (tok : Word) (tile : TileVal) (bar : Word) : Send :=
  { id := 2, tid := user.thr.id, token := tok, bar := bar, rel := false, scope := 0, tile := tile, deadline := 100, answer := none, waiting := false }

def sent (x : Send) (l : List RWin) : State := { tiles 0 0 with sends := [x], rwins := l }

def token4 : Word := 4 <<< 36 ||| 3 <<< 28

def win4 (ctx : Nat) (tgen : BitVec 8) (shape : BitVec 32) : RWin := ⟨4, 3, ctx, user.thr.c.tmapb, 1, tgen, shape, user.thr.id.gid, 0⟩

theorem witness_SendDecision : ∃ (s : State) (x : Send) (w : RWin) (slot : Slot), s.sends = [x] ∧ x.answer = none ∧
    (x.token.extractLsb' 54 10).toNat = s.pkgid ∧ (s.rwins = [w] ∧ w.win = (x.token.extractLsb' 36 12).toNat ∧ w.gen = x.token.extractLsb' 28 8) ∧
    x.tid.ctx = w.ctx ∧ x.tile.shape = w.shape ∧ (s.winEnt w).gen = w.tgen ∧ (s.winEnt w).resident = true ∧ (s.winEnt w).core.toNat < 192 ∧
    s.heldIn w.ctx w.tmapb w.tile (s.winEnt w) = some slot ∧ s.threads.any (·.owns ⟨w.ctx, w.tmapb, w.tile, w.tgen⟩) = true := by
  let x := sending token4 rowTile 0
  let w := win4 0 ((tiles 0 0).ent 1).gen rowTile.shape
  obtain ⟨y, hy⟩ : ∃ y, (sent x [w]).heldIn w.ctx w.tmapb w.tile ((sent x [w]).winEnt w) = some y := isSome_some (by decide +kernel)
  exact ⟨sent x [w], x, w, y, rfl, rfl, by decide +kernel, by decide +kernel, rfl, rfl, by decide +kernel, by decide +kernel, by decide +kernel, hy,
    by decide +kernel⟩

theorem witness_SendDecision_away : ∃ (s : State) (x : Send), s.sends = [x] ∧ x.answer = none ∧ (x.token.extractLsb' 54 10).toNat = s.pkgid ∧
    s.rwins = [win4 0 0 0] ∧ ∀ w ∈ s.rwins, w.win ≠ (x.token.extractLsb' 36 12).toNat ∨ w.gen ≠ x.token.extractLsb' 28 8 :=
  ⟨sent (sending (4 <<< 36) rowTile 0) [win4 0 0 0], _, rfl, rfl, by decide +kernel, rfl, by decide +kernel⟩

theorem witness_SendDecision_stranger : ∃ (s : State) (x : Send) (w : RWin), s.sends = [x] ∧ x.answer = none ∧ s.rwins = [w] ∧
    w.win = (x.token.extractLsb' 36 12).toNat ∧ w.gen = x.token.extractLsb' 28 8 ∧
    ¬ (x.tid.ctx = w.ctx ∨ ((s.ctx x.tid.ctx).ptid ≠ 0 ∧ (s.ctx x.tid.ctx).ptid = (s.ctx w.ctx).ptid)) :=
  ⟨sent (sending token4 rowTile 0) [win4 1 0 0], _, win4 1 0 0, rfl, rfl, rfl, by decide +kernel⟩

theorem witness_SendDecision_shape : ∃ (s : State) (x : Send) (w : RWin), s.sends = [x] ∧ s.rwins = [w] ∧ w.win = (x.token.extractLsb' 36 12).toNat ∧
    w.gen = x.token.extractLsb' 28 8 ∧ x.tid.ctx = w.ctx ∧ x.tile.shape ≠ w.shape :=
  ⟨sent (sending token4 rowTile 0) [win4 0 0 1], _, win4 0 0 1, rfl, rfl, by decide +kernel, by decide +kernel, rfl, by decide +kernel⟩

theorem witness_SendDecision_released : ∃ (s : State) (x : Send) (w : RWin), s.sends = [x] ∧ s.rwins = [w] ∧ x.tid.ctx = w.ctx ∧ x.tile.shape = w.shape ∧
    (s.winEnt w).gen ≠ w.tgen :=
  let w := win4 0 (((tiles 0 0).ent 1).gen + 1) rowTile.shape
  ⟨sent (sending token4 rowTile 0) [w], _, w, rfl, rfl, rfl, rfl, by decide +kernel⟩

/-- The tile is in its backing region: the data go there. -/
theorem witness_SendDecision_backing : ∃ (s s' : State) (x : Send) (w : RWin), s.sends = [x] ∧ s.rwins = [w] ∧ x.tid.ctx = w.ctx ∧
    x.tile.shape = w.shape ∧ (s.winEnt w).gen = w.tgen ∧ (s.winEnt w).resident = false ∧
    (s.flushRegion ⟨w.ctx, w.tmapb, w.tile, w.tgen⟩ (s.winEnt w).bidx.toNat).writeRegion w.ctx w.tmapb (s.winEnt w).bidx.toNat w.tile w.tgen
      (s.winEnt w).flags x.tile = (s', none) := by
  let b := (tiles 0 0).setEnt 1 { (tiles 0 0).ent 1 with state := 1, f := true }
  let b := b.onThr fun t => { t with c := { t.c with tmapb := 0x40010000 } }
  let w := { win4 0 (b.ent 1).gen rowTile.shape with tmapb := 0x40010000 }
  let s : State := { b with sends := [sending token4 rowTile 0], rwins := [w] }
  have h : ((s.flushRegion ⟨w.ctx, w.tmapb, w.tile, w.tgen⟩ (s.winEnt w).bidx.toNat).writeRegion w.ctx w.tmapb (s.winEnt w).bidx.toNat w.tile
    w.tgen (s.winEnt w).flags rowTile).2 = none := by decide +kernel
  exact ⟨s, _, _, w, rfl, rfl, rfl, rfl, by decide +kernel, by decide +kernel, Prod.ext rfl h⟩

theorem witness_SendAnswers : ∃ (s : State) (x : Send), s.sends = [x] ∧ x = { x with answer := some true } ∧ (x.token.extractLsb' 54 10).toNat = s.pkgid ∧
    x.bar ≠ 0 ∧ x.bar.toNat % 8 = 0 ∧ s.xlate x.tid.ctx false true x.bar.toNat = .ok 0x40000008 ∧ s.dataErr x.tid.ctx true true 0x40000008 = none :=
  ⟨sent { sending token4 rowTile 0x40000008 with answer := some true } [], { sending token4 rowTile 0x40000008 with answer := some true }, rfl, rfl, by decide +kernel⟩

theorem witness_SendAnswers_pod : ∃ (s : State) (x : Send), s.sends = [x] ∧ (x.token.extractLsb' 54 10).toNat ≠ s.pkgid ∧ x.waiting = false ∧
    s.podcfg.getLsbD 16 = true ∧
    s.ports.toArray.any Port.usable = true :=
  ⟨{ joined true [] with sends := [sending token4 rowTile 0] }, _, rfl, by decide +kernel⟩

theorem witness_SendAnswers_timeout : (∃ (s : State) (x : Send), s.sends = [x] ∧ x.deadline ≤ s.cycle ∧ x.waiting = false) ∧
    (∃ (s : State) (x : Send), s.sends = [x] ∧ x.deadline ≤ s.cycle ∧ x.waiting = true) ∧
    ∃ (s : State) (x : Send), s.sends = [x] ∧ s.cycle < x.deadline :=
  ⟨⟨{ sent (sending token4 rowTile 0) [] with cycle := 100 }, _, rfl, by decide +kernel⟩,
    ⟨{ sent { sending token4 rowTile 0 with waiting := true } [] with cycle := 100 }, _, rfl, by decide +kernel⟩, ⟨{ sent (sending token4 rowTile 0) [] with cycle := 99 }, _, rfl, by decide +kernel⟩⟩

/-- A barrier in the slow tier, at 0x8000_0000 of the data space, with Turward down. -/
theorem witness_SendAnswers_cut : ∃ (s : State) (x : Send) (pa : Nat), s.sends = [x] ∧ (x.token.extractLsb' 54 10).toNat = s.pkgid ∧ x.bar ≠ 0 ∧
    s.xlate x.tid.ctx false true x.bar.toNat = .ok pa ∧ s.podRefused x.tid.ctx true pa = false ∧ s.noPort pa = true :=
  let m := user.mem ++ []
  let m := ([(0x3000, 0x4001), (0x4000, 0x5001), (0x5010, 2 ^ 52 + 7)]).foldl (fun (m : Mem) (x : Nat × Nat) => m.write x.1 (toBytes 8 x.2)) m
  let w : Window := { valid := true, w := true, base := 2 ^ 36, last := 2 ^ 36 + 2 ^ 14 }
  let s := user.setCtx 0 { user.ctx 0 with droot := 0x3000, seen := m, wins := (user.ctx 0).wins.set 2 w }
  ⟨{ s with mem := m, sends := [sending token4 rowTile 0x80000000] }, sending token4 rowTile 0x80000000, 2 ^ 52, rfl, by decide +kernel⟩

theorem witness_ManagementPlane : State.reset.tearing = false ∧ 600 < State.reset.mgmt.arrayClk ∧ State.reset.MemOk :=
  ⟨by decide +kernel, by decide +kernel, memOkI (by decide +kernel)⟩

theorem witness_ManagementPlane_held : (asked 4 .destroying []).tearing = true := by decide +kernel

theorem witness_ManagementPlane_waited : ∃ s : State, (s.ctx 0).state = .quiescing ∧ (∀ t ∈ s.threads, t.live = true → t.id.ctx ≠ 0) ∧
    s.ctxTransfers 0 = false ∧ s.tearing = false ∧ (∀ k < 64, k ≠ 0 → (s.ctx k).cmdSeq = none) ∧
    s.mgmt.held = [Margin.stepUp].map .margin :=
  let s := asked 2 .quiescing []
  ⟨{ s with mgmt := { s.mgmt with held := [.margin .stepUp] } }, by decide +kernel⟩

/-! ### Hypotheses that are met: steps -/

theorem runsI {s : State} (h : s.thr.live = true ∧ s.thr.trace.queue = [] ∧ s.thr.trace.since < 4096 ∧ s.thr.wait = .none ∧ s.thr.held = none ∧
    s.mayCommit = true ∧ s.strokeHeld s.thr = false ∧ (s.speculative = true → s.thr.heldX = false ∧ s.thr.faulted = false)) : runs s := h

/-- The state before a step of the thread at the word. -/
def at_ (w : Nat) : State := State.reset.placeWord w

theorem witness_ThreadStep : ∃ (s : State) (i : Instr) (pa : Nat), s.agenda = [] ∧ s.turn = .thread ∧ runs s.tick ∧
    s.tick.xlateCode s.tick.thr.id.ctx s.tick.thr.sup (s.tick.thr.pc.toNat / 64 * 64) = some pa ∧ s.tick.icache.find? s.tick.atPc = none ∧
    decodeWord (BitVec.ofNat 64 (s.tick.mem.num (pa + s.tick.thr.pc.toNat % 64 / 8 * 8) 8)) = .ok i ∧
    regsOk s.tick.thr.hdr.vregs s.tick.thr.hdr.tiles i = true := by
  have h : decodeWord (BitVec.ofNat 64 ((at_ 0x01000C3180000000).tick.mem.num (0x40000000 + (at_ 0x01000C3180000000).tick.thr.pc.toNat % 64 / 8 * 8) 8)) =
      .ok (.add ⟨3, 3, 6, 0⟩) := by decide +kernel
  exact ⟨at_ 0x01000C3180000000, _, _, rfl, rfl, runsI (by decide +kernel), by decide +kernel, by decide +kernel, h, by decide +kernel⟩

theorem witness_ThreadStep_registers : ∃ (s : State) (i : Instr), runs s.tick ∧
    decodeWord (BitVec.ofNat 64 (s.tick.mem.num (0x40000000 + s.tick.thr.pc.toNat % 64 / 8 * 8) 8)) = .ok i ∧
    regsOk s.tick.thr.hdr.vregs s.tick.thr.hdr.tiles i = false := by
  let s := (at_ 0x8800020040540000).onThr fun t => { t with hdr := { t.hdr with tiles := 0 } }
  have h : decodeWord (BitVec.ofNat 64 (s.tick.mem.num (0x40000000 + s.tick.thr.pc.toNat % 64 / 8 * 8) 8)) =
      .ok (.mma ⟨4, 1, 2, true, false, true, false, false, false, false, 0, false, false, false, false, false, false⟩) := by decide +kernel
  exact ⟨s, _, runsI (by decide +kernel), h, by decide +kernel⟩

theorem witness_ThreadStep_illegal : ∃ s : State, runs s.tick ∧
    decodeWord (BitVec.ofNat 64 (s.tick.mem.num (0x40000000 + s.tick.thr.pc.toNat % 64 / 8 * 8) 8)) = .error 1 :=
  ⟨at_ 0, runsI (by decide +kernel), by decide +kernel⟩

theorem witness_ThreadStep_cached : ∃ (s : State) (b : IBlock), runs s.tick ∧ s.tick.icache.find? s.tick.atPc = some b ∧
    s.tick.xlateCode s.tick.thr.id.ctx s.tick.thr.sup (s.tick.thr.pc.toNat / 64 * 64) = some b.pa ∧
    b.data = BitVec.ofNat 512 (s.tick.mem.num b.pa 64) := by
  let b : IBlock := ⟨0, 0, 0, 0x40000000, BitVec.ofNat 512 ((at_ 0).tick.mem.num 0x40000000 64)⟩
  exact ⟨{ at_ 0 with icache := [b] }, b, runsI (by decide +kernel), by decide +kernel⟩

/-- The line of the word is dirty in an L1. -/
theorem witness_ThreadStep_dirty : ∃ (s : State) (pa : Nat), s.agenda = [] ∧ s.turn = .thread ∧ runs s.tick ∧
    s.tick.xlateCode s.tick.thr.id.ctx s.tick.thr.sup (s.tick.thr.pc.toNat / 64 * 64) = some pa ∧ s.tick.icache.find? s.tick.atPc = none ∧
    s.tick.coh.l1.any (·.line == pa / 64) = true :=
  ⟨{ at_ 0 with coh := { (at_ 0).coh with l1 := [⟨0x40000000 / 64, 7⟩] } }, 0x40000000, rfl, rfl, runsI (by decide +kernel), by decide +kernel⟩

/-- The page has moved since the block was cached. -/
theorem witness_ThreadStep_moved : ∃ (s : State) (pa : Nat) (b : IBlock), runs s.tick ∧
    s.tick.xlateCode s.tick.thr.id.ctx s.tick.thr.sup (s.tick.thr.pc.toNat / 64 * 64) = some pa ∧ s.tick.icache.find? s.tick.atPc = some b ∧
    b.pa ≠ pa :=
  ⟨{ at_ 0 with icache := [⟨0, 0, 0, 0x40000040, 0⟩] }, 0x40000000, ⟨0, 0, 0, 0x40000040, 0⟩, runsI (by decide +kernel), by decide +kernel⟩

/-- The line of the word is UNCORRECTABLE, and no cached block has it. -/
theorem witness_ThreadStep_lost : ∃ (s : State) (pa : Nat), s.agenda = [] ∧ s.turn = .thread ∧ runs s.tick ∧
    s.tick.xlateCode s.tick.thr.id.ctx s.tick.thr.sup (s.tick.thr.pc.toNat / 64 * 64) = some pa ∧ pa / 64 ∈ s.tick.damage.uncorr ∧
    ∀ b ∈ s.tick.icache, s.tick.atPc b = true → b.pa ≠ pa :=
  ⟨{ at_ 0 with damage := { (at_ 0).damage with uncorr := [0x40000000 / 64] } }, 0x40000000, rfl, rfl, runsI (by decide +kernel), by decide +kernel⟩

/-- Memory has changed since the block was cached; in the second case the line is UNCORRECTABLE now. -/
theorem witness_ThreadStep_stale : ∃ (s : State) (b : IBlock), runs s.tick ∧ s.tick.icache.find? s.tick.atPc = some b ∧
    s.tick.xlateCode s.tick.thr.id.ctx s.tick.thr.sup (s.tick.thr.pc.toNat / 64 * 64) = some b.pa ∧
    b.data ≠ BitVec.ofNat 512 (s.tick.mem.num b.pa 64) ∧ b.pa / 64 ∉ s.tick.damage.uncorr :=
  ⟨{ at_ 1 with icache := [⟨0, 0, 0, 0x40000000, 2⟩] }, ⟨0, 0, 0, 0x40000000, 2⟩, runsI (by decide +kernel), by decide +kernel⟩

theorem witness_ThreadStep_stale_lost : ∃ (s : State) (b : IBlock), runs s.tick ∧ s.tick.icache.find? s.tick.atPc = some b ∧
    s.tick.xlateCode s.tick.thr.id.ctx s.tick.thr.sup (s.tick.thr.pc.toNat / 64 * 64) = some b.pa ∧
    b.data ≠ BitVec.ofNat 512 (s.tick.mem.num b.pa 64) ∧ b.pa / 64 ∈ s.tick.damage.uncorr :=
  ⟨{ at_ 1 with icache := [⟨0, 0, 0, 0x40000000, 2⟩], damage := { (at_ 0).damage with uncorr := [0x40000000 / 64] } }, ⟨0, 0, 0, 0x40000000, 2⟩,
    runsI (by decide +kernel), by decide +kernel⟩

theorem witness_ThreadStep_unmapped : ∃ s : State, s.agenda = [] ∧ s.turn = .thread ∧ runs s.tick ∧
    s.tick.xlateCode s.tick.thr.id.ctx s.tick.thr.sup (s.tick.thr.pc.toNat / 64 * 64) = none :=
  ⟨{ at_ 0 with mem := [] } |> fun s => s.setCtx 0 { s.ctx 0 with seen := [] }, rfl, rfl, runsI (by decide +kernel), by decide +kernel⟩

theorem witness_HartStep : ∃ (s : State) (x : Episode) (i : Instr), s.agenda = [] ∧ s.turn = .hart ∧ s.tick.hartEp = some x ∧ x.wait = .none ∧
    x.count < x.budget ∧ x.hart.pc.toNat + 4 ≤ 32768 * x.lunits ∧
    decodeEtesian (BitVec.ofNat 32 (ofBytes (partBytes s.tick x x.hart.pc.toNat 4))) = some i := by
  have h : ∃ x, (State.reset.placeHart 0x0005850B).tick.hartEp = some x := isSome_some (by decide +kernel)
  obtain ⟨x, hx⟩ := h
  have e : (State.reset.placeHart 0x0005850B).tick.hartEp = some ((State.reset.placeHart 0x0005850B).eps.headD calm) := by decide +kernel
  exact ⟨State.reset.placeHart 0x0005850B, _, .etake ⟨10, 11, 0⟩, rfl, rfl, e, by decide +kernel⟩

theorem witness_HartStep_none : ∃ (s : State) (x : Episode), s.agenda = [] ∧ s.turn = .hart ∧ s.tick.hartEp = some x ∧ x.wait = .none ∧
    x.count < x.budget ∧ x.hart.pc.toNat + 4 ≤ 32768 * x.lunits ∧
    decodeEtesian (BitVec.ofNat 32 (ofBytes (partBytes s.tick x x.hart.pc.toNat 4))) = none :=
  ⟨State.reset.placeHart 0, (State.reset.placeHart 0).eps.headD calm, rfl, rfl, by decide +kernel⟩

/-- The episode of the hart at turn, changed. -/
def hartAt (f : Episode → Episode) : State × Episode :=
  let s := State.reset.placeHart 0
  ({ s with eps := [f (s.eps.headD calm)] }, f (s.eps.headD calm))

theorem witness_HartStep_budget : ∃ (s : State) (x : Episode), s.tick.hartEp = some x ∧ x.wait = .none ∧ x.budget ≤ x.count ∧
    s.tick.charged x = true :=
  ⟨(hartAt fun x => { x with count := 65536 }).1, (hartAt fun x => { x with count := 65536 }).2, by decide +kernel⟩

/-- `etake` with no action in the mailbox: it waits, and does not count. -/
theorem witness_HartStep_waits : ∃ (s : State) (x : Episode), s.tick.hartEp = some x ∧ x.wait = .none ∧ x.budget ≤ x.count ∧
    s.tick.charged x = false := by
  let s := State.reset.placeHart 0x0005850B
  let x := { s.eps.headD calm with count := 65536 }
  exact ⟨{ s with eps := [x] }, x, by decide +kernel⟩

theorem witness_HartStep_outside : ∃ (s : State) (x : Episode), s.tick.hartEp = some x ∧ x.wait = .none ∧ x.count < x.budget ∧
    32768 * x.lunits < x.hart.pc.toNat + 2 :=
  ⟨(hartAt fun x => { x with hart := { x.hart with pc := 32768 } }).1, (hartAt fun x => { x with hart := { x.hart with pc := 32768 } }).2, by decide +kernel⟩

theorem exec_groupPlace (s : State) : exec .groupPlace s = execGroupPlace s := by with_unfolding_all rfl

theorem witness_DueStep : ∃ (s : State), s.agenda = [.groupPlace] ∧ isEvent .groupPlace = true ∧
    exec .groupPlace { s.tick with agenda := [] } = .fault .notEnabled := by
  refine ⟨{ State.reset with agenda := [.groupPlace] }, rfl, rfl, ?_⟩
  have h : ({ ({ State.reset with agenda := [.groupPlace] } : State).tick with agenda := [] } : State).placeFrom [3, 2, 1, 0] = none := by
    decide +kernel
  exact (exec_groupPlace _).trans (by unfold execGroupPlace; rw [h])

theorem witness_StepKeeps : ∃ s t : State, s.MemOk ∧ s.ClockOk ∧ step s = .next t := by
  have h : gives (step (at_ 0x2F00000000000000)) (fun _ => true) = true := by decide +kernel
  cases e : step (at_ 0x2F00000000000000) with
  | next t => exact ⟨_, t, memOkI (by decide +kernel), ⟨by decide, by decide +kernel⟩, e⟩
  | fault f => simp [e, gives] at h
  | refused r => simp [e, gives] at h

theorem witness_Executes : ∃ s : State, s.Executes [] [] := ⟨user, executesI (by decide +kernel)⟩

theorem witness_DecodeEncode : ∃ (i : Instr) (w : Word), encode64 i = some w ∧ wf i = true := ⟨.add ⟨3, 3, 6, 0⟩, 0x01000C3180000000, by decide +kernel⟩

/-! ### Further hypotheses -/

theorem witness_IllegalTraps : ∃ s : State, s.Serial ∧ s.thr.vq = [] ∧ s.thr.sup = false :=
  ⟨user, rfl, rfl, rfl⟩

theorem witness_ReturnPrivilege : ∃ s : State, s.Clear ∧ s.Serial ∧ s.thr.sup = false :=
  ⟨user, clearI (by decide +kernel), rfl, rfl⟩

theorem witness_ScratchpadAndHints_plain : ∃ (s : State) (o : MOp), s.Executes [o.base, o.index] [] ∧ s.Executes [o.base, o.index] [o.t] :=
  ⟨user, ⟨1, 2, 0, 0, 0⟩, executesI (by decide +kernel), executesI (by decide +kernel)⟩

theorem witness_MaskLanes : ∃ (o : VOp) (e : VEnv), e.vlmax ≤ 2048 ∧ o.ty.toNat < 8 := ⟨opVV, env, by decide +kernel⟩

/-! ### Words of the spec (R76, R78, R159, R337): each field written out in its place -/

theorem test_decode_nop : decode 0x2F00000000000000 = some (.nop ⟨0, 0⟩) := by decide +kernel

/-- R95: `SUB g1, g2, g3`. -/
theorem test_decode_sub : decode (0x02#8 ++ 0x00#8 ++ 1#6 ++ 2#6 ++ 3#6 ++ 0#6 ++ 0#24) = some (.sub ⟨1, 2, 3, 0⟩) := by decide +kernel

/-- R95: `MULH.n g63, g1, g2`. -/
theorem test_decode_mulh : decode (0x03#8 ++ 0x02#8 ++ 63#6 ++ 1#6 ++ 2#6 ++ 0#6 ++ 0#24) = some (.mulh true ⟨63, 1, 2, 0⟩) := by decide +kernel

/-- R96: `ADDI g1, g2, -1`. -/
theorem test_decode_addi : decode (0x10#8 ++ 0x00#8 ++ 1#6 ++ 2#6 ++ 0xFFFFFFFFF#36) = some (.addi ⟨1, 2, -1⟩) := by decide +kernel

/-- R98: `BFX.sx g1, g2, 8, 16`: the position in [5:0], the width in [12:6]. -/
theorem test_decode_bfx : decode (0x19#8 ++ 0x01#8 ++ 1#6 ++ 2#6 ++ 0#23 ++ 16#7 ++ 8#6) = some (.bfx true ⟨1, 2, 16 * 64 + 8⟩) := by
  decide +kernel

/-- R100: `FADD.f64.rtz g1, g2, g3`: FN = 16 × 7, mode 1 in c. -/
theorem test_decode_fadd : decode (0x1C#8 ++ 0x70#8 ++ 1#6 ++ 2#6 ++ 3#6 ++ 1#6 ++ 0#24) = some (.fadd .f64 ⟨1, 2, 3, 1⟩) := by decide +kernel

/-- R103: `FCVT.n32.bf16 g1, g2`: destination 1 in FN [6:4], source 5 in FN [2:0]. -/
theorem test_decode_fcvt : decode (0x1F#8 ++ 0b00010101#8 ++ 1#6 ++ 2#6 ++ 0#6 ++ 0#6 ++ 0#24) = some (.fcvt .n32 .bf16 ⟨1, 2, 0, 0⟩) := by
  decide +kernel

/-- R94: `BRI.gen g1, -1, -2`: condition 5. -/
theorem test_decode_bri : decode (0x21#8 ++ 0x05#8 ++ 1#6 ++ 0xFFF#12 ++ 0x3FFFFFFE#30) = some (.bri .gen ⟨1, -1, -2⟩) := by decide +kernel

/-- `LOOP.lc0 g5`, four words on. -/
theorem test_decode_loop : decode 0x2500140000000004 = some (.loop .lc0 ⟨5, 0, 4⟩) := by decide +kernel

/-- R115: `LDA.i16.d g1, [g2 + g3 * 4 - 8]`: FN holds scope 3, sx 1, size 1. -/
theorem test_decode_lda : decode (0x32#8 ++ 0b00011101#8 ++ 1#6 ++ 2#6 ++ 3#6 ++ 2#2 ++ 0xFFFFFF8#28) = some (.lda .d .i16 ⟨1, 2, 3, 2, -8⟩) := by
  decide +kernel

/-- R123: `AMO.minn.n64.ar.s g1, [g2 + 8], g3`: FN holds order 3, scope 4, size 3, and [27:24] the operation 6. -/
theorem test_decode_amo : decode (0x36#8 ++ 0b11100011#8 ++ 1#6 ++ 2#6 ++ 3#6 ++ 0#2 ++ 6#4 ++ 8#24) =
    some (.amo .ar .s .n64 ⟨1, 2, 3, 0, 0x6000008⟩) := by decide +kernel

/-- `CONVOY` of the example of R44. -/
theorem test_decode_convoy : decode 0xC0A4180000000000 = some (.convoy ⟨2, 2, 1, 0, 0, false, true, true, false⟩) := by decide +kernel

/-- `VFMA.f32 v3, v1, v2, v3`. -/
theorem test_decode_vfma : decode 0x43000C1083057000 = some (.vfma ⟨3, 1, 2, 3, 0, false, 10, 7, false, false, false, false, 0⟩) := by decide +kernel

/-- R137: `VADD.n16 v1, v2, g3` with mask 5, zeroing, source a trapping if empty. -/
theorem test_decode_vadd : decode (0x40#8 ++ 0x00#8 ++ 1#6 ++ 2#6 ++ 3#6 ++ 0#6 ++ 5#4 ++ 1#1 ++ 3#4 ++ 7#3 ++ 1#1 ++ 0#1 ++ 0#1 ++ 1#1 ++ 0#8) =
    some (.vadd ⟨1, 2, 3, 0, 5, true, 3, 7, true, false, false, true, 0⟩) := by decide +kernel

/-- `VLDS.f32 v1, [g4]`. -/
theorem test_decode_vlds : decode 0x74000440000A0000 = some (.vlds .unit ⟨1, 4, 0, 0, 0, 10, 0⟩) := by decide +kernel

/-- `TLD.p m5, [g4], g5`, `TST [g4], m3`. -/
theorem test_decode_tld : decode 0x8201028000000400 =
    some (.tld true ⟨5, 0, 0, false, false, false, false, false, false, false, 4, false, false, false, false, false, false⟩) := by decide +kernel

theorem test_decode_tst : decode 0x83000000C0000400 =
    some (.tst false ⟨0, 3, 0, false, false, false, false, false, false, false, 4, false, false, false, false, false, false⟩) := by decide +kernel

/-- `MMA.neg.a.nacc m4, m1, m2`. -/
theorem test_decode_mma : decode 0x8800020040540000 =
    some (.mma ⟨4, 1, 2, true, false, true, false, false, false, false, 0, false, false, false, false, false, false⟩) := by decide +kernel

/-- `TSEND.rel.s m3, g6`: rel in [19], the scope 4 in [18:16]. -/
theorem test_decode_tsend : decode 0x90000000C00C0600 =
    some (.tsend ⟨0, 3, 0, false, true, true, false, false, false, false, 6, false, false, false, false, false, false⟩) := by decide +kernel

/-- `CPY.rel.g`, and the `BINIT.rel.d` of the example of spec/15. -/
theorem test_decode_cpy : decode 0xA000105187500000 = some (.cpy .dd ⟨4, 5, 6, 7, false, true, 2⟩) := by decide +kernel

theorem test_decode_binit : decode 0xA200009007580000 = some (.binit ⟨0, 9, 0, 7, false, true, 3⟩) := by decide +kernel

theorem test_decode_bwait : decode 0xA4000800C7100000 = some (.bwait false ⟨2, 0, 3, 7, false, false, 2⟩) := by decide +kernel

theorem test_decode_gbar : decode 0xA500000000100000 = some (.gbar ⟨0, 0, 0, 0, false, false, 2⟩) := by decide +kernel

/-- R201: `HCHK.mark g1, g2`. -/
theorem test_decode_hchk : decode (0xB3#8 ++ 0x02#8 ++ 1#6 ++ 2#6 ++ 0#6 ++ 0#6 ++ 0#24) = some (.hchk .mark ⟨1, 2, 0, 0⟩) := by decide +kernel

/-- R206: `MBCTL.budget g1, g2`. -/
theorem test_decode_mbctl : decode (0xBB#8 ++ 0x01#8 ++ 0#6 ++ 1#6 ++ 2#6 ++ 0#6 ++ 0#24) = some (.mbctlBudget ⟨0, 1, 2, 0⟩) := by decide +kernel

/-- R210: `XACC`. -/
theorem test_decode_xacc : decode (0xBD#8 ++ 0#56) = some (.xacc ⟨0, 0, 0, 0⟩) := by decide +kernel

/-- `FENCE.full.t`. -/
theorem test_decode_fence : decode 0xC106000000000000 = some (.fence .full ⟨0, 0, 0, 0, false, false, 0⟩) := by decide +kernel

/-- R214: `RNG.32 g9`. -/
theorem test_decode_rng : decode (0xC4#8 ++ 0x01#8 ++ 9#6 ++ 0#42) = some (.rng true ⟨9, 0, 0, 0⟩) := by decide +kernel

/-- `CSRR g5, FSTAT`, and `CSRX g5` on it. -/
theorem test_decode_csrr : decode 0xD000012140000000 = some (.csrr ⟨0x012, 5⟩) := by decide +kernel

theorem test_decode_csrx : decode (0xD2#8 ++ 0x00#8 ++ 0x012#12 ++ 5#6 ++ 0#30) = some (.csrx ⟨0x012, 5⟩) := by decide +kernel

/-- `BRK 0`. -/
theorem test_decode_brk : decode 0xFF00000000000000 = some (.brk ⟨0, 0⟩) := by decide +kernel

/-- R337: `etake a0, a1` and `epost a0, a1, a2`. -/
theorem test_decode_etake : decodeEtesian 0x0005850B = some (.etake ⟨10, 11, 0⟩) := by decide +kernel

theorem test_decode_epost : decodeEtesian 0x00C5950B = some (.epost ⟨10, 11, 12⟩) := by decide +kernel

/-! ### Ill-formed words are refused with the number of the check (R73, R74) -/

/-- Step 1: a major that is not assigned, and the example of R74. -/
theorem test_illegal_major : decodeWord (0x0F#8 ++ 0#56) = .error 1 ∧ decodeWord 0 = .error 1 := by decide +kernel

/-- Step 2: an FN that is not assigned: the example of R74, a condition above 7, a scope of `LD`. -/
theorem test_illegal_function : decodeWord (-1) = .error 2 ∧ decodeWord (0x20#8 ++ 0x08#8 ++ 0#48) = .error 2 ∧
    decodeWord (0x30#8 ++ 0x08#8 ++ 0#48) = .error 2 := by decide +kernel

/-- Step 3: a bit of a field that the instruction does not use. -/
theorem test_illegal_reserved : decodeWord (0x01#8 ++ 0#55 ++ 1#1) = .error 3 ∧ decodeWord (0x2F#8 ++ 0#26 ++ 1#30) = .error 3 ∧
    decodeWord (0x14#8 ++ 0#8 ++ 1#6 ++ 2#6 ++ 64#36) = .error 3 := by decide +kernel

/-- Step 4: a rounding mode of 5, a bit field past the register, a control register that is not assigned, a scope of 5. -/
theorem test_illegal_code : decodeWord (0x1C#8 ++ 0x60#8 ++ 1#6 ++ 2#6 ++ 3#6 ++ 5#6 ++ 0#24) = .error 4 ∧
    decodeWord (0x19#8 ++ 0x00#8 ++ 1#6 ++ 2#6 ++ 0#23 ++ 60#7 ++ 8#6) = .error 4 ∧
    decodeWord (0xD0#8 ++ 0x00#8 ++ 0x007#12 ++ 0#36) = .error 4 ∧ decodeWord (0xA5#8 ++ 0#34 ++ 5#3 ++ 0#19) = .error 4 := by decide +kernel

/-- Step 5: registers at and below the counts of the kernel header. -/
theorem test_illegal_registers : regsOk 4 512 (.vfma ⟨3, 1, 2, 3, 0, false, 10, 7, false, false, false, false, 0⟩) = true ∧
    regsOk 3 512 (.vfma ⟨3, 1, 2, 3, 0, false, 10, 7, false, false, false, false, 0⟩) = false := by decide +kernel

/-- Instructions with an operand that no word has. -/
theorem test_ill_formed : wf (.add ⟨1, 2, 3, 4⟩) = false ∧ wf (.shli ⟨1, 2, 64⟩) = false ∧ wf (.bfx true ⟨1, 2, 0⟩) = false ∧
    wf (.fadd .f32 ⟨1, 2, 3, 6⟩) = false ∧ wf (.csrw ⟨0x000, 1⟩) = false ∧ wf (.gbar ⟨0, 0, 0, 0, false, false, 5⟩) = false ∧
    wf (.vfma ⟨3, 1, 2, 3, 0, false, 14, 7, false, false, false, false, 0⟩) = false := by decide +kernel

/-- A hart's word that is no RV64IMAC instruction, of funct7 ≠ 0 in custom-0, and the compressed word of zeros. -/
theorem test_illegal_hart : decodeEtesian 0 = none ∧ decodeEtesian 0xFFFFFFFF = none ∧ decodeEtesian 0x0205850B = none := by decide +kernel

/-! ### One step each, with values of the spec -/

/-- R98 example: `LIH g1, g1, 4` of 0 gives 2^38. -/
theorem test_lih : gives (exec (.lih ⟨1, 1, 4⟩) (regs 0 0)) (fun t => t.g 1 == 0x0000004000000000) = true := by decide +kernel

/-- R95: the unsigned high product of the greatest values is 2^64 - 2. -/
theorem test_mulh : gives (exec (.mulh true ⟨3, 1, 2, 0⟩) (regs (-1) (-1))) (fun t => t.g 3 == 0xFFFFFFFFFFFFFFFE) = true := by decide +kernel

theorem test_mulh_signed : gives (exec (.mulh false ⟨3, 1, 2, 0⟩) (regs (-1) (-1))) (fun t => t.g 3 == 0) = true := by decide +kernel

/-- R96: a quotient by zero, of the signed and the unsigned form. -/
theorem test_div_zero : gives (exec (.div false ⟨3, 1, 2, 0⟩) (regs 7 0)) (fun t => t.g 3 == 0xFFFFFFFFFFFFFFFF) = true := by decide +kernel

/-- R95: the destination may be a source; a write of `g0` is discarded. -/
theorem test_sub_self : gives (exec (.sub ⟨1, 2, 1, 0⟩) (regs 5 3)) (fun t => t.g 1 == -2) = true := by decide +kernel

theorem test_add_g0 : gives (exec (.add ⟨0, 1, 2, 0⟩) (regs 5 3)) (fun t => t.g 0 == 0 && t.thr.pc == 8) = true := by decide +kernel

theorem test_clz : gives (exec (.clz ⟨3, 1, 0, 0⟩) (regs 0 0)) (fun t => t.g 3 == 64) = true := by decide +kernel

theorem test_bswap : gives (exec (.bswap ⟨3, 1, 0, 0⟩) (regs 0x0102030405060708 0)) (fun t => t.g 3 == 0x0807060504030201) = true := by decide +kernel

/-- R94: signed and unsigned comparison of -1 with 1. -/
theorem test_cmp : gives (exec (.cmp .lt ⟨3, 1, 2, 0⟩) (regs (-1) 1)) (fun t => t.g 3 == 1) = true ∧
    gives (exec (.cmp .ltn ⟨3, 1, 2, 0⟩) (regs (-1) 1)) (fun t => t.g 3 == 0) = true := by decide +kernel

/-- R98: a field of 8 bits at 4, sign-extended. -/
theorem test_bfx : gives (exec (.bfx true ⟨3, 1, 8 * 64 + 4⟩) (regs 0xF80 0)) (fun t => t.g 3 == -8) = true := by decide +kernel

/-- R100: 1 + 2 = 3 in binary32, bits [63:32] ignored; 1 / 0 = +∞ with no flag. -/
theorem test_fadd : gives (exec (.fadd .f32 ⟨3, 1, 2, 0⟩) (regs 0xDEADBEEF3F800000 0x40000000)) (fun t => t.g 3 == 0x40400000) = true := by
  decide +kernel

theorem test_fdiv : gives (exec (.fdiv .f32 ⟨3, 1, 2, 0⟩) (regs 0x3F800000 0)) (fun t => t.g 3 == 0x7F800000 && t.thr.c.fstat == 0) = true := by
  decide +kernel

/-- R100: −0 counts as less than +0. -/
theorem test_fmin : gives (exec (.fmin .f64 ⟨3, 1, 2, 0⟩) (regs 0 0x8000000000000000)) (fun t => t.g 3 == 0x8000000000000000) = true := by
  decide +kernel

/-- `CALL` two words back from 0x100: g62 holds the return address. -/
theorem test_call : gives (exec (.call ⟨0, 0, -2⟩) ((regs 0 0).onThr fun t => { t with pc := 0x100 }))
    (fun t => t.g 62 == 0x108 && t.thr.pc == 0xF0) = true := by decide +kernel

/-- R119: a store of 2 bytes, and a load of them sign-extended. -/
theorem test_store : gives (exec (.st .b2 ⟨2, 1, 0, 0, 6⟩) (data 0x40001000 0x8FFFE)) (fun t => t.mem.read 0x40001005 4 == [0, 0xFE, 0xFF, 0]) = true := by
  decide +kernel

theorem test_load : gives (exec (.ld .i16 ⟨3, 1, 0, 0, 0⟩) ({ data 0x40001000 0 with mem := (data 0x40001000 0).mem.write 0x40001000 [0xFE, 0xFF] }))
    (fun t => t.g 3 == -2) = true := by decide +kernel

/-- R118: `LD.n64` that crosses a line is MISALIGNED: the handler's address, supervisor mode, the address in TRAPINFO0. -/
theorem test_misaligned : gives (exec (.ld .n64 ⟨3, 1, 0, 0, 0⟩) (data 0x4000103C 0)) (fun t => t.thr.sup && t.g 3 == 0 &&
    t.thr.c.trapcause == 0x02 && t.thr.c.trapinfo == #v[0x4000103C, 0, 0, 0]) = true := by decide +kernel

/-- R123: the old value is returned; the new one is the unsigned minimum of the low 4 bytes. -/
theorem test_amo : gives (exec (.amo .relaxed .t .i32 ⟨3, 1, 2, 0, 0x6000000⟩)
    { data 0x40001000 0x5 with mem := (data 0x40001000 0).mem.write 0x40001000 (toBytes 4 0xFFFFFFFE) })
    (fun t => t.g 3 == -2 && t.mem.num 0x40001000 8 == 5) = true := by decide +kernel

/-- R219: `TRAP 7`. -/
theorem test_trap : gives (exec (.trap ⟨7, 0⟩) (user.onThr fun t => { t with pc := 0x40 })) (fun t => t.thr.sup && t.thr.c.trappc == 0x40) = true := by
  decide +kernel

/-- R217: a user thread reads `FSTAT`; it may not read `TRAPPC`. -/
theorem test_csrr : gives (exec (.csrr ⟨0x012, 5⟩) (user.onThr fun t => { t with c := { t.c with fstat := 3 } })) (fun t => t.g 5 == 3 && !t.thr.sup) = true ∧
    gives (exec (.csrr ⟨0x102, 5⟩) user) (fun t => t.thr.sup) = true := by decide +kernel

/-- R214: `RNG` advances `RNGCTR` by 1. -/
theorem test_rng : gives (exec (.rng false ⟨1, 0, 0, 0⟩) (user.onThr fun t => { t with c := { t.c with rngctr := 5 } }))
    (fun t => t.thr.c.rngctr == 6) = true := by decide +kernel

/-- A whole step: the word of `ADD g3, g1, g2` at the thread's address. -/
theorem test_step : gives (step (((State.reset.placeWord 0x01000C1080000000).setG 1 5).setG 2 7)) (fun t => t.g 3 == 12 && t.thr.pc == 8) = true := by
  decide +kernel

/-- R9: SHA-512 of "abc" as FIPS 180-4 gives it, and the check value of CRC-16/T10-DIF over "123456789". -/
theorem test_sha512 : (Crypto.sha512 [97, 98, 99]).take 4 = [0xDD, 0xAF, 0x35, 0xA1] := by decide +kernel

theorem test_crc16 : crc16 [49, 50, 51, 52, 53, 54, 55, 56, 57] = 0xD0DB := by decide +kernel

end Sys2Proof.Tests
end

section
/-! What every step keeps: the canonical form of memory (O59) and the settings of the array clock. A step passes its state through some
seven hundred functions of the model, nearly all of which touch neither. So the invariants are carried as a relation between the state
before the step and the state so far, `s₀.KeepsInv s`, and each function `f` of the model has one rule, `State.KeepsInv.f`: from a state
that keeps the invariants it leads to one that does. A proof names the functions that a state has passed through, in their order:
`h.setCtx.epPut` is the rule of `epPut` after that of `setCtx`. The rules follow the files of the model, and the last is that of `step`. -/

namespace Sys2Proof.Machine

/-- What holds of `s` of the invariants of a step wherever it holds of `s₀`: memory stands in its canonical form, and the array clock on a
setting of 01 R18. -/
structure State.KeepsInv (s₀ s : State) : Prop where
  memOk : s₀.MemOk → s.MemOk
  clockOk : s₀.ClockOk → s.ClockOk

theorem State.KeepsInv.refl (s : State) : s.KeepsInv s := ⟨id, id⟩

/-- Only fields that hold no memory are others. -/
theorem State.KeepsInv.quiet {s₀ s : State} (h : s₀.KeepsInv s) {thr : Thread} {images : List Image} {cores : Vector Core 192}
    {icache : List IBlock} {transfers : List Transfer} {groups : List Group} {nextGid lastServed : Nat} {regions : List Region} {nextRid : Nat}
    {rwins : List RWin} {wgen : List (Nat × BitVec 8)} {sends : List Send} {nextSend : Nat} {eps : List Episode} {ecur : Nat} {podcfg : Word}
    {ports : Vector Port 24} {turward : Port} {podWins : List PodWin} {unitWaits : List (UnitWork × Nat)} {lent : Bool}
    {remoteSeen : List (Nat × Nat)} {remoteOut : List (Nat × Nat × List Byte)} {irqs irqHeld : List (Word × BitVec 32)}
    {hostOut : List (Option (List Byte))} {promotions : List Promotion} {promoted : List Nat} {mgmt : Mgmt} {damage : Damage}
    {coh : Coherence} {cycle : Nat} {agenda : List Instr} {turn : Turn} {drawn : Nat}
    (ht : thr.spad = s.thr.spad := by simp) (hm : mgmt.arrayClk = s.mgmt.arrayClk := by simp) (hc : coh.home = s.coh.home := by simp) :
    s₀.KeepsInv ({ s with
      thr, images, cores, icache, transfers, groups, nextGid, lastServed, regions, nextRid, rwins, wgen, sends, nextSend, eps, ecur, podcfg
      ports, turward, podWins, unitWaits, lent, remoteSeen, remoteOut, irqs, irqHeld, hostOut, promotions, promoted, mgmt, damage, coh
      cycle, agenda, turn, drawn } : State) := by
  refine ⟨fun h0 => ?_, fun h0 => ?_⟩
  · obtain ⟨hmem, hthr, hctx, hec, hhome, hsp⟩ := h.memOk h0
    refine ⟨hmem, ?_, hctx, hec, ?_, hsp⟩
    · simp only [State.threads, List.forall_mem_cons] at hthr ⊢
      exact ⟨ht ▸ hthr.1, hthr.2⟩
    · exact hc ▸ hhome
  · obtain ⟨h1, h2, h3⟩ := h.clockOk h0
    simp only [State.ClockOk, hm]
    exact ⟨h1, h2, h3⟩

end Sys2Proof.Machine
end

section
/-! The rules that the sections below use: an outcome that carries the state, what of a thread leaves its scratchpad alone, and the parts
of the state that hold memory, each replaced by one in its canonical form. -/

namespace Sys2Proof.Machine

set_option Elab.async false

variable {s₀ s t : State}

theorem State.KeepsInv.ofNext (h : s₀.KeepsInv s) : (.next s : Out) = .next t → s₀.KeepsInv t := by
  rintro ⟨⟩
  exact h

theorem State.KeepsInv.ofSome (h : s₀.KeepsInv s) : some s = some t → s₀.KeepsInv t := by
  rintro ⟨⟩
  exact h

theorem State.KeepsInv.ofOk {ε : Type} (h : s₀.KeepsInv s) : (.ok s : Except ε State) = .ok t → s₀.KeepsInv t := by
  rintro ⟨⟩
  exact h

theorem State.KeepsInv.ofError {α : Type} (h : s₀.KeepsInv s) : (.error s : Except State α) = .error t → s₀.KeepsInv t := by
  rintro ⟨⟩
  exact h

theorem State.KeepsInv.ofFst {α : Type} {a b : α} (h : s₀.KeepsInv s) : (s, a) = (t, b) → s₀.KeepsInv t := by
  rintro ⟨⟩
  exact h

theorem State.KeepsInv.ofSnd {α : Type} {a b : α} (h : s₀.KeepsInv s) : (a, s) = (b, t) → s₀.KeepsInv t := by
  rintro ⟨⟩
  exact h

@[simp] theorem Thread.count_spad (t : Thread) (e n : Nat) : (t.count e n).spad = t.spad := rfl

@[simp] theorem Thread.countOpen_spad (t : Thread) (w : Word) : (t.countOpen w).spad = t.spad := rfl

theorem Thread.OnlyTrace.spad {t u : Thread} (h : t.OnlyTrace u) : u.spad = t.spad := by
  rw [h]

@[simp] theorem Thread.pushLost_spad (t : Thread) (c : Nat) : (t.pushLost c).spad = t.spad := (t.pushLost_only c).spad

@[simp] theorem Thread.enqueue_spad (t : Thread) (c : Nat) (ws : List Word) : (t.enqueue c ws).spad = t.spad := (t.enqueue_only c ws).spad

@[simp] theorem Thread.flushBits_spad (t : Thread) (c : Nat) : (t.flushBits c).spad = t.spad := (t.flushBits_only c).spad

@[simp] theorem Thread.branchBit_spad (t : Thread) (c : Nat) (b : Bool) : (t.branchBit c b).spad = t.spad := (t.branchBit_only c b).spad

@[simp] theorem Thread.loopSteps_spad (c : Nat) (a : CodeAddr) (l : List Nat) (t : Thread) : (Thread.loopSteps c a l t).1.spad = t.spad := by
  rw [Thread.loopSteps_only]

@[simp] theorem Thread.sync_spad (t : Thread) (c : Nat) (a : CodeAddr) : (t.sync c a).spad = t.spad := by
  unfold Thread.sync
  split
  · rfl
  · simp

@[simp] theorem Thread.emit_spad (t : Thread) (c ty p : Nat) : (t.emit c ty p).spad = t.spad := by
  unfold Thread.emit
  dsimp only
  split
  · rfl
  · split <;> simp

@[simp] theorem Thread.setG_spad (t : Thread) (r : BitVec 6) (x : Word) : (t.setG r x).spad = t.spad := by
  unfold Thread.setG
  split <;> rfl

@[simp] theorem Thread.setVFull_spad (t : Thread) (n : Nat) (x : VReg) : (t.setVFull n x).spad = t.spad := rfl

@[simp] theorem Thread.setEnt_spad (t : Thread) (n : Nat) (e : TEnt) : (t.setEnt n e).spad = t.spad := rfl

@[simp] theorem Thread.retire_spad (t : Thread) (n : Nat) : (t.retire n).spad = t.spad := rfl

@[simp] theorem Thread.holdFault_spad (t : Thread) (a : TrapAt) (f : FaultInfo) : (t.holdFault a f).spad = t.spad := by
  unfold Thread.holdFault
  split <;> rfl

theorem State.MemOk.mem {s : State} (h : s.MemOk) : s.mem.wf = true := h.1

theorem State.MemOk.threads {s : State} (h : s.MemOk) : ∀ t ∈ s.threads, t.spad.wf = true := by
  obtain ⟨-, hthr, -⟩ := h
  exact hthr

theorem State.MemOk.srams {s : State} (h : s.MemOk) : ∀ n < 64, (s.ecore n).sram.wf = true := by
  obtain ⟨-, -, -, hec, -⟩ := h
  exact hec

theorem State.MemOk.home {s : State} (h : s.MemOk) : s.coh.home.wf = true := by
  obtain ⟨-, -, -, -, hhome, -⟩ := h
  exact hhome

theorem State.MemOk.spads {s : State} (h : s.MemOk) : ∀ k ∈ s.spads, k.spad.wf = true := by
  obtain ⟨-, -, -, -, -, hsp⟩ := h
  exact hsp

/-- The scratchpad of the thread at turn stands in its canonical form. -/
theorem State.KeepsInv.spad_wf (h : s₀.KeepsInv s) (h0 : s₀.MemOk) : s.thr.spad.wf = true := (h.memOk h0).threads _ List.mem_cons_self

/-- The scratchpads that outlive their threads are others, each in its canonical form. -/
theorem State.KeepsInv.ofSpads {l : List KeptSpad} (h : s₀.KeepsInv s) (hl : s₀.MemOk → ∀ k ∈ l, k.spad.wf = true) :
    s₀.KeepsInv { s with spads := l } := by
  refine ⟨fun h0 => ?_, h.clockOk⟩
  obtain ⟨hmem, hthr, hctx, hec, hhome, -⟩ := h.memOk h0
  exact ⟨hmem, hthr, hctx, hec, hhome, hl h0⟩

/-- The thread at turn is one whose scratchpad stands in its canonical form. -/
theorem State.KeepsInv.setThr {u : Thread} (h : s₀.KeepsInv s) (hu : s₀.MemOk → u.spad.wf = true) : s₀.KeepsInv { s with thr := u } := by
  refine ⟨fun h0 => ?_, h.clockOk⟩
  obtain ⟨hmem, hthr, hrest⟩ := h.memOk h0
  exact ⟨hmem, List.forall_mem_cons.2 ⟨hu h0, (List.forall_mem_cons.1 hthr).2⟩, hrest⟩

/-- The memory is another one, in its canonical form. -/
theorem State.KeepsInv.setMem {m : Mem} {d : Damage} {c : Coherence} (h : s₀.KeepsInv s) (hm : s₀.MemOk → m.wf = true)
    (hc : c.home = s.coh.home := by simp) :
    s₀.KeepsInv { s with mem := m, damage := d, coh := c } := by
  refine ⟨fun h0 => ?_, h.clockOk⟩
  obtain ⟨-, hthr, hctx, hec, hhome, hsp⟩ := h.memOk h0
  exact ⟨hm h0, hthr, hctx, hec, hc ▸ hhome, hsp⟩

/-- The array clock is set to another setting of 01 R18. -/
theorem State.KeepsInv.setMgmt {m : Mgmt} (h : s₀.KeepsInv s) (hm : s.ClockOk → 600 ≤ m.arrayClk ∧ m.arrayClk ≤ 850 ∧ m.arrayClk % 25 = 0) :
    s₀.KeepsInv { s with mgmt := m } :=
  ⟨h.memOk, fun h0 => hm (h.clockOk h0)⟩

/-- The threads are those of a state that keeps the invariants, in whatever order. -/
theorem State.KeepsInv.ofThreads {u : Thread} {l : List Thread} (h : s₀.KeepsInv s) (ht : ∀ t ∈ u :: l, t ∈ s.threads ∨ t.spad.wf = true) :
    s₀.KeepsInv { s with thr := u, parked := l } := by
  refine ⟨fun h0 => ?_, h.clockOk⟩
  obtain ⟨hmem, hthr, hrest⟩ := h.memOk h0
  exact ⟨hmem, fun t htl => (ht t htl).elim (hthr t) id, hrest⟩

theorem State.KeepsInv.foldl {α : Type} {f : State → α → State} {l : List α} (h : s₀.KeepsInv s) (hf : ∀ s x, s₀.KeepsInv s → s₀.KeepsInv (f s x)) :
    s₀.KeepsInv (l.foldl f s) :=
  List.foldlRecOn l f h fun s h x _ => hf s x h

/-- The same for a fold that gathers something beside the state. -/
theorem State.KeepsInv.foldlFst {α β : Type} {f : State × β → α → State × β} {l : List α} {b : β} (h : s₀.KeepsInv s)
    (hf : ∀ s b x, s₀.KeepsInv s → s₀.KeepsInv (f (s, b) x).1) :
    s₀.KeepsInv (l.foldl f (s, b)).1 :=
  List.foldlRecOn (motive := fun p : State × β => s₀.KeepsInv p.1) l f h fun p h x _ => hf p.1 p.2 x h

/-- The state that an entry's effect leaves, whatever its outcome. -/
def TOut.state : TOut → State
  | .wait s | .fault s _ | .done s _ => s

theorem State.KeepsInv.toOption {α : Type} {o : Except α State} (_ : s₀.KeepsInv s) (ho : ∀ t, o = .ok t → s₀.KeepsInv t) :
    o.toOption = some t → s₀.KeepsInv t := by
  cases o with
  | error e => exact nofun
  | ok t => rintro ⟨⟩; exact ho t rfl

theorem State.KeepsInv.getD {o : Option State} (h : s₀.KeepsInv s) (ho : ∀ t, o = some t → s₀.KeepsInv t) : s₀.KeepsInv (o.getD s) := by
  cases o with
  | none => exact h
  | some t => exact ho t rfl

theorem Mem.above_filter {m : Mem} {a : Nat} (p : Nat × Byte → Bool) (h : Mem.above a m) (hw : m.wf = true) :
    Mem.above a (m.filter p) ∧ Mem.wf (m.filter p) = true := by
  induction m generalizing a with
  | nil => exact ⟨trivial, rfl⟩
  | cons e l ih =>
    obtain ⟨x, b⟩ := e
    obtain ⟨hb, hx, hl⟩ := (Mem.wf_cons x b l).1 hw
    have hax : a < x := h
    rw [List.filter_cons]
    split
    · exact ⟨hax, (Mem.wf_cons x b _).2 ⟨hb, ih hx hl⟩⟩
    · refine ih ?_ hl
      cases l with
      | nil => trivial
      | cons y l => exact hax.trans hx

/-- A memory with a run of bytes dropped keeps its canonical form. -/
theorem Mem.wf_zero {m : Mem} {a n : Nat} (h : m.wf = true) : (m.zero a n).wf = true := by
  cases m with
  | nil => rfl
  | cons e l =>
    obtain ⟨x, b⟩ := e
    obtain ⟨hb, hx, hl⟩ := (Mem.wf_cons x b l).1 h
    unfold Mem.zero
    rw [List.filter_cons]
    split
    · exact (Mem.wf_cons x b _).2 ⟨hb, Mem.above_filter _ hx hl⟩
    · exact (Mem.above_filter _ hx hl).2

theorem State.KeepsInv.setHome {c : Coherence} (h : s₀.KeepsInv s) (hc : s₀.MemOk → c.home.wf = true) : s₀.KeepsInv { s with coh := c } := by
  refine ⟨fun h0 => ?_, h.clockOk⟩
  obtain ⟨hmem, hthr, hctx, hec, -, hsp⟩ := h.memOk h0
  exact ⟨hmem, hthr, hctx, hec, hc h0, hsp⟩

theorem Mgmt.replan_clockOk {m : Mgmt} {x : Margin} (h : 600 ≤ m.arrayClk ∧ m.arrayClk ≤ 850 ∧ m.arrayClk % 25 = 0) :
    600 ≤ (m.replan x).arrayClk ∧ (m.replan x).arrayClk ≤ 850 ∧ (m.replan x).arrayClk % 25 = 0 := by
  unfold Mgmt.replan
  cases x with
  | holds => exact h
  | stepUp => dsimp only; omega
  | failing =>
    dsimp only
    split
    · exact h
    · simp only [Mgmt.event, Mgmt.clockDown]
      omega

end Sys2Proof.Machine
end

section
/-! What is kept by the operations of Sys2Proof/Machine/Mem.lean, in their order there. -/

namespace Sys2Proof.Machine

set_option Elab.async false

variable {s₀ s t : State}

theorem State.ctx_mod (s : State) (n : Nat) : s.ctx (n % 64) = s.ctx n := by
  simp [State.ctx, vget]

/-- The memories that a context's translations may come from stand in their canonical form. -/
def Ctx.ImagesOk (c : Ctx) : Prop := c.seen.wf = true ∧ ∀ m ∈ c.stale, m.wf = true

theorem State.KeepsInv.imagesOk (h : s₀.KeepsInv s) (h0 : s₀.MemOk) (n : Nat) : (s.ctx n).ImagesOk := by
  obtain ⟨-, -, hctx, -⟩ := h.memOk h0
  exact s.ctx_mod n ▸ hctx (n % 64) (Nat.mod_lt _ (by omega))

theorem State.KeepsInv.setCtxOf {n : Nat} {c : Ctx} (h : s₀.KeepsInv s) (hc : s₀.MemOk → c.ImagesOk) : s₀.KeepsInv (s.setCtx n c) := by
  refine ⟨fun h0 => ?_, h.clockOk⟩
  obtain ⟨hmem, hthr, hctx, hrest⟩ := h.memOk h0
  refine ⟨hmem, hthr, fun k hk => ?_, hrest⟩
  by_cases hkn : k % 64 = n % 64
  · rw [show (s.setCtx n c).ctx k = c by simp [State.ctx, State.setCtx, vget, vset, hkn]]
    exact hc h0
  · rw [show (s.setCtx n c).ctx k = s.ctx k from vget_vset_other _ _ _ _ (Ne.symm hkn)]
    exact hctx k hk

theorem State.KeepsInv.setCtx {n : Nat} {c : Ctx} (h : s₀.KeepsInv s) (hs : c.seen = (s.ctx n).seen := by simp)
    (ht : c.stale = (s.ctx n).stale := by simp) :
    s₀.KeepsInv (s.setCtx n c) :=
  h.setCtxOf fun h0 => by
    obtain ⟨hseen, hstale⟩ := h.imagesOk h0 n
    exact ⟨hs ▸ hseen, ht ▸ hstale⟩

theorem State.KeepsInv.storePA {pa : Nat} {bs : List Byte} (h : s₀.KeepsInv s) : s₀.KeepsInv (s.storePA pa bs) := by
  refine ⟨fun h0 => ?_, h.clockOk⟩
  obtain ⟨hmem, hrest⟩ := h.memOk h0
  exact ⟨Mem.wf_write _ _ _ hmem, hrest⟩

/-- A memory in its canonical form joins those that a TLB may answer from. -/
theorem State.KeepsInv.keepImage {n : Nat} {m : Mem} (h : s₀.KeepsInv s) (hm : s₀.MemOk → m.wf = true) : s₀.KeepsInv (s.keepImage n m) := by
  unfold State.keepImage
  split
  · exact h
  · refine h.setCtxOf fun h0 => ?_
    obtain ⟨hseen, hstale⟩ := h.imagesOk h0 n
    exact ⟨hseen, List.forall_mem_cons.2 ⟨hm h0, hstale⟩⟩

theorem State.KeepsInv.keepTables {n : Nat} (h : s₀.KeepsInv s) : s₀.KeepsInv (s.keepTables n) := h.keepImage fun h0 => (h.memOk h0).mem

theorem State.KeepsInv.storeL1 {pa : Nat} {bs : List Byte} (h : s₀.KeepsInv s) : s₀.KeepsInv (s.storeL1 pa bs) := h.storePA.quiet

theorem State.KeepsInv.storePA8 {pa : Nat} {v : Word} (h : s₀.KeepsInv s) : s₀.KeepsInv (s.storePA8 pa v) := h.storePA

theorem State.KeepsInv.devWrite {ctx va : Nat} {bs : List Byte} (h : s₀.KeepsInv s) : s.devWrite ctx va bs = .ok t → s₀.KeepsInv t := by
  unfold State.devWrite
  split
  · exact nofun
  split
  · exact nofun
  · exact h.storePA.ofOk

theorem State.KeepsInv.devWrite8 {ctx va : Nat} {v : Word} (h : s₀.KeepsInv s) : s.devWrite8 ctx va v = .ok t → s₀.KeepsInv t := h.devWrite

theorem State.KeepsInv.devUpdate8 {ctx va : Nat} {f : Word → Word} (h : s₀.KeepsInv s) : s.devUpdate8 ctx va f = .ok t → s₀.KeepsInv t := by
  unfold State.devUpdate8
  split
  · exact nofun
  · exact h.devWrite8

theorem State.KeepsInv.devWriteRuns {ctx : Nat} {runs : List (Nat × List Byte)} {out : Option (Nat × Nat)} (h : s₀.KeepsInv s) :
    s.devWriteRuns ctx runs = (t, out) → s₀.KeepsInv t := by
  unfold State.devWriteRuns
  rintro ⟨⟩
  refine State.KeepsInv.quiet (h.foldlFst fun _ b x h => ?_)
  obtain ⟨done, bad⟩ := b
  obtain ⟨a, bs⟩ := x
  dsimp only
  split
  · exact h
  · split
    · exact h
    · split
      · exact h
      · exact h.storePA

theorem State.KeepsInv.draw {x : Word} (h : s₀.KeepsInv s) : s.draw = (x, t) → s₀.KeepsInv t := h.quiet.ofSnd

end Sys2Proof.Machine
end

section
/-! What is kept by the operations of Sys2Proof/Machine/Pool.lean, in their order there. -/

namespace Sys2Proof.Machine

set_option Elab.async false

variable {s₀ s t : State}

theorem State.KeepsInv.setHent {c : Ctx} {i : Nat} {e : HEnt} (h : s₀.KeepsInv s) : s₀.KeepsInv (s.setHent c i e) := h.storePA

theorem State.KeepsInv.setListPage {e : HEnt} {q p : Nat} (h : s₀.KeepsInv s) : s₀.KeepsInv (s.setListPage e q p) := h.storePA

theorem State.KeepsInv.setPrec {c : Ctx} {p : Nat} {r : PRec} (h : s₀.KeepsInv s) : s₀.KeepsInv (s.setPrec c p r) := h.storePA

theorem State.KeepsInv.setFrame {at_ k : Nat} {free : Bool} (h : s₀.KeepsInv s) : s₀.KeepsInv (s.setFrame at_ k free) := h.storePA

theorem State.KeepsInv.takePage {c : Ctx} {cur x y : Nat} (h : s₀.KeepsInv s) : s.takePage c cur = some (x, y, t) → s₀.KeepsInv t := by
  unfold State.takePage
  split
  · rintro ⟨⟩
    exact h.setFrame.setPrec
  split
  · exact nofun
  · rintro ⟨⟩
    exact h.setFrame.setPrec

theorem State.KeepsInv.freePage {c : Ctx} {p : Nat} (h : s₀.KeepsInv s) : s₀.KeepsInv (s.freePage c p) := by
  unfold State.freePage
  refine State.KeepsInv.setPrec ?_
  split
  · exact h.setFrame
  dsimp only
  split
  · exact h.setFrame.setFrame.quiet
  · exact h.setFrame

theorem State.KeepsInv.gainRef {c : Ctx} {p : Nat} (h : s₀.KeepsInv s) : s₀.KeepsInv (s.gainRef c p) := h.setPrec

theorem State.KeepsInv.loseRef {c : Ctx} {p : Nat} (h : s₀.KeepsInv s) : s₀.KeepsInv (s.loseRef c p) := by
  unfold State.loseRef
  dsimp only
  split
  · split
    · exact h.freePage
    · exact h.setPrec
  · exact h.setPrec

theorem State.KeepsInv.pinPage {c : Ctx} {p : Nat} (h : s₀.KeepsInv s) : s₀.KeepsInv (s.pinPage c p) := h.setPrec

theorem State.KeepsInv.unpinPage {c : Ctx} {p : Nat} (h : s₀.KeepsInv s) : s₀.KeepsInv (s.unpinPage c p) := by
  unfold State.unpinPage
  dsimp only
  split
  · exact h.setPrec.freePage
  · exact h.setPrec

theorem State.KeepsInv.takePages {c : Ctx} {e e' : HEnt} {n : Nat} (h : s₀.KeepsInv s) : s.takePages c e n = some (e', t) → s₀.KeepsInv t := by
  induction n generalizing s e with
  | zero =>
    rintro ⟨⟩
    exact h
  | succ n ih =>
    unfold State.takePages
    split
    · exact nofun
    · exact ih (h.takePage ‹_›).setListPage

theorem State.KeepsInv.cutEntry {c : Ctx} {i len mark : Nat} (h : s₀.KeepsInv s) : s₀.KeepsInv (s.cutEntry c i len mark) :=
  (h.foldl fun _ _ h => h.loseRef).setHent

theorem State.KeepsInv.freeEntry {c : Ctx} {i : Nat} (h : s₀.KeepsInv s) : s₀.KeepsInv (s.freeEntry c i) := (h.foldl fun _ _ h => h.loseRef).setHent

theorem State.KeepsInv.copyRows {src dst rows : Nat} (h : s₀.KeepsInv s) : s₀.KeepsInv (s.copyRows src dst rows) := h.storePA

end Sys2Proof.Machine
end

section
/-! What is kept by the operations of Sys2Proof/Machine/Trace.lean, in their order there. -/

namespace Sys2Proof.Machine

set_option Elab.async false

variable {s₀ s t : State}

theorem State.KeepsInv.emit {ty payload : Nat} (h : s₀.KeepsInv s) : s₀.KeepsInv (s.emit ty payload) := h.quiet

theorem State.KeepsInv.count {ev n : Nat} (h : s₀.KeepsInv s) : s₀.KeepsInv (s.count ev n) := h.quiet

/-- Only the trace of the thread at turn is another one. -/
theorem State.KeepsInv.setTrace {x : TraceBuf} (h : s₀.KeepsInv s) : s₀.KeepsInv { s with thr := { s.thr with trace := x } } := h.quiet

/-- Unfolded as a function: unfolded on its argument, the kernel would run the write to compare the two sides. -/
theorem State.KeepsInv.traceLine (h : s₀.KeepsInv s) : s₀.KeepsInv s.traceLine := by
  suffices ∀ f, f = State.traceLine → s₀.KeepsInv (f s) from this _ rfl
  delta State.traceLine
  rintro _ rfl
  beta_reduce
  extract_lets +onlyGivenNames t size first va words
  split
  · exact h.devWrite ‹_›
  · exact h.quiet (ht := rfl)

theorem State.KeepsInv.traceDrain {l : List (Word × Nat)} (h : s₀.KeepsInv s) : s₀.KeepsInv (State.traceDrain l s) := by
  induction l generalizing s with
  | nil => exact h.setTrace
  | cons x l ih =>
    unfold State.traceDrain
    extract_lets +onlyGivenNames t
    split
    · exact h.setTrace
    · extract_lets +onlyGivenNames lap k c b t₁ s₁
      have h₁ : s₀.KeepsInv s₁ := h.quiet (ht := rfl)
      refine ih ?_
      split
      · exact h₁.traceLine.setTrace
      · exact h₁

theorem State.KeepsInv.traceWrite (h : s₀.KeepsInv s) : s₀.KeepsInv s.traceWrite := by
  unfold State.traceWrite
  dsimp only
  split
  · exact h.traceDrain
  · exact h.traceDrain.quiet.traceDrain

theorem State.KeepsInv.traceFlush (h : s₀.KeepsInv s) : s₀.KeepsInv s.traceFlush := by
  suffices ∀ f, f = State.traceFlush → s₀.KeepsInv (f s) from this _ rfl
  delta State.traceFlush
  rintro _ rfl
  beta_reduce
  extract_lets +onlyGivenNames u v
  have hv : s₀.KeepsInv v := .traceWrite h.quiet
  split
  · exact hv
  · exact hv.traceLine.setTrace

end Sys2Proof.Machine
end

section
/-! What is kept by the operations of Sys2Proof/Machine/TileMap.lean, in their order there. -/

namespace Sys2Proof.Machine

set_option Elab.async false

variable {s₀ s t : State}

theorem State.KeepsInv.writeEnt {ctx : Nat} {base : Word} {t' : Nat} {e : TEnt} (h : s₀.KeepsInv s) :
    s.writeEnt ctx base t' e = .ok t → s₀.KeepsInv t :=
  h.devWrite

theorem State.KeepsInv.setEnt {n : Nat} {e : TEnt} (h : s₀.KeepsInv s) : s₀.KeepsInv (s.setEnt n e) := h.quiet

theorem State.KeepsInv.mapThreads {f : Thread → Thread} (h : s₀.KeepsInv s) (hf : ∀ t, (f t).spad = t.spad) : s₀.KeepsInv (s.mapThreads f) := by
  refine ⟨fun h0 => ?_, h.clockOk⟩
  obtain ⟨hmem, hthr, hrest⟩ := h.memOk h0
  refine ⟨hmem, fun t ht => ?_, hrest⟩
  obtain ⟨u, hu, rfl⟩ : ∃ u ∈ s.threads, f u = t := List.mem_map.1 (show t ∈ s.threads.map f from ht)
  rw [hf]
  exact hthr u hu

theorem State.KeepsInv.focus {p : Thread → Bool} {f : State → State} (h : s₀.KeepsInv s) (hf : ∀ s, s₀.KeepsInv s → s₀.KeepsInv (f s)) :
    s₀.KeepsInv (s.focus p f) := by
  have exchange : ∀ {s : State} {i : Nat} {u : Thread}, s₀.KeepsInv s → s.parked[i]? = some u →
      s₀.KeepsInv { s with thr := u, parked := s.parked.set i s.thr } := fun {s i u} h hu =>
    h.ofThreads fun t ht => .inl <| by
      rcases List.mem_cons.1 ht with rfl | ht
      · exact List.mem_cons_of_mem _ (List.mem_of_getElem? hu)
      · rcases List.mem_or_eq_of_mem_set ht with ht | rfl
        · exact List.mem_cons_of_mem _ ht
        · exact List.mem_cons_self
  unfold State.focus
  split
  · exact hf _ h
  · split
    · exact h
    · split
      · exact h
      · next u hu =>
        have hout := hf _ (exchange h hu)
        dsimp only
        split
        · exact hout
        · next t ht => exact exchange hout ht

theorem State.KeepsInv.setCore {n : Nat} {c : Core} (h : s₀.KeepsInv s) : s₀.KeepsInv (s.setCore n c) := h.quiet

theorem State.KeepsInv.putSlot {core : Nat} {x : Slot} (h : s₀.KeepsInv s) : s₀.KeepsInv (s.putSlot core x) := h.setCore.quiet

theorem State.KeepsInv.dropSlot {core n : Nat} (h : s₀.KeepsInv s) : s₀.KeepsInv (s.dropSlot core n) := h.setCore.quiet

theorem State.KeepsInv.freeSlot {core n : Nat} {toPool : Bool} (h : s₀.KeepsInv s) : s₀.KeepsInv (s.freeSlot core n toPool) := by
  unfold State.freeSlot
  dsimp only
  split
  · exact h.dropSlot.setCore
  · exact h.dropSlot

theorem State.KeepsInv.mapTagEnt {g : Tag} {f : TEnt → TEnt} (h : s₀.KeepsInv s) : s.mapTagEnt g f = some t → s₀.KeepsInv t := by
  unfold State.mapTagEnt
  split
  · rintro ⟨⟩
    exact h.mapThreads fun _ => by split <;> simp
  · split
    · exact nofun
    · split
      · exact h.ofSome
      · exact h.toOption fun _ => h.writeEnt

theorem State.KeepsInv.backEntry {g : Tag} (h : s₀.KeepsInv s) : s.backEntry g = some t → s₀.KeepsInv t := h.mapTagEnt

theorem State.KeepsInv.spillFailed {core : Nat} {x : Slot} {addr : Nat} (h : s₀.KeepsInv s) : s₀.KeepsInv (s.spillFailed core x addr) := by
  unfold State.spillFailed
  dsimp only
  split
  · exact h.setCore.getD fun _ => h.setCore.mapTagEnt
  · exact h.setCore

theorem State.KeepsInv.writeRegion {ctx : Nat} {base : Word} {bidx n : Nat} {gen : BitVec 8} {flags : BitVec 4} {v : TileVal} {bad : Option Nat}
    (h : s₀.KeepsInv s) :
    s.writeRegion ctx base bidx n gen flags v = (t, bad) → s₀.KeepsInv t := by
  unfold State.writeRegion
  extract_lets
  split
  exact (h.devWriteRuns ‹_›).ofFst

theorem State.KeepsInv.addMove {core : Nat} {m : Move} (h : s₀.KeepsInv s) : s₀.KeepsInv (s.addMove core m) := h.setCore

theorem State.KeepsInv.dropMove {core : Nat} {m : Move} (h : s₀.KeepsInv s) : s₀.KeepsInv (s.dropMove core m) := h.setCore

theorem State.KeepsInv.moveEvent {m : Move} {late : Bool} (h : s₀.KeepsInv s) : s₀.KeepsInv (s.moveEvent m late) := by
  unfold State.moveEvent
  refine h.focus fun _ h => ?_
  refine State.KeepsInv.emit ?_
  split
  · exact h.count.count
  · exact h.count

theorem State.KeepsInv.endLate {core : Nat} {m : Move} (h : s₀.KeepsInv s) : s₀.KeepsInv (s.endLate core m) := by
  unfold State.endLate
  refine State.KeepsInv.moveEvent ?_
  split
  · dsimp only
    split
    · exact (h.dropMove.writeRegion rfl).freeSlot
    · exact h.dropMove.writeRegion rfl
  · exact h.dropMove

theorem State.KeepsInv.finishLate {g : Tag} (h : s₀.KeepsInv s) : s₀.KeepsInv (s.finishLate g) := h.foldl fun _ _ h => h.foldl fun _ _ h => h.endLate

theorem State.KeepsInv.loseTag {core : Nat} {x : Slot} (h : s₀.KeepsInv s) : s₀.KeepsInv (s.loseTag core x) :=
  (h.finishLate.quiet.getD fun _ => h.finishLate.quiet.mapTagEnt).dropSlot

theorem State.KeepsInv.flushRegion {g : Tag} {bidx : Nat} (h : s₀.KeepsInv s) : s₀.KeepsInv (s.flushRegion g bidx) :=
  h.foldl fun _ _ h => h.foldl fun _ _ h => h.endLate

theorem State.KeepsInv.loseTile {t' : Nat} (h : s₀.KeepsInv s) : s₀.KeepsInv (s.loseTile t') := by
  unfold State.loseTile
  split
  · exact h.loseTag
  · exact h

theorem State.KeepsInv.evict {core : Nat} {x : Slot} {toPool : Bool} (h : s₀.KeepsInv s) : s₀.KeepsInv (s.evict core x toPool) := by
  unfold State.evict
  dsimp only
  split
  · split
    · split
      · exact h.loseTag.freeSlot
      split
      · exact h.addMove
      · exact h.spillFailed
    split
    · exact ((h.mapThreads fun _ => by split <;> simp).loseTag).freeSlot
    split
    · exact (h.mapThreads fun _ => by split <;> simp).addMove
    · exact (h.mapThreads fun _ => by split <;> simp).spillFailed
  split
  · refine State.KeepsInv.freeSlot ?_
    refine State.KeepsInv.backEntry ?_ ‹_›
    split
    · exact h
    · exact h.mapThreads fun _ => by split <;> simp
  refine State.KeepsInv.spillFailed ?_
  split
  · exact h
  · exact h.mapThreads fun _ => by split <;> simp

theorem State.KeepsInv.endSpill {core : Nat} {m : Move} (h : s₀.KeepsInv s) : s₀.KeepsInv (s.endSpill core m) := by
  unfold State.endSpill
  dsimp only
  split
  · exact h.dropMove.loseTag.freeSlot
  split
  · refine State.KeepsInv.moveEvent ?_
    split
    · exact (h.dropMove.writeRegion ‹_›).spillFailed
    · exact h.dropMove.writeRegion ‹_›
  split
  · exact (((h.dropMove.writeRegion ‹_›).backEntry ‹_›).freeSlot).moveEvent
  refine State.KeepsInv.moveEvent ?_
  split
  · exact (h.dropMove.writeRegion ‹_›).spillFailed
  · exact h.dropMove.writeRegion ‹_›

theorem State.KeepsInv.fillStart {t' : Nat} {pref : Bool} (h : s₀.KeepsInv s) : s₀.KeepsInv (s.fillStart t' pref) := by
  unfold State.fillStart
  dsimp only
  split
  · exact h
  split
  · exact h.dropSlot.addMove.setEnt
  split
  · exact h
  split
  · exact h.evict
  · exact h

theorem State.KeepsInv.serveTile {t' : Nat} (h : s₀.KeepsInv s) : s₀.KeepsInv (s.serveTile t') := by
  unfold State.serveTile
  dsimp only
  split
  · exact h
  split
  · split
    · exact h
    split
    · split
      · exact h.loseTag
      split
      · exact (h.writeRegion ‹_›).spillFailed
      · exact (((h.writeRegion ‹_›).dropSlot).setEnt).moveEvent
    · exact h.dropSlot.setEnt
  split
  · exact h.setEnt
  · exact h.setEnt

theorem State.KeepsInv.writeMap {t' : Thread} (h : s₀.KeepsInv s) : s₀.KeepsInv (s.writeMap t') := by
  unfold State.writeMap
  refine h.foldl fun _ _ h => ?_
  split
  · split
    · exact h.writeEnt ‹_›
    · exact h

theorem State.KeepsInv.uninstall (h : s₀.KeepsInv s) : s₀.KeepsInv s.uninstall := by
  unfold State.uninstall
  refine State.KeepsInv.quiet ?_
  split
  · exact h.writeMap
  · exact h

theorem State.KeepsInv.purgeMap {ctx : Nat} {base : Word} {tiles : Nat} (h : s₀.KeepsInv s) : s₀.KeepsInv (s.purgeMap ctx base tiles) := h.quiet

theorem State.KeepsInv.initMap (h : s₀.KeepsInv s) : s₀.KeepsInv s.initMap := by
  unfold State.initMap
  split
  · exact h
  refine State.KeepsInv.quiet ?_
  refine State.KeepsInv.purgeMap ?_
  refine h.foldl fun _ _ h => ?_
  split
  · exact h.finishLate

end Sys2Proof.Machine
end

section
/-! What is kept by the operations of Sys2Proof/Machine/Region.lean, in their order there. -/

namespace Sys2Proof.Machine

set_option Elab.async false

variable {s₀ s t : State}

theorem State.KeepsInv.setRegion {r : Region} (h : s₀.KeepsInv s) : s₀.KeepsInv (s.setRegion r) := h.quiet

theorem State.KeepsInv.spadWrite {a : Nat} {bs : List Byte} (h : s₀.KeepsInv s) : s₀.KeepsInv (s.onThr fun t => t.spadWrite a bs) :=
  h.setThr fun h0 => Mem.wf_write _ _ _ (h.spad_wf h0)

theorem State.KeepsInv.loadBytes {pa n : Nat} {bs : List Byte} (h : s₀.KeepsInv s) : s.loadBytes pa n = (bs, t) → s₀.KeepsInv t := by
  unfold State.loadBytes
  split
  · exact h.ofSnd
  · split
    · exact h.ofSnd
    · exact h.setRegion.ofSnd

theorem State.KeepsInv.dropWindow {t' : Nat} (h : s₀.KeepsInv s) : s₀.KeepsInv (s.dropWindow t') := h.quiet

theorem State.KeepsInv.evictNow {core : Nat} {x : Slot} (h : s₀.KeepsInv s) : s₀.KeepsInv (s.evictNow core x) := h.evict.foldl fun _ _ h => h.endSpill

theorem State.KeepsInv.carrySlot {core : Nat} {x : Option Nat} (h : s₀.KeepsInv s) : s.carrySlot core = (x, t) → s₀.KeepsInv t := by
  unfold State.carrySlot
  split
  · exact h.ofSnd
  · exact h.setCore.ofSnd
  split
  · exact h.evictNow.ofSnd
  · exact h.ofSnd

theorem State.KeepsInv.putTile {n : Nat} {e : TEnt} {v : TileVal} (h : s₀.KeepsInv s) : s₀.KeepsInv (s.putTile n e v) := by
  unfold State.putTile
  extract_lets core s₁ old s₂
  have h₁ : s₀.KeepsInv s₁ := h.finishLate.dropWindow
  have h₂ : s₀.KeepsInv s₂ := by
    unfold s₂
    clear_value s₁ old
    split
    · exact h₁.dropSlot
    · exact h₁
  clear_value s₂ old
  split
  next num s₃ e₃ =>
  have h₃ : s₀.KeepsInv s₃ := by
    revert e₃
    clear_value s₁
    split
    · split
      · rintro ⟨⟩
        exact h₂
      · exact h₂.carrySlot
    · exact h₂.carrySlot
  clear e₃
  split
  · exact h₃.putSlot.setEnt
  · split
    exact (h₃.writeRegion ‹_›).setEnt

theorem State.KeepsInv.sound {gs vs : List Nat} (h : s₀.KeepsInv s) : s₀.KeepsInv (s.sound gs vs) := h.quiet

theorem State.KeepsInv.applyCarry {c : Carry} (h : s₀.KeepsInv s) : s₀.KeepsInv (s.applyCarry c) := by
  have hg : ∀ (l : List (Nat × Word)) (t : Thread), (l.foldl (fun t (i, x) => t.setG (BitVec.ofNat 6 i) x) t).spad = t.spad := fun l t =>
    List.foldlRecOn (motive := fun u : Thread => u.spad = t.spad) l _ rfl fun u hu x _ => by simp [hu]
  have hv : ∀ (l : List (Nat × VReg)) (t : Thread), (l.foldl (fun t (i, x) => t.setVFull i x) t).spad = t.spad := fun l t =>
    List.foldlRecOn (motive := fun u : Thread => u.spad = t.spad) l _ rfl fun _ hu _ _ => by simp [hu]
  unfold State.applyCarry
  refine State.KeepsInv.foldl (State.KeepsInv.quiet (State.KeepsInv.quiet h.sound (ht := hg _ _)) (ht := hv _ _)) fun _ _ h => ?_
  exact h.putTile

theorem State.KeepsInv.noteTile {t' : Nat} (h : s₀.KeepsInv s) : s₀.KeepsInv (s.noteTile t') := by
  unfold State.noteTile
  split
  · exact h.setRegion
  · exact h

theorem State.KeepsInv.dropEntries {posts : Nat} (h : s₀.KeepsInv s) : s₀.KeepsInv (s.dropEntries posts) := by
  unfold State.dropEntries
  refine State.KeepsInv.quiet ?_
  refine (h.setCore.foldl fun _ _ h => h.foldl fun _ _ h => h.unpinPage).foldl fun _ _ h => ?_
  split
  · exact h.emit
  · exact h

theorem State.KeepsInv.restoreRegs {k : Checkpoint} (h : s₀.KeepsInv s) : s₀.KeepsInv (s.restoreRegs k) := by
  unfold State.restoreRegs
  refine State.KeepsInv.quiet ?_
  refine State.KeepsInv.quiet ?_
  refine State.KeepsInv.sound ?_
  refine h.foldl fun _ _ h => ?_
  split
  · split
    · refine State.KeepsInv.setEnt ?_
      refine State.KeepsInv.dropWindow ?_
      split
      · exact h.dropSlot
      · exact h
    · exact h.putTile

theorem State.KeepsInv.restore {k : Checkpoint} (h : s₀.KeepsInv s) : s₀.KeepsInv (s.restore k) := h.dropEntries.restoreRegs

theorem State.KeepsInv.startIteration {r : Region} {j : Nat} (h : s₀.KeepsInv s) : s₀.KeepsInv (s.startIteration r j) := by
  unfold State.startIteration
  split
  · exact h
  dsimp only
  split
  · exact h.applyCarry.quiet.setRegion
  · exact h.applyCarry.quiet.setRegion

theorem State.KeepsInv.endGuess (h : s₀.KeepsInv s) : s₀.KeepsInv s.endGuess := by
  unfold State.endGuess
  split
  · exact h
  dsimp only
  split
  · refine State.KeepsInv.quiet ?_
    refine State.KeepsInv.applyCarry ?_
    split
    · exact h.restore
    · exact h
  refine State.KeepsInv.setRegion ?_
  refine State.KeepsInv.quiet ?_
  refine State.KeepsInv.applyCarry ?_
  split
  · exact h.restore
  · exact h

theorem State.KeepsInv.abandonGuess (h : s₀.KeepsInv s) : s₀.KeepsInv s.abandonGuess := by
  unfold State.abandonGuess
  split
  · exact h
  refine State.KeepsInv.emit ?_
  refine State.KeepsInv.count ?_
  refine State.KeepsInv.setRegion ?_
  split
  · exact h.restore
  · exact h

theorem State.KeepsInv.truncateMarks {ctx : Nat} {marks : List (Word × Nat)} (h : s₀.KeepsInv s) : s₀.KeepsInv (s.truncateMarks ctx marks) := by
  unfold State.truncateMarks
  refine h.foldl fun _ _ h => ?_
  split
  · split
    · exact h
    dsimp only
    split
    · exact h
    · exact h.cutEntry

theorem State.KeepsInv.reject {rid j reason : Nat} (h : s₀.KeepsInv s) : s₀.KeepsInv (s.reject rid j reason) := by
  unfold State.reject
  split
  · exact h
  refine State.KeepsInv.setRegion ?_
  refine State.KeepsInv.truncateMarks ?_
  refine h.foldl fun _ _ h => ?_
  refine h.focus fun _ h => ?_
  refine State.KeepsInv.emit ?_
  refine State.KeepsInv.count ?_
  split
  · exact h.restore
  · exact h

theorem State.KeepsInv.assign {rid : Nat} (h : s₀.KeepsInv s) : s₀.KeepsInv (s.assign rid) := by
  unfold State.assign
  split
  · exact h
  dsimp only
  split
  · exact h
  refine h.foldl fun _ _ h => ?_
  split
  · exact h
  split
  · exact h.focus fun _ h => h.quiet
  refine h.focus fun _ h => ?_
  split
  · refine State.KeepsInv.startIteration ?_
    split
    · split
      · exact h.restore
      · exact h
    · exact h
  split
  · split
    · exact h.restore
    · exact h
  · exact h

theorem State.KeepsInv.conflict {r : Region} {j pa n : Nat} (h : s₀.KeepsInv s) : s₀.KeepsInv (s.conflict r j pa n) := by
  unfold State.conflict
  dsimp only
  split
  · exact h
  · exact h.reject.assign

theorem State.KeepsInv.wrote {t' : ThreadId} {pa n : Nat} (h : s₀.KeepsInv s) : s₀.KeepsInv (s.wrote t' pa n) := by
  unfold State.wrote
  split
  · exact h.conflict
  · exact h

theorem State.KeepsInv.writeVia {l1 : Bool} {pa : Nat} {bs : List Byte} (h : s₀.KeepsInv s) : s₀.KeepsInv (s.writeVia l1 pa bs) := by
  unfold State.writeVia
  dsimp only
  split
  · exact h.keepTables.storeL1
  · exact h.keepTables.storePA

theorem State.KeepsInv.storeBytes {pa : Nat} {bs : List Byte} {l1 : Bool} (h : s₀.KeepsInv s) : s₀.KeepsInv (s.storeBytes pa bs l1) := by
  unfold State.storeBytes
  split
  · exact h.writeVia
  refine State.KeepsInv.conflict ?_
  split
  · exact h.writeVia
  · exact h.setRegion

theorem State.KeepsInv.releaseVersions {vs : List Version} (h : s₀.KeepsInv s) : s₀.KeepsInv (s.releaseVersions vs) :=
  (h.foldl fun _ _ h => h.storePA).quiet

theorem State.KeepsInv.finishRegion {r : Region} {ix : Nat} (h : s₀.KeepsInv s) : s₀.KeepsInv (s.finishRegion r ix) := by
  unfold State.finishRegion
  refine h.foldl fun _ _ h => ?_
  split
  · exact h
  · exact h.focus fun _ h => h.applyCarry.quiet

theorem State.KeepsInv.commitStep {r : Region} (h : s₀.KeepsInv s) : s₀.KeepsInv (s.commitStep r) := by
  unfold State.commitStep
  dsimp only
  split
  · refine State.KeepsInv.finishRegion ?_
    split
    · refine State.KeepsInv.reject ?_
      refine State.KeepsInv.focus ?_ fun _ h => h.emit
      refine h.setRegion.releaseVersions.foldl fun _ _ h => ?_
      split
      · exact h.focus fun _ h => h.count
      · exact h
    refine State.KeepsInv.focus ?_ fun _ h => h.emit
    refine h.setRegion.releaseVersions.foldl fun _ _ h => ?_
    split
    · exact h.focus fun _ h => h.count
    · exact h
  refine State.KeepsInv.assign ?_
  split
  · refine State.KeepsInv.reject ?_
    refine State.KeepsInv.focus ?_ fun _ h => h.emit
    refine h.setRegion.releaseVersions.foldl fun _ _ h => ?_
    split
    · exact h.focus fun _ h => h.count
    · exact h
  refine State.KeepsInv.focus ?_ fun _ h => h.emit
  refine h.setRegion.releaseVersions.foldl fun _ _ h => ?_
  split
  · exact h.focus fun _ h => h.count
  · exact h

theorem State.KeepsInv.startRegion {r : Region} (h : s₀.KeepsInv s) : s₀.KeepsInv (s.startRegion r) := by
  unfold State.startRegion
  split
  · exact h
  dsimp only
  split
  · exact h.setRegion.finishRegion
  · exact h.setRegion.assign

theorem State.KeepsInv.abortRegion (h : s₀.KeepsInv s) : s₀.KeepsInv s.abortRegion := by
  unfold State.abortRegion
  split
  · exact h
  dsimp only
  split
  · split
    · exact h.reject.restore
    · exact h.reject
  refine State.KeepsInv.finishRegion ?_
  refine State.KeepsInv.setRegion ?_
  split
  · exact h.reject.restore
  · exact h.reject

theorem State.KeepsInv.stopRegion {gid : Nat} (h : s₀.KeepsInv s) : s₀.KeepsInv (s.stopRegion gid) := h.foldl fun _ _ h => h.reject.quiet

end Sys2Proof.Machine
end

section
/-! What is kept by the operations of Sys2Proof/Machine/Device.lean, in their order there. -/

namespace Sys2Proof.Machine

set_option Elab.async false

variable {s₀ s t : State}

theorem State.KeepsInv.cput {n off : Nat} {v : Word} (h : s₀.KeepsInv s) : s₀.KeepsInv (s.cput n off v) := h.storePA8

theorem State.KeepsInv.deliver {v : Vec} (h : s₀.KeepsInv s) : s₀.KeepsInv (s.deliver v) := by
  unfold State.deliver
  split
  · exact h.quiet
  · exact h.quiet

theorem State.KeepsInv.vecEvent {at_ : Nat} {v : Vec} (h : s₀.KeepsInv s) : s₀.KeepsInv (s.vecEvent at_ v) := by
  unfold State.vecEvent
  dsimp only
  split
  · exact h.storePA
  · exact h.deliver

theorem State.KeepsInv.interrupt {n i : Nat} (h : s₀.KeepsInv s) : s₀.KeepsInv (s.interrupt n i) := h.vecEvent

theorem State.KeepsInv.cvecEvent {n : Nat} (h : s₀.KeepsInv s) : s₀.KeepsInv (s.cvecEvent n) := by
  unfold State.cvecEvent
  dsimp only
  split
  · split
    · exact h.vecEvent
    · exact h
  · exact h.vecEvent

theorem State.KeepsInv.ctxDone {n : Nat} {seq : BitVec 32} {status : Nat} (h : s₀.KeepsInv s) : s₀.KeepsInv (s.ctxDone n seq status) :=
  h.cput.cvecEvent

theorem State.KeepsInv.accUpdate8 {ctx : Nat} {sup : Bool} {va : Nat} {f : Word → Word} (h : s₀.KeepsInv s) :
    s.accUpdate8 ctx sup va f = .ok t → s₀.KeepsInv t := by
  unfold State.accUpdate8
  split
  · exact nofun
  split
  · exact nofun
  split
  · exact nofun
  · exact h.storePA8.ofOk

theorem State.KeepsInv.arrive {ctx : Nat} {sup : Bool} {bar : Word} {add : BitVec 32} {set clear : Word} (h : s₀.KeepsInv s) :
    s.arrive ctx sup bar add set clear = .ok t → s₀.KeepsInv t := by
  unfold State.arrive
  split
  · exact h.ofOk
  · exact h.accUpdate8

theorem State.KeepsInv.arriveOrDrop {ctx : Nat} {bar : Word} {add : BitVec 32} {set clear : Word} (h : s₀.KeepsInv s) :
    s₀.KeepsInv (s.arriveOrDrop ctx bar add set clear) := by
  unfold State.arriveOrDrop
  split
  · exact h.arrive ‹_›
  · exact h

theorem State.KeepsInv.setQueue {n q : Nat} {x : Queue} (h : s₀.KeepsInv s) : s₀.KeepsInv (s.setQueue n q x) := h.setCtx

theorem State.KeepsInv.qerr {n q cause : Nat} (h : s₀.KeepsInv s) : s₀.KeepsInv (s.qerr n q cause) := h.cput.setQueue.cvecEvent

theorem State.KeepsInv.qput {n q off : Nat} {v : Word} (h : s₀.KeepsInv s) : s₀.KeepsInv (s.qput n q off v) := by
  unfold State.qput
  split
  · exact h.devWrite8 ‹_›
  · exact h.qerr

theorem State.KeepsInv.setQState {n q : Nat} {st : QState} (h : s₀.KeepsInv s) : s₀.KeepsInv (s.setQState n q st) := by
  unfold State.setQState
  dsimp only
  split
  · exact h.setQueue.qput
  · exact h.setQueue.qerr

theorem State.KeepsInv.qDone {n q : Nat} {seq : BitVec 32} {status : Nat} (h : s₀.KeepsInv s) : s₀.KeepsInv (s.qDone n q seq status) := by
  unfold State.qDone
  split
  · exact h.devWrite8 ‹_›
  · exact h.setQueue.qerr

theorem State.KeepsInv.ctlIrq {n : Nat} {ctl : Word} {bit : Nat} (h : s₀.KeepsInv s) : s₀.KeepsInv (s.ctlIrq n ctl bit) := by
  unfold State.ctlIrq
  split
  · exact h.interrupt
  · exact h

theorem State.KeepsInv.qIrq {n q bit : Nat} (h : s₀.KeepsInv s) : s₀.KeepsInv (s.qIrq n q bit) := h.ctlIrq

theorem State.KeepsInv.freeRecord {n rec : Nat} (h : s₀.KeepsInv s) : s₀.KeepsInv (s.freeRecord n rec) := h.setCtx

theorem State.KeepsInv.keepSpad (h : s₀.KeepsInv s) : s₀.KeepsInv s.keepSpad := by
  unfold State.keepSpad
  dsimp only
  split
  · refine h.ofSpads fun h0 k hk => ?_
    rcases List.mem_cons.1 hk with rfl | hk
    · exact h.spad_wf h0
    · exact (h.memOk h0).spads k (List.mem_of_mem_filter hk)
  · exact h

theorem State.KeepsInv.vacate (h : s₀.KeepsInv s) : s₀.KeepsInv s.vacate := by
  unfold State.vacate
  dsimp only
  refine State.KeepsInv.setThr ?_ fun _ => rfl
  refine State.KeepsInv.keepSpad ?_
  split
  · exact h
  · exact h.uninstall

theorem State.KeepsInv.setGroup {g : Group} (h : s₀.KeepsInv s) : s₀.KeepsInv (s.setGroup g) := h.quiet

theorem State.KeepsInv.abortGroup {g : Group} (h : s₀.KeepsInv s) : s₀.KeepsInv (s.abortGroup g) := by
  unfold State.abortGroup
  split
  · exact h
  dsimp only
  split
  · exact ((h.foldl fun _ _ h => (h.focus fun _ h => h.vacate).freeRecord).stopRegion).quiet
  · exact (((h.foldl fun _ _ h => (h.focus fun _ h => h.vacate).freeRecord).stopRegion).quiet).setGroup

theorem State.KeepsInv.mapNode {n q : Nat} {addr : Word} {f : Node → Node} (h : s₀.KeepsInv s) : s₀.KeepsInv (s.mapNode n q addr f) := h.setQueue

theorem State.KeepsInv.freeze {n q : Nat} {fnode fault fpc : Word} (h : s₀.KeepsInv s) : s₀.KeepsInv (s.freeze n q fnode fault fpc) := by
  unfold State.freeze
  split
  · exact h
  split
  · exact h.qerr
  split
  · exact h.qput
  refine State.KeepsInv.qIrq ?_
  split
  · split
    · exact h.qput.qput.qput.setQState.setQueue.qDone.qIrq
    · exact h.qput.qput.qput.setQState
  · exact h.qput.qput.qput.setQState

theorem State.KeepsInv.nodeErr {n q : Nat} {addr : Word} {cause : Nat} (h : s₀.KeepsInv s) : s₀.KeepsInv (s.nodeErr n q addr cause) := h.freeze

theorem State.KeepsInv.writeNState {n q : Nat} {addr : Word} {st : NState} (h : s₀.KeepsInv s) :
    s.writeNState n q addr st = .ok t → s₀.KeepsInv t := by
  unfold State.writeNState
  split
  · exact ((h.devUpdate8 ‹_›).mapNode).ofOk
  · exact nofun

theorem State.KeepsInv.setNState {n q : Nat} {addr : Word} {st : NState} (h : s₀.KeepsInv s) : s₀.KeepsInv (s.setNState n q addr st) := by
  unfold State.setNState
  split
  · exact h.writeNState ‹_›
  · exact h.mapNode.nodeErr

theorem State.KeepsInv.decPreds {n : Nat} {addr : Word} {m : Nat} {sup : Bool} {x : Nat} (h : s₀.KeepsInv s) :
    s.decPreds n addr m sup = .ok (x, t) → s₀.KeepsInv t := by
  unfold State.decPreds
  dsimp only
  split
  · exact nofun
  split
  · exact nofun
  split
  · rintro ⟨⟩
    exact h
  split
  · rintro ⟨⟩
    exact h
  split
  · rintro ⟨⟩
    split
    · exact h.storePA8.setNState
    · exact h.storePA8
  · rintro ⟨⟩
    exact h.storePA8

theorem State.KeepsInv.owe {n : Nat} {w : Owed} {at_ : Word} {cause : Nat} (h : s₀.KeepsInv s) : s₀.KeepsInv (s.owe n w at_ cause) :=
  h.mapNode.setQueue.nodeErr

theorem State.KeepsInv.paid {n : Nat} {w : Owed} (h : s₀.KeepsInv s) : s₀.KeepsInv (s.paid n w) := h.mapNode

theorem State.KeepsInv.tokens {n q : Nat} {addr : Word} {nsucc : Nat} {taken : Bool} {l : List Owed} (h : s₀.KeepsInv s) :
    s.tokens n q addr nsucc taken = (t, l) → s₀.KeepsInv t := by
  unfold State.tokens
  intro e
  suffices s₀.KeepsInv (t, l).1 from this
  rw [← e]
  refine h.foldlFst fun _ _ _ h => ?_
  dsimp only
  split
  · exact h
  · dsimp only
    exact h.owe

theorem State.KeepsInv.cancelOne {n : Nat} {w : Owed} {x : List Owed} (h : s₀.KeepsInv s) : s.cancelOne n w = (t, x) → s₀.KeepsInv t := by
  unfold State.cancelOne
  split
  · exact h.ofFst
  split
  · exact h.owe.ofFst
  split
  · exact h.paid.ofFst
  dsimp only
  split
  · split
    · exact (((h.writeNState ‹_›).paid).arriveOrDrop).tokens
    · exact h.owe.ofFst
  split
  · exact ((((h.devWrite8 ‹_›).setCtx).paid).arriveOrDrop).tokens
  · exact h.owe.ofFst
  · exact h.owe.ofFst

theorem State.KeepsInv.cancelAll {n : Nat} {skip : List Word} {fuel : Nat} {l : List Owed} (h : s₀.KeepsInv s) :
    s₀.KeepsInv (State.cancelAll n skip fuel l s) := by
  induction fuel generalizing l s with
  | zero => cases l <;> exact h
  | succ fuel ih =>
    cases l with
    | nil => exact h
    | cons a l =>
      unfold State.cancelAll
      split
      · exact ih h.paid
      · split
        exact ih (h.cancelOne ‹_›)

theorem State.KeepsInv.errorToken {n q : Nat} {addr : Word} {nsucc : Nat} {taken : Bool} (h : s₀.KeepsInv s) :
    s₀.KeepsInv (s.errorToken n q addr nsucc taken) := by
  unfold State.errorToken
  split
  · exact (h.tokens ‹_›).cancelAll

theorem State.KeepsInv.frzAll {n q : Nat} {on : Bool} (h : s₀.KeepsInv s) : s₀.KeepsInv (s.frzAll n q on) := h.foldl fun _ _ h => h.arriveOrDrop

theorem State.KeepsInv.nodeFault {n q : Nat} {addr fault fpc : Word} {bar : Bool} (h : s₀.KeepsInv s) :
    s₀.KeepsInv (s.nodeFault n q addr fault fpc bar) := by
  unfold State.nodeFault
  split
  · exact h
  dsimp only
  split
  · split
    · exact (((((h.freeze.foldl fun _ _ h => h.abortGroup).setNState).mapNode).arriveOrDrop).errorToken).frzAll
    · exact ((((h.freeze.foldl fun _ _ h => h.abortGroup).setNState).mapNode).arriveOrDrop).errorToken
  split
  · exact ((((h.freeze.foldl fun _ _ h => h.abortGroup).setNState).mapNode).errorToken).frzAll
  · exact (((h.freeze.foldl fun _ _ h => h.abortGroup).setNState).mapNode).errorToken

theorem State.KeepsInv.decOne {n : Nat} {w : Owed} (h : s₀.KeepsInv s) : s₀.KeepsInv (s.decOne n w) := by
  unfold State.decOne
  split
  · exact h.owe
  split
  · exact (h.decPreds ‹_›).paid
  · exact h.owe

theorem State.KeepsInv.decSuccs {n q : Nat} {addr : Word} {l : List Nat} (h : s₀.KeepsInv s) : s₀.KeepsInv (s.decSuccs n q addr l) :=
  h.foldl fun _ _ h => h.decOne

theorem State.KeepsInv.repay {n q : Nat} (h : s₀.KeepsInv s) : s₀.KeepsInv (s.repay n q) := by
  unfold State.repay
  refine h.setQueue.foldl fun _ _ h => ?_
  split
  · exact h.decOne
  split
  · exact h.cancelAll
  split
  · exact h.cancelAll
  · exact h.owe

theorem State.KeepsInv.nodeDone {n q : Nat} {addr : Word} (h : s₀.KeepsInv s) : s₀.KeepsInv (s.nodeDone n q addr) := by
  unfold State.nodeDone
  split
  · exact h
  split
  · exact h.nodeFault
  dsimp only
  split
  · exact (h.arrive ‹_›).setNState
  · exact ((h.arrive ‹_›).setNState).decSuccs

theorem State.KeepsInv.appendNode {n q : Nat} {sup : Bool} {node : Word} (h : s₀.KeepsInv s) : s.appendNode n q sup node = .ok t → s₀.KeepsInv t := by
  unfold State.appendNode
  dsimp only
  split
  · exact nofun
  split
  · exact nofun
  split
  · exact h.storePA8.accUpdate8
  · exact h.storePA8.accUpdate8

end Sys2Proof.Machine
end

section
/-! What is kept by the operations of Sys2Proof/Machine/Save.lean, in their order there. -/

namespace Sys2Proof.Machine

set_option Elab.async false

variable {s₀ s t : State}

theorem State.KeepsInv.settle (h : s₀.KeepsInv s) : s₀.KeepsInv s.settle := by
  unfold State.settle
  refine State.KeepsInv.quiet ?_
  refine (h.setCore.foldl fun _ _ h => h.foldl fun _ _ h => h.unpinPage).foldl fun _ _ h => ?_
  split
  · exact h.emit
  · exact h

theorem State.KeepsInv.saveThread (h : s₀.KeepsInv s) : s₀.KeepsInv s.saveThread := by
  unfold State.saveThread
  refine State.KeepsInv.quiet ?_
  refine State.KeepsInv.storePA ?_
  refine h.traceFlush.foldl fun _ _ h => ?_
  split
  · exact h.storePA

end Sys2Proof.Machine
end

section
/-! What is kept by the operations of Sys2Proof/Machine/Ops.lean, in their order there. -/

namespace Sys2Proof.Machine

set_option Elab.async false

variable {s₀ s t : State}

theorem State.KeepsInv.setG {r : BitVec 6} {x : Word} (h : s₀.KeepsInv s) : s₀.KeepsInv (s.setG r x) := h.quiet

theorem State.KeepsInv.onThr {f : Thread → Thread} (h : s₀.KeepsInv s) (hf : (f s.thr).spad = s.thr.spad := by simp) : s₀.KeepsInv (s.onThr f) :=
  h.quiet hf

theorem State.KeepsInv.orFlags {f : FFlags} (h : s₀.KeepsInv s) : s₀.KeepsInv (s.orFlags f) := h.onThr

theorem State.KeepsInv.setWait {w : Wait} (h : s₀.KeepsInv s) : s₀.KeepsInv (s.setWait w) := h.onThr

theorem State.KeepsInv.commitLen {len n : Nat} (h : s₀.KeepsInv s) : s₀.KeepsInv (s.commitLen len n) := by
  unfold State.commitLen
  refine h.quiet (ht := ?_)
  dsimp only
  split <;> simp

theorem State.KeepsInv.commit (h : s₀.KeepsInv s) : s₀.KeepsInv s.commit := h.commitLen

theorem State.KeepsInv.jump {target : CodeAddr} (h : s₀.KeepsInv s) : s₀.KeepsInv (s.jump target) := h.onThr

theorem State.KeepsInv.writeG {d : BitVec 6} {x : Word} (h : s₀.KeepsInv s) : s₀.KeepsInv (s.writeG d x) := h.setG.commit

theorem State.KeepsInv.enterTrap {at_ : TrapAt} {f : FaultInfo} (h : s₀.KeepsInv s) : s₀.KeepsInv (s.enterTrap at_ f) := by
  unfold State.enterTrap
  exact h.count.emit.onThr

theorem State.KeepsInv.doubleFault {at_ : TrapAt} {f : FaultInfo} (h : s₀.KeepsInv s) : s₀.KeepsInv (s.doubleFault at_ f) := by
  unfold State.doubleFault
  split
  · exact h
  refine State.KeepsInv.nodeFault ?_
  refine State.KeepsInv.setQueue ?_
  split
  · exact h.settle.saveThread.vacate.setGroup
  · exact h.settle.saveThread.vacate

theorem State.KeepsInv.raiseAt {at_ : TrapAt} {f : FaultInfo} (h : s₀.KeepsInv s) : s₀.KeepsInv (s.raiseAt at_ f) := by
  unfold State.raiseAt
  split
  · exact h.abandonGuess
  split
  · exact h.onThr
  split
  · exact h
  split
  · exact h.doubleFault
  · exact h.enterTrap

theorem State.KeepsInv.raise {f : FaultInfo} (h : s₀.KeepsInv s) : s₀.KeepsInv (s.raise f) := h.raiseAt

theorem State.KeepsInv.illegal {w : Word} {step : Nat} (h : s₀.KeepsInv s) : s₀.KeepsInv (s.illegal w step) := h.raise

theorem State.KeepsInv.illegalMode {i : Instr} (h : s₀.KeepsInv s) : s₀.KeepsInv (s.illegalMode i) := h.illegal

theorem State.KeepsInv.illegalVal {i : Instr} {v : Word} (h : s₀.KeepsInv s) : s₀.KeepsInv (s.illegalVal i v) := h.raise

theorem State.KeepsInv.xhold (h : s₀.KeepsInv s) : s₀.KeepsInv s.xhold := by
  unfold State.xhold
  split
  · exact h.abandonGuess
  split
  · exact h
  · exact h.count.emit.onThr

theorem State.KeepsInv.returnFromTrap (h : s₀.KeepsInv s) : s₀.KeepsInv s.returnFromTrap := by
  unfold State.returnFromTrap
  exact h.onThr

theorem State.KeepsInv.syncOn {p : TqEnt → Bool} (h : s₀.KeepsInv s) : s.syncOn p = some t → s₀.KeepsInv t := by
  unfold State.syncOn
  split
  · split
    · exact h.ofSome
    · exact nofun
  split
  · exact nofun
  split
  · exact h.raiseAt.ofSome
  · exact h.ofSome

theorem State.KeepsInv.gWait {rs : List (BitVec 6)} (h : s₀.KeepsInv s) : s.gWait rs = some t → s₀.KeepsInv t := by
  unfold State.gWait
  split
  · exact h.ofSome
  · exact h.syncOn

theorem State.KeepsInv.mismatches {at_ : CodeAddr} {x : List (Nat × Nat)} (h : s₀.KeepsInv s) : s.mismatches at_ = (x, t) → s₀.KeepsInv t := by
  unfold State.mismatches
  split
  · exact h.ofSnd
  split
  · exact h.quiet.ofSnd
  · exact h.ofSnd

theorem State.KeepsInv.takeMismatch {n : Nat} (h : s₀.KeepsInv s) : s.takeMismatch = (n, t) → s₀.KeepsInv t := by
  unfold State.takeMismatch
  split
  exact (h.mismatches ‹_›).ofSnd

theorem State.KeepsInv.raiseSynced {i : Instr} {k : State} (h : s₀.KeepsInv s) (hk : s₀.KeepsInv k) : s₀.KeepsInv (s.raiseSynced i k) :=
  hk.getD fun _ => h.syncOn

theorem State.KeepsInv.scalar {i : Instr} {srcs dst : List (BitVec 6)} {f : State → Out} (h : s₀.KeepsInv s)
    (hf : ∀ u t, s₀.KeepsInv u → f u = .next t → s₀.KeepsInv t) :
    s.scalar i srcs dst f = .next t → s₀.KeepsInv t := by
  unfold State.scalar
  split
  · exact (h.gWait ‹_›).ofNext
  split
  · exact (h.raiseSynced h.raise).ofNext
  split
  · split
    · exact hf _ _ (h.takeMismatch ‹_›)
    refine State.KeepsInv.ofNext ?_
    refine h.raiseSynced ?_
    split
    · exact h
    · exact (h.takeMismatch ‹_›).raise

theorem State.KeepsInv.syncAll (h : s₀.KeepsInv s) : s.syncAll = some t → s₀.KeepsInv t := h.syncOn

theorem State.KeepsInv.memFault {ea : Word} {kind cause : Nat} (h : s₀.KeepsInv s) : s₀.KeepsInv (s.memFault ea kind cause) := h.raise

end Sys2Proof.Machine
end

section
/-! What is kept by the operations of Sys2Proof/Machine/Flags.lean, in their order there. -/

namespace Sys2Proof.Machine

set_option Elab.async false

variable {s₀ s t : State}

theorem State.KeepsInv.reserve {rm : RMode} {n : Nat} (h : s₀.KeepsInv s) : s₀.KeepsInv (s.reserve rm n) := by
  unfold State.reserve
  split
  · exact h.onThr
  · exact h

theorem State.KeepsInv.writeF {d : BitVec 6} {c : RCtx} {r : Nat × FFlags} (h : s₀.KeepsInv s) : s₀.KeepsInv (s.writeF d c r) :=
  h.reserve.orFlags.writeG

end Sys2Proof.Machine
end

section
/-! What is kept by the operations of Sys2Proof/Machine/Groups.lean, in their order there. -/

namespace Sys2Proof.Machine

set_option Elab.async false

variable {s₀ s t : State}

theorem State.KeepsInv.suspendIfSaved {gid : Nat} (h : s₀.KeepsInv s) : s₀.KeepsInv (s.suspendIfSaved gid) := by
  unfold State.suspendIfSaved
  split
  · exact h
  split
  · exact (h.foldl fun _ _ h => h.focus fun _ h => h.vacate).setGroup
  · exact h

theorem State.KeepsInv.workEnded {n q : Nat} {addr : Word} (h : s₀.KeepsInv s) : s₀.KeepsInv (s.workEnded n q addr) := by
  unfold State.workEnded
  split
  · exact h
  split
  · exact h.nodeDone
  · exact h

theorem State.KeepsInv.endGroup {g : Group} (h : s₀.KeepsInv s) : s₀.KeepsInv (s.endGroup g) := by
  unfold State.endGroup
  dsimp only
  split
  · exact h.quiet
  · exact h.quiet.mapNode.workEnded

theorem State.KeepsInv.leaveGroup {id : ThreadId} (h : s₀.KeepsInv s) : s₀.KeepsInv (s.leaveGroup id) := by
  unfold State.leaveGroup
  dsimp only
  split
  · exact h.freeRecord
  split
  · exact h.freeRecord.setGroup.endGroup
  · exact h.freeRecord.setGroup.suspendIfSaved

theorem State.KeepsInv.endThread (h : s₀.KeepsInv s) : s₀.KeepsInv s.endThread := h.dropEntries.traceFlush.quiet.vacate.leaveGroup

end Sys2Proof.Machine
end

section
/-! What is kept by the operations of Sys2Proof/Machine/ScalarMem.lean, in their order there. -/

namespace Sys2Proof.Machine

set_option Elab.async false

variable {s₀ s t : State}

theorem State.KeepsInv.waitRemote {f : FaultInfo} (h : s₀.KeepsInv s) : s₀.KeepsInv (s.waitRemote f) := by
  unfold State.waitRemote
  split
  · exact h
  · exact h.setWait

theorem State.KeepsInv.access {ea : Word} {n : Nat} {natural read write : Bool} {kind : Nat} (h : s₀.KeepsInv s) :
    s.access ea n natural read write kind = .error t → s₀.KeepsInv t := by
  unfold State.access
  split
  · exact h.ofError
  split
  · split
    · exact h.memFault.ofError
    split
    · exact h.memFault.ofError
    split
    · exact h.xhold.ofError
    split
    · exact h.waitRemote.ofError
    split
    · exact h.memFault.ofError
    split
    · exact h.ofError
    · exact nofun
  split
  · exact h.memFault.ofError
  split
  · exact h.memFault.ofError
  split
  · exact h.xhold.ofError
  split
  · exact h.waitRemote.ofError
  split
  · exact h.memFault.ofError
  split
  · exact h.ofError
  · exact nofun

theorem State.KeepsInv.load {i : Instr} {ty : LdTy} {o : MOp} {natural : Bool} (h : s₀.KeepsInv s) :
    s.load i ty o natural = .next t → s₀.KeepsInv t := by
  unfold State.load
  refine h.scalar fun _ _ h => ?_
  split
  · exact (h.access ‹_›).ofNext
  split
  · exact ((h.loadBytes ‹_›).writeG).ofNext

theorem State.KeepsInv.store {i : Instr} {z : Size} {o : MOp} {natural : Bool} (h : s₀.KeepsInv s) :
    s.store i z o natural = .next t → s₀.KeepsInv t := by
  unfold State.store
  refine h.scalar fun _ _ h => ?_
  split
  · exact (h.access ‹_›).ofNext
  · exact h.storeBytes.commit.ofNext

theorem State.KeepsInv.spadAccess {ea : Word} {n kind : Nat} (h : s₀.KeepsInv s) : s.spadAccess ea n kind = .error t → s₀.KeepsInv t := by
  unfold State.spadAccess
  split
  · exact h.ofError
  split
  · exact h.memFault.ofError
  split
  · exact h.memFault.ofError
  · exact nofun

theorem State.KeepsInv.execLds {ty : LdTy} {o : MOp} (h : s₀.KeepsInv s) : execLds ty o s = .next t → s₀.KeepsInv t := by
  unfold Machine.execLds
  refine h.scalar fun _ _ h => ?_
  split
  · exact (h.spadAccess ‹_›).ofNext
  · exact h.writeG.ofNext

theorem State.KeepsInv.execSts {z : Size} {o : MOp} (h : s₀.KeepsInv s) : execSts z o s = .next t → s₀.KeepsInv t := by
  unfold Machine.execSts
  refine h.scalar fun _ _ h => ?_
  split
  · exact h.abandonGuess.ofNext
  · split
    · exact (h.spadAccess ‹_›).ofNext
    · exact h.spadWrite.commit.ofNext

theorem State.KeepsInv.execAmo {ord : MOrd} {sc : Scope} {t' : AmoTy} {o : MOp} (h : s₀.KeepsInv s) :
    execAmo ord sc t' o s = .next t → s₀.KeepsInv t := by
  unfold Machine.execAmo
  refine h.scalar fun _ _ h => ?_
  dsimp only
  split
  · exact (h.access ‹_›).ofNext
  split
  · exact h.xhold.ofNext
  · exact h.storeBytes.writeG.ofNext

theorem State.KeepsInv.execCas {ord : MOrd} {sc : Scope} {t' : AmoTy} {o : MOp} (h : s₀.KeepsInv s) :
    execCas ord sc t' o s = .next t → s₀.KeepsInv t := by
  unfold Machine.execCas
  refine h.scalar fun _ _ h => ?_
  dsimp only
  split
  · exact (h.access ‹_›).ofNext
  split
  · exact h.xhold.ofNext
  refine State.KeepsInv.ofNext ?_
  refine State.KeepsInv.writeG ?_
  split
  · exact h.storeBytes
  · exact h

theorem State.KeepsInv.execRemoteRequestTimeout (h : s₀.KeepsInv s) : execRemoteRequestTimeout s = .next t → s₀.KeepsInv t := by
  unfold Machine.execRemoteRequestTimeout
  split
  · refine State.KeepsInv.ofNext ?_
    split
    · exact h.raise
    · exact h
  · exact nofun

end Sys2Proof.Machine
end

section
/-! What is kept by the operations of Sys2Proof/Machine/Engine.lean, in their order there. -/

namespace Sys2Proof.Machine

set_option Elab.async false

variable {s₀ s t : State}

theorem State.KeepsInv.serial {i : Instr} {srcs dst : List (BitVec 6)} {f : State → Out} (h : s₀.KeepsInv s)
    (hf : ∀ u t, s₀.KeepsInv u → f u = .next t → s₀.KeepsInv t) :
    s.serial i srcs dst f = .next t → s₀.KeepsInv t := by
  unfold State.serial
  refine h.scalar fun _ _ h => ?_
  split
  · exact h.xhold.ofNext
  · exact hf _ _ h

theorem State.KeepsInv.named {ea : Word} {align : Nat} {write : Bool} (h : s₀.KeepsInv s) : s.named ea align write = .error t → s₀.KeepsInv t := by
  unfold State.named
  dsimp only
  split
  · exact h.ofError
  split
  · exact h.memFault.ofError
  split
  · exact h.memFault.ofError
  · exact nofun

theorem State.KeepsInv.postTransfer {i : Instr} {o : AOp} {total : Nat} {x : Transfer} (h : s₀.KeepsInv s) :
    s.postTransfer i o total x = .next t → s₀.KeepsInv t := by
  unfold State.postTransfer
  split
  · exact h.illegalVal.ofNext
  dsimp only
  split
  · refine State.KeepsInv.ofNext ?_
    split
    · exact h
    · exact h.quiet.commit
  split
  · exact (h.named ‹_›).ofNext
  refine State.KeepsInv.ofNext ?_
  split
  · exact h
  · exact h.quiet.commit

theorem State.KeepsInv.recSpadWrite {at_ dst : Nat} {bs : List Byte} (h : s₀.KeepsInv s) : s₀.KeepsInv (s.recSpadWrite at_ dst bs) := by
  unfold State.recSpadWrite
  refine State.KeepsInv.storePA ?_
  split
  · exact h
  · exact h.storePA.storePA8

theorem State.KeepsInv.spadStore {x : Transfer} {dst : Nat} {bs : List Byte} (h : s₀.KeepsInv s) : s.spadStore x dst bs = .ok t → s₀.KeepsInv t := by
  unfold State.spadStore
  extract_lets within
  have hw : ∀ {n u}, s₀.KeepsInv u → within n u = .ok t → s₀.KeepsInv t := by
    intro n u hu
    unfold within
    split
    · exact nofun
    · exact hu.ofOk
  clear_value within
  split
  · exact hw h.recSpadWrite
  · split
    · exact hw (h.focus fun _ h => h.spadWrite)
    · split
      · refine hw (h.ofSpads fun h0 _ hk => ?_)
        obtain ⟨y, hy, rfl⟩ := List.mem_map.1 hk
        have hwf := (h.memOk h0).spads y hy
        split
        · exact Mem.wf_write _ _ _ hwf
        · exact hwf
      · exact nofun

theorem State.KeepsInv.engWrite {id : ThreadId} {sup : Bool} {va : Nat} {bs : List Byte} (h : s₀.KeepsInv s) :
    s.engWrite id sup va bs = .ok t → s₀.KeepsInv t := by
  unfold State.engWrite
  split
  · exact nofun
  split
  · exact nofun
  · exact h.storePA.wrote.ofOk

theorem State.KeepsInv.chunkWrite {x : Transfer} {dst : Nat} {bs : List Byte} (h : s₀.KeepsInv s) :
    s.chunkWrite x dst bs = .ok t → s₀.KeepsInv t := by
  unfold State.chunkWrite
  split
  · exact h.spadStore
  · exact h.engWrite

theorem State.KeepsInv.chunk {s₀ s t u : State} {x : Transfer} {src dst n : Nat} (h : s₀.KeepsInv s) :
    s.chunk u x src dst n = .ok t → s₀.KeepsInv t := by
  unfold State.chunk
  split
  · exact nofun
  · exact State.KeepsInv.chunkWrite h.quiet

theorem State.KeepsInv.runChunks {s₀ s t u : State} {x : Transfer} {l : List (Nat × Nat × Nat)} {f : Option (Nat × Nat × Nat × Nat)}
    (h : s₀.KeepsInv s) :
    State.runChunks u x l s = (t, f) → s₀.KeepsInv t := by
  induction l generalizing s with
  | nil =>
    exact h.ofFst
  | cons c l ih =>
    unfold State.runChunks
    split
    · exact ih (h.chunk ‹_›)
    · exact h.ofFst

theorem State.KeepsInv.engError {id : ThreadId} {cause : Nat} {addr : Word} (h : s₀.KeepsInv s) : s₀.KeepsInv (s.engError id cause addr) := by
  unfold State.engError
  extract_lets
  split
  · split
    · exact h
    · exact h.storePA8.storePA8
  · refine h.focus fun _ h => h.onThr ?_
    split <;> rfl

theorem State.KeepsInv.engArrive {x : Transfer} {bad : Bool} (h : s₀.KeepsInv s) : s₀.KeepsInv (s.engArrive x bad) := by
  unfold State.engArrive
  split
  · split
    · exact h.arrive ‹_›
    split
    · exact (h.arrive ‹_›).wrote
    · exact h.arrive ‹_›
  · exact h.engError

theorem State.KeepsInv.engCover {x : Transfer} {l : List (Nat × Nat × Nat)} (h : s₀.KeepsInv s) : s₀.KeepsInv (s.engCover x l) := by
  unfold State.engCover
  split
  · exact h
  · exact h.quiet

theorem State.KeepsInv.dropSpads (h : s₀.KeepsInv s) : s₀.KeepsInv s.dropSpads :=
  h.ofSpads fun h0 k hk => (h.memOk h0).spads k (List.mem_of_mem_filter hk)

theorem State.KeepsInv.engWaits {ix : Nat} {x : Transfer} {remote : Bool} (h : s₀.KeepsInv s) : s.engWaits ix x remote = some t → s₀.KeepsInv t := by
  unfold State.engWaits
  split
  · exact nofun
  split
  · exact h.quiet.ofSome
  split
  · exact h.ofSome
  · exact nofun

theorem State.KeepsInv.engTables {s₀ s u : State} {x : Transfer} (h : s₀.KeepsInv s) (hu : s₀.KeepsInv u) : s₀.KeepsInv (s.engTables u x) := by
  unfold State.engTables
  split
  · exact h
  · exact h.keepImage fun h0 => (hu.memOk h0).mem

theorem State.KeepsInv.execTransferComplete {ix : Nat} (h : s₀.KeepsInv s) : execTransferComplete ix s = .next t → s₀.KeepsInv t := by
  unfold Machine.execTransferComplete
  split
  · exact nofun
  split
  · exact h.quiet.ofNext
  dsimp only
  split
  · exact h.ofNext
  split
  · split
    · exact (h.engWaits ‹_›).ofNext
    split
    · exact (((((h.runChunks rfl).engCover).engTables h).engError).quiet).ofNext
    · exact (((((((h.runChunks rfl).engCover).engTables h).engError).engArrive).quiet).dropSpads).ofNext
  split
  · exact (h.engWaits ‹_›).ofNext
  · exact ((((((h.runChunks rfl).engCover).engTables h).engArrive).quiet).dropSpads).ofNext

end Sys2Proof.Machine
end

section
/-! What is kept by the operations of Sys2Proof/Machine/Barrier.lean, in their order there. -/

namespace Sys2Proof.Machine

set_option Elab.async false

variable {s₀ s t : State}

theorem State.KeepsInv.execBinit {o : AOp} (h : s₀.KeepsInv s) : execBinit o s = .next t → s₀.KeepsInv t := by
  unfold Machine.execBinit
  refine h.scalar fun _ _ h => ?_
  split
  · exact (h.access ‹_›).ofNext
  · exact h.storeBytes.commit.ofNext

theorem State.KeepsInv.execBarrive {f : ArrForm} {o : AOp} (h : s₀.KeepsInv s) : execBarrive f o s = .next t → s₀.KeepsInv t := by
  unfold Machine.execBarrive
  refine h.serial fun _ _ h => ?_
  split
  · exact (h.access ‹_›).ofNext
  · exact h.storeBytes.commit.ofNext

theorem State.KeepsInv.barWait {poll : Bool} {d : BitVec 6} {addr : Word} {n : Nat} {wait : Wait} (h : s₀.KeepsInv s) :
    s₀.KeepsInv (s.barWait poll d addr n wait) := by
  unfold State.barWait
  split
  · exact h.access ‹_›
  split
  · dsimp only
    split
    · exact (h.loadBytes ‹_›).writeG
    · exact h.setWait

theorem State.KeepsInv.execBwaitWake (h : s₀.KeepsInv s) : execBwaitWake s = .next t → s₀.KeepsInv t := by
  unfold Machine.execBwaitWake
  split
  · exact h.barWait.ofNext
  · exact nofun

theorem State.KeepsInv.fullFence (h : s₀.KeepsInv s) : s.fullFence = some t → s₀.KeepsInv t := by
  unfold State.fullFence
  split
  · exact h.ofSome
  split
  · exact (h.syncAll ‹_›).ofSome
  split
  · exact nofun
  · exact h.ofSome

theorem State.KeepsInv.execGbar {o : AOp} (h : s₀.KeepsInv s) : execGbar o s = .next t → s₀.KeepsInv t := by
  unfold Machine.execGbar
  refine h.scalar fun _ _ h => ?_
  split
  · exact h.illegalMode.ofNext
  split
  · exact (h.fullFence ‹_›).ofNext
  split
  · exact h.commit.ofNext
  split
  · refine State.KeepsInv.ofNext ?_
    split
    · exact h.setGroup.commit
    · exact h.setGroup.setWait

theorem State.KeepsInv.wroteAt {va : Nat} (h : s₀.KeepsInv s) : s₀.KeepsInv (s.wroteAt va) := by
  unfold State.wroteAt
  split
  · exact h.wrote
  · exact h

theorem State.KeepsInv.spawnNode {n : Nat} {q node : Word} {x : Nat} (h : s₀.KeepsInv s) : s.spawnNode n q node = (x, t) → s₀.KeepsInv t := by
  unfold State.spawnNode
  split
  · exact h.ofSnd
  dsimp only
  split
  · exact h.ofSnd
  split
  · exact h.ofSnd
  split
  · exact h.qerr.ofSnd
  split
  · exact (((h.appendNode ‹_›).wroteAt).wroteAt).ofSnd
  refine State.KeepsInv.ofSnd ?_
  split
  · exact h.qerr
  · exact h.nodeErr

theorem State.KeepsInv.execSpawn {o : AOp} (h : s₀.KeepsInv s) : execSpawn o s = .next t → s₀.KeepsInv t := by
  unfold Machine.execSpawn
  refine h.serial fun _ _ h => ?_
  split
  · exact h.ofNext
  split
  · exact (h.named ‹_›).ofNext
  split
  · exact ((h.spawnNode ‹_›).writeG).ofNext

theorem State.KeepsInv.execGsig {n : Bool} {o : AOp} (h : s₀.KeepsInv s) : execGsig n o s = .next t → s₀.KeepsInv t := by
  unfold Machine.execGsig
  refine h.serial fun _ _ h => ?_
  split
  · exact h.ofNext
  dsimp only
  split
  · exact (h.named ‹_›).ofNext
  split
  · exact h.writeG.ofNext
  split
  · exact h.waitRemote.ofNext
  split
  · exact h.memFault.ofNext
  refine State.KeepsInv.ofNext ?_
  refine State.KeepsInv.writeG ?_
  split
  · exact (h.decPreds ‹_›).wroteAt
  · exact h.decPreds ‹_›

end Sys2Proof.Machine
end

section
/-! What is kept by the operations of Sys2Proof/Machine/Control.lean, in their order there. -/

namespace Sys2Proof.Machine

set_option Elab.async false

variable {s₀ s t : State}

theorem State.KeepsInv.branch {taken : Bool} {target : CodeAddr} (h : s₀.KeepsInv s) : s₀.KeepsInv (s.branch taken target) := by
  unfold State.branch
  dsimp only
  split
  · exact h.onThr.jump
  · exact h.onThr.commit

theorem State.KeepsInv.jumpIndirect {t' : Word} (h : s₀.KeepsInv s) : s₀.KeepsInv (s.jumpIndirect t') := h.jump.onThr

theorem State.KeepsInv.execJr {o : SOp} (h : s₀.KeepsInv s) : execJr o s = .next t → s₀.KeepsInv t := by
  unfold Machine.execJr
  refine h.scalar fun _ _ h => ?_
  split
  · exact h.raise.ofNext
  · exact h.jumpIndirect.ofNext

theorem State.KeepsInv.execCallr {o : SOp} (h : s₀.KeepsInv s) : execCallr o s = .next t → s₀.KeepsInv t := by
  unfold Machine.execCallr
  refine h.scalar fun _ _ h => ?_
  split
  · exact h.raise.ofNext
  · exact h.setG.jumpIndirect.ofNext

theorem State.KeepsInv.setLoop {n : Nat} {l : Loop} (h : s₀.KeepsInv s) : s₀.KeepsInv (s.setLoop n l) := h.onThr

theorem State.KeepsInv.execLoop {n : LoopIx} {o : BOp} (h : s₀.KeepsInv s) : execLoop n o s = .next t → s₀.KeepsInv t := by
  unfold Machine.execLoop
  refine h.scalar fun _ _ h => ?_
  refine State.KeepsInv.ofNext ?_
  split
  · exact h.setLoop.onThr.jump
  · exact h.setLoop.onThr.commit

theorem State.KeepsInv.clearLoops {n : Nat} (h : s₀.KeepsInv s) : s₀.KeepsInv (s.clearLoops n) := h.foldl fun _ _ h => h.setLoop

theorem State.KeepsInv.execLbrk {n : LoopIx} {c : Cond} {o : BOp} (h : s₀.KeepsInv s) : execLbrk n c o s = .next t → s₀.KeepsInv t := by
  unfold Machine.execLbrk
  refine h.scalar fun _ _ h => ?_
  split
  · exact h.raise.ofNext
  refine State.KeepsInv.ofNext ?_
  refine State.KeepsInv.branch ?_
  split
  · exact h.clearLoops
  · exact h

theorem State.KeepsInv.execWaitf {all : Bool} {o : YOp} (h : s₀.KeepsInv s) : execWaitf all o s = .next t → s₀.KeepsInv t := by
  unfold Machine.execWaitf
  refine h.scalar fun _ _ h => ?_
  refine State.KeepsInv.ofNext ?_
  split
  · exact h.commit
  · exact h.setWait

theorem State.KeepsInv.execWaitfWake (h : s₀.KeepsInv s) : execWaitfWake s = .next t → s₀.KeepsInv t := by
  unfold Machine.execWaitfWake
  split
  · refine State.KeepsInv.ofNext ?_
    split
    · exact h.commit
    · exact h
  · exact nofun

theorem State.KeepsInv.execYield {o : YOp} (h : s₀.KeepsInv s) : execYield o s = .next t → s₀.KeepsInv t := by
  unfold Machine.execYield
  refine h.scalar fun _ _ h => ?_
  refine State.KeepsInv.ofNext ?_
  split
  · exact h.commit
  · exact h.commit.setWait

theorem State.KeepsInv.execYieldExpiry (h : s₀.KeepsInv s) : execYieldExpiry s = .next t → s₀.KeepsInv t := by
  unfold Machine.execYieldExpiry
  split
  · refine State.KeepsInv.ofNext ?_
    split
    · exact h.setWait
    · exact h
  · exact nofun

theorem State.KeepsInv.execExit {o : YOp} (h : s₀.KeepsInv s) : execExit o s = .next t → s₀.KeepsInv t := by
  unfold Machine.execExit
  refine h.scalar fun _ _ h => ?_
  split
  · exact h.illegalMode.ofNext
  dsimp only
  split
  · exact h.setWait.ofNext
  split
  · exact (h.setWait.syncAll ‹_›).ofNext
  · exact h.setWait.onThr.endThread.ofNext

theorem State.KeepsInv.execCodePageFetch (h : s₀.KeepsInv s) : execCodePageFetch s = .next t → s₀.KeepsInv t := by
  unfold Machine.execCodePageFetch
  split
  · exact nofun
  · exact h.raise.ofNext

end Sys2Proof.Machine
end

section
/-! What is kept by the operations of Sys2Proof/Machine/Episode.lean, in their order there. -/

namespace Sys2Proof.Machine

set_option Elab.async false

variable {s₀ s t : State}

theorem State.KeepsInv.setEp {x : Episode} (h : s₀.KeepsInv s) : s₀.KeepsInv (s.setEp x) := h.quiet

/-- An Etesian core is replaced by one whose SRAM stands in its canonical form. -/
theorem State.KeepsInv.setEcoreOf {n : Nat} {c : ECore} (h : s₀.KeepsInv s) (hc : s₀.MemOk → c.sram.wf = true) : s₀.KeepsInv (s.setEcore n c) := by
  refine ⟨fun h0 => ?_, h.clockOk⟩
  obtain ⟨hmem, hthr, hctx, hec, hrest⟩ := h.memOk h0
  refine ⟨hmem, hthr, hctx, fun k hk => ?_, hrest⟩
  by_cases hkn : k % 64 = n % 64
  · rw [show (s.setEcore n c).ecore k = c by simp [State.ecore, State.setEcore, vget, vset, hkn]]
    exact hc h0
  · rw [show (s.setEcore n c).ecore k = s.ecore k from vget_vset_other _ _ _ _ (Ne.symm hkn)]
    exact hec k hk

theorem State.KeepsInv.sram_wf (h : s₀.KeepsInv s) (h0 : s₀.MemOk) (n : Nat) : (s.ecore n).sram.wf = true := by
  have hn := (h.memOk h0).srams (n % 64) (Nat.mod_lt _ (by omega))
  rwa [show s.ecore (n % 64) = s.ecore n by simp [State.ecore, vget]] at hn

theorem State.KeepsInv.setEcore {n : Nat} {c : ECore} (h : s₀.KeepsInv s) (hc : c.sram = (s.ecore n).sram := by simp) :
    s₀.KeepsInv (s.setEcore n c) :=
  h.setEcoreOf fun h0 => hc ▸ h.sram_wf h0 n

theorem State.KeepsInv.epPut {n e off : Nat} {v : Word} (h : s₀.KeepsInv s) : s₀.KeepsInv (s.epPut n e off v) := by
  unfold State.epPut
  split
  · exact h
  split
  · exact h.devWrite8 ‹_›
  · exact h

theorem State.KeepsInv.epState {n e : Nat} {st : EState} (h : s₀.KeepsInv s) : s₀.KeepsInv (s.epState n e st) := by
  unfold State.epState
  split
  · exact h.epPut
  · exact h

theorem State.KeepsInv.setEState {x : Episode} {st : EState} (h : s₀.KeepsInv s) : s₀.KeepsInv (s.setEState x st) := h.setEp.epState

theorem State.KeepsInv.epStat {x : Episode} (h : s₀.KeepsInv s) : s₀.KeepsInv (s.epStat x) := h.epPut

theorem State.KeepsInv.epDone {n e : Nat} {seq : BitVec 32} {status : Nat} {st : EState} {icmd : Bool} {ivec : Nat} (h : s₀.KeepsInv s) :
    s₀.KeepsInv (s.epDone n e seq status st icmd ivec) := by
  unfold State.epDone
  dsimp only
  split
  · exact h.setCtx.epPut.interrupt
  · exact h.setCtx.epPut

theorem State.KeepsInv.passCore {c : Nat} (h : s₀.KeepsInv s) : s₀.KeepsInv (s.passCore c) := by
  unfold State.passCore
  split
  · exact h
  split
  · exact h.setEcore
  · exact h

theorem State.KeepsInv.unbindCore {x : Episode} (h : s₀.KeepsInv s) : s₀.KeepsInv (s.unbindCore x) := by
  unfold State.unbindCore
  split
  · exact h.setEcore
  · exact h

theorem State.KeepsInv.yieldCore {x : Episode} (h : s₀.KeepsInv s) : s₀.KeepsInv (s.yieldCore x) := by
  unfold State.yieldCore
  split
  · exact h.passCore
  · exact h

theorem State.KeepsInv.pump {x : Episode} (h : s₀.KeepsInv s) : s₀.KeepsInv (s.pump x) := by
  unfold State.pump
  dsimp only
  split
  · split
    · split
      · exact h.setEp.interrupt
      · exact h.setEp
    · exact h.setEp
  · exact h.setEp

theorem State.KeepsInv.endEpisode {x : Episode} {st : EState} {kind : Nat} {aux : BitVec 32} (h : s₀.KeepsInv s) :
    s₀.KeepsInv (s.endEpisode x st kind aux) := by
  unfold State.endEpisode
  exact h.setEp.epState.epPut.yieldCore.pump

theorem State.KeepsInv.killEpisode {x : Episode} {kind : Nat} {aux : BitVec 32} (h : s₀.KeepsInv s) : s₀.KeepsInv (s.killEpisode x kind aux) := by
  unfold State.killEpisode
  split
  · exact h.endEpisode
  · exact h

theorem State.KeepsInv.boundary {x : Episode} (h : s₀.KeepsInv s) : s₀.KeepsInv (s.boundary x) := by
  unfold State.boundary
  dsimp only
  split
  · split
    · exact h.setEp.epStat.endEpisode
    · exact h.setEp.epStat
  split
  · exact h.endEpisode
  · exact h

theorem State.KeepsInv.writePolicygen {n : Nat} {v : Word} (h : s₀.KeepsInv s) : s₀.KeepsInv (s.writePolicygen n v) :=
  h.setCtx.foldl fun _ _ h => h.boundary

theorem State.KeepsInv.zeroPA {pa n : Nat} (h : s₀.KeepsInv s) : s₀.KeepsInv (s.zeroPA pa n) :=
  h.setMem (hm := fun h0 => Mem.wf_zero (h.memOk h0).mem) (hc := rfl)

theorem State.KeepsInv.scrubEpisode {x : Episode} (h : s₀.KeepsInv s) : s₀.KeepsInv (s.scrubEpisode x) :=
  State.KeepsInv.foldl (h.setEcoreOf fun h0 => Mem.wf_zero (h.sram_wf h0 _)) fun _ _ h => h.zeroPA

theorem State.KeepsInv.freeEpisode {x : Episode} (h : s₀.KeepsInv s) : s₀.KeepsInv (s.freeEpisode x) := h.quiet.unbindCore.epState

theorem State.KeepsInv.execScrubComplete {core part : Nat} (h : s₀.KeepsInv s) : execScrubComplete core part s = .next t → s₀.KeepsInv t := by
  unfold Machine.execScrubComplete
  split
  · exact nofun
  split
  · exact nofun
  dsimp only
  split
  · refine State.KeepsInv.ofNext ?_
    split
    · exact h.scrubEpisode.freeEpisode.epDone
    · exact h.scrubEpisode.freeEpisode
  refine State.KeepsInv.ofNext ?_
  split
  · exact h.scrubEpisode.setEp.pump.epDone
  · exact h.scrubEpisode.setEp.pump

theorem State.KeepsInv.epAnswer {n e : Nat} {seq : BitVec 32} {status : Nat} (h : s₀.KeepsInv s) : s₀.KeepsInv (s.epAnswer n e seq status) := by
  unfold State.epAnswer
  split
  · exact h.epDone

theorem State.KeepsInv.loadEpisode {n e : Nat} {seq : BitVec 32} {op : Nat} {rz : Bool} (h : s₀.KeepsInv s) :
    s₀.KeepsInv (s.loadEpisode n e seq op rz) := by
  unfold State.loadEpisode
  split
  · exact h.epAnswer
  split
  · exact h.epAnswer
  split
  · exact h.epAnswer
  extract_lets +onlyGivenNames f cfg budget image ilen wbase wsize
  split
  · exact h.epAnswer
  extract_lets +onlyGivenNames core lunits
  split
  · exact h.epAnswer
  split
  · exact h.epAnswer
  split
  · refine State.KeepsInv.epState (State.KeepsInv.quiet (h.setEcoreOf fun h0 => ?_))
    exact Mem.wf_write _ _ _ (Mem.wf_zero (h.sram_wf h0 _))
  · exact h.epAnswer

theorem State.KeepsInv.execEpisodeLoad {n : Nat} (h : s₀.KeepsInv s) : execEpisodeLoad n s = .next t → s₀.KeepsInv t := by
  unfold Machine.execEpisodeLoad
  split
  · exact nofun
  · exact h.loadEpisode.ofNext

theorem State.KeepsInv.execEpisodeLoadComplete {core part : Nat} (h : s₀.KeepsInv s) :
    execEpisodeLoadComplete core part s = .next t → s₀.KeepsInv t := by
  unfold Machine.execEpisodeLoadComplete
  split
  · exact nofun
  split
  · exact nofun
  refine State.KeepsInv.ofNext ?_
  split
  · exact h.setEp.epStat.setEcore.epDone
  · exact h.setEp.epStat.setEcore.epState

theorem State.KeepsInv.execEpisodeRelease {n : Nat} (h : s₀.KeepsInv s) : execEpisodeRelease n s = .next t → s₀.KeepsInv t := by
  unfold Machine.execEpisodeRelease
  split
  · exact nofun
  split
  · exact h.epAnswer.ofNext
  split
  · split
    · exact h.setEp.ofNext
    · exact h.epAnswer.ofNext
  · exact h.epAnswer.ofNext

theorem State.KeepsInv.execEpisodeKill {n : Nat} (h : s₀.KeepsInv s) : execEpisodeKill n s = .next t → s₀.KeepsInv t := by
  unfold Machine.execEpisodeKill
  split
  · exact nofun
  split
  · exact h.epAnswer.ofNext
  split
  · split
    · exact h.killEpisode.ofNext
    · exact h.epAnswer.ofNext
  · exact h.epAnswer.ofNext

theorem State.KeepsInv.takeObs {x : Episode} (h : s₀.KeepsInv s) : s₀.KeepsInv (s.takeObs x) := h.setEp.pump

end Sys2Proof.Machine
end

section
/-! What is kept by the operations of Sys2Proof/Machine/System.lean, in their order there. -/

namespace Sys2Proof.Machine

set_option Elab.async false

variable {s₀ s t : State}

theorem State.KeepsInv.execEret {o : YOp} (h : s₀.KeepsInv s) : execEret o s = .next t → s₀.KeepsInv t := by
  unfold Machine.execEret
  refine h.scalar fun _ _ h => ?_
  split
  · exact h.illegalMode.ofNext
  split
  · exact h.raise.ofNext
  · exact h.onThr.returnFromTrap.ofNext

theorem State.KeepsInv.execWfe {o : YOp} (h : s₀.KeepsInv s) : execWfe o s = .next t → s₀.KeepsInv t := by
  unfold Machine.execWfe
  refine h.serial fun _ _ h => ?_
  split
  · exact h.commit.ofNext
  · exact h.setWait.ofNext

theorem State.KeepsInv.execWfeWake (h : s₀.KeepsInv s) : execWfeWake s = .next t → s₀.KeepsInv t := by
  unfold Machine.execWfeWake
  split
  · exact h.commit.ofNext
  · exact nofun

theorem State.KeepsInv.clearEntry {n i : Nat} (h : s₀.KeepsInv s) : s₀.KeepsInv (s.clearEntry n i) := by
  unfold State.clearEntry
  dsimp only
  split
  · exact h
  · exact h.storePA

theorem State.KeepsInv.clearStray {pa len : Nat} (h : s₀.KeepsInv s) : s₀.KeepsInv (s.clearStray pa len) :=
  h.foldl fun _ _ h => h.foldl fun _ _ h => h.clearEntry

theorem State.KeepsInv.ringWrite {n : Nat} {h' : Hcall} {record : Nat} (h : s₀.KeepsInv s) : s₀.KeepsInv (s.ringWrite n h' record) := by
  unfold State.ringWrite
  dsimp only
  split
  · exact h.storePA8.storePA8.storePA8.storePA8.interrupt
  · exact h.storePA8.storePA8.storePA8.storePA8

theorem State.KeepsInv.takeSeq {n : Nat} {x : Word} (h : s₀.KeepsInv s) : s.takeSeq n = (x, t) → s₀.KeepsInv t := h.setCtx.storePA8.ofSnd

theorem State.KeepsInv.execHcall {o : YOp} (h : s₀.KeepsInv s) : execHcall o s = .next t → s₀.KeepsInv t := by
  unfold Machine.execHcall
  refine h.serial fun _ _ h => ?_
  dsimp only
  split
  · exact h.onThr.setWait.ofNext
  split
  · exact h.illegalMode.ofNext
  split
  · exact h.ofNext
  · exact (((h.takeSeq rfl).onThr).setWait).ofNext

theorem State.KeepsInv.execHcallEntryFree (h : s₀.KeepsInv s) : execHcallEntryFree s = .next t → s₀.KeepsInv t := by
  unfold Machine.execHcallEntryFree
  split
  · split
    · exact h.ofNext
    · exact h.ringWrite.onThr.setWait.ofNext
  · exact nofun

theorem State.KeepsInv.execHcallReply (h : s₀.KeepsInv s) : execHcallReply s = .next t → s₀.KeepsInv t := by
  unfold Machine.execHcallReply
  split
  · dsimp only
    split
    · exact h.ofNext
    · exact h.storePA.onThr.writeG.ofNext
  · exact nofun

end Sys2Proof.Machine
end

section
/-! What is kept by the operations of Sys2Proof/Machine/Vector.lean, in their order there. -/

namespace Sys2Proof.Machine

set_option Elab.async false

variable {s₀ s t : State}

theorem State.KeepsInv.captureMember {c : Convoy} {i : Instr} {x : Member} (h : s₀.KeepsInv s) : s.captureMember c i = (t, x) → s₀.KeepsInv t := by
  unfold State.captureMember
  dsimp only
  split
  · exact h.onThr.ofFst
  refine State.KeepsInv.ofFst ?_
  split
  · exact h.onThr.onThr
  · exact h.onThr.onThr.onThr

theorem State.KeepsInv.captureAll {c : Convoy} {l : List Instr} {ms : List Member} (h : s₀.KeepsInv s) :
    s.captureAll c l = (t, ms) → s₀.KeepsInv t := by
  induction l generalizing s t ms with
  | nil => exact h.ofFst
  | cons i l ih =>
    unfold State.captureAll
    split
    split
    rintro ⟨⟩
    exact ih (h.captureMember ‹_›) ‹_›

theorem State.KeepsInv.raiseEmpty {at_ : TrapAt} {f : FaultInfo} (h : s₀.KeepsInv s) : s₀.KeepsInv (s.raiseEmpty at_ f) := by
  unfold State.raiseEmpty
  split
  · exact h.raiseAt
  · exact h.setWait

theorem State.KeepsInv.enqueueConvoy {c : Convoy} {len n : Nat} (h : s₀.KeepsInv s) : s₀.KeepsInv (s.enqueueConvoy c len n) := h.onThr.commitLen

theorem State.KeepsInv.postMem {c : Convoy} {s' : State} {slot : Nat} {m : Member} {o : VMOp} {len n : Nat} (h : s₀.KeepsInv s)
    (hs' : s₀.KeepsInv s') :
    s₀.KeepsInv (s.postMem c s' slot m o len n) := by
  unfold State.postMem
  split
  · exact h
  split
  · exact h.raiseAt
  dsimp only
  split
  · exact h.raiseAt
  split
  · exact h.xhold
  · exact hs'.enqueueConvoy

theorem State.KeepsInv.postConvoy {ms : List Instr} {len n : Nat} (h : s₀.KeepsInv s) : s.postConvoy ms len n = .next t → s₀.KeepsInv t := by
  unfold State.postConvoy
  split
  · exact h.raiseAt.ofNext
  split
  · exact (h.gWait ‹_›).ofNext
  split
  · exact h.raiseAt.ofNext
  split
  · exact h.raiseAt.ofNext
  split
  · exact h.raiseEmpty.ofNext
  split
  · exact h.ofNext
  dsimp only
  split
  · exact ((h.captureAll rfl).enqueueConvoy).ofNext
  split
  · exact (h.postMem (h.captureAll rfl)).ofNext
  · exact h.ofNext

theorem State.KeepsInv.postOne {i : Instr} (h : s₀.KeepsInv s) : s.postOne i = .next t → s₀.KeepsInv t := h.postConvoy

theorem State.KeepsInv.execConvoy {o : COp} (h : s₀.KeepsInv s) : execConvoy o s = .next t → s₀.KeepsInv t := by
  unfold Machine.execConvoy
  split
  · exact h.raiseAt.ofNext
  · exact h.postConvoy

theorem State.KeepsInv.vecDamage {srcs : List VRead} {l : List (Nat × Nat)} (h : s₀.KeepsInv s) : s.vecDamage srcs = (t, l) → s₀.KeepsInv t := by
  unfold State.vecDamage
  extract_lets src
  split
  · exact h.ofFst
  · intro e
    suffices s₀.KeepsInv (t, l).1 from this
    rw [← e]
    refine State.KeepsInv.foldlFst h.quiet fun _ _ x h => ?_
    obtain ⟨core, slot, r, eg, lanes⟩ := x
    dsimp only
    split
    · exact h.count
    · dsimp only
      exact h.onThr rfl

theorem State.KeepsInv.applyOut {o : VOut} (h : s₀.KeepsInv s) : s₀.KeepsInv (s.applyOut o) := h.quiet (ht := rfl)

theorem State.KeepsInv.vecMismatch {m : Member} {at_ : CodeAddr} {slot : Nat} {x : Option VFault} (h : s₀.KeepsInv s) :
    s.vecMismatch m at_ slot = (t, x) → s₀.KeepsInv t := by
  unfold State.vecMismatch
  split
  · exact (h.mismatches ‹_›).ofFst

theorem State.KeepsInv.loadElems {m : Member} {slot w : Nat} {l : List (Nat × Word × Nat)} {vs : List (Nat × Nat)} {f : Option VFault}
    (h : s₀.KeepsInv s) :
    s.loadElems m slot w l = (vs, t, f) → s₀.KeepsInv t := by
  induction l generalizing s t vs f with
  | nil => rintro ⟨⟩; exact h
  | cons a l ih =>
    unfold State.loadElems
    split
    next s₁ _ e =>
    have h₁ : s₀.KeepsInv s₁ := by
      revert e
      split
      · rintro ⟨⟩
        exact h
      · split
        · rintro ⟨⟩
          exact h
        · split
          · rintro ⟨⟩
            exact h.loadBytes ‹_›
    split
    rintro ⟨⟩
    exact ih h₁ ‹_›

theorem State.KeepsInv.storeElems {m : Member} {slot w : Nat} {x : VReg} {l : List (Nat × Word × Nat)} {f : Option VFault} (h : s₀.KeepsInv s) :
    s.storeElems m slot w x l = (t, f) → s₀.KeepsInv t := by
  induction l generalizing s t f with
  | nil => exact h.ofFst
  | cons a l ih =>
    unfold State.storeElems
    extract_lets
    split
    next s₁ _ e =>
    have h₁ : s₀.KeepsInv s₁ := by
      revert e
      split
      · exact h.spadWrite.ofFst
      · split
        · exact h.ofFst
        · exact h.storeBytes.ofFst
    split
    rintro ⟨⟩
    exact ih h₁ ‹_›

theorem State.KeepsInv.runMem {c : Convoy} {slot : Nat} {m : Member} {o : VMOp} {f : Option VFault} (h : s₀.KeepsInv s) :
    s.runMem c slot m o = (t, f) → s₀.KeepsInv t := by
  unfold State.runMem
  extract_lets +onlyGivenNames w e cnt
  split
  · split
    extract_lets
    split
    rintro ⟨⟩
    split
    · exact h.storeElems ‹_›
    · exact (h.storeElems ‹_›).quiet
  · extract_lets arrived
    split
    · exact h.onThr.ofFst
    · split
      split
      exact (h.loadElems ‹_›).applyOut.onThr.ofFst

theorem State.KeepsInv.runMember {c : Convoy} {slot : Nat} {m : Member} {fl : FFlags} {f : Option VFault} (h : s₀.KeepsInv s) :
    s.runMember c slot m = (t, fl, f) → s₀.KeepsInv t := by
  unfold State.runMember
  extract_lets +onlyGivenNames n
  split
  split
  have h₁ := (h.vecDamage ‹_›).vecMismatch ‹_›
  split
  · extract_lets +onlyGivenNames u f0
    split
    · exact h₁.count.ofFst
    · split
      exact (h₁.count.runMem ‹_›).ofFst
  · exact h₁.count.applyOut.ofFst

theorem State.KeepsInv.runMembers {c : Convoy} {l : List (Member × Nat)} {fl : FFlags} {f : Option VFault} (h : s₀.KeepsInv s) :
    s.runMembers c l = (t, fl, f) → s₀.KeepsInv t := by
  induction l generalizing s fl f with
  | nil =>
    exact h.ofFst
  | cons x l ih =>
    unfold State.runMembers
    split
    split
    rintro ⟨⟩
    exact ih (h.runMember ‹_›) ‹_›

theorem State.KeepsInv.runConvoy {c : Convoy} {x : Option FaultInfo} (h : s₀.KeepsInv s) : s.runConvoy c = (t, x) → s₀.KeepsInv t := by
  unfold State.runConvoy
  split
  · exact ((((h.runMembers ‹_›).orFlags).count).emit).ofFst

theorem State.KeepsInv.execConvoyComplete (h : s₀.KeepsInv s) : execConvoyComplete s = .next t → s₀.KeepsInv t := by
  unfold Machine.execConvoyComplete
  split
  · exact nofun
  split
  · exact h.ofNext
  split
  · exact ((h.runConvoy ‹_›).onThr (by rfl)).ofNext
  split
  · exact h.abandonGuess.ofNext
  split
  · exact h.ofNext
  · exact (State.KeepsInv.raiseAt ((h.runConvoy ‹_›).onThr (by rfl))).ofNext

theorem State.KeepsInv.execVecEgArrival {member : Nat} (h : s₀.KeepsInv s) : execVecEgArrival member s = .next t → s₀.KeepsInv t := by
  unfold Machine.execVecEgArrival
  split
  · exact nofun
  split
  · exact nofun
  split
  · exact nofun
  dsimp only
  split
  · exact nofun
  split
  · exact nofun
  refine State.KeepsInv.ofNext ?_
  refine State.KeepsInv.onThr ?_
  rename_i e
  revert e
  split
  · exact h.onThr.runMem
  · exact h.onThr.ofFst

theorem State.KeepsInv.postSolo {i : Instr} (h : s₀.KeepsInv s) : s₀.KeepsInv (s.postSolo i) := h.onThr

theorem State.KeepsInv.execVshape {n : Bool} {o : VOp} (h : s₀.KeepsInv s) : execVshape n o s = .next t → s₀.KeepsInv t := by
  unfold Machine.execVshape
  refine h.scalar fun _ _ h => ?_
  split
  · exact h.ofNext
  dsimp only
  split
  · split
    · exact h.illegalVal.ofNext
    · exact h.postSolo.onThr.commit.ofNext
  split
  · exact h.illegalVal.ofNext
  · exact h.postSolo.onThr.commit.ofNext

theorem State.KeepsInv.binding {i : Instr} {n : Nat} {srcs dst : List (BitVec 6)} {f : State → Out} (h : s₀.KeepsInv s)
    (hf : ∀ u t, s₀.KeepsInv u → f u = .next t → s₀.KeepsInv t) :
    s.binding i n srcs dst f = .next t → s₀.KeepsInv t := by
  unfold State.binding
  refine h.scalar fun _ _ h => ?_
  split
  · exact h.illegalMode.ofNext
  split
  · exact h.ofNext
  · exact hf _ _ h

theorem State.KeepsInv.setSb {n : Nat} {b : Option Stream} (h : s₀.KeepsInv s) : s₀.KeepsInv (s.setSb n b) := h.onThr

theorem State.KeepsInv.bindWaits {write : Bool} {pas : List Nat} (h : s₀.KeepsInv s) : s.bindWaits write pas = some t → s₀.KeepsInv t := by
  unfold State.bindWaits
  split
  · exact nofun
  split
  · split
    · exact nofun
    · exact h.ofSome
  · exact h.setWait.ofSome

theorem State.KeepsInv.bindFault {n : Nat} {f : FaultInfo} (h : s₀.KeepsInv s) : s₀.KeepsInv (s.bindFault n f) := h.setSb.commit.raiseAt

theorem State.KeepsInv.execVbind {o : VMOp} (h : s₀.KeepsInv s) : execVbind o s = .next t → s₀.KeepsInv t := by
  unfold Machine.execVbind
  refine h.binding fun _ _ h => ?_
  split
  · exact h.ofNext
  dsimp only
  split
  · exact h.raiseAt.ofNext
  split
  · exact h.raiseAt.ofNext
  split
  · exact (h.bindWaits ‹_›).ofNext
  · exact h.bindFault.ofNext
  split
  · exact ((((h.loadBytes rfl).postSolo).setSb).commit).ofNext
  · exact (((h.loadBytes rfl).setSb).raiseAt).ofNext

theorem State.KeepsInv.execVunbind {nw : Bool} {o : VMOp} (h : s₀.KeepsInv s) : execVunbind nw o s = .next t → s₀.KeepsInv t := by
  unfold Machine.execVunbind
  refine h.binding fun _ _ h => ?_
  split
  · exact h.postSolo.commit.ofNext
  split
  · exact h.postSolo.setSb.commit.ofNext
  dsimp only
  split
  · exact h.ofNext
  split
  · exact h.raiseAt.ofNext
  split
  · exact h.xhold.ofNext
  split
  · exact h.ofNext
  split
  · exact (h.bindWaits ‹_›).ofNext
  · exact h.bindFault.ofNext
  · exact h.storeBytes.postSolo.setSb.commit.ofNext

theorem State.KeepsInv.execVspos {r : Bool} {o : VMOp} (h : s₀.KeepsInv s) : execVspos r o s = .next t → s₀.KeepsInv t := by
  unfold Machine.execVspos
  refine h.binding fun _ _ h => ?_
  split
  · exact h.postSolo.writeG.ofNext
  · exact h.postSolo.writeG.ofNext
  · exact h.postSolo.setSb.commit.ofNext
  · exact h.postSolo.commit.ofNext

end Sys2Proof.Machine
end

section
/-! What is kept by the operations of Sys2Proof/Machine/TileQueue.lean, in their order there. -/

namespace Sys2Proof.Machine

set_option Elab.async false

variable {s₀ s t : State}

theorem State.KeepsInv.settleEnt {t' : Nat} (h : s₀.KeepsInv s) : s₀.KeepsInv (s.settleEnt t') := by
  unfold State.settleEnt
  dsimp only
  split
  · exact h.setEnt
  split
  · exact h.dropSlot.setEnt
  · exact h

theorem State.KeepsInv.wantTile {t' : Nat} {pref : Bool} (h : s₀.KeepsInv s) : s₀.KeepsInv (s.wantTile t' pref) := by
  unfold State.wantTile
  dsimp only
  split
  · exact h.settleEnt.serveTile
  · exact h.settleEnt.fillStart

theorem State.KeepsInv.spillReport {e : TqEnt} {t' : Nat} {x : FaultInfo} (h : s₀.KeepsInv s) : s.spillReport e t' = some (x, t) → s₀.KeepsInv t := by
  unfold State.spillReport
  split
  · split
    · rintro ⟨⟩
      exact h.setCore
    · exact nofun
  · exact nofun

theorem State.KeepsInv.setTq {e : TqEnt} (h : s₀.KeepsInv s) : s₀.KeepsInv (s.setTq e) := h.onThr

theorem State.KeepsInv.freePool {n : Option Nat} (h : s₀.KeepsInv s) : s₀.KeepsInv (s.freePool n) := by
  unfold State.freePool
  split
  · exact h.setCore
  · exact h

theorem State.KeepsInv.hold {e : TqEnt} {f : FaultInfo} (h : s₀.KeepsInv s) : s₀.KeepsInv (s.hold e f) :=
  (h.freePool.foldl fun _ _ h => h.unpinPage).setTq

theorem State.KeepsInv.setLu {t' : Nat} {b : Bool} (h : s₀.KeepsInv s) : s₀.KeepsInv (s.setLu t' b) := h.setEnt

theorem State.KeepsInv.useTile {t' : Nat} (h : s₀.KeepsInv s) : s₀.KeepsInv (s.useTile t') := by
  unfold State.useTile
  dsimp only
  split
  · exact h.setLu.setCore
  · exact h.setLu

theorem State.KeepsInv.nameFault {e : TqEnt} {f : FaultInfo} (h : s₀.KeepsInv s) : s.nameFault e = some (t, f) → s₀.KeepsInv t := by
  unfold State.nameFault
  split
  · rintro ⟨⟩
    exact h
  · intro hs
    obtain ⟨⟨f', u⟩, hu, ⟨⟩⟩ := Option.map_eq_some_iff.1 hs
    obtain ⟨n, -, hn⟩ := List.exists_of_findSome?_eq_some hu
    exact h.spillReport hn

theorem State.KeepsInv.sourceFault {e : TqEnt} {srcs : List (BitVec 9 × Bool)} {f : FaultInfo} (h : s₀.KeepsInv s) :
    s.sourceFault e srcs = some (t, f) → s₀.KeepsInv t := by
  unfold State.sourceFault
  split
  · next x hx =>
    rintro ⟨⟩
    exact h.nameFault hx
  · intro hs
    obtain ⟨⟨n, _⟩, -, hn⟩ := List.exists_of_findSome?_eq_some hs
    dsimp only at hn
    split at hn
    · cases hn
    split at hn
    · obtain ⟨rfl, -⟩ := Prod.ext_iff.1 (Option.some.inj hn)
      dsimp only
      split
      · exact h.loseTile
      · exact h
    · cases hn

theorem State.KeepsInv.prefetch {t' : Nat} (h : s₀.KeepsInv s) : s₀.KeepsInv (s.prefetch t') := by
  unfold State.prefetch
  split
  · exact h
  dsimp only
  split
  · exact h.wantTile.onThr
  · exact h.wantTile.onThr

theorem State.KeepsInv.prefetchNext {e : TqEnt} {o : TOp} (h : s₀.KeepsInv s) : s₀.KeepsInv (s.prefetchNext e o) := by
  unfold State.prefetchNext
  split
  · exact h
  split
  · split
    · exact h
    · exact h.foldl fun _ _ h => h.prefetch
  · exact h

theorem State.KeepsInv.issueEnt {e : TqEnt} {unit : Nat} {slot chain : Option Nat} (h : s₀.KeepsInv s) :
    s₀.KeepsInv (s.issueEnt e unit slot chain) := by
  unfold State.issueEnt
  refine State.KeepsInv.setTq ?_
  refine State.KeepsInv.emit ?_
  refine State.KeepsInv.count ?_
  refine State.KeepsInv.foldl ?_ fun _ _ h => ?_
  · split
    · exact h.setCore
    · exact h
  split
  · exact h.useTile
  · exact h

theorem State.KeepsInv.repayPool (h : s₀.KeepsInv s) : s₀.KeepsInv s.repayPool := by
  unfold State.repayPool
  dsimp only
  split
  · exact h
  split
  · exact h.freeSlot
  split
  · exact h
  split
  · exact h.evict
  · exact h

theorem State.KeepsInv.starve {e : TqEnt} {on : Bool} (h : s₀.KeepsInv s) : s₀.KeepsInv (s.starve e on) := by
  unfold State.starve
  split
  · split
    · exact h.setTq
    · exact h
  split
  · exact h
  · exact h.setTq

theorem State.KeepsInv.startMma {e : TqEnt} {o : TOp} {int chained : Bool} (h : s₀.KeepsInv s) :
    s.startMma e o int chained = .ok t → s₀.KeepsInv t := by
  unfold State.startMma
  dsimp only
  split
  · exact nofun
  refine State.KeepsInv.ofOk ?_
  split
  · exact h.prefetchNext.count.count
  · exact h.prefetchNext.count

theorem State.KeepsInv.startFills {e : TqEnt} (h : s₀.KeepsInv s) : s₀.KeepsInv (s.startFills e) := by
  unfold State.startFills
  refine h.foldl fun _ _ h => ?_
  split
  · exact h
  split
  · exact h.settleEnt
  · exact h.wantTile

/-- The state that an attempt to issue leaves, where it does not only wait. -/
def Issue.leaves : Issue → State → Prop
  | .wait, _ => False
  | .held s _, t | .issued s, t => s = t

theorem State.KeepsInv.tryIssue {early : State → TqEnt → State × Except FaultInfo TileResult} {e : TqEnt} (h : s₀.KeepsInv s)
    (he : ∀ u e x t, s₀.KeepsInv u → early u e = (t, x) → s₀.KeepsInv t) :
    (State.tryIssue early s e).leaves t → s₀.KeepsInv t := by
  have hs : ∀ {u}, s₀.KeepsInv u → u = t → s₀.KeepsInv t := fun hu e => e ▸ hu
  unfold State.tryIssue
  extract_lets +onlyGivenNames thr chain srcs
  split
  · exact hs (h.sourceFault ‹_›)
  split
  · exact False.elim
  split
  · exact False.elim
  split
  · exact False.elim
  split
  · exact False.elim
  split
  · exact False.elim
  split
  · exact hs h
  extract_lets +onlyGivenNames mma
  have hm : ∀ o int, (mma o int).leaves t → s₀.KeepsInv t := by
    intro o int
    unfold mma
    split
    · exact hs h
    · exact hs (h.startMma ‹_›).issueEnt
  clear_value mma
  split
  · exact hm _ _
  · exact hm _ _
  split
  · exact hs h.issueEnt
  split
  · exact hs (he _ _ _ _ h ‹_›)
  · exact hs (he _ _ _ _ h ‹_›).issueEnt

theorem State.KeepsInv.issueScan {early : State → TqEnt → State × Except FaultInfo TileResult} {l : List TqEnt} (h : s₀.KeepsInv s)
    (he : ∀ u e x t, s₀.KeepsInv u → early u e = (t, x) → s₀.KeepsInv t) :
    s₀.KeepsInv (State.issueScan early l s) := by
  induction l generalizing s with
  | nil => exact h
  | cons e l ih =>
    unfold State.issueScan
    split
    · exact ih h
    split
    · exact (h.nameFault ‹_›).hold
    · have hi : ∀ {t}, (State.tryIssue early (s.startFills e) e).leaves t → s₀.KeepsInv t := h.startFills.tryIssue he
      extract_lets +onlyGivenNames u
      split
      · next hu => exact hi (hu ▸ rfl)
      · next hu => exact State.KeepsInv.hold (hi (hu ▸ rfl))
      · exact ih h.startFills.repayPool.starve

theorem State.KeepsInv.releaseOld {t' : Nat} (h : s₀.KeepsInv s) : s₀.KeepsInv (s.releaseOld t') := by
  unfold State.releaseOld
  dsimp only
  split
  · split
    · exact h.setCore
    · exact h.freeSlot
  · exact h

theorem State.KeepsInv.placeTile {t' n : Nat} {ent : TEnt} {v : TileVal} {dirty : Bool} (h : s₀.KeepsInv s) :
    s₀.KeepsInv (s.placeTile t' n ent v dirty) :=
  h.putSlot.setEnt

theorem State.KeepsInv.retireWrite {e : TqEnt} {t' : Nat} {v : TileVal} (h : s₀.KeepsInv s) : s.retireWrite e t' v = some t → s₀.KeepsInv t := by
  unfold State.retireWrite
  split
  · exact nofun
  dsimp only
  split
  · split
    · exact h.noteTile.dropWindow.placeTile.ofSome
    · exact h.noteTile.dropWindow.setCore.placeTile.ofSome
    · exact nofun
  · exact h.noteTile.dropWindow.releaseOld.placeTile.ofSome

theorem State.KeepsInv.retireRecv {e : TqEnt} {n m : Nat} (h : s₀.KeepsInv s) : s.retireRecv e n m = .ok (some t) → s₀.KeepsInv t := by
  unfold State.retireRecv
  extract_lets +onlyGivenNames ctx x
  split
  · exact nofun
  split
  · exact nofun
  split
  · exact nofun
  split
  · exact nofun
  split
  · exact nofun
  split
  · exact nofun
  · extract_lets gen s₁ y ent s₂ win s₃
    have h₂ : s₀.KeepsInv s₂ := h.noteTile.dropWindow.releaseOld.placeTile
    clear_value s₂
    rintro ⟨⟩
    exact State.KeepsInv.storeBytes h₂.quiet

theorem State.KeepsInv.retireDead {t' : Nat} (h : s₀.KeepsInv s) : s.retireDead t' = some t → s₀.KeepsInv t := by
  unfold State.retireDead
  split
  · exact nofun
  refine State.KeepsInv.ofSome ?_
  refine State.KeepsInv.setEnt ?_
  split
  · split
    · exact h.noteTile.dropWindow
    · exact h.noteTile.dropWindow.dropSlot
  · exact h.noteTile.dropWindow

theorem State.KeepsInv.retireEffect {e : TqEnt} (h : s₀.KeepsInv s) : s.retireEffect e = .ok (some t) → s₀.KeepsInv t := by
  have hs : ∀ {u}, s₀.KeepsInv u → (.ok (some u) : Except FaultInfo (Option State)) = .ok (some t) → s₀.KeepsInv t := by
    rintro u hu ⟨⟩
    exact hu
  unfold State.retireEffect
  split
  · exact fun e => h.retireDead (Except.ok.inj e)
  · exact hs h.noteTile.setEnt
  · exact hs h.setG
  · exact hs h.noteTile.dropWindow.setEnt
  · split
    · exact h.retireRecv
    · exact nofun
  · split
    · exact fun e => h.retireWrite (Except.ok.inj e)
    · exact hs h

theorem State.KeepsInv.hintLast {i : Instr} (h : s₀.KeepsInv s) : s₀.KeepsInv (s.hintLast i) := by
  unfold State.hintLast
  split
  · dsimp only
    split
    · refine State.KeepsInv.setLu ?_
      split
      · exact h.setLu
      · exact h
    split
    · exact h.setLu
    · exact h
  · exact h

theorem State.KeepsInv.popTq {e : TqEnt} (h : s₀.KeepsInv s) : s₀.KeepsInv (s.popTq e) := (((h.foldl fun _ _ h => h.unpinPage).onThr).count).emit

theorem State.KeepsInv.reissue {e : TqEnt} (h : s₀.KeepsInv s) : s₀.KeepsInv (s.reissue e) := h.freePool.setTq.foldl fun _ _ h => h.unpinPage

theorem State.KeepsInv.retireOne (h : s₀.KeepsInv s) : s.retireOne = some t → s₀.KeepsInv t := by
  unfold State.retireOne
  split
  · exact nofun
  split
  · split
    · exact nofun
    · exact h.popTq.ofSome
  split
  · exact nofun
  split
  · exact h.reissue.ofSome
  split
  · next heq =>
    split at heq
    · cases heq
    · exact ((h.nameFault heq).hold.onThr rfl).ofSome
  split
  · exact h.hold.ofSome
  · exact nofun
  · exact ((h.retireEffect ‹_›).orFlags.hintLast.popTq).ofSome

theorem State.KeepsInv.retireMany {n : Nat} (h : s₀.KeepsInv s) : State.retireMany n s = some t → s₀.KeepsInv t := by
  induction n generalizing s with
  | zero => exact h.ofSome
  | succ n ih =>
    unfold State.retireMany
    split
    · exact nofun
    · split
      · exact (h.retireOne ‹_›).ofSome
      · exact ih (h.retireOne ‹_›)

end Sys2Proof.Machine
end

section
/-! What is kept by the operations of Sys2Proof/Machine/Link.lean, in their order there. -/

namespace Sys2Proof.Machine

set_option Elab.async false

variable {s₀ s t : State}

theorem State.KeepsInv.flushIrqs (h : s₀.KeepsInv s) : s₀.KeepsInv s.flushIrqs := by
  unfold State.flushIrqs
  split
  · exact h.quiet
  · exact h

theorem State.KeepsInv.setPort {p : Nat} {x : Port} (h : s₀.KeepsInv s) : s₀.KeepsInv (s.setPort p x) := by
  unfold State.setPort
  refine State.KeepsInv.flushIrqs ?_
  refine State.KeepsInv.storePA8 ?_
  split
  · exact h.quiet
  · exact h.quiet

theorem State.KeepsInv.portTo {p : Nat} {st : PState} {lanes : Nat} (h : s₀.KeepsInv s) : s₀.KeepsInv (s.portTo p st lanes) := h.setPort

theorem State.KeepsInv.putPortctl (h : s₀.KeepsInv s) : s₀.KeepsInv s.putPortctl := h.storePA8

theorem State.KeepsInv.enablePort {p : Nat} (h : s₀.KeepsInv s) : s₀.KeepsInv (s.enablePort p) := by
  unfold State.enablePort
  dsimp only
  split
  · exact h.setPort.putPortctl.portTo
  · exact h.setPort.putPortctl

theorem State.KeepsInv.disablePort {p : Nat} (h : s₀.KeepsInv s) : s₀.KeepsInv (s.disablePort p) := by
  unfold State.disablePort
  dsimp only
  split
  · exact h.setPort.putPortctl
  · exact h.setPort.putPortctl.portTo

theorem State.KeepsInv.execPortEnable {p : Nat} (h : s₀.KeepsInv s) : execPortEnable p s = .next t → s₀.KeepsInv t := by
  unfold Machine.execPortEnable
  split
  · exact nofun
  · exact h.enablePort.ofNext

theorem State.KeepsInv.execPortDisable {p : Nat} (h : s₀.KeepsInv s) : execPortDisable p s = .next t → s₀.KeepsInv t := by
  unfold Machine.execPortDisable
  split
  · exact nofun
  · exact h.disablePort.ofNext

theorem State.KeepsInv.execTrainingRetry {p : Nat} (h : s₀.KeepsInv s) : execTrainingRetry p s = .next t → s₀.KeepsInv t := by
  unfold Machine.execTrainingRetry
  dsimp only
  split
  · exact nofun
  · exact h.portTo.ofNext

theorem State.KeepsInv.execTurwardRetrain (h : s₀.KeepsInv s) : execTurwardRetrain s = .next t → s₀.KeepsInv t := by
  unfold Machine.execTurwardRetrain
  split
  · exact nofun
  · exact h.portTo.ofNext

theorem State.KeepsInv.execTrainingEnd {p : Nat} {r : TrainResult} (h : s₀.KeepsInv s) : execTrainingEnd p r s = .next t → s₀.KeepsInv t := by
  unfold Machine.execTrainingEnd
  dsimp only
  split
  · exact nofun
  refine State.KeepsInv.ofNext ?_
  split
  · exact h.setPort.portTo
  · exact h.setPort.portTo
  · exact h.setPort.portTo
  · exact h.setPort.portTo

theorem State.KeepsInv.execLaneLost {p lane : Nat} (h : s₀.KeepsInv s) : execLaneLost p lane s = .next t → s₀.KeepsInv t := by
  unfold Machine.execLaneLost
  dsimp only
  split
  · exact nofun
  refine State.KeepsInv.ofNext ?_
  split
  · exact h.portTo
  split
  · exact h.setPort
  · exact h.portTo

theorem State.KeepsInv.fencePort {p : Nat} (h : s₀.KeepsInv s) : s₀.KeepsInv (s.fencePort p) := by
  unfold State.fencePort
  dsimp only
  split
  · exact h.portTo
  · exact h

theorem State.KeepsInv.execReplayLimit {p : Nat} (h : s₀.KeepsInv s) : execReplayLimit p s = .next t → s₀.KeepsInv t := by
  unfold Machine.execReplayLimit
  dsimp only
  split
  · exact nofun
  · exact (((h.draw rfl).setPort).fencePort).ofNext

theorem State.KeepsInv.applyPodcfg {v : Word} (h : s₀.KeepsInv s) : s₀.KeepsInv (s.applyPodcfg v) := h.quiet.storePA8

theorem State.KeepsInv.hostWrite {pa : Nat} {bs : List Byte} (h : s₀.KeepsInv s) : s₀.KeepsInv (s.hostWrite pa bs) := by
  unfold State.hostWrite
  dsimp only
  split
  · split
    · exact (((h.foldl fun _ _ h => h.keepTables).storePA).clearStray).applyPodcfg
    refine (((((h.foldl fun _ _ h => h.keepTables).storePA).clearStray).applyPodcfg).putPortctl).foldl fun _ _ h => ?_
    split
    · exact h
    split
    · exact h.enablePort
    · exact h.disablePort
  split
  · exact ((h.foldl fun _ _ h => h.keepTables).storePA).clearStray
  refine ((((h.foldl fun _ _ h => h.keepTables).storePA).clearStray).putPortctl).foldl fun _ _ h => ?_
  split
  · exact h
  split
  · exact h.enablePort
  · exact h.disablePort

theorem State.KeepsInv.replayed (h : s₀.KeepsInv s) : s₀.KeepsInv s.replayed := by
  unfold State.replayed
  refine h.foldl fun _ _ h => ?_
  dsimp only
  split
  · exact h
  · exact (h.draw rfl).setPort

theorem State.KeepsInv.execTurwardHostAccess {a : HostAccess} (h : s₀.KeepsInv s) : execTurwardHostAccess a s = .next t → s₀.KeepsInv t := by
  unfold Machine.execTurwardHostAccess
  split
  · split
    · exact nofun
    split
    · exact nofun
    refine State.KeepsInv.ofNext ?_
    refine State.KeepsInv.quiet ?_
    split
    · exact h.replayed
    · exact h
  · split
    · exact nofun
    · exact h.quiet.ofNext
  · split
    · exact nofun
    split
    · exact nofun
    · exact h.hostWrite.ofNext
  split
  · exact nofun
  split
  · exact nofun
  · exact h.hostWrite.quiet.ofNext

theorem State.KeepsInv.performRemote {pa : Nat} {op : RemoteOp} {x : List Byte} (h : s₀.KeepsInv s) :
    s.performRemote pa op = (t, x) → s₀.KeepsInv t := by
  unfold State.performRemote
  split
  · exact h.ofFst
  · exact h.storePA.ofFst
  · exact h.storePA.ofFst
  refine State.KeepsInv.ofFst ?_
  split
  · split
    · exact h.storePA
    · exact h
  split
  · exact h.storePA
  · exact h

theorem State.KeepsInv.execRemoteRequest {r : RemoteReq} (h : s₀.KeepsInv s) : execRemoteRequest r s = .next t → s₀.KeepsInv t := by
  unfold Machine.execRemoteRequest
  extract_lets +onlyGivenNames pa
  split
  · exact nofun
  split
  · exact h.ofNext
  split
  split
  next s₁ bs e =>
  have h₁ : s₀.KeepsInv s₁ := by
    revert e
    split
    · rintro ⟨⟩
      exact h
    split
    · rintro ⟨⟩
      exact h
    split
    · rintro ⟨⟩
      exact h
    split
    rintro ⟨⟩
    exact h.performRemote ‹_›
  exact h₁.quiet.ofNext

theorem State.KeepsInv.putWinEnt {w : RWin} {e : TEnt} (h : s₀.KeepsInv s) : s.putWinEnt w e = some t → s₀.KeepsInv t := by
  unfold State.putWinEnt
  dsimp only
  split
  · exact (h.mapThreads fun _ => by split <;> simp).ofSome
  · exact h.toOption fun _ => h.writeEnt

theorem State.KeepsInv.releaseWin {w : RWin} (h : s₀.KeepsInv s) : s₀.KeepsInv (s.releaseWin w) := h.quiet

theorem State.KeepsInv.receive {w : RWin} {v : TileVal} {x : Bool} (h : s₀.KeepsInv s) : s.receive w v = (t, x) → s₀.KeepsInv t := by
  unfold State.receive
  dsimp only
  split
  · split
    · exact (((h.putWinEnt ‹_›).putSlot).releaseWin).ofFst
    · exact h.ofFst
  split
  · exact (h.flushRegion.writeRegion ‹_›).ofFst
  split
  · refine State.KeepsInv.ofFst ?_
    split
    · exact (((h.flushRegion.writeRegion ‹_›).putWinEnt ‹_›).dropSlot).releaseWin
    · exact ((h.flushRegion.writeRegion ‹_›).putWinEnt ‹_›).releaseWin
  · exact (h.flushRegion.writeRegion ‹_›).ofFst

theorem State.KeepsInv.decideSend {m : SendMsg} {x : Bool} (h : s₀.KeepsInv s) : s.decideSend m = (t, x) → s₀.KeepsInv t := by
  unfold State.decideSend
  split
  · exact h.ofFst
  dsimp only
  split
  · exact h.ofFst
  split
  · exact h.ofFst
  split
  · exact h.releaseWin.ofFst
  · exact h.receive

theorem State.KeepsInv.execSendArrival {m : SendMsg} (h : s₀.KeepsInv s) : execSendArrival m s = .next t → s₀.KeepsInv t := by
  unfold Machine.execSendArrival
  split
  · split
    · exact nofun
    split
    · exact nofun
    split
    · refine State.KeepsInv.ofNext ?_
      refine State.KeepsInv.quiet ?_
      rename_i e
      revert e
      split
      · exact h.decideSend
      · exact h.ofFst
  split
  · exact nofun
  split
  · exact h.ofNext
  split
  · refine State.KeepsInv.ofNext ?_
    refine State.KeepsInv.quiet ?_
    rename_i e
    revert e
    split
    · exact h.decideSend
    · exact h.ofFst

theorem State.KeepsInv.sendArrives {x : Send} {ack : Bool} (h : s₀.KeepsInv s) : s₀.KeepsInv (s.sendArrives x ack) := by
  unfold State.sendArrives
  extract_lets +onlyGivenNames u
  have hu : s₀.KeepsInv u := h.quiet
  clear_value u
  split
  · exact hu.arrive ‹_›
  · exact hu

theorem State.KeepsInv.sendEnds {x : Send} {ack : Bool} (h : s₀.KeepsInv s) : s₀.KeepsInv (s.sendEnds x ack) := by
  unfold State.sendEnds
  split
  · exact h.sendArrives
  · exact h.quiet

theorem State.KeepsInv.execSendResponse {id : Nat} {ack : Bool} (h : s₀.KeepsInv s) : execSendResponse id ack s = .next t → s₀.KeepsInv t := by
  unfold Machine.execSendResponse
  split
  · exact nofun
  dsimp only
  split
  · split
    · exact h.sendEnds.ofNext
    · exact nofun
  split
  · exact h.sendEnds.ofNext
  · exact nofun

theorem State.KeepsInv.execSendTimeout {id : Nat} (h : s₀.KeepsInv s) : execSendTimeout id s = .next t → s₀.KeepsInv t := by
  unfold Machine.execSendTimeout
  split
  · exact nofun
  split
  · exact nofun
  split
  · exact h.sendArrives.ofNext
  · exact h.sendEnds.ofNext

end Sys2Proof.Machine
end

section
/-! What is kept by the operations of Sys2Proof/Machine/Manage.lean, in their order there. -/

namespace Sys2Proof.Machine

set_option Elab.async false

variable {s₀ s t : State}

theorem State.KeepsInv.answer {bs : List Byte} (h : s₀.KeepsInv s) : s₀.KeepsInv (s.answer bs) := h.quiet

theorem State.KeepsInv.perform {r : Request} (h : s₀.KeepsInv s) : s₀.KeepsInv (s.perform r) := by
  unfold State.perform
  split
  · exact h.setMgmt Mgmt.replan_clockOk
  · split
    · exact h.quiet
    · exact h
  · exact h.answer
  · exact h.answer.quiet
  · exact h.answer.quiet
  · exact h.answer.quiet
  · split
    · exact h.quiet
    · exact h
  · exact h.fencePort
  · split
    · exact h.quiet
    · exact h

theorem State.KeepsInv.onRequest {r : Request} (h : s₀.KeepsInv s) : s₀.KeepsInv (s.onRequest r) := by
  unfold State.onRequest
  split
  · exact h.quiet
  · exact h.perform

theorem State.KeepsInv.manage {r : Request} (h : s₀.KeepsInv s) : s.manage r = .next t → s₀.KeepsInv t := h.onRequest.ofNext

theorem State.KeepsInv.releaseHeld (h : s₀.KeepsInv s) : s₀.KeepsInv s.releaseHeld := h.quiet.foldl fun _ _ h => h.onRequest

theorem State.KeepsInv.releaseClock (h : s₀.KeepsInv s) : s₀.KeepsInv s.releaseClock := by
  unfold State.releaseClock
  split
  · exact h
  · refine h.setMgmt fun hclk => ?_
    exact List.foldlRecOn (motive := fun m : Mgmt => 600 ≤ m.arrayClk ∧ m.arrayClk ≤ 850 ∧ m.arrayClk % 25 = 0) _ Mgmt.replan hclk
      fun _ hm _ _ => Mgmt.replan_clockOk hm

theorem State.KeepsInv.execJunctionOvertemp (h : s₀.KeepsInv s) : execJunctionOvertemp s = .next t → s₀.KeepsInv t := by
  refine State.KeepsInv.ofNext (h.setMgmt ?_)
  rintro ⟨hlo, hhi, hstep⟩
  simp only [Mgmt.clockDown]
  omega

theorem State.KeepsInv.execPortFence {p : Nat} (h : s₀.KeepsInv s) : execPortFence p s = .next t → s₀.KeepsInv t := by
  unfold Machine.execPortFence
  split
  · exact nofun
  · exact h.manage

/-- The state after reset holds no memory, and its array clock runs at 850 MHz. -/
theorem State.reset_memOk : State.reset.MemOk := by
  refine ⟨rfl, ?_, ?_, ?_, rfl, List.forall_mem_nil _⟩
  · intro t ht
    rw [List.mem_singleton.1 ht]
    rfl
  · intro n hn
    rw [show State.reset.ctx n = Ctx.reset by simp [State.ctx, State.reset, vget]]
    exact ⟨rfl, List.forall_mem_nil _⟩
  · intro n hn
    rw [show State.reset.ecore n = ⟨[], none, 0⟩ by simp [State.ecore, State.reset, vget]]
    rfl

theorem State.KeepsInv.execPackageReset : execPackageReset s = .next t → s₀.KeepsInv t := by
  have h : s₀.KeepsInv State.reset := ⟨fun _ => State.reset_memOk, fun _ => ⟨by decide, by decide, by decide⟩⟩
  exact State.KeepsInv.ofNext h.quiet

end Sys2Proof.Machine
end

section
/-! What is kept by the operations of Sys2Proof/Machine/Context.lean, in their order there. -/

namespace Sys2Proof.Machine

set_option Elab.async false

variable {s₀ s t : State}

theorem State.KeepsInv.ctxOp {n op : Nat} {f : BitVec 32 → State} (h : s₀.KeepsInv s) (hf : ∀ y0, s₀.KeepsInv (f y0)) :
    s.ctxOp n op f = .next t → s₀.KeepsInv t := by
  unfold State.ctxOp
  split
  · exact nofun
  split
  · exact nofun
  refine State.KeepsInv.ofNext ?_
  split
  · exact h.ctxDone
  · exact hf _

theorem State.KeepsInv.initPool {c : Ctx} (h : s₀.KeepsInv s) : s₀.KeepsInv (s.initPool c) := by
  unfold State.initPool
  split
  · exact h
  · exact h.zeroPA.zeroPA.storePA.storePA.storePA.quiet

theorem State.KeepsInv.createCtx {n : Nat} {seq : BitVec 32} (h : s₀.KeepsInv s) : s₀.KeepsInv (s.createCtx n seq) := by
  unfold State.createCtx
  split
  · exact h.ctxDone
  extract_lets +onlyGivenNames r base c
  clear_value c
  split
  · exact h.ctxDone
  split
  · exact h.ctxDone
  split
  · exact h.ctxDone
  · have h₁ : s₀.KeepsInv (s.initPool c) := h.initPool
    exact (h₁.setCtxOf fun h0 => ⟨(h₁.memOk h0).mem, List.forall_mem_nil _⟩).ctxDone

theorem State.KeepsInv.execContextCreate {n : Nat} (h : s₀.KeepsInv s) : execContextCreate n s = .next t → s₀.KeepsInv t := by
  unfold Machine.execContextCreate
  split
  · exact nofun
  split
  · exact h.ctxDone.ofNext
  split
  · exact nofun
  refine State.KeepsInv.ofNext ?_
  split
  · exact h.ctxDone
  · exact h.createCtx

theorem State.KeepsInv.stopGroup {g : Group} (h : s₀.KeepsInv s) : s₀.KeepsInv (s.stopGroup g) := by
  unfold State.stopGroup
  split
  · exact h.setGroup.stopRegion
  · exact h

theorem State.KeepsInv.execContextSuspend {n : Nat} (h : s₀.KeepsInv s) : execContextSuspend n s = .next t → s₀.KeepsInv t := by
  unfold Machine.execContextSuspend
  refine h.ctxOp fun _ => ?_
  split
  · exact h.setCtx.foldl fun _ _ h => h.stopGroup
  · exact h.ctxDone
  · exact h.ctxDone
  · exact h.ctxDone
  · exact h.ctxDone

theorem State.KeepsInv.execQuiesceComplete {n : Nat} (h : s₀.KeepsInv s) : execQuiesceComplete n s = .next t → s₀.KeepsInv t := by
  unfold Machine.execQuiesceComplete
  dsimp only
  split
  · exact nofun
  refine State.KeepsInv.ofNext ?_
  split
  · exact h.setCtx.releaseClock.ctxDone
  · exact h.setCtx.releaseClock

theorem State.KeepsInv.execContextResume {n : Nat} (h : s₀.KeepsInv s) : execContextResume n s = .next t → s₀.KeepsInv t := by
  unfold Machine.execContextResume
  refine h.ctxOp fun _ => ?_
  split
  · exact h.ctxDone
  · exact h.setCtx.ctxDone
  · exact h.ctxDone
  · exact h.ctxDone
  · exact h.ctxDone

theorem State.KeepsInv.execContextDestroy {n : Nat} (h : s₀.KeepsInv s) : execContextDestroy n s = .next t → s₀.KeepsInv t := by
  unfold Machine.execContextDestroy
  refine h.ctxOp fun _ => ?_
  split
  · exact h.ctxDone
  split
  · exact h.ctxDone
  · exact h.setCtx.foldl fun _ _ h => h.abortGroup

theorem State.KeepsInv.dropQueues {n : Nat} (h : s₀.KeepsInv s) : s₀.KeepsInv (s.dropQueues n) := by
  unfold State.dropQueues
  refine h.foldl fun _ _ h => ?_
  split
  · exact h
  · exact h.setQueue.setQState

theorem State.KeepsInv.dropEpisodes {n : Nat} (h : s₀.KeepsInv s) : s₀.KeepsInv (s.dropEpisodes n) := by
  unfold State.dropEpisodes
  refine h.foldl fun _ _ h => ?_
  refine State.KeepsInv.freeEpisode ?_
  split
  · exact h
  · exact h.scrubEpisode

theorem State.KeepsInv.dropTiles {n : Nat} (h : s₀.KeepsInv s) : s₀.KeepsInv (s.dropTiles n) := h.quiet

theorem State.KeepsInv.scrubWindows {c : Ctx} (h : s₀.KeepsInv s) : s₀.KeepsInv (s.scrubWindows c) := h.foldl fun _ _ h => h.zeroPA

theorem State.KeepsInv.execTeardownComplete {n : Nat} (h : s₀.KeepsInv s) : execTeardownComplete n s = .next t → s₀.KeepsInv t := by
  unfold Machine.execTeardownComplete
  extract_lets +onlyGivenNames c
  split
  · exact nofun
  · extract_lets +onlyGivenNames s₁ s₂ s₃ s₄ s₅ r s₆
    have h₂ : s₀.KeepsInv s₂ := (h.dropQueues.dropEpisodes).foldl fun _ _ h => h.freeEntry
    have h₄ : s₀.KeepsInv s₄ := by
      unfold s₄
      split
      · exact h₂.dropTiles
      · exact h₂.dropTiles.storePA
    have h₅ : s₀.KeepsInv s₅ := by
      unfold s₅
      split
      · exact h₄.scrubWindows
      · exact h₄
    have h₆ : s₀.KeepsInv s₆ := (h₅.setCtxOf fun _ => ⟨rfl, List.forall_mem_nil _⟩).releaseHeld
    clear_value s₆
    rintro ⟨⟩
    split
    · exact h₆.cput.vecEvent
    · exact h₆

theorem State.KeepsInv.applyUpdate {n : Nat} {c c' : Ctx} (h : s₀.KeepsInv s) (hc : s₀.MemOk → c.ImagesOk) : s₀.KeepsInv (s.applyUpdate n c c') := by
  unfold State.applyUpdate
  extract_lets +onlyGivenNames c₂ p s₁ s₂
  have h₁ : s₀.KeepsInv s₁ := by
    unfold s₁
    split
    · exact h
    · exact State.KeepsInv.quiet (s := p) h.initPool
  have h₂ : s₀.KeepsInv s₂ := by
    refine h₁.setCtxOf fun h0 => ?_
    unfold c₂ Ctx.ImagesOk
    dsimp only
    split
    · exact hc h0
    · exact ⟨(h.memOk h0).mem, List.forall_mem_nil _⟩
  split
  · exact h₂.writePolicygen
  · exact h₂

theorem State.KeepsInv.updateCtx {n : Nat} {seq : BitVec 32} (h : s₀.KeepsInv s) : s₀.KeepsInv (s.updateCtx n seq) := by
  unfold State.updateCtx
  extract_lets +onlyGivenNames c
  split
  · extract_lets +onlyGivenNames c'
    split
    · exact h.ctxDone
    · exact .ctxDone (h.setCtx (hs := rfl) (ht := rfl))
  · extract_lets +onlyGivenNames c' c'' st
    split
    · exact h.ctxDone
    · exact (h.applyUpdate fun h0 => h.imagesOk h0 n).ctxDone
  all_goals exact h.ctxDone

theorem State.KeepsInv.invalidate {n : Nat} {code : Bool} {va pages : Nat} (h : s₀.KeepsInv s) : s₀.KeepsInv (s.invalidate n code va pages) :=
  h.setCtx

theorem State.KeepsInv.tlbDrop {n : Nat} {a0 a1 : Word} (h : s₀.KeepsInv s) : s₀.KeepsInv (s.tlbDrop n a0 a1) := by
  unfold State.tlbDrop
  split
  · exact h.setCtxOf fun h0 => ⟨(h.memOk h0).mem, List.forall_mem_nil _⟩
  · exact h.invalidate

theorem State.KeepsInv.tlbFinish {n : Nat} {a0 a1 : Word} (h : s₀.KeepsInv s) : s₀.KeepsInv (s.tlbFinish n a0 a1) := by
  have h₁ : s₀.KeepsInv (s.tlbDrop n a0 a1) := h.tlbDrop
  unfold State.tlbFinish
  extract_lets +onlyGivenNames seq c s₁
  have h₂ : s₀.KeepsInv s₁ := .releaseClock (h.setCtxOf fun h0 => h₁.imagesOk h0 n)
  clear_value s₁ seq
  split
  · exact h₂.ctxDone
  · exact h₂

theorem State.KeepsInv.execTlbinv {n : Nat} (h : s₀.KeepsInv s) : execTlbinv n s = .next t → s₀.KeepsInv t := by
  unfold Machine.execTlbinv
  split
  · split
    · exact nofun
    · exact h.tlbFinish.ofNext
  split
  · exact nofun
  split
  · exact nofun
  extract_lets +onlyGivenNames a0 a1
  split
  · exact h.ctxDone.ofNext
  split
  · exact h.ctxDone.ofNext
  split
  · exact h.ctxDone.ofNext
  split
  · exact h.setCtx.ofNext
  · exact h.tlbDrop.ctxDone.ofNext

theorem State.KeepsInv.execInterruptUnmask {n : Nat} (h : s₀.KeepsInv s) : execInterruptUnmask n s = .next t → s₀.KeepsInv t := by
  unfold Machine.execInterruptUnmask
  split
  · exact nofun
  split
  · exact nofun
  · exact h.storePA.deliver.ofNext

end Sys2Proof.Machine
end

section
/-! What is kept by the operations of Sys2Proof/Machine/Mailbox.lean, in their order there. -/

namespace Sys2Proof.Machine

set_option Elab.async false

variable {s₀ s t : State}

theorem State.KeepsInv.mailFault {g : Word} {reason : Nat} (h : s₀.KeepsInv s) : s₀.KeepsInv (s.mailFault g reason) := h.raise

theorem State.KeepsInv.mboxPacket {take : Bool} {kind e : Nat} (h : s₀.KeepsInv s) : s₀.KeepsInv (s.mboxPacket take kind e) := h.emit

theorem State.KeepsInv.appendAction {x : Episode} {payload : List Byte} (h : s₀.KeepsInv s) : s₀.KeepsInv (s.appendAction x payload) :=
  h.setEp.epStat.mboxPacket

theorem State.KeepsInv.mbpost {o : VOp} (h : s₀.KeepsInv s) : s₀.KeepsInv (s.mbpost o) := by
  unfold State.mbpost
  dsimp only
  split
  · exact h.mailFault
  split
  · exact h.mailFault
  split
  · exact h.raiseEmpty
  split
  · exact h
  split
  · exact h.setWait
  split
  · exact (h.vecDamage ‹_›).raise
  · exact ((h.vecDamage ‹_›).appendAction).commit

theorem State.KeepsInv.execMbpost {o : VOp} (h : s₀.KeepsInv s) : execMbpost o s = .next t → s₀.KeepsInv t := by
  unfold Machine.execMbpost
  refine h.serial fun _ _ h => ?_
  split
  · exact h.raise.ofNext
  · exact h.mbpost.ofNext

theorem State.KeepsInv.execMbpostWake (h : s₀.KeepsInv s) : execMbpostWake s = .next t → s₀.KeepsInv t := by
  unfold Machine.execMbpostWake
  split
  · exact h.mbpost.ofNext
  · exact nofun

theorem State.KeepsInv.mbtake {o : VOp} (h : s₀.KeepsInv s) : s₀.KeepsInv (s.mbtake o) := by
  unfold State.mbtake
  dsimp only
  split
  · exact h.mailFault
  split
  · exact h.mailFault
  split
  · exact h
  split
  · exact h.onThr.setWait
  · exact h.takeObs.mboxPacket.applyOut.onThr.commit

theorem State.KeepsInv.execMbtakeWake (h : s₀.KeepsInv s) : execMbtakeWake s = .next t → s₀.KeepsInv t := by
  unfold Machine.execMbtakeWake
  split
  · exact h.mbtake.ofNext
  · exact nofun

theorem State.KeepsInv.execMbpoll {o : SOp} (h : s₀.KeepsInv s) : execMbpoll o s = .next t → s₀.KeepsInv t := by
  unfold Machine.execMbpoll
  refine h.scalar fun _ _ h => ?_
  split
  · exact h.xhold.ofNext
  split
  · exact h.mailFault.ofNext
  · exact h.writeG.ofNext

theorem State.KeepsInv.mbctl {o : SOp} {bad : Bool} {f : Episode → State} (h : s₀.KeepsInv s) (hf : ∀ y0, s₀.KeepsInv (f y0)) :
    s₀.KeepsInv (s.mbctl o bad f) := by
  unfold State.mbctl
  dsimp only
  split
  · exact h.mailFault
  split
  · exact h.mailFault
  split
  · exact h.mailFault
  · exact (hf _).commit

theorem State.KeepsInv.execMbctlMode {o : SOp} (h : s₀.KeepsInv s) : execMbctlMode o s = .next t → s₀.KeepsInv t := by
  unfold Machine.execMbctlMode
  refine h.serial fun _ _ h => ?_
  refine State.KeepsInv.ofNext ?_
  refine h.mbctl fun _ => ?_
  dsimp only
  split
  · exact h.setEp.boundary
  · exact h.setEp

theorem State.KeepsInv.execMbctlKill {o : SOp} (h : s₀.KeepsInv s) : execMbctlKill o s = .next t → s₀.KeepsInv t := by
  unfold Machine.execMbctlKill
  refine h.serial fun _ _ h => ?_
  dsimp only
  split
  · exact h.mailFault.ofNext
  · exact h.killEpisode.commit.ofNext

end Sys2Proof.Machine
end

section
/-! What is kept by the operations of Sys2Proof/Machine/Csr.lean, in their order there. -/

namespace Sys2Proof.Machine

set_option Elab.async false

variable {s₀ s t : State}

theorem State.KeepsInv.onCsrs {f : Csrs → Csrs} (h : s₀.KeepsInv s) : s₀.KeepsInv (s.onCsrs f) := h.onThr

theorem State.KeepsInv.writeTracectl {v : Word} (h : s₀.KeepsInv s) : s₀.KeepsInv (s.writeTracectl v) := by
  unfold State.writeTracectl
  refine State.KeepsInv.onCsrs ?_
  split
  · exact h.traceFlush.onThr
  · exact h

theorem State.KeepsInv.writeTmapb {v : Word} (h : s₀.KeepsInv s) : s₀.KeepsInv (s.writeTmapb v) := by
  unfold State.writeTmapb
  exact h.initMap.uninstall.onThr

theorem State.KeepsInv.csrPut {n : Nat} {v : Word} (h : s₀.KeepsInv s) : s₀.KeepsInv (s.csrPut n v) := by
  unfold State.csrPut
  split
  case h_9 => exact h.writePolicygen
  case h_11 => exact h.writeTmapb
  case h_12 => exact h.setCtx (hs := rfl) (ht := rfl)
  case h_15 => exact h.setCtx (hs := rfl) (ht := rfl)
  case h_16 => exact h.writeTracectl
  case h_17 =>
    split
    · exact h.onCsrs
    split
    · exact h.onCsrs
    split
    · exact h.onCsrs
    · exact h
  case h_6 | h_7 | h_8 => exact h.onThr
  all_goals exact h.onCsrs

theorem State.KeepsInv.csrWrite {i : Instr} {n : Nat} {src : BitVec 6} {dst : Option (BitVec 6)} (h : s₀.KeepsInv s) :
    s₀.KeepsInv (s.csrWrite i n src dst) := by
  unfold State.csrWrite
  dsimp only
  split
  · exact h.illegalVal
  split
  · exact h
  split
  · split
    · exact h.illegalMode
    · exact h
    split
    · refine State.KeepsInv.onThr ?_
      split
      · exact h.csrPut.quiet.writeG
      · exact h.csrPut.quiet.commit
    split
    · exact h.csrPut.quiet.writeG
    · exact h.csrPut.quiet.commit
  split
  · refine State.KeepsInv.onThr ?_
    split
    · exact h.csrPut.quiet.writeG
    · exact h.csrPut.quiet.commit
  split
  · exact h.csrPut.quiet.writeG
  · exact h.csrPut.quiet.commit

theorem State.KeepsInv.csrWriting {i : Instr} {o : YOp} {dst : Option (BitVec 6)} (h : s₀.KeepsInv s) :
    s.csrWriting i o dst = .next t → s₀.KeepsInv t := by
  unfold State.csrWriting
  refine h.scalar fun _ _ h => ?_
  split
  · exact h.xhold.ofNext
  split
  · exact h.illegalMode.ofNext
  split
  · exact h.raise.ofNext
  · exact h.csrWrite.ofNext

theorem State.KeepsInv.execCsrr {o : YOp} (h : s₀.KeepsInv s) : execCsrr o s = .next t → s₀.KeepsInv t := by
  unfold Machine.execCsrr
  refine h.scalar fun _ _ h => ?_
  split
  · exact h.illegalMode.ofNext
  split
  · exact h.raise.ofNext
  split
  · exact h.ofNext
  · exact h.writeG.ofNext

end Sys2Proof.Machine
end

section
/-! What is kept by the operations of Sys2Proof/Machine/Fence.lean, in their order there. -/

namespace Sys2Proof.Machine

set_option Elab.async false

variable {s₀ s t : State}

theorem State.KeepsInv.execFence {k : FenceKind} {o : AOp} (h : s₀.KeepsInv s) : execFence k o s = .next t → s₀.KeepsInv t := by
  unfold Machine.execFence
  refine h.scalar fun _ _ h => ?_
  split
  · exact h.ofNext
  split
  · exact (h.syncAll ‹_›).ofNext
  refine State.KeepsInv.ofNext ?_
  split
  · split
    · exact h.commit
    · exact h
  · split
    · exact h.commit
    · exact h
  · exact h.commit
  · exact h.commit
  · exact h.commit
  · exact h.commit
  · exact h.commit

theorem State.KeepsInv.cleanLine {level line : Nat} (h : s₀.KeepsInv s) : s₀.KeepsInv (s.cleanLine level line) := by
  unfold State.cleanLine
  refine h.setHome fun h0 => ?_
  dsimp only
  split
  · exact Mem.wf_write _ _ _ (h.memOk h0).home
  · exact (h.memOk h0).home

theorem State.KeepsInv.belowLine {level line : Nat} {x : List Byte} (h : s₀.KeepsInv s) : s.belowLine level line = (x, t) → s₀.KeepsInv t := by
  unfold State.belowLine
  dsimp only
  split
  · exact h.ofSnd
  · exact (h.draw rfl).ofSnd

theorem State.KeepsInv.invalLine {level line : Nat} (h : s₀.KeepsInv s) : s₀.KeepsInv (s.invalLine level line) := by
  unfold State.invalLine
  split
  have h₁ := h.belowLine ‹_›
  exact h₁.setMem fun h0 => Mem.wf_write _ _ _ (h₁.memOk h0).mem

theorem State.KeepsInv.cmoLine {op : CmoOp} {level line : Nat} (h : s₀.KeepsInv s) : s₀.KeepsInv (s.cmoLine op level line) := by
  unfold State.cmoLine
  split
  · exact h.cleanLine
  · exact h.invalLine
  · exact h.cleanLine.invalLine

theorem State.KeepsInv.cmoLines {op : CmoOp} {level : Nat} {l : List Nat} {f : Option (Nat × Nat)} (h : s₀.KeepsInv s) :
    State.cmoLines op level l s = (t, f) → s₀.KeepsInv t := by
  induction l generalizing s with
  | nil =>
    exact h.ofFst
  | cons a l ih =>
    unfold State.cmoLines
    split
    · exact ih h.cmoLine
    · exact h.ofFst

theorem State.KeepsInv.execCmo {op : CmoOp} {o : AOp} (h : s₀.KeepsInv s) : execCmo op o s = .next t → s₀.KeepsInv t := by
  unfold Machine.execCmo
  refine h.serial fun _ _ h => ?_
  dsimp only
  split
  · exact h.illegalVal.ofNext
  split
  · exact h.ofNext
  split
  · exact ((h.cmoLines ‹_›).memFault).ofNext
  · exact ((h.cmoLines ‹_›).commit).ofNext

theorem State.KeepsInv.execRng {w32 : Bool} {o : SOp} (h : s₀.KeepsInv s) : execRng w32 o s = .next t → s₀.KeepsInv t := by
  unfold Machine.execRng
  refine h.scalar fun _ _ h => ?_
  split
  · exact h.raise.ofNext
  · exact h.onThr.writeG.ofNext

end Sys2Proof.Machine
end

section
/-! What is kept by the operations of Sys2Proof/Machine/Hachure.lean, in their order there. -/

namespace Sys2Proof.Machine

set_option Elab.async false

variable {s₀ s t : State}

theorem State.KeepsInv.xlimit {reason : Nat} (h : s₀.KeepsInv s) : s₀.KeepsInv (s.xlimit reason) := h.raise

theorem State.KeepsInv.joinRegion {r : Region} {guess : CodeAddr} (h : s₀.KeepsInv s) : s₀.KeepsInv (s.joinRegion r guess) := by
  unfold State.joinRegion
  dsimp only
  split
  · exact h.onThr.setRegion.startRegion
  · exact h.onThr.setRegion

theorem State.KeepsInv.carryLost {i : Instr} {tiles : List Nat} (h : s₀.KeepsInv s) : s.carryLost i tiles = some t → s₀.KeepsInv t := by
  unfold State.carryLost
  intro e
  obtain ⟨n, -, rfl⟩ := Option.map_eq_some_iff.1 e
  exact h.noteTile.loseTile.raise

theorem State.KeepsInv.enterRegion {o : SOp} {g b c : Word} (h : s₀.KeepsInv s) : s₀.KeepsInv (s.enterRegion o g b c) := by
  unfold State.enterRegion
  split
  · exact h.raise
  split
  · exact h.memFault
  split
  · exact h.xlimit
  split
  · exact h.xlimit
  split
  · exact h.access ‹_›
  dsimp only
  split
  · exact h.xlimit
  split
  · exact h
  split
  · exact h.carryLost ‹_›
  split
  · split
    · exact h.xlimit
    · exact h.joinRegion
  · exact h.quiet.joinRegion

theorem State.KeepsInv.execXloop {o : SOp} (h : s₀.KeepsInv s) : execXloop o s = .next t → s₀.KeepsInv t := by
  unfold Machine.execXloop
  refine h.scalar fun _ _ h => ?_
  split
  · exact h.abandonGuess.ofNext
  split
  · exact h.ofNext
  · exact h.enterRegion.ofNext

theorem State.KeepsInv.execXgret {o : YOp} (h : s₀.KeepsInv s) : execXgret o s = .next t → s₀.KeepsInv t := by
  unfold Machine.execXgret
  refine h.scalar fun _ _ h => ?_
  split
  · exact h.illegalMode.ofNext
  split
  · exact h.ofNext
  split
  · exact (h.syncAll ‹_›).ofNext
  split
  · exact (h.carryLost ‹_›).ofNext
  · exact h.onThr.endGuess.ofNext

theorem State.KeepsInv.endIteration {r : Region} {k : Stroke} {j : Nat} (h : s₀.KeepsInv s) : s₀.KeepsInv (s.endIteration r k j) := by
  unfold State.endIteration
  dsimp only
  split
  · split
    · exact h.onThr.setRegion.commitStep
    · exact h.onThr.setRegion
  split
  · exact h.onThr.setRegion.commitStep
  · exact h.onThr.setRegion

theorem State.KeepsInv.execXacc {o : SOp} (h : s₀.KeepsInv s) : execXacc o s = .next t → s₀.KeepsInv t := by
  unfold Machine.execXacc
  refine h.scalar fun _ _ h => ?_
  split
  · exact h.abandonGuess.ofNext
  split
  · exact h.illegalMode.ofNext
  split
  · exact h.illegalMode.ofNext
  split
  · exact h.ofNext
  split
  · exact (h.syncAll ‹_›).ofNext
  split
  · exact (h.carryLost ‹_›).ofNext
  · exact h.endIteration.ofNext

theorem State.KeepsInv.leaveRegion {r : Region} (h : s₀.KeepsInv s) : s₀.KeepsInv (s.leaveRegion r) := by
  unfold State.leaveRegion
  dsimp only
  split
  · exact h.quiet
  · exact h.setRegion

theorem State.KeepsInv.execXend {o : YOp} (h : s₀.KeepsInv s) : execXend o s = .next t → s₀.KeepsInv t := by
  unfold Machine.execXend
  refine h.scalar fun _ _ h => ?_
  split
  · exact h.abandonGuess.ofNext
  split
  · exact h.illegalMode.ofNext
  dsimp only
  split
  · exact h.leaveRegion.commit.ofNext
  · exact h.illegalMode.ofNext

theorem State.KeepsInv.execXabort {o : YOp} (h : s₀.KeepsInv s) : execXabort o s = .next t → s₀.KeepsInv t := by
  unfold Machine.execXabort
  refine h.scalar fun _ _ h => ?_
  split
  · exact h.abandonGuess.ofNext
  split
  · exact h.illegalMode.ofNext
  split
  · exact h.onThr.ofNext
  split
  · exact h.ofNext
  split
  · exact (h.carryLost ‹_›).ofNext
  · exact h.onThr.abortRegion.ofNext

end Sys2Proof.Machine
end

section
/-! What is kept by the operations of Sys2Proof/Machine/Hart.lean, in their order there. -/

namespace Sys2Proof.Machine

set_option Elab.async false

variable {s₀ s t : State}

theorem State.KeepsInv.etesianCycle {core : Nat} (h : s₀.KeepsInv s) : s₀.KeepsInv (s.etesianCycle core) := h.setEcore

theorem State.KeepsInv.hartNext {x : Episode} {pc : Word} (h : s₀.KeepsInv s) : s₀.KeepsInv (s.hartNext x pc) := h.etesianCycle.setEp

theorem State.KeepsInv.hartWrite {x : Episode} {len : Nat} {rd : BitVec 5} {v : Word} (h : s₀.KeepsInv s) : s₀.KeepsInv (s.hartWrite x len rd v) :=
  h.hartNext

theorem State.KeepsInv.hartTrap {x : Episode} {cause : Nat} (h : s₀.KeepsInv s) : s₀.KeepsInv (s.hartTrap x cause) := h.killEpisode

theorem State.KeepsInv.hartSetByte {core : Nat} {p : HartByte × Byte} (h : s₀.KeepsInv s) : s₀.KeepsInv (s.hartSetByte core p) := by
  unfold State.hartSetByte
  split
  · exact h.setEcoreOf fun h0 => Mem.wf_set _ _ _ (h.sram_wf h0 _)
  · exact h.storePA

theorem State.KeepsInv.hartStore {x : Episode} {a : Word} {bs : List Byte} (h : s₀.KeepsInv s) : s.hartStore x a bs = some t → s₀.KeepsInv t := by
  unfold State.hartStore
  intro e
  obtain ⟨l, -, rfl⟩ := Option.map_eq_some_iff.1 e
  have h₁ : s₀.KeepsInv ((l.zip bs).foldl (fun s p => s.hartSetByte x.core p) s) := h.foldl fun _ _ h => h.hartSetByte
  exact h₁.quiet

theorem State.KeepsInv.watchResv {x : Episode} {l : List HartByte} (h : s₀.KeepsInv s) : s₀.KeepsInv (s.watchResv x l) := h.quiet

theorem State.KeepsInv.rvLoad {x : Episode} {len : Nat} {f : RvLd} {rd : BitVec 5} {a : Word} (h : s₀.KeepsInv s) :
    s₀.KeepsInv (s.rvLoad x len f rd a) := by
  unfold State.rvLoad
  split
  · split
    · exact h.hartTrap
    split
    · exact h.hartTrap
    · exact h.hartWrite

theorem State.KeepsInv.rvStore {x : Episode} {len n : Nat} {a v : Word} (h : s₀.KeepsInv s) : s₀.KeepsInv (s.rvStore x len n a v) := by
  unfold State.rvStore
  split
  · exact h.hartTrap
  split
  · exact h.hartTrap
  · exact (h.hartStore ‹_›).hartNext

theorem State.KeepsInv.rvLr {x : Episode} {len : Nat} {dbl : Bool} {rd : BitVec 5} {a : Word} (h : s₀.KeepsInv s) :
    s₀.KeepsInv (s.rvLr x len dbl rd a) := by
  unfold State.rvLr
  dsimp only
  split
  · exact h.hartTrap
  split
  · exact h.watchResv.hartWrite
  · exact h.hartTrap

theorem State.KeepsInv.rvSc {x : Episode} {len : Nat} {dbl : Bool} {rd : BitVec 5} {a v : Word} (h : s₀.KeepsInv s) :
    s₀.KeepsInv (s.rvSc x len dbl rd a v) := by
  unfold State.rvSc
  extract_lets +onlyGivenNames n
  split
  · exact h.hartTrap
  split
  · exact h.hartTrap
  extract_lets +onlyGivenNames hart y
  split
  · extract_lets +onlyGivenNames lucky u
    have hu : s₀.KeepsInv u := h.quiet
    clear_value u
    split
    · split
      · exact (hu.hartStore ‹_›).hartWrite
      · exact hu.hartTrap
    · exact hu.hartWrite
  · exact h.hartWrite

theorem State.KeepsInv.rvAmoRun {x : Episode} {len : Nat} {f : RvAmo} {dbl : Bool} {rd : BitVec 5} {a v : Word} (h : s₀.KeepsInv s) :
    s₀.KeepsInv (s.rvAmoRun x len f dbl rd a v) := by
  unfold State.rvAmoRun
  dsimp only
  split
  · exact h.hartTrap
  split
  · exact h.hartTrap
  split
  · exact h.hartTrap
  · exact (h.hartStore ‹_›).hartWrite

theorem State.KeepsInv.rvRun {x : Episode} {len : Nat} {i : RvI} (h : s₀.KeepsInv s) : s₀.KeepsInv (s.rvRun x len i) := by
  unfold State.rvRun
  dsimp only
  split
  · exact h.hartWrite
  · exact h.hartWrite
  · exact h.hartNext
  · exact h.hartNext
  · exact h.hartNext
  · exact h.rvLoad
  · exact h.rvStore
  · exact h.hartWrite
  · exact h.hartWrite
  · exact h.hartWrite
  · exact h.hartWrite
  · exact h.hartWrite
  · exact h.hartWrite
  · exact h.hartNext
  · exact h.hartNext
  · exact h.hartNext
  · exact h.hartTrap
  · exact h.hartTrap
  · split
    · exact h.hartTrap
    split
    · exact h.hartTrap
    · exact h.hartWrite
  · exact h.rvLr
  · exact h.rvSc
  · exact h.rvAmoRun

theorem State.KeepsInv.execBaseRiscv {i : Rv} (h : s₀.KeepsInv s) : execBaseRiscv i s = .next t → s₀.KeepsInv t := by
  unfold Machine.execBaseRiscv
  split
  · exact nofun
  split
  · exact h.rvRun.ofNext
  split
  · exact h.rvRun.ofNext
  · exact h.hartTrap.ofNext

theorem State.KeepsInv.etakeTry {x : Episode} {o : ROp} (h : s₀.KeepsInv s) : s₀.KeepsInv (s.etakeTry x o) := by
  unfold State.etakeTry
  split
  · exact h.setEp.passCore
  dsimp only
  split
  · exact h.hartTrap
  · exact ((h.hartStore ‹_›).etesianCycle).setEState

theorem State.KeepsInv.execEtake {o : ROp} (h : s₀.KeepsInv s) : execEtake o s = .next t → s₀.KeepsInv t := by
  unfold Machine.execEtake
  split
  · exact nofun
  dsimp only
  split
  · exact h.hartTrap.ofNext
  · exact h.etakeTry.ofNext

theorem State.KeepsInv.epostTry {x : Episode} {o : ROp} (h : s₀.KeepsInv s) : s₀.KeepsInv (s.epostTry x o) := by
  unfold State.epostTry
  split
  · exact h.setEp.passCore
  dsimp only
  split
  · exact h.hartTrap
  split
  · exact h.hartNext
  split
  · exact h.hartNext.setEState.boundary
  · exact h.hartNext

theorem State.KeepsInv.execEpost {o : ROp} (h : s₀.KeepsInv s) : execEpost o s = .next t → s₀.KeepsInv t := by
  unfold Machine.execEpost
  split
  · exact nofun
  dsimp only
  split
  · exact h.hartTrap.ofNext
  split
  · exact h.hartTrap.ofNext
  · exact h.epostTry.ofNext

theorem State.KeepsInv.execEwdkick {o : ROp} (h : s₀.KeepsInv s) : execEwdkick o s = .next t → s₀.KeepsInv t := by
  unfold Machine.execEwdkick
  split
  · exact nofun
  split
  · exact h.etesianCycle.setEp.ofNext
  · exact h.hartWrite.ofNext

theorem State.KeepsInv.execEyield {x : ROp} (h : s₀.KeepsInv s) : execEyield x s = .next t → s₀.KeepsInv t := by
  unfold Machine.execEyield
  split
  · exact nofun
  · exact h.hartNext.passCore.ofNext

theorem State.KeepsInv.execEexit {o : ROp} (h : s₀.KeepsInv s) : execEexit o s = .next t → s₀.KeepsInv t := by
  unfold Machine.execEexit
  split
  · exact nofun
  · exact h.etesianCycle.endEpisode.ofNext

theorem State.KeepsInv.execEtakeWake (h : s₀.KeepsInv s) : execEtakeWake s = .next t → s₀.KeepsInv t := by
  unfold Machine.execEtakeWake
  split
  · exact nofun
  split
  · refine State.KeepsInv.ofNext ?_
    split
    · exact h.passCore
    · exact h.etakeTry
  · exact nofun

theorem State.KeepsInv.timeout {x : Episode} (h : s₀.KeepsInv s) : s₀.KeepsInv (s.timeout x) := h.killEpisode

theorem State.KeepsInv.execEpostWake (h : s₀.KeepsInv s) : execEpostWake s = .next t → s₀.KeepsInv t := by
  unfold Machine.execEpostWake
  split
  · exact nofun
  split
  · refine State.KeepsInv.ofNext ?_
    split
    · exact h.passCore
    split
    · exact h.timeout
    · exact h.epostTry
  · exact nofun

theorem State.KeepsInv.execBudgetExceeded {core : Nat} (h : s₀.KeepsInv s) : execBudgetExceeded core s = .next t → s₀.KeepsInv t := by
  unfold Machine.execBudgetExceeded
  split
  · exact nofun
  split
  · exact nofun
  split
  · exact h.timeout.ofNext
  · exact nofun

theorem State.KeepsInv.execEpisodeException {cause : Nat} (h : s₀.KeepsInv s) : execEpisodeException cause s = .next t → s₀.KeepsInv t := by
  unfold Machine.execEpisodeException
  split
  · exact nofun
  · exact h.hartTrap.ofNext

end Sys2Proof.Machine
end

section
/-! What is kept by the operations of Sys2Proof/Machine/Pages.lean, in their order there. -/

namespace Sys2Proof.Machine

set_option Elab.async false

variable {s₀ s t : State}

theorem State.KeepsInv.afterHandles {f : State → Out} (h : s₀.KeepsInv s) (hf : ∀ u t, s₀.KeepsInv u → f u = .next t → s₀.KeepsInv t) :
    s.afterHandles f = .next t → s₀.KeepsInv t := by
  unfold State.afterHandles
  split
  · exact (h.syncOn ‹_›).ofNext
  · exact hf _ _ h

theorem State.KeepsInv.handleOp {i : Instr} {srcs dst : List (BitVec 6)} {f : State → Out} (h : s₀.KeepsInv s)
    (hf : ∀ u t, s₀.KeepsInv u → f u = .next t → s₀.KeepsInv t) :
    s.handleOp i srcs dst f = .next t → s₀.KeepsInv t := by
  unfold State.handleOp
  split
  · exact h.ofNext
  split
  · exact h.serial fun _ _ h => hf _ _ h
  · exact h.afterHandles fun _ _ h => h.serial fun _ _ h => hf _ _ h

theorem State.KeepsInv.handleFault {h' : Word} {reason : Nat} (h : s₀.KeepsInv s) : s₀.KeepsInv (s.handleFault h' reason) := h.raise

theorem State.KeepsInv.onHandle {h' : Word} {f : Nat → HEnt → State} (h : s₀.KeepsInv s) (hf : ∀ y0 y1, s₀.KeepsInv (f y0 y1)) :
    s₀.KeepsInv (s.onHandle h' f) := by
  unfold State.onHandle
  dsimp only
  split
  · exact h.handleFault
  · exact hf _ _

theorem State.KeepsInv.allocPages {c : Ctx} {i n : Nat} {e : HEnt} {x : Nat} (h : s₀.KeepsInv s) : s.allocPages c i n e = (x, t) → s₀.KeepsInv t := by
  unfold State.allocPages
  split
  · exact h.ofSnd
  split
  · exact h.ofSnd
  · exact ((h.takePages ‹_›).setHent).ofSnd

theorem State.KeepsInv.execPgalloc {o : SOp} (h : s₀.KeepsInv s) : execPgalloc o s = .next t → s₀.KeepsInv t := by
  unfold Machine.execPgalloc
  refine h.handleOp fun _ _ h => ?_
  refine State.KeepsInv.ofNext ?_
  refine h.onHandle fun _ _ => ?_
  dsimp only
  split
  · exact h.handleFault
  · exact (h.allocPages rfl).writeG

theorem State.KeepsInv.execPgfree {o : SOp} (h : s₀.KeepsInv s) : execPgfree o s = .next t → s₀.KeepsInv t := by
  unfold Machine.execPgfree
  refine h.handleOp fun _ _ h => ?_
  refine State.KeepsInv.ofNext ?_
  refine h.onHandle fun _ _ => ?_
  refine State.KeepsInv.writeG ?_
  split
  · exact h.freeEntry
  · exact h.setHent

theorem State.KeepsInv.makeHandle {n : Nat} {x : Word} (h : s₀.KeepsInv s) : s.makeHandle n = (x, t) → s₀.KeepsInv t := by
  unfold State.makeHandle
  dsimp only
  split
  · exact h.ofSnd
  · exact h.setHent.ofSnd

theorem State.KeepsInv.sharePages {c : Ctx} {from_ to_ : HEnt} {n : Nat} (h : s₀.KeepsInv s) : s₀.KeepsInv (s.sharePages c from_ to_ n) :=
  h.foldl fun _ _ h => h.gainRef.setListPage

theorem State.KeepsInv.forkHandle {n : Nat} {a : HEnt} {len : Nat} {x : Word} (h : s₀.KeepsInv s) :
    s.forkHandle n a len = (x, t) → s₀.KeepsInv t := by
  unfold State.forkHandle
  dsimp only
  split
  · exact h.ofSnd
  split
  · exact h.sharePages.setHent.ofSnd
  split
  · exact h.ofSnd
  · exact (((((h.takePage ‹_›).sharePages).copyRows).setListPage).setHent).ofSnd

theorem State.KeepsInv.execHmake {fork : Bool} {o : SOp} (h : s₀.KeepsInv s) : execHmake fork o s = .next t → s₀.KeepsInv t := by
  unfold Machine.execHmake
  refine h.handleOp fun _ _ h => ?_
  split
  · refine State.KeepsInv.ofNext ?_
    refine h.onHandle fun _ _ => ?_
    split
    · exact h.handleFault
    split
    · exact h.waitRemote
    split
    · exact (h.forkHandle ‹_›).writeG
  split
  · exact ((h.makeHandle ‹_›).writeG).ofNext

theorem State.KeepsInv.execHchk {w : HchkWhat} {o : SOp} (h : s₀.KeepsInv s) : execHchk w o s = .next t → s₀.KeepsInv t := by
  unfold Machine.execHchk
  split
  · exact h.ofNext
  dsimp only
  split
  · refine h.scalar fun _ _ h => ?_
    split
    · exact h.xhold.ofNext
    · exact h.writeG.ofNext
  refine h.afterHandles fun _ _ h => ?_
  refine h.scalar fun _ _ h => ?_
  split
  · exact h.xhold.ofNext
  · exact h.writeG.ofNext

theorem State.KeepsInv.execHtrunc {o : SOp} (h : s₀.KeepsInv s) : execHtrunc o s = .next t → s₀.KeepsInv t := by
  unfold Machine.execHtrunc
  refine h.handleOp fun _ _ h => ?_
  refine State.KeepsInv.ofNext ?_
  refine h.onHandle fun _ _ => ?_
  dsimp only
  split
  · exact h.handleFault
  · exact h.cutEntry.commit

end Sys2Proof.Machine
end

section
/-! What is kept by the operations of Sys2Proof/Machine/Queue.lean, in their order there. -/

namespace Sys2Proof.Machine

set_option Elab.async false

variable {s₀ s t : State}

theorem State.KeepsInv.takeCommand {n q : Nat} {seq : BitVec 32} (h : s₀.KeepsInv s) : s₀.KeepsInv (s.takeCommand n q seq) := h.setQueue

theorem State.KeepsInv.drainIrq {n op : Nat} {ctl : Word} (h : s₀.KeepsInv s) : s₀.KeepsInv (s.drainIrq n op ctl) := by
  unfold State.drainIrq
  split
  · exact h.ctlIrq
  · exact h

theorem State.KeepsInv.queueOp {n q op : Nat} {f : State → BitVec 32 → State} (h : s₀.KeepsInv s)
    (hf : ∀ u y1, s₀.KeepsInv u → s₀.KeepsInv (f u y1)) :
    s.queueOp n q op f = .next t → s₀.KeepsInv t := by
  unfold State.queueOp
  split
  · exact h.qerr.ofNext
  · exact nofun
  split
  · exact nofun
  split
  · exact h.qerr.ofNext
  refine State.KeepsInv.ofNext ?_
  split
  · exact h.takeCommand.qDone
  split
  · exact h.takeCommand.qDone.drainIrq
  split
  · exact h.takeCommand.qDone
  · exact hf _ _ h.takeCommand.setQueue

theorem State.KeepsInv.createQueue {n q : Nat} {seq : BitVec 32} {ctl : Word} (h : s₀.KeepsInv s) : s₀.KeepsInv (s.createQueue n q seq ctl) := by
  unfold State.createQueue
  split
  · exact h.qDone
  split
  · split
    · exact h.qDone
    · exact h.setQueue.setQState.qDone
  · exact h.qerr
  · exact h.qerr

theorem State.KeepsInv.execQueueCreate {n q : Nat} (h : s₀.KeepsInv s) : execQueueCreate n q s = .next t → s₀.KeepsInv t := by
  unfold Machine.execQueueCreate
  split
  · exact h.qerr.ofNext
  · exact nofun
  split
  · exact nofun
  split
  · exact h.qerr.ofNext
  dsimp only
  split
  · exact h.takeCommand.qDone.ofNext
  refine State.KeepsInv.ofNext ?_
  split
  · exact h.takeCommand.qDone
  · exact h.takeCommand.createQueue

theorem State.KeepsInv.repeatNode {n q : Nat} {x : Node} (h : s₀.KeepsInv s) : s₀.KeepsInv (s.repeatNode n q x) := by
  unfold State.repeatNode
  split
  · exact h
  dsimp only
  split
  · exact h.setNState.decSuccs
  · exact h.setNState

theorem State.KeepsInv.resumeQueue {n q : Nat} {seq : BitVec 32} (h : s₀.KeepsInv s) : s₀.KeepsInv (s.resumeQueue n q seq) := by
  unfold State.resumeQueue
  refine State.KeepsInv.repay ?_
  refine State.KeepsInv.foldl ?_ fun _ _ h => h.repeatNode
  refine State.KeepsInv.qDone ?_
  refine State.KeepsInv.setQState ?_
  refine State.KeepsInv.frzAll ?_
  refine State.KeepsInv.setQueue ?_
  refine State.KeepsInv.foldl ?_ fun _ _ h => h.freeRecord
  split
  · exact h.qput
  · exact h.qerr

theorem State.KeepsInv.execQueueResume {n q : Nat} (h : s₀.KeepsInv s) : execQueueResume n q s = .next t → s₀.KeepsInv t := by
  unfold Machine.execQueueResume
  refine h.queueOp fun _ _ h => ?_
  split
  · exact h.qDone
  · exact h.qDone
  · exact h.qDone
  · exact h.qDone
  · exact h.resumeQueue

theorem State.KeepsInv.endQueue {n q : Nat} {seq : BitVec 32} (h : s₀.KeepsInv s) : s₀.KeepsInv (s.endQueue n q seq) := by
  unfold State.endQueue
  extract_lets +onlyGivenNames s₁ x
  have h₁ : s₀.KeepsInv s₁ := h.foldl fun _ _ h => h.paid
  clear_value s₁
  exact h₁.setQueue.setQState.qDone

theorem State.KeepsInv.execQueueDrain {n q : Nat} (h : s₀.KeepsInv s) : execQueueDrain n q s = .next t → s₀.KeepsInv t := by
  unfold Machine.execQueueDrain
  refine h.queueOp fun _ _ h => ?_
  split
  · exact h.qDone.qIrq
  · exact h.qDone.qIrq
  · exact h.qDone.qIrq
  · exact h.endQueue.qIrq
  · extract_lets +onlyGivenNames last
    split
    · exact h.endQueue.qIrq
    · exact h.setQueue.setQState

theorem State.KeepsInv.copyWork {n : Nat} {x : Node} {x1 : Option (Nat × Nat × Nat × Nat)} (h : s₀.KeepsInv s) :
    s.copyWork n x = (t, x1) → s₀.KeepsInv t :=
  h.runChunks

theorem State.KeepsInv.destroyQueue {n q : Nat} {seq : BitVec 32} (h : s₀.KeepsInv s) : s₀.KeepsInv (s.destroyQueue n q seq) := by
  unfold State.destroyQueue
  refine State.KeepsInv.setQueue ?_
  refine State.KeepsInv.foldl ?_ fun _ _ h => h.paid
  refine State.KeepsInv.setQueue ?_
  refine (((h.setQueue.foldl fun _ _ h => h.abortGroup).foldl fun _ _ h => h.copyWork rfl).foldl fun _ _ h => h.freeRecord).foldl fun _ _ h => ?_
  dsimp only
  split
  · exact (h.tokens rfl).cancelAll
  · exact (h.tokens rfl).cancelAll

theorem State.KeepsInv.execQueueDestroy {n q : Nat} (h : s₀.KeepsInv s) : execQueueDestroy n q s = .next t → s₀.KeepsInv t := by
  unfold Machine.execQueueDestroy
  extract_lets +onlyGivenNames x
  split
  · split
    · exact h.endQueue.ofNext
    · exact nofun
  · refine h.queueOp fun _ _ h => ?_
    split
    · exact h.qDone
    · exact h.endQueue
    · exact h.destroyQueue
    · exact h.destroyQueue
    · exact h.destroyQueue

theorem State.KeepsInv.execQerrClear {n q : Nat} (h : s₀.KeepsInv s) : execQerrClear n q s = .next t → s₀.KeepsInv t := by
  unfold Machine.execQerrClear
  split
  · exact nofun
  split
  · exact h.qerr.ofNext
  refine State.KeepsInv.ofNext ?_
  split
  · exact h.setQueue.setQState
  · exact h.setQueue.setQState.repay

theorem State.KeepsInv.execNodeAppend {n q : Nat} {node : Word} (h : s₀.KeepsInv s) : execNodeAppend n q node s = .next t → s₀.KeepsInv t := by
  unfold Machine.execNodeAppend
  split
  · exact nofun
  split
  · exact (h.appendNode ‹_›).ofNext
  · exact nofun

theorem State.KeepsInv.pushNode {n q : Nat} {x : Node} (h : s₀.KeepsInv s) : s₀.KeepsInv (s.pushNode n q x) := by
  unfold State.pushNode
  refine State.KeepsInv.setQueue ?_
  split
  · exact h.setQState
  · exact h

theorem State.KeepsInv.takeIn {n q : Nat} {addr : Word} (h : s₀.KeepsInv s) : s₀.KeepsInv (s.takeIn n q addr) := by
  unfold State.takeIn
  split
  · exact h.setQueue.nodeErr
  dsimp only
  split
  · exact h.setCtx.pushNode
  split
  · exact h.pushNode.nodeFault
  split
  · exact h.pushNode.setNState
  · exact h.pushNode

theorem State.KeepsInv.execNodeTakeIn {n q : Nat} (h : s₀.KeepsInv s) : execNodeTakeIn n q s = .next t → s₀.KeepsInv t := by
  unfold Machine.execNodeTakeIn
  dsimp only
  split
  · exact nofun
  split
  · split
    · exact h.qerr.ofNext
    split
    · exact nofun
    · exact h.takeIn.ofNext
  split
  · exact h.qerr.ofNext
  split
  · exact nofun
  split
  · exact h.setQueue.nodeErr.ofNext
  split
  · exact nofun
  · exact h.takeIn.ofNext

theorem State.KeepsInv.popNode {n q : Nat} {addr next : Word} (h : s₀.KeepsInv s) : s₀.KeepsInv (s.popNode n q addr next) := by
  unfold State.popNode
  extract_lets +onlyGivenNames x y s₁
  have h₁ : s₀.KeepsInv s₁ := h.setQueue
  clear_value s₁ y
  split
  · split
    · exact h₁.endQueue.qIrq
    · exact h₁.setQState
  split
  · exact h₁.setQState
  · exact h₁

theorem State.KeepsInv.qMove {n q off : Nat} {v : Word} (h : s₀.KeepsInv s) :
    s.qMove n q off v = .ok t ∨ s.qMove n q off v = .error t → s₀.KeepsInv t := by
  unfold State.qMove
  split
  · next hw =>
    exact fun e => e.elim (h.devWrite8 hw).ofOk nofun
  · exact fun e => e.elim nofun h.qerr.ofError

theorem State.KeepsInv.execNodeRetire {n q : Nat} (h : s₀.KeepsInv s) : execNodeRetire n q s = .next t → s₀.KeepsInv t := by
  unfold Machine.execNodeRetire
  extract_lets +onlyGivenNames x
  split
  · exact nofun
  split
  · exact nofun
  split
  · exact h.setQueue.nodeErr.ofNext
  split
  · exact (h.qMove (.inr ‹_›)).ofNext
  next u e =>
  have hu : s₀.KeepsInv u := h.qMove (.inl e)
  split
  · exact hu.popNode.ofNext
  split
  · exact hu.qerr.ofNext
  split
  · exact hu.ofNext
  split
  · exact (hu.qMove (.inr ‹_›)).ofNext
  · exact (hu.qMove (.inl ‹_›)).popNode.ofNext

theorem State.KeepsInv.execNodeLimitExpiry {n q : Nat} {node : Word} (h : s₀.KeepsInv s) :
    execNodeLimitExpiry n q node s = .next t → s₀.KeepsInv t := by
  unfold Machine.execNodeLimitExpiry
  split
  · exact nofun
  split
  · exact nofun
  · exact h.nodeFault.ofNext

theorem State.KeepsInv.runTemplate {n q : Nat} {node tmpl : Word} (h : s₀.KeepsInv s) : s₀.KeepsInv (s.runTemplate n q node tmpl) := by
  unfold State.runTemplate
  split
  · exact h.nodeFault
  dsimp only
  split
  · exact h.nodeFault
  · exact h.mapNode

theorem State.KeepsInv.controlWord {n q : Nat} {x : Node} {f : Nat → State} (h : s₀.KeepsInv s) (hf : ∀ y0, s₀.KeepsInv (f y0)) :
    s₀.KeepsInv (s.controlWord n q x f) := by
  unfold State.controlWord
  split
  · exact h.nodeFault
  · exact hf _

theorem State.KeepsInv.startWork {n q : Nat} {x : Node} (h : s₀.KeepsInv s) : s₀.KeepsInv (s.startWork n q x) := by
  unfold State.startWork
  split
  · exact h.mapNode
  · refine h.controlWord fun _ => ?_
    split
    · exact h.nodeDone
    · exact h.runTemplate
  · refine h.controlWord fun _ => ?_
    split
    · exact h.nodeDone
    · exact h.runTemplate
  · refine h.controlWord fun _ => ?_
    split
    · exact h.nodeDone
    split
    · exact h.nodeFault
    · exact h.runTemplate
  · exact h.nodeDone

theorem State.KeepsInv.execDispatcherNodeStart {n q : Nat} {node : Word} (h : s₀.KeepsInv s) :
    execDispatcherNodeStart n q node s = .next t → s₀.KeepsInv t := by
  unfold Machine.execDispatcherNodeStart
  split
  · exact nofun
  split
  · exact nofun
  split
  · exact ((h.writeNState ‹_›).startWork).ofNext
  · exact h.nodeErr.ofNext

theorem State.KeepsInv.execCopyNodeComplete {n q : Nat} {node : Word} (h : s₀.KeepsInv s) :
    execCopyNodeComplete n q node s = .next t → s₀.KeepsInv t := by
  unfold Machine.execCopyNodeComplete
  split
  · exact nofun
  split
  · exact nofun
  split
  · refine State.KeepsInv.ofNext ?_
    split
    · exact h.mapNode
    · exact h.mapNode.nodeFault
  split
  · dsimp only
    split
    · exact h.mapNode.ofNext
    split
    · exact h.ofNext
    split
    · exact ((h.copyWork ‹_›).mapNode).ofNext
    refine State.KeepsInv.ofNext ?_
    split
    · exact (h.copyWork ‹_›).mapNode
    split
    · exact ((h.copyWork ‹_›).mapNode).nodeFault
    split
    · exact (h.copyWork ‹_›).mapNode
    · exact ((h.copyWork ‹_›).mapNode).nodeDone

theorem State.KeepsInv.execLoopIterationEnd {n q : Nat} {node : Word} (h : s₀.KeepsInv s) :
    execLoopIterationEnd n q node s = .next t → s₀.KeepsInv t := by
  unfold Machine.execLoopIterationEnd
  split
  · exact nofun
  split
  · exact nofun
  refine State.KeepsInv.ofNext ?_
  refine h.controlWord fun _ => ?_
  split
  · exact h.nodeDone
  · exact h.runTemplate

end Sys2Proof.Machine
end

section
/-! What is kept by the operations of Sys2Proof/Machine/Place.lean, in their order there. -/

namespace Sys2Proof.Machine

set_option Elab.async false

variable {s₀ s t : State}

theorem State.KeepsInv.takeHeader {r : Ready} (h : s₀.KeepsInv s) : s₀.KeepsInv (s.takeHeader r) := by
  unfold State.takeHeader
  split
  · exact h.mapNode
  · exact h.nodeFault

theorem State.KeepsInv.emptySlot {core : Nat} {x : Slot} (h : s₀.KeepsInv s) : s₀.KeepsInv (s.emptySlot core x) := by
  unfold State.emptySlot
  split
  · exact h.dropSlot
  split
  · exact (h.getD fun _ => h.backEntry).dropSlot
  split
  · exact h.loseTag
  split
  · exact h.dropSlot
  split
  · exact (((h.flushRegion.writeRegion ‹_›).getD fun _ => (h.flushRegion.writeRegion ‹_›).backEntry).dropSlot).moveEvent
  · exact (h.flushRegion.writeRegion ‹_›).dropSlot

theorem State.KeepsInv.takeSplit {core split : Nat} (h : s₀.KeepsInv s) : s₀.KeepsInv (s.takeSplit core split) := by
  unfold State.takeSplit
  split
  · exact h
  · exact (h.foldl fun _ _ h => h.emptySlot).setCore

theorem State.KeepsInv.addThread {u : Thread} (h : s₀.KeepsInv s) (hu : u.spad.wf = true) : s₀.KeepsInv (s.addThread u) :=
  h.ofThreads fun t ht => by
    rcases List.mem_cons.1 ht with rfl | ht
    · exact .inl List.mem_cons_self
    · rcases List.mem_append.1 ht with ht | ht
      · exact .inl (List.mem_cons_of_mem _ ht)
      · exact .inr (List.mem_singleton.1 ht ▸ hu)

theorem State.launched_spad_wf (s : State) (id : ThreadId) (hdr : Header) (x : Node) : (s.launched id hdr x).spad.wf = true := by
  unfold State.launched
  rw [Thread.sync_spad]
  rfl

/-- A resumed thread's scratchpad is read from its record (R262). -/
theorem State.resumed_spad_wf (s : State) (id : ThreadId) (hdr : Header) : (s.resumed id hdr).spad.wf = true := by
  unfold State.resumed
  dsimp only
  exact Mem.wf_write _ _ _ (by rfl)

theorem State.unsaved_spad_wf (s : State) (id : ThreadId) (hdr : Header) : (s.unsaved id hdr).spad.wf = true := by
  have hr := s.resumed_spad_wf id hdr
  unfold State.unsaved
  generalize s.resumed id hdr = t at hr ⊢
  rw [Thread.sync_spad]
  exact hr

theorem State.KeepsInv.placeOn {r : Ready} {hdr : Header} {quad : Nat} (h : s₀.KeepsInv s) : s₀.KeepsInv (s.placeOn r hdr quad) := by
  unfold State.placeOn
  split
  · extract_lets +onlyGivenNames slots s₁ s₂
    have h₁ : s₀.KeepsInv s₁ := h.foldl fun _ _ h => h.takeSplit
    exact State.KeepsInv.setGroup (h₁.foldl fun _ _ h => h.addThread (State.unsaved_spad_wf _ _ _))
  · extract_lets +onlyGivenNames recs gid gidx slots s₁ c s₂ s₃ s₄
    have h₂ : s₀.KeepsInv s₂ := State.KeepsInv.setCtx h.quiet (hs := rfl) (ht := rfl)
    have h₃ : s₀.KeepsInv s₃ := h₂.foldl fun _ _ h => h.takeSplit
    have h₄ : s₀.KeepsInv s₄ := h₃.foldl fun _ _ h => h.addThread (State.launched_spad_wf _ _ _ _)
    exact State.KeepsInv.mapNode h₄.quiet

theorem State.KeepsInv.setDeficit {n d : Nat} (h : s₀.KeepsInv s) : s₀.KeepsInv (s.setDeficit n d) := h.setCtx

theorem State.KeepsInv.servePlace {r : Ready} {h' : Header} {quad : Nat} (h : s₀.KeepsInv s) : s₀.KeepsInv (s.servePlace r h' quad) := by
  unfold State.servePlace
  split
  · exact h.nodeErr
  refine State.KeepsInv.setDeficit ?_
  refine State.KeepsInv.quiet ?_
  refine State.KeepsInv.placeOn ?_
  rename_i e
  revert e
  split
  · exact h.writeNState
  · exact h.ofOk

theorem State.KeepsInv.serve {cls : Nat} {l : List Nat} (h : s₀.KeepsInv s) : State.serve cls l s = some t → s₀.KeepsInv t := by
  induction l generalizing s with
  | nil => exact nofun
  | cons n l ih =>
    unfold State.serve
    split
    · refine ih ?_
      split
      · exact h.setDeficit
      · exact h
    extract_lets +onlyGivenNames u
    have hu : s₀.KeepsInv u := h.setDeficit
    clear_value u
    split
    · exact (State.KeepsInv.quiet hu.takeHeader).ofSome
    split
    · split
      · exact hu.servePlace.ofSome
      · exact ih hu
    · exact ih hu

theorem State.KeepsInv.placeNext {cls : Nat} (h : s₀.KeepsInv s) : s.placeNext cls = some t → s₀.KeepsInv t := by
  unfold State.placeNext
  dsimp only
  split
  · exact h.serve
  split
  · exact h.takeHeader.ofSome
  · split
    · exact h.servePlace.ofSome
    · exact h.serve
  · exact h.serve

theorem State.KeepsInv.preempt (h : s₀.KeepsInv s) : s.preempt = some t → s₀.KeepsInv t := by
  unfold State.preempt
  split
  · exact nofun
  intro e
  obtain ⟨n, -, e⟩ := List.exists_of_findSome?_eq_some e
  split at e
  · cases e
  split at e
  · cases e
  split at e
  · cases e
    exact h.foldl fun _ _ h => h.stopGroup
  · cases e

theorem State.KeepsInv.placeFrom {l : List Nat} (h : s₀.KeepsInv s) : s.placeFrom l = some t → s₀.KeepsInv t := by
  induction l with
  | nil => exact nofun
  | cons c l ih =>
    unfold State.placeFrom
    split
    · exact (h.placeNext ‹_›).ofSome
    split
    · exact h.preempt
    · exact ih

theorem State.KeepsInv.execGroupPlace (h : s₀.KeepsInv s) : execGroupPlace s = .next t → s₀.KeepsInv t := by
  unfold Machine.execGroupPlace
  split
  · exact (h.placeFrom ‹_›).ofNext
  · exact nofun

theorem State.KeepsInv.execMinQuantumExpiry {grp : Nat} (h : s₀.KeepsInv s) : execMinQuantumExpiry grp s = .next t → s₀.KeepsInv t := by
  unfold Machine.execMinQuantumExpiry
  split
  · exact nofun
  split
  · exact nofun
  · exact (h.setGroup.getD fun _ => h.setGroup.preempt).ofNext

theorem State.KeepsInv.stopAndSave (h : s₀.KeepsInv s) : s₀.KeepsInv s.stopAndSave := h.emit.count.settle.saveThread

theorem State.KeepsInv.execMapInit {core slot : Nat} (h : s₀.KeepsInv s) : execMapInit core slot s = .next t → s₀.KeepsInv t := by
  unfold Machine.execMapInit
  dsimp only
  split
  · split
    · exact nofun
    · exact (h.focus fun _ h => h.initMap).ofNext
  · exact nofun

theorem State.KeepsInv.execThreadSaveComplete {core slot : Nat} (h : s₀.KeepsInv s) :
    execThreadSaveComplete core slot s = .next t → s₀.KeepsInv t := by
  unfold Machine.execThreadSaveComplete
  dsimp only
  split
  · exact nofun
  split
  · exact nofun
  split
  · exact (h.focus fun _ h => h.settle.vacate.leaveGroup).ofNext
  split
  · exact nofun
  split
  · exact nofun
  · exact (((h.focus fun _ h => h.stopAndSave).setGroup).suspendIfSaved).ofNext

theorem State.KeepsInv.execTraceFlushTimeout {core slot : Nat} (h : s₀.KeepsInv s) : execTraceFlushTimeout core slot s = .next t → s₀.KeepsInv t := by
  unfold Machine.execTraceFlushTimeout
  dsimp only
  split
  · exact nofun
  split
  · exact nofun
  · exact (h.focus fun _ h => h.traceFlush).ofNext

end Sys2Proof.Machine
end

section
/-! What is kept by the operations of Sys2Proof/Machine/PoolCmd.lean, in their order there. -/

namespace Sys2Proof.Machine

set_option Elab.async false

variable {s₀ s t : State}

theorem State.KeepsInv.poolDone {n : Nat} {seq : BitVec 32} {status : Nat} (h : s₀.KeepsInv s) : s₀.KeepsInv (s.poolDone n seq status) := by
  unfold State.poolDone
  dsimp only
  split
  · exact h.storePA8.interrupt
  · exact h.storePA8

theorem State.KeepsInv.promote {n : Nat} {seq : BitVec 32} (h : s₀.KeepsInv s) : s₀.KeepsInv (s.promote n seq) := by
  unfold State.promote
  dsimp only
  split
  · exact h.poolDone
  split
  · exact h.poolDone
  split
  · exact h.poolDone
  · exact h.setFrame.storePA.setPrec.quiet

theorem State.KeepsInv.execPoolPromote {n : Nat} (h : s₀.KeepsInv s) : execPoolPromote n s = .next t → s₀.KeepsInv t := by
  unfold Machine.execPoolPromote
  split
  · exact nofun
  split
  · exact h.poolDone.ofNext
  split
  · exact nofun
  refine State.KeepsInv.ofNext ?_
  split
  · exact h.poolDone
  · exact h.promote

theorem State.KeepsInv.execPromoteCopyEnd {ix : Nat} (h : s₀.KeepsInv s) : execPromoteCopyEnd ix s = .next t → s₀.KeepsInv t := by
  unfold Machine.execPromoteCopyEnd
  split
  · exact nofun
  extract_lets +onlyGivenNames c
  split
  · exact h.quiet.ofNext
  split
  · exact nofun
  extract_lets +onlyGivenNames s₁ r
  have h₁ : s₀.KeepsInv s₁ := h.quiet
  clear_value s₁
  refine State.KeepsInv.ofNext ?_
  split
  · exact (State.KeepsInv.quiet h₁.storePA.setPrec).poolDone
  · exact h₁.setFrame.poolDone

theorem State.KeepsInv.holdHandle {n : Nat} {seq : BitVec 32} (h : s₀.KeepsInv s) : s₀.KeepsInv (s.holdHandle n seq) := by
  unfold State.holdHandle
  dsimp only
  split
  · exact h.poolDone
  · exact h.setHent.poolDone

theorem State.KeepsInv.execPoolHold {n : Nat} (h : s₀.KeepsInv s) : execPoolHold n s = .next t → s₀.KeepsInv t := by
  unfold Machine.execPoolHold
  split
  · exact nofun
  split
  · exact nofun
  refine State.KeepsInv.ofNext ?_
  split
  · exact h.poolDone
  · exact h.holdHandle

end Sys2Proof.Machine
end

section
/-! What is kept by the operations of Sys2Proof/Machine/Scalar.lean, in their order there. -/

namespace Sys2Proof.Machine

set_option Elab.async false

variable {s₀ s t : State}

theorem State.KeepsInv.op3 {i : Instr} {o : SOp} {f : Word → Word → Word} (h : s₀.KeepsInv s) : s.op3 i o f = .next t → s₀.KeepsInv t :=
  h.scalar fun _ _ h => h.writeG.ofNext

theorem State.KeepsInv.op2 {i : Instr} {o : SOp} {f : Word → Word} (h : s₀.KeepsInv s) : s.op2 i o f = .next t → s₀.KeepsInv t :=
  h.scalar fun _ _ h => h.writeG.ofNext

theorem State.KeepsInv.opI {i : Instr} {o : IOp} {f : Word → Word} (h : s₀.KeepsInv s) : s.opI i o f = .next t → s₀.KeepsInv t :=
  h.scalar fun _ _ h => h.writeG.ofNext

end Sys2Proof.Machine
end

section
/-! What is kept by the operations of Sys2Proof/Machine/ScalarFloat.lean, in their order there. -/

namespace Sys2Proof.Machine

set_option Elab.async false

variable {s₀ s t : State}

theorem State.KeepsInv.fop3 {i : Instr} {f : FFmt} {o : SOp} {op : RMode → FVal → FVal → ExVal} (h : s₀.KeepsInv s) :
    s.fop3 i f o op = .next t → s₀.KeepsInv t :=
  h.scalar fun _ _ h => h.writeF.ofNext

theorem State.KeepsInv.fminmax {i : Instr} {f : FFmt} {o : SOp} {mx : Bool} (h : s₀.KeepsInv s) : s.fminmax i f o mx = .next t → s₀.KeepsInv t :=
  h.scalar fun _ _ h => h.writeG.ofNext

end Sys2Proof.Machine
end

section
/-! What is kept by the operations of Sys2Proof/Machine/Tile.lean, in their order there. -/

namespace Sys2Proof.Machine

set_option Elab.async false

variable {s₀ s t : State}

theorem State.KeepsInv.loadPieces {l : List Piece} {bs : List Byte} (h : s₀.KeepsInv s) : s.loadPieces l = (bs, t) → s₀.KeepsInv t := by
  induction l generalizing s t bs with
  | nil => exact h.ofSnd
  | cons p l ih =>
    unfold State.loadPieces
    split
    split
    rintro ⟨⟩
    exact ih (h.loadBytes ‹_›) ‹_›

theorem State.KeepsInv.storePieces {l : List Piece} {bs : List Byte} (h : s₀.KeepsInv s) : s₀.KeepsInv (s.storePieces l bs) := by
  induction l generalizing s bs with
  | nil => exact h
  | cons p l ih => exact ih h.storeBytes

theorem State.KeepsInv.loadRuns {l : List (List Piece)} {bs : List (List Byte)} (h : s₀.KeepsInv s) : s.loadRuns l = (bs, t) → s₀.KeepsInv t := by
  induction l generalizing s t bs with
  | nil => exact h.ofSnd
  | cons p l ih =>
    unfold State.loadRuns
    split
    split
    rintro ⟨⟩
    exact ih (h.loadPieces ‹_›) ‹_›

theorem State.KeepsInv.storeRuns {l : List (List Piece × List Byte)} (h : s₀.KeepsInv s) : s₀.KeepsInv (s.storeRuns l) := by
  induction l generalizing s with
  | nil => exact h
  | cons p l ih => exact ih h.storePieces

theorem State.KeepsInv.storeImageRuns {runs : List (List Piece)} {v : List (List Byte)} (h : s₀.KeepsInv s) :
    s₀.KeepsInv (s.storeImageRuns runs v) := by
  unfold State.storeImageRuns
  dsimp only
  split
  · exact h.storeRuns
  · exact h.storeRuns.quiet

theorem State.KeepsInv.earlyEffect {e : TqEnt} {x : Except FaultInfo TileResult} (h : s₀.KeepsInv s) : earlyEffect s e = (t, x) → s₀.KeepsInv t := by
  unfold Machine.earlyEffect
  split
  · exact (h.vecDamage ‹_›).ofFst
  · exact (h.vecDamage ‹_›).ofFst

theorem State.KeepsInv.xholdTile {e : TqEnt} (h : s₀.KeepsInv s) : s₀.KeepsInv (s.xholdTile e) := by
  unfold State.xholdTile
  split
  · exact h
  · exact h.count.emit.setTq

theorem State.KeepsInv.entryWaits {e : TqEnt} {write : Bool} {pas : List Nat} (h : s₀.KeepsInv s) : s₀.KeepsInv (s.entryWaits e write pas).state := by
  unfold State.entryWaits
  split
  · exact h.xholdTile
  · exact h.starve

theorem State.KeepsInv.tldEffect {e : TqEnt} {o : TOp} {pitched : Bool} (h : s₀.KeepsInv s) : s₀.KeepsInv (s.tldEffect e o pitched).state := by
  unfold State.tldEffect
  dsimp only
  split
  · exact h
  · split
    · split
      · exact h
      · split
        · exact h
        · split
          · exact h.entryWaits
          · split
            · exact h
            · exact h.loadRuns rfl
    · split
      · exact h
      · split
        · exact h
        · split
          · exact h.entryWaits
          · split
            · exact h
            · exact h.loadRuns rfl

theorem State.KeepsInv.tstEffect {e : TqEnt} {o : TOp} {pitched : Bool} (h : s₀.KeepsInv s) : s₀.KeepsInv (s.tstEffect e o pitched).state := by
  unfold State.tstEffect
  dsimp only
  split
  · exact h
  · split
    · exact h
    · split
      · exact h.entryWaits
      · split
        · exact h
        · exact h.storeImageRuns

theorem State.KeepsInv.tstpEffect {e : TqEnt} {o : TOp} (h : s₀.KeepsInv s) : s₀.KeepsInv (s.tstpEffect e o).state := by
  unfold State.tstpEffect
  dsimp only
  split
  · exact h
  · split
    · exact h
    · split
      · exact h
      · split
        · exact h
        · split
          · split
            · exact h.entryWaits
            · split
              · exact h
              · split
                · exact h.storeImageRuns
                · split
                  · exact h.storeImageRuns
                  · exact h.storeImageRuns.storeImageRuns
          · split
            · exact h.entryWaits
            · split
              · exact h
              · split
                · exact h.storeImageRuns
                · split
                  · exact h.storeImageRuns
                  · exact h.storeImageRuns.storeImageRuns

theorem State.KeepsInv.tsendEffect {e : TqEnt} {o : TOp} (h : s₀.KeepsInv s) : s₀.KeepsInv (s.tsendEffect e o).state := by
  unfold State.tsendEffect
  dsimp only
  split
  · exact h
  · exact h.quiet

theorem State.KeepsInv.gatherRows {c : Ctx} {e : HEnt} {lr : Nat} {l : List Nat} {bs : List (List Byte)} (h : s₀.KeepsInv s) :
    s.gatherRows c e lr l = (bs, t) → s₀.KeepsInv t := by
  induction l generalizing s t bs with
  | nil => exact h.ofSnd
  | cons r l ih =>
    unfold State.gatherRows
    split
    next s₁ e =>
    have h₁ : s₀.KeepsInv s₁ := by
      revert e
      split
      · exact h.loadBytes
      · exact h.ofSnd
    split
    rintro ⟨⟩
    exact ih h₁ ‹_›

theorem State.KeepsInv.gatherEffect {e : TqEnt} {o : TOp} (h : s₀.KeepsInv s) : s₀.KeepsInv (s.gatherEffect e o).state := by
  unfold State.gatherEffect
  extract_lets +onlyGivenNames ctx c d why
  split
  · exact h
  · split
    · exact h
    · extract_lets +onlyGivenNames k st hi pins rows pas
      split
      · exact h
      · split
        · exact h.entryWaits
        · split
          · exact h
          · extract_lets +onlyGivenNames s₁
            have h₁ : s₀.KeepsInv s₁ := h.foldl fun _ _ h => h.pinPage
            split
            exact h₁.gatherRows ‹_›

theorem State.KeepsInv.markAppend {handle : Word} {len : Nat} (h : s₀.KeepsInv s) : s₀.KeepsInv (s.markAppend handle len) := by
  unfold State.markAppend
  split
  · exact h
  split
  · exact h
  · exact h.setRegion

theorem State.KeepsInv.unshare {c : Ctx} {h' : HEnt} {p n : Nat} (h : s₀.KeepsInv s) : s₀.KeepsInv (s.unshare c h' p n) := h.copyRows.loseRef

theorem State.KeepsInv.appendRow {c : Ctx} {h' : HEnt} {r : Nat} {bs : List Byte} (h : s₀.KeepsInv s) : s₀.KeepsInv (s.appendRow c h' r bs) := by
  unfold State.appendRow
  dsimp only
  split
  · refine State.KeepsInv.conflict ?_
    refine State.KeepsInv.storePA ?_
    split
    · exact h.setPrec
    · exact h
  refine State.KeepsInv.storePA ?_
  split
  · exact h.setPrec
  · exact h

theorem State.KeepsInv.appendRows {e : TqEnt} {c : Ctx} {h' : HEnt} {n : Nat} {v : TileVal} (h : s₀.KeepsInv s) :
    s₀.KeepsInv (s.appendRows e c h' n v) :=
  (h.markAppend.foldl fun _ _ h => h.appendRow).setHent

theorem State.KeepsInv.appendEffect {e : TqEnt} {o : TOp} (h : s₀.KeepsInv s) : s₀.KeepsInv (s.appendEffect e o).state := by
  unfold State.appendEffect
  extract_lets +onlyGivenNames ctx c v d why
  split
  · exact h
  split
  · exact h
  extract_lets +onlyGivenNames n
  split
  · exact h
  split
  · exact h
  extract_lets +onlyGivenNames k
  split
  · exact h
  extract_lets +onlyGivenNames go
  have hgo : ∀ u k' copied made f, s₀.KeepsInv (f u) → s₀.KeepsInv (go u k' copied made f).state := by
    intro u k' copied made f hf
    unfold go
    extract_lets +onlyGivenNames read write
    split
    · exact h.entryWaits
    · extract_lets +onlyGivenNames bad
      split
      · exact h
      · exact hf.appendRows
  clear_value go
  split
  · exact hgo _ _ _ _ _ h
  · split
    · exact h
    · exact hgo _ _ _ _ _ (h.takePage ‹_›).setListPage.unshare

theorem State.KeepsInv.tileEffect {e : TqEnt} (h : s₀.KeepsInv s) : s₀.KeepsInv (s.tileEffect e).state := by
  unfold State.tileEffect
  dsimp only
  split
  · exact h
  · split
    · exact h
    · exact h
  · split
    · exact h
    · exact h.tldEffect
  · split
    · exact h
    · exact h.tstEffect
  · split
    · exact h
    · exact h.tstpEffect
  · exact h
  · exact h
  · exact h
  · exact h
  · split
    · exact h
    · exact h
  · split
    · exact h
    · exact h
  · split
    · exact h
    · exact h
  · split
    · exact h
    · exact h
  · split
    · exact h
    · exact h
  · split
    · exact h
    · split
      · exact h
      · exact h.prefetch
  · split
    · exact h
    · exact h.tsendEffect
  · split
    · exact h
    · exact h.gatherEffect
  · split
    · exact h
    · exact h.appendEffect
  · exact h

theorem State.KeepsInv.enqueueTile {i : Instr} {blocks : Nat} (h : s₀.KeepsInv s) : s₀.KeepsInv (s.enqueueTile i blocks) := h.onThr.commit

theorem State.KeepsInv.postTile {i : Instr} (h : s₀.KeepsInv s) : s.postTile i = .next t → s₀.KeepsInv t := by
  unfold State.postTile
  split
  · exact h.raise.ofNext
  dsimp only
  split
  · exact (h.gWait ‹_›).ofNext
  split
  · exact h.ofNext
  split
  · exact h.raise.ofNext
  split
  · exact h.illegalMode.ofNext
  split
  · exact h.abandonGuess.ofNext
  split
  · exact h.ofNext
  split
  · exact h.illegalVal.ofNext
  split
  · exact h.raiseEmpty.ofNext
  split
  · split
    · exact h.xhold.ofNext
    split
    · exact h.ofNext
    split
    · exact h.enqueueTile.ofNext
    · exact h.enqueueTile.ofNext
  split
  · exact h.xhold.ofNext
  split
  · exact h.ofNext
  split
  · exact h.enqueueTile.ofNext
  · exact h.enqueueTile.ofNext

theorem State.KeepsInv.execTileEntryIssue (h : s₀.KeepsInv s) : execTileEntryIssue s = .next t → s₀.KeepsInv t := by
  unfold Machine.execTileEntryIssue
  split
  · exact nofun
  split
  · exact h.initMap.ofNext
  · exact ((h.foldl fun _ _ h => h.prefetch).issueScan fun _ _ _ _ h => h.earlyEffect).ofNext

theorem State.KeepsInv.execTileEntryComplete {post : Nat} (h : s₀.KeepsInv s) : execTileEntryComplete post s = .next t → s₀.KeepsInv t := by
  unfold Machine.execTileEntryComplete
  split
  · exact nofun
  · next e _ =>
    have k := h.tileEffect (e := e)
    split
    · exact nofun
    · split
      · next heq => rw [heq] at k; exact k.ofNext
      · next heq => rw [heq] at k; exact k.hold.ofNext
      · next heq => rw [heq] at k; exact k.setTq.ofNext

theorem State.KeepsInv.mmaErrors {e : TqEnt} {body : Nat} {x : Option FaultInfo} (h : s₀.KeepsInv s) :
    s.mmaErrors e body = (t, x) → s₀.KeepsInv t := by
  unfold State.mmaErrors
  dsimp only
  split
  · split
    · exact (((h.quiet.mismatches rfl).count).count).ofFst
    split
    · exact (((h.quiet.mismatches rfl).count).count).ofFst
    · exact (((h.quiet.mismatches rfl).count).count).ofFst
  split
  · exact (((h.quiet.mismatches rfl).count).count).ofFst
  split
  · exact (((h.quiet.mismatches rfl).count).count).ofFst
  · exact (((h.quiet.mismatches rfl).count).count).ofFst

theorem State.KeepsInv.drainChain {l : List TqEnt} {acc : TileVal} {dead : Bool} {body : Nat} (h : s₀.KeepsInv s) :
    s₀.KeepsInv (State.drainChain l acc dead body s) := by
  induction l generalizing s acc dead body with
  | nil => exact h
  | cons e l ih =>
    unfold State.drainChain
    split
    · exact ih h.setTq
    · extract_lets
      split
      split
      · exact ih (h.mmaErrors ‹_›).hold
      · split
        exact ih (h.mmaErrors ‹_›).setTq

theorem State.KeepsInv.execMmaDrain {post : Nat} (h : s₀.KeepsInv s) : execMmaDrain post s = .next t → s₀.KeepsInv t := by
  unfold Machine.execMmaDrain
  split
  · exact nofun
  split
  · exact nofun
  dsimp only
  split
  · exact nofun
  · exact h.drainChain.ofNext

theorem State.KeepsInv.recvHold (h : s₀.KeepsInv s) : s₀.KeepsInv s.recvHold := by
  unfold State.recvHold
  split
  · split
    · split
      · exact h.xholdTile
      · exact h
    · exact h
  · exact h

theorem State.KeepsInv.execTileEntryRetire (h : s₀.KeepsInv s) : execTileEntryRetire s = .next t → s₀.KeepsInv t := by
  unfold Machine.execTileEntryRetire
  split
  · exact nofun
  · generalize hr : State.retireMany s.thr.chainSpan s = r
    cases r with
    | none => exact h.recvHold.ofNext
    | some u => exact (h.retireMany hr).repayPool.ofNext

theorem State.KeepsInv.execTileWatchdog (h : s₀.KeepsInv s) : execTileWatchdog s = .next t → s₀.KeepsInv t := by
  unfold Machine.execTileWatchdog
  split
  · exact nofun
  split
  · exact nofun
  · exact h.hold.ofNext

theorem State.KeepsInv.failFill {t' addr : Nat} (h : s₀.KeepsInv s) : s₀.KeepsInv (s.failFill t' addr) := by
  unfold State.failFill
  split
  · exact h.hold
  split
  · exact h.onThr
  · exact h

theorem State.KeepsInv.execFillComplete {slot : Nat} (h : s₀.KeepsInv s) : execFillComplete slot s = .next t → s₀.KeepsInv t := by
  unfold Machine.execFillComplete
  dsimp only
  split
  · exact nofun
  split
  · exact nofun
  split
  · exact h.endLate.ofNext
  split
  · exact ((h.dropMove.putSlot.focus fun _ h => h.setEnt).moveEvent).ofNext
  refine State.KeepsInv.ofNext ?_
  refine State.KeepsInv.moveEvent ?_
  refine h.dropMove.focus fun _ h => ?_
  split
  · exact h.setEnt
  · exact h.setEnt.failFill

theorem State.KeepsInv.execSpillComplete {slot : Nat} (h : s₀.KeepsInv s) : execSpillComplete slot s = .next t → s₀.KeepsInv t := by
  unfold Machine.execSpillComplete
  dsimp only
  split
  · exact nofun
  split
  · exact nofun
  split
  · exact h.endLate.ofNext
  · exact h.endSpill.ofNext

theorem State.KeepsInv.execTileSlotRequest {core slot : Nat} (h : s₀.KeepsInv s) : execTileSlotRequest core slot s = .next t → s₀.KeepsInv t := by
  unfold Machine.execTileSlotRequest
  split
  · exact nofun
  · exact h.serveTile.ofNext

theorem State.KeepsInv.putVec {r : BitVec 6} {bits v : Nat} (h : s₀.KeepsInv s) : s₀.KeepsInv (s.putVec r bits v) := h.applyOut

theorem State.KeepsInv.getReport {e : TqEnt} {m : Nat} {x : FaultInfo} (h : s₀.KeepsInv s) : s.getReport e m = some (x, t) → s₀.KeepsInv t := by
  unfold State.getReport
  split
  · rintro ⟨⟩
    exact h.spillReport ‹_›
  · split
    · rintro ⟨⟩
      exact h.onThr
    · exact nofun
  · exact nofun

theorem State.KeepsInv.getLine {i : Instr} {o : TOp} {col : Bool} (h : s₀.KeepsInv s) : s.getLine i o col = .next t → s₀.KeepsInv t := by
  unfold State.getLine
  refine h.scalar fun _ _ h => ?_
  split
  · exact h.illegalMode.ofNext
  split
  · exact (h.syncOn ‹_›).ofNext
  split
  · exact h.ofNext
  dsimp only
  split
  · refine State.KeepsInv.ofNext ?_
    refine State.KeepsInv.raise ?_
    split
    · exact h.settleEnt
    · exact h.settleEnt.getReport ‹_›
  split
  · refine State.KeepsInv.ofNext ?_
    refine State.KeepsInv.raise ?_
    split
    · exact h.settleEnt.loseTile
    · exact h.settleEnt
  · exact h.settleEnt.raise.ofNext
  · refine State.KeepsInv.ofNext ?_
    split
    · exact h.settleEnt.wantTile.setWait
    · exact h.settleEnt
  split
  · exact h.settleEnt.raise.ofNext
  refine State.KeepsInv.ofNext ?_
  refine State.KeepsInv.commit ?_
  refine State.KeepsInv.setLu ?_
  refine State.KeepsInv.useTile ?_
  split
  · exact h.settleEnt.putVec
  · exact h.settleEnt.putVec.putVec

theorem State.KeepsInv.execTwait {all : Bool} {o : TOp} (h : s₀.KeepsInv s) : execTwait all o s = .next t → s₀.KeepsInv t := by
  unfold Machine.execTwait
  refine h.scalar fun _ _ h => ?_
  split
  · exact h.illegalMode.ofNext
  split
  · exact (h.syncOn ‹_›).ofNext
  · exact h.commit.ofNext

end Sys2Proof.Machine
end

section
/-! What is kept by the operations of Sys2Proof/Machine/Dispatch.lean, in their order there. -/

namespace Sys2Proof.Machine

set_option Elab.async false

variable {s₀ s t : State}

theorem State.KeepsInv.exec {i : Instr} (h : s₀.KeepsInv s) : exec i s = .next t → s₀.KeepsInv t := by
  unfold Machine.exec
  cases i with
  | add | sub | mul | mulh | div | rem | and | or | xor | andn | shl | shr | sar | rol | min | max | cmp => exact h.op3
  | sel | ldi | bfi | fcmp | fclass | lea => exact h.scalar fun _ _ h => h.writeG.ofNext
  | clz | ctz | popc | bswap => exact h.op2
  | addi | andi | ori | xori | shli | shri | sari | roli | lih | cmpi | bfx => exact h.opI
  | fadd | fsub | fmul | fdiv => exact h.fop3
  | fsqrt | ffma => exact h.scalar fun _ _ h => h.writeF.ofNext
  | fmin | fmax => exact h.fminmax
  | fcvt => exact h.scalar fun _ _ h => h.reserve.orFlags.writeG.ofNext
  | br | bri => exact h.scalar fun _ _ h => h.branch.ofNext
  | jmp => exact h.scalar fun _ _ h => h.jump.ofNext
  | call => exact h.scalar fun _ _ h => h.setG.jump.ofNext
  | jr => exact h.execJr
  | callr => exact h.execCallr
  | loop => exact h.execLoop
  | lbrk => exact h.execLbrk
  | waitf => exact h.execWaitf
  | yield => exact h.execYield
  | exit => exact h.execExit
  | nop | pref => exact h.scalar fun _ _ h => h.commit.ofNext
  | illegalInstruction => exact h.illegal.ofNext
  | ld | lda => exact h.load
  | st | str => exact h.store
  | lds => exact h.execLds
  | sts => exact h.execSts
  | amo => exact h.execAmo
  | cas => exact h.execCas
  | convoy => exact h.execConvoy
  | vecEgArrival => exact h.execVecEgArrival
  | vshape => exact h.execVshape
  | vadd | vsub | vmul | vmulh | vfma | vfms | vfnma | vdiv | vsqrt | vrcp | vrsq | vexp2 | vlog2 | vsin | vcos | vtanh | vmin | vmax | vabs | vneg
    | vand | vor | vxor | vshl | vshr | vsar | vcmp | vsel | viota | vcvt | vquant | vdeq | vredo | vredt | vscan | vperm | vbcast | vmovs | vins
    | vcompress | vexpand | vslide | kand | kor | kxor | kandn | knot | kcnt | kset | kfirst | kmov | vld | vst | vldx | vstx | vlds | vsts =>
    exact h.postOne
  | vbind => exact h.execVbind
  | vunbind => exact h.execVunbind
  | vspos => exact h.execVspos
  | tshape | tzero | tld | tst | tstp | tcopy | tputr | tputc | mma | mmai | ttrq | tcvt | tadd | tmul | tscale | tpref | tdead | tflagr | tflagc
    | tsend | trecv | tgather | tappend | tzmap => exact h.postTile
  | tgetr | tgetc => exact h.getLine
  | mmaDrain => exact h.execMmaDrain
  | twait => exact h.execTwait
  | tileEntryComplete => exact h.execTileEntryComplete
  | fillComplete => exact h.execFillComplete
  | spillComplete => exact h.execSpillComplete
  | cpy | cpy2d => exact h.serial fun _ _ h => h.postTransfer
  | transferComplete => exact h.execTransferComplete
  | binit => exact h.execBinit
  | barrive => exact h.execBarrive
  | bwait => exact h.scalar fun _ _ h => h.barWait.ofNext
  | gbar => exact h.execGbar
  | spawn => exact h.execSpawn
  | gsig => exact h.execGsig
  | pgalloc => exact h.execPgalloc
  | pgfree => exact h.execPgfree
  | hmake => exact h.execHmake
  | hchk => exact h.execHchk
  | hmark => exact h.handleOp fun _ _ h => (h.onHandle fun _ _ => h.setHent.writeG).ofNext
  | htrunc => exact h.execHtrunc
  | mbpost => exact h.execMbpost
  | mbtake => exact h.serial fun _ _ h => h.mbtake.ofNext
  | mbpoll => exact h.execMbpoll
  | mbctlMode => exact h.execMbctlMode
  | mbctlBudget => exact h.serial fun _ _ h => (h.mbctl fun _ => h.setEp).ofNext
  | mbctlKill => exact h.execMbctlKill
  | xloop => exact h.execXloop
  | xgret => exact h.execXgret
  | xacc => exact h.execXacc
  | xend => exact h.execXend
  | xabort => exact h.execXabort
  | fence => exact h.execFence
  | cmo => exact h.execCmo
  | isync => exact h.scalar fun _ _ h => h.quiet.commit.ofNext
  | rng => exact h.execRng
  | csrr => exact h.execCsrr
  | csrw | csrx | policygenWrite | tmapbWrite | tracectlWrite => exact h.csrWriting
  | trap | brk => exact h.scalar fun _ _ h => h.raise.ofNext
  | eret => exact h.execEret
  | wfe => exact h.execWfe
  | hcall => exact h.execHcall
  | etake => exact h.execEtake
  | epost => exact h.execEpost
  | ewdkick => exact h.execEwdkick
  | eyield => exact h.execEyield
  | eexit => exact h.execEexit
  | baseRiscv => exact h.execBaseRiscv
  | budgetExceeded => exact h.execBudgetExceeded
  | episodeException => exact h.execEpisodeException
  | scrubComplete => exact h.execScrubComplete
  | episodeLoad => exact h.execEpisodeLoad
  | episodeLoadComplete => exact h.execEpisodeLoadComplete
  | episodeRelease => exact h.execEpisodeRelease
  | episodeKill => exact h.execEpisodeKill
  | contextCreate => exact h.execContextCreate
  | contextSuspend => exact h.execContextSuspend
  | quiesceComplete => exact h.execQuiesceComplete
  | contextResume => exact h.execContextResume
  | contextDestroy => exact h.execContextDestroy
  | teardownComplete => exact h.execTeardownComplete
  | contextUpdate => exact h.ctxOp fun _ => h.updateCtx
  | tlbinv => exact h.execTlbinv
  | interruptUnmask => exact h.execInterruptUnmask
  | queueCreate => exact h.execQueueCreate
  | queueResume => exact h.execQueueResume
  | queueDrain => exact h.execQueueDrain
  | queueDestroy => exact h.execQueueDestroy
  | nodeTakeIn => exact h.execNodeTakeIn
  | nodeRetire => exact h.execNodeRetire
  | nodeLimitExpiry => exact h.execNodeLimitExpiry
  | qerrClear => exact h.execQerrClear
  | dispatcherNodeStart => exact h.execDispatcherNodeStart
  | copyNodeComplete => exact h.execCopyNodeComplete
  | loopIterationEnd => exact h.execLoopIterationEnd
  | minQuantumExpiry => exact h.execMinQuantumExpiry
  | threadSaveComplete => exact h.execThreadSaveComplete
  | sendArrival => exact h.execSendArrival
  | sendResponse => exact h.execSendResponse
  | poolPromote => exact h.execPoolPromote
  | promoteCopyEnd => exact h.execPromoteCopyEnd
  | poolHold => exact h.execPoolHold
  | waitfWake => exact h.execWaitfWake
  | yieldExpiry => exact h.execYieldExpiry
  | convoyComplete => exact h.execConvoyComplete
  | tileEntryIssue => exact h.execTileEntryIssue
  | tileEntryRetire => exact h.execTileEntryRetire
  | tileWatchdog => exact h.execTileWatchdog
  | bwaitWake => exact h.execBwaitWake
  | mbpostWake => exact h.execMbpostWake
  | mbtakeWake => exact h.execMbtakeWake
  | wfeWake => exact h.execWfeWake
  | hcallReply => exact h.execHcallReply
  | hcallEntryFree => exact h.execHcallEntryFree
  | etakeWake => exact h.execEtakeWake
  | epostWake => exact h.execEpostWake
  | groupPlace => exact h.execGroupPlace
  | remoteRequestTimeout => exact h.execRemoteRequestTimeout
  | turwardRetrain => exact h.execTurwardRetrain
  | junctionOvertemp => exact h.execJunctionOvertemp
  | spdmIdentity | spdmMeasurement | telemetryRead | marginMeasurement | firmwareUpdate | spdmChallenge | minimumQuantumSet | controlRegionSizeSet =>
    exact h.manage
  | packageReset => exact State.KeepsInv.execPackageReset
  | codePageFetch => exact h.execCodePageFetch
  | tileSlotRequest => exact h.execTileSlotRequest
  | nodeAppend => exact h.execNodeAppend
  | remoteRequest => exact h.execRemoteRequest
  | portEnable => exact h.execPortEnable
  | portDisable => exact h.execPortDisable
  | podcfgWrite => exact h.applyPodcfg.ofNext
  | trainingEnd => exact h.execTrainingEnd
  | trainingRetry => exact h.execTrainingRetry
  | laneLost => exact h.execLaneLost
  | replayLimit => exact h.execReplayLimit
  | portFence => exact h.execPortFence
  | traceFlushTimeout => exact h.execTraceFlushTimeout
  | turwardHostAccess => exact h.execTurwardHostAccess
  | sendTimeout => exact h.execSendTimeout

end Sys2Proof.Machine
end

section
/-! What is kept by the operations of Sys2Proof/Machine/Fetch.lean, in their order there. -/

namespace Sys2Proof.Machine

set_option Elab.async false

variable {s₀ s t : State}

theorem State.KeepsInv.countOpen (h : s₀.KeepsInv s) : s₀.KeepsInv s.countOpen := by
  unfold State.countOpen
  split
  · exact (h.mapThreads fun _ => by split <;> simp).quiet
  · exact h

theorem State.KeepsInv.podWrites (h : s₀.KeepsInv s) : s₀.KeepsInv s.podWrites := by
  unfold State.podWrites
  split
  · exact h
  split
  · split
    · split
      · exact (h.draw ‹_›).draw ‹_›
      dsimp only
      split
      · exact (h.draw ‹_›).draw ‹_›
      · exact ((h.draw ‹_›).draw ‹_›).storePA

theorem State.KeepsInv.tick (h : s₀.KeepsInv s) : s₀.KeepsInv s.tick := by
  unfold State.tick
  refine State.KeepsInv.quiet ?_
  refine State.KeepsInv.mapThreads ?_ fun _ => by split <;> simp
  refine h.countOpen.podWrites.foldl fun _ _ h => ?_
  split
  · exact h.mapNode

theorem State.KeepsInv.codeLine {line : Nat} {x : BitVec 512} (h : s₀.KeepsInv s) : s.codeLine line = (x, t) → s₀.KeepsInv t := by
  unfold State.codeLine
  split
  · split
    · split
      · exact ((h.draw ‹_›).quiet).ofSnd
      · exact (h.draw ‹_›).ofSnd
  · exact h.ofSnd

theorem State.KeepsInv.fill {pa : Nat} (h : s₀.KeepsInv s) : s₀.KeepsInv (s.fill pa) := by
  unfold State.fill
  split
  · exact (h.codeLine ‹_›).quiet

theorem State.KeepsInv.fetch (h : s₀.KeepsInv s) : s.fetch = some t → s₀.KeepsInv t := by
  unfold State.fetch
  split
  · exact nofun
  split
  · exact h.fill.ofSome
  split
  · exact h.fill.ofSome
  split
  · exact h.ofSome
  split
  · refine State.KeepsInv.ofSome ?_
    split
    · exact h.draw ‹_›
    · exact (h.draw ‹_›).fill

end Sys2Proof.Machine
end

section
/-! What is kept by the operations of Sys2Proof/Machine/Turn.lean, in their order there. -/

namespace Sys2Proof.Machine

set_option Elab.async false

variable {s₀ s t : State}

theorem State.KeepsInv.runNext (h : s₀.KeepsInv s) : s.runNext = .next t → s₀.KeepsInv t := by
  unfold State.runNext
  split
  · exact h.raise.ofNext
  split
  · exact h.exec
  · exact (h.fetch ‹_›).exec

theorem State.KeepsInv.patient {k : UnitWork} {f : State → Out} (h : s₀.KeepsInv s) (hf : ∀ u t, s₀.KeepsInv u → f u = .next t → s₀.KeepsInv t) :
    s.patient k f = .next t → s₀.KeepsInv t := by
  unfold State.patient
  split
  · exact hf _ _ h
  extract_lets +onlyGivenNames others wait
  have hwait : wait = .next t → s₀.KeepsInv t := by
    unfold wait
    exact h.quiet.ofNext
  split
  · next v w hv hw =>
    have hv' : s₀.KeepsInv v := hf _ _ h hv
    extract_lets +onlyGivenNames passed
    have hpassed : passed = .next t → s₀.KeepsInv t := by
      unfold passed
      exact hv'.quiet.ofNext
    split
    · exact hpassed
    split
    · exact hwait
    split
    · exact nofun
    split
    · exact hpassed
    · exact hwait
  · exact hf _ _ h

theorem State.KeepsInv.waited {o : Out} (h : s₀.KeepsInv s) (ho : ∀ u, o = .next u → s₀.KeepsInv u) : waited s o = .next t → s₀.KeepsInv t := by
  unfold Machine.waited
  split
  · exact h.ofNext
  · exact ho _

theorem State.KeepsInv.traceTurn (h : s₀.KeepsInv s) : s₀.KeepsInv s.traceTurn := by
  unfold State.traceTurn
  extract_lets +onlyGivenNames u
  have hu : s₀.KeepsInv u := by
    unfold u
    split
    · exact h.onThr
    · exact h
  clear_value u
  split
  · exact hu
  split
  · exact hu.patient (fun _ _ h => h.traceWrite.ofNext) ‹_›
  · exact hu

theorem State.KeepsInv.threadStep (h : s₀.KeepsInv s) : s.threadStep = .next t → s₀.KeepsInv t := by
  unfold State.threadStep
  split
  · exact h.ofNext
  split
  · exact h.raiseAt.ofNext
  split
  · exact h.runNext
  · exact h.runNext
  · exact h.runNext
  · exact h.runNext
  · exact h.runNext
  · exact h.runNext
  · exact h.runNext
  · split
    · exact h.exec
    · exact h.runNext
  · exact h.exec
  · exact h.exec
  · exact h.exec
  · exact h.exec
  · exact h.exec
  · exact h.exec
  · exact h.exec
  · exact h.exec

theorem State.KeepsInv.threadTurn (h : s₀.KeepsInv s) : s.threadTurn = .next t → s₀.KeepsInv t := by
  unfold State.threadTurn
  split
  · exact h.ofNext
  dsimp only
  split
  · exact h.traceTurn.threadStep
  split
  · split
    · exact h.traceTurn.waited fun _ => h.traceTurn.patient fun _ _ h => h.threadStep
    · exact (h.traceTurn.threadStep ‹_›).ofNext
  · exact h.traceTurn.threadStep

theorem State.KeepsInv.happen {e : Ev} (h : s₀.KeepsInv s) : s.happen e = .next t → s₀.KeepsInv t := by
  unfold State.happen
  split
  · split
    · exact h.exec
    · exact h.patient fun _ _ h => h.exec
  · exact h.patient fun _ _ h => h.execTileSlotRequest
  · exact h.patient fun _ _ h => h.execTraceFlushTimeout
  · exact h.patient fun _ _ h => h.execMapInit
  · exact h.execSendTimeout
  · exact h.execTrainingRetry

theorem State.KeepsInv.deviceTurn (h : s₀.KeepsInv s) : s.deviceTurn = .next t → s₀.KeepsInv t := by
  unfold State.deviceTurn
  dsimp only
  split
  · exact h.happen
  · exact h.ofNext

theorem State.KeepsInv.idleCore (h : s₀.KeepsInv s) : s₀.KeepsInv s.idleCore := by
  unfold State.idleCore
  extract_lets +onlyGivenNames idle
  clear_value idle
  split
  · exact h
  extract_lets +onlyGivenNames none i u s'
  have h' : s₀.KeepsInv s' := h.ofThreads fun t ht => by
    rcases List.mem_cons.1 ht with rfl | ht
    · exact .inr (by rfl)
    · exact .inl ht
  clear_value s'
  split
  · next x hx =>
    obtain ⟨i, -, hi⟩ := List.exists_of_findSome?_eq_some hx
    have hx' : s₀.KeepsInv x := by
      split at hi
      · next y hy =>
        cases hi
        exact h'.patient (fun _ _ h => h.exec) hy
      · cases hi
    split
    · next t l ht =>
      exact hx'.ofThreads fun _ hv => .inl (List.mem_cons_of_mem _ (ht ▸ hv))
    · exact h
  · exact h

theorem State.KeepsInv.hartTurn (h : s₀.KeepsInv s) : s.hartTurn = .next t → s₀.KeepsInv t := by
  unfold State.hartTurn
  split
  · exact h.passCore.ofNext
  split
  · exact h.passCore.ofNext
  split
  · exact h.exec
  · exact h.exec
  split
  · exact h.exec
  split
  · exact h.exec
  · exact h.exec

theorem State.KeepsInv.andThen {s₀ t : State} {o : Out} {f : State → State} (ho : ∀ u, o = .next u → s₀.KeepsInv u)
    (hf : ∀ u, s₀.KeepsInv u → s₀.KeepsInv (f u)) :
    andThen o f = .next t → s₀.KeepsInv t := by
  cases o with
  | next u => exact (hf u (ho u rfl)).ofNext
  | fault => exact nofun
  | refused => exact nofun

theorem State.KeepsInv.toDevice (h : s₀.KeepsInv s) : s₀.KeepsInv s.toDevice := h.quiet

theorem State.KeepsInv.toHart (h : s₀.KeepsInv s) : s₀.KeepsInv s.toHart := h.idleCore.quiet

theorem State.KeepsInv.toThread (h : s₀.KeepsInv s) : s₀.KeepsInv s.toThread := by
  unfold State.toThread
  extract_lets +onlyGivenNames u
  have hu : s₀.KeepsInv u := h.quiet
  clear_value u
  split
  · exact hu.ofThreads fun t ht => .inl (List.mem_singleton.1 ht ▸ List.mem_cons_self)
  · next v l hv =>
    have hl : ∀ t ∈ v :: l, t ∈ u.parked := fun _ ht => List.mem_of_mem_filter (hv ▸ ht)
    refine hu.ofThreads fun _ ht => .inl ?_
    rcases List.mem_cons.1 ht with rfl | ht
    · exact List.mem_cons_of_mem _ (hl _ List.mem_cons_self)
    rcases List.mem_append.1 ht with ht | ht
    · exact List.mem_cons_of_mem _ (hl _ (List.mem_cons_of_mem _ ht))
    · split at ht
      · exact List.mem_singleton.1 ht ▸ List.mem_cons_self
      · cases ht

theorem State.KeepsInv.due {i : Instr} (h : s₀.KeepsInv s) : s.due i = .next t → s₀.KeepsInv t := by
  unfold State.due
  split
  · exact h.ofNext
  split
  · exact h.ofNext
  · exact h.exec

end Sys2Proof.Machine
end

section
/-! What is kept by the operations of Sys2Proof/Machine/Step.lean, in their order there. -/

namespace Sys2Proof.Machine

set_option Elab.async false

variable {s₀ s t : State}

theorem State.KeepsInv.step (h : s₀.KeepsInv s) : step s = .next t → s₀.KeepsInv t := by
  unfold Machine.step
  extract_lets +onlyGivenNames u
  have hu : s₀.KeepsInv u := h.tick
  clear_value u
  split
  · exact State.KeepsInv.due hu.quiet
  split
  · exact State.KeepsInv.andThen (fun _ => hu.threadTurn) fun _ h => h.toDevice
  · exact State.KeepsInv.andThen (fun _ => hu.deviceTurn) fun _ h => h.toHart
  · exact State.KeepsInv.andThen (fun _ => hu.hartTurn) fun _ h => h.toThread

end Sys2Proof.Machine
end

section
/-! The obligation. -/

namespace Sys2Proof

open Machine

/-- Settles O59: the rule of `step`, from the state before it. -/
theorem stepKeepsMemory : Obligations.StepKeepsMemory := by
  unfold Obligations.StepKeepsMemory
  intro s t hs hstep
  exact ((State.KeepsInv.refl s).step hstep).memOk hs

end Sys2Proof
end

section
/-! The ports as the host meets them: what a change of a port leaves unchanged, and what the replayed flits change. -/

namespace Sys2Proof.Machine

set_option Elab.async false

/-- The fields that no change of a port or of the link block touches are as they were. -/
structure State.LinkFrame (s t : State) : Prop where
  thr : t.thr = s.thr
  ctxs : t.ctxs = s.ctxs
  hostOut : t.hostOut = s.hostOut
  mgmt : t.mgmt = s.mgmt
  damage : t.damage = s.damage

theorem State.LinkFrame.refl (s : State) : s.LinkFrame s := ⟨rfl, rfl, rfl, rfl, rfl⟩

theorem State.LinkFrame.trans {s t u : State} (h : s.LinkFrame t) (h' : t.LinkFrame u) : s.LinkFrame u :=
  ⟨h'.thr.trans h.thr, h'.ctxs.trans h.ctxs, h'.hostOut.trans h.hostOut, h'.mgmt.trans h.mgmt, h'.damage.trans h.damage⟩

theorem length_toBytes (n v : Nat) : (toBytes n v).length = n := by
  induction n generalizing v with
  | zero => rfl
  | succ n ih => rw [toBytes, List.length_cons, ih]

/-- A write that holds no whole sector refreshes no check value. -/
theorem Damage.clear_of_lt (d : Damage) (pa n : Nat) (h : n < 64) : d.clear pa n = d := by
  have keep : ∀ k, (!(decide (pa ≤ k * 64) && decide (k * 64 + 64 ≤ pa + n))) = true := fun k => by simp; omega
  simp only [Damage.clear, keep, List.filter_true]

theorem State.linkFrame_storePA8 (s : State) (a : Nat) (v : Word) : s.LinkFrame (s.storePA8 a v) :=
  ⟨rfl, rfl, rfl, rfl, Damage.clear_of_lt _ _ _ (by rw [length_toBytes]; decide)⟩

theorem State.linkFrame_flushIrqs (s : State) : s.LinkFrame s.flushIrqs := by
  unfold State.flushIrqs
  split <;> exact ⟨rfl, rfl, rfl, rfl, rfl⟩

theorem State.linkFrame_setPort (s : State) (p : Nat) (x : Port) : s.LinkFrame (s.setPort p x) := by
  refine State.LinkFrame.trans ?_ (State.linkFrame_flushIrqs _)
  refine State.LinkFrame.trans ?_ (State.linkFrame_storePA8 _ _ _)
  split <;> exact ⟨rfl, rfl, rfl, rfl, rfl⟩

@[simp] theorem State.port_flushIrqs (s : State) (p : Nat) : s.flushIrqs.port p = s.port p := by
  unfold State.flushIrqs
  split <;> rfl

@[simp] theorem State.port_storePA (s : State) (a p : Nat) (l : List Byte) : (s.storePA a l).port p = s.port p := rfl

@[simp] theorem State.port_storePA8 (s : State) (a p : Nat) (v : Word) : (s.storePA8 a v).port p = s.port p := rfl

@[simp] theorem State.port_draw (s : State) (p : Nat) : s.draw.2.port p = s.port p := rfl

@[simp] theorem State.port_putPortctl (s : State) (p : Nat) : s.putPortctl.port p = s.port p := rfl

theorem State.port_setPort_same (s : State) (p : Nat) (x : Port) : (s.setPort p x).port p = x := by
  unfold State.setPort
  rw [State.port_flushIrqs, State.port_storePA8]
  unfold State.port
  by_cases hp : p = 24
  · rw [if_pos hp, if_pos hp]
  · rw [if_neg hp, if_neg hp, vget_vset_same]

theorem State.port_setPort_other (s : State) {p k : Nat} (x : Port) (hp : p < 25) (hk : k < 25) (h : k ≠ p) :
    (s.setPort p x).port k = s.port k := by
  unfold State.setPort
  rw [State.port_flushIrqs, State.port_storePA8]
  unfold State.port
  by_cases h24 : p = 24
  · rw [if_pos h24, if_neg (by omega), if_neg (by omega)]
  · rw [if_neg h24]
    by_cases hk24 : k = 24
    · rw [if_pos hk24, if_pos hk24]
    · rw [if_neg hk24, if_neg hk24, vget_vset_other _ _ _ _ (by omega)]

@[simp] theorem State.podcfg_flushIrqs (s : State) : s.flushIrqs.podcfg = s.podcfg := by
  unfold State.flushIrqs
  split <;> rfl

@[simp] theorem State.podcfg_setPort (s : State) (p : Nat) (x : Port) : (s.setPort p x).podcfg = s.podcfg := by
  unfold State.setPort
  rw [State.podcfg_flushIrqs]
  show State.podcfg (if p = 24 then _ else _) = _
  split <;> rfl

/-! ### Flits replayed (R386) -/

/-- REPLAYS after some more flits, never above its greatest value. -/
def moreReplays (x : BitVec 32) (v : Nat) : BitVec 32 := BitVec.ofNat 32 (min (2 ^ 32 - 1) (x.toNat + v))

theorem le_moreReplays (x : BitVec 32) (v : Nat) : x.toNat ≤ (moreReplays x v).toNat := by
  rw [moreReplays, BitVec.toNat_ofNat]
  have := x.isLt
  omega

/-- One step of `replayed`: the flits that one port has replayed. -/
def State.replayPort (s : State) (p : Nat) : State :=
  if !(s.port p).usable then s else
  s.draw.2.setPort p { s.port p with replays := moreReplays (s.port p).replays (s.draw.1.toNat % 2 ^ 32) }

theorem State.replayed_eq (s : State) : s.replayed = (List.range 25).foldl State.replayPort s := rfl

/-- Of the ports only REPLAYS has changed, and it has not gone down. -/
def State.MoreReplays (s t : State) : Prop :=
  s.LinkFrame t ∧ ∀ p < 25, t.port p = { s.port p with replays := (t.port p).replays } ∧ (s.port p).replays.toNat ≤ (t.port p).replays.toNat

theorem State.moreReplays_replayPort (s : State) {p : Nat} (hp : p < 25) : s.MoreReplays (s.replayPort p) := by
  unfold State.replayPort
  split
  · exact ⟨.refl s, fun k _ => ⟨rfl, Nat.le_refl _⟩⟩
  · refine ⟨(⟨rfl, rfl, rfl, rfl, rfl⟩ : s.LinkFrame s.draw.2).trans (State.linkFrame_setPort _ _ _), fun k hk => ?_⟩
    by_cases h : k = p
    · rw [h, State.port_setPort_same]
      exact ⟨rfl, le_moreReplays _ _⟩
    · rw [State.port_setPort_other _ _ hp hk h]
      exact ⟨rfl, Nat.le_refl _⟩

theorem State.MoreReplays.trans {s t u : State} (h : s.MoreReplays t) (h' : t.MoreReplays u) : s.MoreReplays u := by
  refine ⟨h.1.trans h'.1, fun p hp => ?_⟩
  obtain ⟨eq, le⟩ := h.2 p hp
  obtain ⟨eq', le'⟩ := h'.2 p hp
  exact ⟨by rw [eq', eq], le.trans le'⟩

theorem State.moreReplays_replayed (s : State) : s.MoreReplays s.replayed := by
  rw [State.replayed_eq]
  refine List.foldlRecOn (motive := s.MoreReplays) _ _ ⟨.refl s, fun k _ => ⟨rfl, Nat.le_refl _⟩⟩ fun t h p hp => ?_
  exact h.trans (t.moreReplays_replayPort (List.mem_range.mp hp))

end Sys2Proof.Machine
end

section
/-! Bytes, addresses and masks of the host's accesses. -/

namespace Sys2Proof.Machine

set_option Elab.async false

open Sys2Proof.Claim

/-! ### Bytes of a number, and bytes of memory -/

theorem ofBytes_toBytes (n v : Nat) : ofBytes (toBytes n v) = v % 256 ^ n := by
  induction n generalizing v with
  | zero => simp [toBytes, ofBytes, Nat.mod_one]
  | succ n ih => rw [toBytes, ofBytes, ih, Nat.pow_succ', Nat.mod_mul, BitVec.toNat_ofNat]

theorem toBytes_ofBytes (l : List Byte) : toBytes l.length (ofBytes l) = l := by
  induction l with
  | nil => rfl
  | cons b l ih =>
    have hb : b.toNat < 256 := b.isLt
    rw [List.length_cons, toBytes, ofBytes, show (b.toNat + 256 * ofBytes l) / 256 = ofBytes l by omega, ih]
    congr 1
    apply BitVec.eq_of_toNat_eq
    rw [BitVec.toNat_ofNat]
    omega

/-- Only the bits of its bytes count. -/
theorem toBytes_mod (n v : Nat) : toBytes n (v % 256 ^ n) = toBytes n v := by
  rw [← ofBytes_toBytes]
  simpa [length_toBytes] using toBytes_ofBytes (toBytes n v)

theorem Mem.length_read (m : Mem) (a n : Nat) : (m.read a n).length = n := by
  induction n generalizing a with
  | zero => rfl
  | succ n ih => rw [Mem.read, List.length_cons, ih]

theorem Mem.read_eq_map (m : Mem) (a n : Nat) : m.read a n = (List.range n).map fun i => m.get (a + i) := by
  induction n generalizing a with
  | zero => rfl
  | succ n ih =>
    rw [Mem.read, ih, List.range_succ_eq_map, List.map_cons, List.map_map]
    congr 1
    refine List.map_congr_left fun i _ => ?_
    show m.get (a + 1 + i) = m.get (a + (i + 1))
    rw [Nat.add_assoc, Nat.add_comm 1 i]

theorem Mem.toBytes_num (m : Mem) (a n : Nat) : toBytes n (m.num a n) = m.read a n := by
  have h := toBytes_ofBytes (m.read a n)
  rwa [Mem.length_read] at h

/-! ### Addresses (R263) -/

theorem paKind_device {pa : Nat} (h : pa < 2 ^ 52) : paKind pa = 0 := by
  rw [paKind, Nat.div_eq_of_lt h]

theorem paKind_slow {pa : Nat} (lo : 2 ^ 52 ≤ pa) (hi : pa < 2 ^ 52 + 2 ^ 42) : paKind pa = 1 := by
  unfold paKind
  omega

theorem paValid_device {pa : Nat} (h : pa < 768 * 2 ^ 30) : paValid pa = true := by
  have hk := paKind_device (pa := pa) (by omega)
  rw [paValid, hk]
  simp only [Bool.and_eq_true, decide_eq_true_eq]
  rw [deviceBytes]
  omega

theorem paValid_slow {pa : Nat} (lo : 2 ^ 52 ≤ pa) (hi : pa < 2 ^ 52 + 2 ^ 42) : paValid pa = true := by
  simp only [paValid, paKind_slow lo hi, Bool.and_eq_true, decide_eq_true_eq]
  omega

theorem paValid_hole {pa : Nat} (lo : 768 * 2 ^ 30 ≤ pa) (hi : pa < 2 ^ 52) : paValid pa = false := by
  rw [paValid, paKind_device hi]
  simp only [Bool.and_eq_false_iff, decide_eq_false_iff_not]
  rw [deviceBytes]
  omega

theorem hostMay_of_device {pa n : Nat} (h1 : 1 ≤ n) (h : pa + n ≤ 768 * 2 ^ 30) : hostMay pa n = true := by
  simp [hostMay, paValid_device (pa := pa) (by omega), paValid_device (pa := pa + n - 1) (by omega), paKind_device (pa := pa) (by omega),
    paKind_device (pa := pa + n - 1) (by omega)]

theorem hostMay_of_slow {pa n : Nat} (h1 : 1 ≤ n) (lo : 2 ^ 52 ≤ pa) (hi : pa + n ≤ 2 ^ 52 + 2 ^ 42) : hostMay pa n = true := by
  simp [hostMay, paValid_slow (pa := pa) lo (by omega), paValid_slow (pa := pa + n - 1) (by omega) (by omega),
    paKind_slow (pa := pa) lo (by omega), paKind_slow (pa := pa + n - 1) (by omega) (by omega)]

theorem hostMay_of_hostReaches {s : State} {pa n : Nat} (h : hostReaches s pa n) : hostMay pa n = true := by
  obtain ⟨h1, ⟨hi, -⟩ | ⟨lo, hi⟩⟩ := h
  · exact hostMay_of_device h1 hi
  · exact hostMay_of_slow h1 lo hi

theorem State.hostWaits_of_hostReaches {s : State} {pa n : Nat} (h : hostReaches s pa n) : s.hostWaits pa = false := by
  obtain ⟨h1, ⟨-, hu⟩ | ⟨lo, hi⟩⟩ := h
  · simp [State.hostWaits, hu]
  · simp [State.hostWaits, paKind_slow (pa := pa) lo (by omega)]

/-! ### Bits that are RO or RZ (R7) -/

theorem State.hostMasks_fixed (s : State) {o : Nat} (h : o < 0x12000) : s.hostMasks (s.mgmt.cbase + o) =
    if o < 0x10000 then ctxMasks (o % 0x400) else if o < 0x11000 then linkMasks (o - 0x10000) else traceMasks (o % 64) := by
  unfold State.hostMasks
  rw [if_pos (by omega), Nat.add_sub_cancel_left]

theorem State.hostMasks_link (s : State) {o : Nat} (h : o < 0x1000) : s.hostMasks (s.linkBlock + o) = linkMasks o := by
  rw [State.linkBlock, Nat.add_assoc, State.hostMasks_fixed s (by omega), if_neg (by omega), if_pos (by omega), Nat.add_sub_cancel_left]

/-- PODCFG and PORTCTL are the host's. -/
theorem State.hostMasks_linkWord (s : State) {o : Nat} (h : o < 16) : s.hostMasks (s.linkBlock + o) = (0xFF, 0xFF) := by
  rw [State.hostMasks_link s (by omega), linkMasks, if_neg (by omega), if_neg (by omega), if_pos (by omega)]

theorem State.hostMasks_linkRest (s : State) {a : Nat} (lo : s.linkBlock + 0xA00 ≤ a) (hi : a < s.linkBlock + 0x1000) :
    s.hostMasks a = (0, 0) := by
  obtain ⟨o, rfl⟩ := Nat.exists_eq_add_of_le (show s.linkBlock ≤ a by omega)
  rw [State.hostMasks_link s (by omega), linkMasks, if_neg (by omega), if_pos (by omega)]

theorem State.hostMasks_readOnly {s : State} {a : Nat} (h : readOnly s a) : s.hostMasks a = (0, 0xFF) := by
  obtain ⟨n, hn, lo, hi⟩ | ⟨p, hp, lo, hi⟩ := h
  · obtain ⟨o, rfl⟩ := Nat.exists_eq_add_of_le (show s.mgmt.cbase ≤ a by omega)
    rw [State.hostMasks_fixed s (by omega), if_pos (by omega), ctxMasks, if_neg (by omega), if_pos (by omega)]
  · have hat : s.linkBlock + 0x40 ≤ s.portAt p ∧ s.portAt p + 8 ≤ s.linkBlock + 0x108 := by
      unfold State.portAt
      split <;> omega
    obtain ⟨o, rfl⟩ := Nat.exists_eq_add_of_le (show s.linkBlock ≤ a by omega)
    rw [State.hostMasks_link s (by omega), linkMasks, if_pos (by omega)]

theorem State.hostMasks_uncontrolled {s : State} {a : Nat} (h : uncontrolled s a) : s.hostMasks a = (0xFF, 0xFF) := by
  obtain ⟨hfix, hctx⟩ := h
  have hpool : (List.range 64).find? (fun n => (s.ctx n).state != .free && (s.ctx n).pblk != 0 && (s.ctx n).pblk ≤ a &&
      a < (s.ctx n).pblk + 64) = none := by
    refine List.find?_eq_none.mpr fun n hn => ?_
    obtain ⟨hp, -⟩ := hctx n (List.mem_range.mp hn)
    simp only [Bool.and_eq_true, bne_iff_ne, decide_eq_true_eq]
    omega
  have hring : (List.range 64).find? (fun n => (s.ctx n).state != .free && (s.ctx n).hring != 0 && (s.ctx n).hring ≤ a &&
      a < (s.ctx n).hring + 2048) = none := by
    refine List.find?_eq_none.mpr fun n hn => ?_
    obtain ⟨-, hr⟩ := hctx n (List.mem_range.mp hn)
    simp only [Bool.and_eq_true, bne_iff_ne, decide_eq_true_eq]
    omega
  have hwork : ((List.range 64).any fun n =>
      let c := s.ctx n
      c.state != .free && c.pblk != 0 && c.tableAt ≤ a && a < c.tableAt + workBytes c.log2n c.ndev c.nslow c.maxpg) = false := by
    refine List.any_eq_false.mpr fun n hn => ?_
    obtain ⟨hp, -⟩ := hctx n (List.mem_range.mp hn)
    simp only [Bool.and_eq_true, bne_iff_ne, decide_eq_true_eq]
    omega
  unfold State.hostMasks
  rw [if_neg (by omega), hpool]
  dsimp only
  rw [hring]
  dsimp only
  rw [hwork]
  rfl

theorem and_ff (b : Byte) : b &&& 0xFF = b := BitVec.and_allOnes (x := b)

theorem State.hostByte_of_writable {s : State} {a : Nat} (h : s.hostMasks a = (0xFF, 0xFF)) (b : Byte) : s.hostByte a b = b := by
  rw [State.hostByte, h, and_ff, show ~~~(0xFF : Byte) = 0 from rfl]
  simp

theorem State.hostByte_readOnly {s : State} {a : Nat} (h : readOnly s a) (b : Byte) : s.hostByte a b = s.mem.get a := by
  rw [State.hostByte, State.hostMasks_readOnly h, show ~~~(0 : Byte) = 0xFF from rfl, and_ff]
  simp

theorem State.length_hostSees (s : State) (pa n : Nat) : (s.hostSees pa n).length = n := by
  simp [State.hostSees]

theorem State.getElem?_hostSees (s : State) (pa : Nat) {n i : Nat} (h : i < n) :
    (s.hostSees pa n)[i]? = some (s.mem.get (pa + i) &&& (s.hostMasks (pa + i)).2) := by
  simp [State.hostSees, h]

/-- Where no bit is RZ the host sees memory. -/
theorem State.hostSees_eq_read {s : State} {pa n : Nat} (h : ∀ i < n, (s.hostMasks (pa + i)).2 = 0xFF) : s.hostSees pa n = s.mem.read pa n := by
  rw [Mem.read_eq_map]
  refine List.map_congr_left fun i hi => ?_
  rw [h i (List.mem_range.mp hi), and_ff]

/-- The masks are those of the control region's place and of the contexts. -/
theorem State.hostMasks_congr {s t : State} (hm : t.mgmt = s.mgmt) (hc : t.ctxs = s.ctxs) (a : Nat) : t.hostMasks a = s.hostMasks a := by
  have hctx : t.ctx = s.ctx := funext fun n => congrArg (vget · n) hc
  unfold State.hostMasks
  rw [hm, hctx]

/-! ### Damaged data (R377, R382) -/

theorem mem_pieces {pa n : Nat} (hn : 1 ≤ n) (x : Nat × Nat) : x ∈ pieces pa n →
    pa / 64 ≤ x.1 / 64 ∧ x.1 / 64 ≤ (pa + n - 1) / 64 := by
  unfold pieces
  rw [if_neg (by omega)]
  simp only [List.mem_map, List.mem_range]
  rintro ⟨i, hi, rfl⟩
  dsimp only
  omega

theorem exists_mem_pieces {pa n k : Nat} (hn : 1 ≤ n) (lo : pa / 64 ≤ k) (hi : k ≤ (pa + n - 1) / 64) : ∃ x ∈ pieces pa n, x.1 / 64 = k := by
  unfold pieces
  rw [if_neg (by omega)]
  refine ⟨_, List.mem_map_of_mem (List.mem_range.mpr (show k - pa / 64 < (pa + n - 1) / 64 - pa / 64 + 1 by omega)), ?_⟩
  dsimp only
  omega

theorem State.poisoned_eq_false_iff (s : State) {pa n : Nat} (hn : 1 ≤ n) : s.poisoned pa n = false ↔ Claim.sound s pa n := by
  unfold State.poisoned Claim.sound
  simp only [List.any_eq_false, Bool.or_eq_true, not_or, Bool.not_eq_true, List.contains_iff_mem]
  constructor
  · intro h k lo hi
    obtain ⟨x, hx, rfl⟩ := exists_mem_pieces hn lo hi
    exact h x hx
  · intro h x hx
    obtain ⟨lo, hi⟩ := mem_pieces hn x hx
    exact h _ lo hi

theorem State.hostGiven_of_sound {s : State} {pa n : Nat} (hn : 1 ≤ n) (h : Claim.sound s pa n) : s.hostGiven pa n = some (s.hostSees pa n) := by
  rw [State.hostGiven, (s.poisoned_eq_false_iff hn).mpr h]
  rfl

theorem State.hostGiven_of_not_sound {s : State} {pa n : Nat} (hn : 1 ≤ n) (h : ¬ Claim.sound s pa n) : s.hostGiven pa n = none := by
  rw [← s.poisoned_eq_false_iff hn, Bool.not_eq_false] at h
  rw [State.hostGiven, if_pos h]

end Sys2Proof.Machine
end

section
/-! The host's write (R7, R259, R381, R386, R392). -/

namespace Sys2Proof.Machine

set_option Elab.async false

open Sys2Proof.Claim

/-! ### Check values (R381) -/

theorem Damage.fails_clear {d : Damage} {pa n k : Nat} (h : (d.clear pa n).fails k = true) :
    d.fails k = true ∧ ¬ (pa ≤ 64 * k ∧ 64 * k + 64 ≤ pa + n) := by
  obtain ⟨x, hx, hk⟩ := List.any_eq_true.mp h
  obtain ⟨hx, hkeep⟩ := List.mem_filter.mp hx
  refine ⟨List.any_eq_true.mpr ⟨x, hx, hk⟩, ?_⟩
  simp only [Bool.and_eq_true, beq_iff_eq, bne_iff_ne, Bool.not_eq_true', Bool.and_eq_false_iff, decide_eq_false_iff_not] at hk hkeep
  omega

theorem Damage.mem_uncorr_clear {d : Damage} {pa n k : Nat} (h : k ∈ (d.clear pa n).uncorr) :
    k ∈ d.uncorr ∧ ¬ (pa ≤ 64 * k ∧ 64 * k + 64 ≤ pa + n) := by
  obtain ⟨hk, hkeep⟩ := List.mem_filter.mp h
  refine ⟨hk, ?_⟩
  simp only [Bool.not_eq_true', Bool.and_eq_false_iff, decide_eq_false_iff_not] at hkeep
  omega

/-- No sector is damaged that was not. -/
def Damage.NoMore (d d' : Damage) : Prop := ∀ k, (d'.fails k = true → d.fails k = true) ∧ (k ∈ d'.uncorr → k ∈ d.uncorr)

theorem Damage.NoMore.trans {d d' d'' : Damage} (h : d.NoMore d') (h' : d'.NoMore d'') : d.NoMore d'' :=
  fun k => ⟨(h k).1 ∘ (h' k).1, (h k).2 ∘ (h' k).2⟩

theorem Damage.noMore_clear (d : Damage) (pa n : Nat) : d.NoMore (d.clear pa n) :=
  fun _ => ⟨fun h => (fails_clear h).1, fun h => (mem_uncorr_clear h).1⟩

/-! ### Translations that may now be old (R266) -/

/-- Context `n` with the memory that its translations may still be taken from. -/
def Ctx.keep (c : Ctx) (m : Mem) : Ctx := if c.state = .free then c else { c with stale := m :: c.stale }

theorem State.keepTables_eq (s : State) (n : Nat) : s.keepTables n = { s with ctxs := vset s.ctxs n ((s.ctx n).keep s.mem) } := by
  unfold State.keepTables State.keepImage Ctx.keep
  simp only [beq_iff_eq]
  split
  · have : vset s.ctxs n (s.ctx n) = s.ctxs := by simp [vset, State.ctx, vget]
    rw [this]
  · rfl

theorem State.foldl_keepTables (s : State) {k : Nat} (hk : k ≤ 64) :
    ∃ v, (List.range k).foldl State.keepTables s = { s with ctxs := v } ∧
      ∀ n < 64, vget v n = if n < k then (s.ctx n).keep s.mem else s.ctx n := by
  induction k with
  | zero => exact ⟨s.ctxs, rfl, fun n _ => rfl⟩
  | succ k ih =>
    obtain ⟨v, hv, hget⟩ := ih (by omega)
    refine ⟨vset v k ((vget v k).keep s.mem), ?_, fun n hn => ?_⟩
    · rw [List.range_succ, List.foldl_append, List.foldl_cons, List.foldl_nil, hv, State.keepTables_eq]
      rfl
    · by_cases h : n = k
      · rw [h, vget_vset_same, hget k (by omega), if_neg (by omega), if_pos (by omega)]
      · rw [vget_vset_other _ _ _ _ (by omega), hget n hn]
        exact if_congr (by omega) rfl rfl

theorem Ctx.keep_stale_nil (c : Ctx) (m : Mem) : { c.keep m with stale := [] } = { c with stale := [] } := by
  unfold Ctx.keep
  split <;> rfl

theorem Ctx.mem_stale_keep {c : Ctx} (h : c.state ≠ .free) (m : Mem) : m ∈ (c.keep m).stale := by
  rw [Ctx.keep, if_neg h]
  exact List.mem_cons_self

theorem Ctx.hring_keep (c : Ctx) (m : Mem) : (c.keep m).hring = c.hring := by
  unfold Ctx.keep
  split <;> rfl

/-! ### Stray replies (R392) -/

/-- Only bytes of call rings have changed, and the check values of sectors among them. -/
structure State.RingFrame (s t : State) : Prop where
  thr : t.thr = s.thr
  ctxs : t.ctxs = s.ctxs
  hostOut : t.hostOut = s.hostOut
  mgmt : t.mgmt = s.mgmt
  podcfg : t.podcfg = s.podcfg
  ports : t.ports = s.ports
  turward : t.turward = s.turward
  damage : s.damage.NoMore t.damage
  wf : s.mem.wf = true → t.mem.wf = true
  get : s.mem.wf = true → ∀ a, ¬ inRing s a → t.mem.get a = s.mem.get a

theorem State.RingFrame.refl (s : State) : s.RingFrame s :=
  ⟨rfl, rfl, rfl, rfl, rfl, rfl, rfl, fun _ => ⟨id, id⟩, id, fun _ _ _ => rfl⟩

theorem inRing_congr {s t : State} (h : ∀ n < 64, (t.ctx n).hring = (s.ctx n).hring) (a : Nat) : inRing t a ↔ inRing s a := by
  constructor <;> rintro ⟨n, hn, h0, lo, hi⟩
  · rw [h n hn] at h0 lo hi
    exact ⟨n, hn, h0, lo, hi⟩
  · rw [← h n hn] at h0 lo hi
    exact ⟨n, hn, h0, lo, hi⟩

theorem State.ctx_congr {s t : State} (h : t.ctxs = s.ctxs) (n : Nat) : t.ctx n = s.ctx n := congrArg (vget · n) h

theorem State.RingFrame.trans {s t u : State} (h : s.RingFrame t) (h' : t.RingFrame u) : s.RingFrame u where
  thr := h'.thr.trans h.thr
  ctxs := h'.ctxs.trans h.ctxs
  hostOut := h'.hostOut.trans h.hostOut
  mgmt := h'.mgmt.trans h.mgmt
  podcfg := h'.podcfg.trans h.podcfg
  ports := h'.ports.trans h.ports
  turward := h'.turward.trans h.turward
  damage := h.damage.trans h'.damage
  wf hs := h'.wf (h.wf hs)
  get hs a ha := by
    rw [h'.get (h.wf hs) a (mt (inRing_congr (fun n _ => by rw [State.ctx_congr h.ctxs]) a).mp ha), h.get hs a ha]

theorem State.ringFrame_storePA (s : State) {a : Nat} {bs : List Byte} (h : ∀ x, a ≤ x → x < a + bs.length → inRing s x) :
    s.RingFrame (s.storePA a bs) where
  thr := rfl
  ctxs := rfl
  hostOut := rfl
  mgmt := rfl
  podcfg := rfl
  ports := rfl
  turward := rfl
  damage := Damage.noMore_clear _ _ _
  wf := Mem.wf_write _ _ _
  get hs x hx := Mem.get_write_outside _ _ _ _ hs (by
    by_contra hin
    exact hx (h x (by omega) (by omega)))

theorem State.ringFrame_clearEntry (s : State) {n : Nat} (i : Nat) (hn : n < 64) (h0 : (s.ctx n).hring ≠ 0) : s.RingFrame (s.clearEntry n i) := by
  unfold State.clearEntry
  dsimp only
  split
  · exact .refl s
  · refine s.ringFrame_storePA fun x lo hi => ⟨n, hn, h0, ?_⟩
    rw [List.length_replicate] at hi
    unfold Ctx.ringAt at lo hi
    omega

theorem State.ringFrame_clearStray (s : State) (pa len : Nat) : s.RingFrame (s.clearStray pa len) := by
  refine List.foldlRecOn (motive := s.RingFrame) _ _ (.refl s) fun t ht n hn => ?_
  obtain ⟨hn, hring⟩ := List.mem_filter.mp hn
  have hn := List.mem_range.mp hn
  have h0 : (s.ctx n).hring ≠ 0 := by
    obtain ⟨hring, -⟩ := Bool.and_eq_true_iff.mp hring
    obtain ⟨hring, -⟩ := Bool.and_eq_true_iff.mp hring
    exact bne_iff_ne.mp hring
  refine List.foldlRecOn (motive := s.RingFrame) _ _ ht fun u hu i _ => ?_
  exact hu.trans (u.ringFrame_clearEntry i hn (by rwa [State.ctx_congr hu.ctxs]))

/-! ### A write -/

/-- The bytes that the host's write leaves, but for the bits that are RO. -/
def State.hostBytes (s : State) (pa : Nat) (bs : List Byte) : List Byte := bs.zipIdx.map fun (b, i) => s.hostByte (pa + i) b

/-- The host's write up to where PODCFG and PORTCTL are looked at. -/
def State.hostStore (s : State) (pa : Nat) (bs : List Byte) : State :=
  (((List.range 64).foldl State.keepTables s).storePA pa (s.hostBytes pa bs)).clearStray pa bs.length

/-- Port `p` takes its bit of PORTCTL as EN. -/
def State.takeEn (ctl : Word) (s : State) (p : Nat) : State :=
  if ctl.getLsbD p = (s.port p).en then s else if ctl.getLsbD p then s.enablePort p else s.disablePort p

/-- PODCFG and PORTCTL act where the host has written them (R386). -/
def State.actLink (s : State) (pa n : Nat) : State :=
  let hit := fun a => pa < a + 8 && a < pa + n
  let s := if hit s.linkBlock then s.applyPodcfg (s.loadPA8 s.linkBlock) else s
  if !hit (s.linkBlock + 8) then s else (List.range 24).foldl (State.takeEn (s.loadPA8 (s.linkBlock + 8))) s.putPortctl

theorem State.hostWrite_eq (s : State) (pa : Nat) (bs : List Byte) : s.hostWrite pa bs = (s.hostStore pa bs).actLink pa bs.length := rfl

theorem State.length_hostBytes (s : State) (pa : Nat) (bs : List Byte) : (s.hostBytes pa bs).length = bs.length := by
  simp [State.hostBytes]

theorem State.getElem_hostBytes (s : State) (pa : Nat) (bs : List Byte) (i : Nat) (h : i < bs.length) :
    (s.hostBytes pa bs)[i]'(by rwa [State.length_hostBytes]) = s.hostByte (pa + i) bs[i] := by
  simp [State.hostBytes]

/-- Where all the bytes are the host's own, they are written as they are. -/
theorem State.hostBytes_of_writable {s : State} {pa : Nat} {bs : List Byte} (h : ∀ i < bs.length, s.hostMasks (pa + i) = (0xFF, 0xFF)) :
    s.hostBytes pa bs = bs := by
  refine List.ext_getElem (s.length_hostBytes pa bs) fun i _ hi => ?_
  rw [State.getElem_hostBytes _ _ _ _ hi, State.hostByte_of_writable (h i hi)]

theorem State.hostStore_ringFrame (s : State) (pa : Nat) (bs : List Byte) :
    ∃ v, (∀ n < 64, vget v n = (s.ctx n).keep s.mem) ∧
      ({ s with ctxs := v }.storePA pa (s.hostBytes pa bs)).RingFrame (s.hostStore pa bs) := by
  obtain ⟨v, hv, hget⟩ := s.foldl_keepTables (Nat.le_refl 64)
  refine ⟨v, fun n hn => by rw [hget n hn, if_pos hn], ?_⟩
  unfold State.hostStore
  rw [hv]
  exact State.ringFrame_clearStray _ _ _

theorem State.linkBlock_congr {s t : State} (h : t.mgmt = s.mgmt) : t.linkBlock = s.linkBlock := congrArg (fun m => Mgmt.cbase m + 0x10000) h

theorem State.actLink_of_inert {s : State} {pa n : Nat} (h : inert s pa n) : s.actLink pa n = s := by
  have miss : ∀ a, s.linkBlock ≤ a → a ≤ s.linkBlock + 8 → ¬ (decide (pa < a + 8) && decide (a < pa + n)) = true := fun a lo hi => by
    rw [Bool.and_eq_true, decide_eq_true_eq, decide_eq_true_eq]
    unfold inert at h
    omega
  unfold State.actLink
  dsimp only
  rw [if_neg (miss s.linkBlock (by omega) (by omega))]
  exact if_pos (by rw [Bool.eq_false_iff.mpr (miss (s.linkBlock + 8) (by omega) (by omega)), Bool.not_false])

theorem State.actLink_podcfg (s : State) : s.actLink s.linkBlock 8 = s.applyPodcfg (s.loadPA8 s.linkBlock) := by
  have hlb : (s.applyPodcfg (s.loadPA8 s.linkBlock)).linkBlock = s.linkBlock := rfl
  unfold State.actLink
  dsimp only
  rw [if_pos (show (decide (s.linkBlock < s.linkBlock + 8) && decide (s.linkBlock < s.linkBlock + 8)) = true by simp), hlb]
  exact if_pos (by simp)

theorem State.actLink_portctl (s : State) : s.actLink (s.linkBlock + 8) 8 =
    (List.range 24).foldl (State.takeEn (s.loadPA8 (s.linkBlock + 8))) s.putPortctl := by
  unfold State.actLink
  dsimp only
  rw [if_neg (show ¬ (decide (s.linkBlock + 8 < s.linkBlock + 8) && decide (s.linkBlock < s.linkBlock + 8 + 8)) = true by simp)]
  exact if_neg (by simp)

theorem State.hostWrite_of_inert {s : State} {pa : Nat} {bs : List Byte} (h : inert s pa bs.length) : s.hostWrite pa bs = s.hostStore pa bs := by
  obtain ⟨v, -, hf⟩ := s.hostStore_ringFrame pa bs
  have hlb : (s.hostStore pa bs).linkBlock = s.linkBlock := State.linkBlock_congr hf.mgmt
  rw [State.hostWrite_eq, State.actLink_of_inert (by rwa [inert, hlb])]

theorem hostWrote_hostWrite {s : State} {pa : Nat} {bs : List Byte} (hs : s.mem.wf = true) (hin : inert s pa bs.length) :
    hostWrote s (s.hostWrite pa bs) pa bs ∧ (s.hostWrite pa bs).hostOut = s.hostOut := by
  rw [State.hostWrite_of_inert hin]
  obtain ⟨v, hv, hf⟩ := s.hostStore_ringFrame pa bs
  generalize s.hostStore pa bs = t at hf ⊢
  have hlen := s.length_hostBytes pa bs
  have hring : ∀ a, inRing (State.storePA { s with ctxs := v } pa (s.hostBytes pa bs)) a ↔ inRing s a :=
    inRing_congr fun n hn => by
      show (vget v n).hring = _
      rw [hv n hn, Ctx.hring_keep]
  have hget : ∀ a, ¬ inRing s a → t.mem.get a = (s.mem.write pa (s.hostBytes pa bs)).get a :=
    fun a ha => hf.get (Mem.wf_write _ _ _ hs) a (mt (hring a).mp ha)
  have hctx : ∀ n < 64, t.ctx n = (s.ctx n).keep s.mem := fun n hn => (State.ctx_congr hf.ctxs n).trans (hv n hn)
  refine ⟨⟨?_, ?_, ?_, hf.thr, hf.podcfg, hf.ports, ?_⟩, hf.hostOut⟩
  · intro i b hb hu
    obtain ⟨hi, rfl⟩ := List.getElem?_eq_some_iff.mp hb
    have hout : ¬ inRing s (pa + i) := fun ⟨n, hn, h0, lo, hi⟩ => by
      obtain ⟨-, hr⟩ := hu.2 n hn
      omega
    rw [hget _ hout, Mem.get_write_inside _ _ _ _ hs (by omega), State.getElem_hostBytes _ _ _ _ hi,
      State.hostByte_of_writable (State.hostMasks_uncontrolled hu)]
  · intro a ha hwhere
    rw [hget a ha]
    by_cases hin : pa ≤ a ∧ a < pa + bs.length
    · have hro : readOnly s a := hwhere.resolve_left (by omega) |>.resolve_left (by omega)
      obtain ⟨i, rfl⟩ := Nat.exists_eq_add_of_le hin.1
      have hi : i < bs.length := by omega
      rw [Mem.get_write_inside _ _ _ _ hs (by omega), State.getElem_hostBytes _ _ _ _ hi, State.hostByte_readOnly hro]
    · exact Mem.get_write_outside _ _ _ _ hs (by omega)
  · intro k
    obtain ⟨hfail, hunc⟩ := hf.damage k
    refine ⟨fun h => (Damage.fails_clear (hfail h)).1, fun h => (Damage.mem_uncorr_clear (hunc h)).1, fun lo hi => ⟨?_, fun h => ?_⟩⟩
    · refine Bool.eq_false_iff.mpr fun h => (Damage.fails_clear (hfail h)).2 ⟨lo, by omega⟩
    · exact (Damage.mem_uncorr_clear (hunc h)).2 ⟨lo, by omega⟩
  · intro n hn
    rw [hctx n hn]
    exact ⟨Ctx.keep_stale_nil _ _, fun h => Ctx.mem_stale_keep h _⟩

end Sys2Proof.Machine
end

section
/-! PODCFG and PORTCTL written by the host, and the accesses themselves (R259, R386, R390). -/

namespace Sys2Proof.Machine

set_option Elab.async false

open Sys2Proof.Claim

/-! ### PODCFG and PORTCTL (R386) -/

theorem State.loadPA8_hostStore {s : State} {pa : Nat} (v : Word) (hs : s.mem.wf = true) (hm : ∀ i < 8, s.hostMasks (pa + i) = (0xFF, 0xFF))
    (hr : ∀ n < 64, (s.ctx n).hring = 0) : (s.hostStore pa (toBytes 8 v.toNat)).loadPA8 pa = v := by
  obtain ⟨w, hw, hf⟩ := s.hostStore_ringFrame pa (toBytes 8 v.toNat)
  have hlen := length_toBytes 8 v.toNat
  have hring : ∀ a, ¬ inRing (State.storePA { s with ctxs := w } pa (s.hostBytes pa (toBytes 8 v.toNat))) a := fun a ⟨n, hn, h0, _⟩ =>
    h0 (by
      show (vget w n).hring = 0
      rw [hw n hn, Ctx.hring_keep, hr n hn])
  have hread : (s.hostStore pa (toBytes 8 v.toNat)).mem.read pa 8 = toBytes 8 v.toNat := by
    rw [Mem.read_congr fun a _ _ => hf.get (Mem.wf_write _ _ _ hs) a (hring a)]
    rw [State.storePA_mem, State.hostBytes_of_writable (by rwa [hlen])]
    have h := s.mem.read_write pa (toBytes 8 v.toNat) hs
    rwa [hlen] at h
  rw [State.loadPA8, Mem.num, hread, ofBytes_toBytes]
  exact BitVec.eq_of_toNat_eq (by rw [BitVec.toNat_ofNat]; omega)

theorem State.podcfg_applyPodcfg_congr {s t : State} (h : t.podcfg = s.podcfg) (v : Word) :
    (t.applyPodcfg v).podcfg = (s.applyPodcfg v).podcfg := by
  simp only [State.applyPodcfg, State.storePA8, State.storePA_podcfg, h]

theorem State.hostWrite_podcfg {s : State} (v : Word) (hs : s.mem.wf = true) (hr : ∀ n < 64, (s.ctx n).hring = 0) :
    (s.hostWrite s.linkBlock (toBytes 8 v.toNat)).podcfg = (s.applyPodcfg v).podcfg ∧
      (s.hostWrite s.linkBlock (toBytes 8 v.toNat)).ports = s.ports := by
  have hload := State.loadPA8_hostStore (pa := s.linkBlock) v hs (fun i hi => s.hostMasks_linkWord (by omega)) hr
  obtain ⟨w, -, hf⟩ := s.hostStore_ringFrame s.linkBlock (toBytes 8 v.toNat)
  rw [State.hostWrite_eq, length_toBytes]
  generalize s.hostStore s.linkBlock (toBytes 8 v.toNat) = t at hload hf
  rw [← State.linkBlock_congr (s := s) (t := t) hf.mgmt] at hload ⊢
  rw [State.actLink_podcfg, hload]
  exact ⟨State.podcfg_applyPodcfg_congr hf.podcfg v, hf.ports⟩

/-- Port `y` is `x` after its bit of PORTCTL has been written. -/
def Port.Took (x y : Port) (en : Bool) : Prop :=
  y.en = en ∧ (x.en = true → en = false → y.state = .down) ∧ (x.en = false → x.state = .down → en = true → y.state = .training)

theorem State.port_portTo_same (s : State) (p : Nat) (st : PState) (lanes : Nat) :
    (s.portTo p st lanes).port p = { s.port p with state := st, lanes := lanes, since := s.cycle } := State.port_setPort_same _ _ _

theorem State.port_portTo_other (s : State) {p k : Nat} (st : PState) (lanes : Nat) (hp : p < 25) (hk : k < 25) (h : k ≠ p) :
    (s.portTo p st lanes).port k = s.port k := State.port_setPort_other _ _ hp hk h

theorem State.podcfg_portTo (s : State) (p : Nat) (st : PState) (lanes : Nat) : (s.portTo p st lanes).podcfg = s.podcfg :=
  State.podcfg_setPort _ _ _

theorem State.podcfg_putPortctl (s : State) : s.putPortctl.podcfg = s.podcfg := rfl

theorem State.took_enablePort (s : State) (p : Nat) (h : (s.port p).en = false) : (s.port p).Took ((s.enablePort p).port p) true := by
  unfold State.enablePort
  dsimp only
  split
  case isTrue =>
    rw [State.port_portTo_same, State.port_putPortctl, State.port_setPort_same]
    exact ⟨rfl, fun _ => Bool.noConfusion, fun _ _ _ => rfl⟩
  case isFalse hd =>
    rw [State.port_putPortctl, State.port_setPort_same]
    refine ⟨rfl, fun _ => Bool.noConfusion, fun _ hst _ => absurd ?_ hd⟩
    rw [h, hst]
    rfl

theorem State.took_disablePort (s : State) (p : Nat) : (s.port p).Took ((s.disablePort p).port p) false := by
  unfold State.disablePort
  dsimp only
  split
  case isTrue hd =>
    rw [State.port_putPortctl, State.port_setPort_same]
    exact ⟨rfl, fun _ _ => eq_of_beq hd, fun _ _ => Bool.noConfusion⟩
  case isFalse =>
    rw [State.port_portTo_same, State.port_putPortctl, State.port_setPort_same]
    exact ⟨rfl, fun _ _ => rfl, fun _ _ => Bool.noConfusion⟩

theorem State.took_takeEn (ctl : Word) (s : State) (p : Nat) : (s.port p).Took ((s.takeEn ctl p).port p) (ctl.getLsbD p) := by
  unfold State.takeEn
  split
  case isTrue heq =>
    rw [heq]
    exact ⟨rfl, fun h h' => absurd (h.symm.trans h') Bool.noConfusion, fun h _ h' => absurd (h.symm.trans h') Bool.noConfusion⟩
  case isFalse hne =>
    cases hbit : ctl.getLsbD p with
    | true => exact s.took_enablePort p (by simpa [hbit] using hne)
    | false => exact s.took_disablePort p

/-- What EN of port `p` does leaves the other ports and PODCFG. -/
def State.PortFrame (s t : State) (p : Nat) : Prop := (∀ k < 25, k ≠ p → t.port k = s.port k) ∧ t.podcfg = s.podcfg

theorem State.portFrame_enablePort (s : State) {p : Nat} (hp : p < 24) : s.PortFrame (s.enablePort p) p := by
  have hp : p < 25 := by omega
  unfold State.enablePort
  dsimp only
  split
  · exact ⟨fun k hk h => by rw [State.port_portTo_other _ _ _ hp hk h, State.port_putPortctl, State.port_setPort_other _ _ hp hk h],
      by rw [State.podcfg_portTo, State.podcfg_putPortctl, State.podcfg_setPort]⟩
  · exact ⟨fun k hk h => by rw [State.port_putPortctl, State.port_setPort_other _ _ hp hk h],
      by rw [State.podcfg_putPortctl, State.podcfg_setPort]⟩

theorem State.portFrame_disablePort (s : State) {p : Nat} (hp : p < 24) : s.PortFrame (s.disablePort p) p := by
  have hp : p < 25 := by omega
  unfold State.disablePort
  dsimp only
  split
  · exact ⟨fun k hk h => by rw [State.port_putPortctl, State.port_setPort_other _ _ hp hk h],
      by rw [State.podcfg_putPortctl, State.podcfg_setPort]⟩
  · exact ⟨fun k hk h => by rw [State.port_portTo_other _ _ _ hp hk h, State.port_putPortctl, State.port_setPort_other _ _ hp hk h],
      by rw [State.podcfg_portTo, State.podcfg_putPortctl, State.podcfg_setPort]⟩

theorem State.portFrame_takeEn (ctl : Word) (s : State) {p : Nat} (hp : p < 24) : s.PortFrame (s.takeEn ctl p) p := by
  unfold State.takeEn
  split
  · exact ⟨fun _ _ _ => rfl, rfl⟩
  · split
    · exact s.portFrame_enablePort hp
    · exact s.portFrame_disablePort hp

/-- The ports below `k` have taken their bits, and the rest is as it was. -/
theorem State.took_foldl_takeEn (ctl : Word) (s : State) {k : Nat} (hk : k ≤ 24) :
    let t := (List.range k).foldl (State.takeEn ctl) s
    (∀ p < k, (s.port p).Took (t.port p) (ctl.getLsbD p)) ∧ (∀ p < 25, k ≤ p → t.port p = s.port p) ∧ t.podcfg = s.podcfg := by
  induction k with
  | zero => exact ⟨fun p hp => absurd hp (Nat.not_lt_zero p), fun _ _ _ => rfl, rfl⟩
  | succ k ih =>
    obtain ⟨took, rest, cfg⟩ := ih (by omega)
    rw [List.range_succ, List.foldl_append, List.foldl_cons, List.foldl_nil]
    generalize (List.range k).foldl (State.takeEn ctl) s = t at took rest cfg ⊢
    obtain ⟨others, cfg'⟩ := State.portFrame_takeEn ctl t (p := k) (by omega)
    have mine := State.took_takeEn ctl t k
    rw [rest k (by omega) (Nat.le_refl k)] at mine
    refine ⟨fun p hp => ?_, fun p hp hkp => ?_, cfg'.trans cfg⟩
    · by_cases h : p = k
      · rw [h]
        exact mine
      · rw [others p (by omega) h]
        exact took p (by omega)
    · rw [others p hp (by omega), rest p hp (by omega)]

theorem State.hostWrite_portctl {s : State} (v : Word) (hs : s.mem.wf = true) (hr : ∀ n < 64, (s.ctx n).hring = 0) :
    (s.hostWrite (s.linkBlock + 8) (toBytes 8 v.toNat)).podcfg = s.podcfg ∧
      ∀ p < 24, (s.port p).Took ((s.hostWrite (s.linkBlock + 8) (toBytes 8 v.toNat)).port p) (v.getLsbD p) := by
  have hload := State.loadPA8_hostStore (pa := s.linkBlock + 8) v hs
    (fun i hi => by rw [Nat.add_assoc]; exact s.hostMasks_linkWord (by omega)) hr
  obtain ⟨w, -, hf⟩ := s.hostStore_ringFrame (s.linkBlock + 8) (toBytes 8 v.toNat)
  rw [State.hostWrite_eq, length_toBytes]
  generalize s.hostStore (s.linkBlock + 8) (toBytes 8 v.toNat) = t at hload hf
  rw [← State.linkBlock_congr (s := s) (t := t) hf.mgmt] at hload ⊢
  rw [State.actLink_portctl, hload]
  obtain ⟨took, -, cfg⟩ := State.took_foldl_takeEn v t.putPortctl (Nat.le_refl 24)
  refine ⟨cfg.trans hf.podcfg, fun p hp => ?_⟩
  have hport : s.port p = t.putPortctl.port p := by
    rw [State.port_putPortctl, State.port, State.port, hf.ports, hf.turward]
    rfl
  rw [hport]
  exact took p hp

/-! ### The accesses (R259, R390) -/

theorem exec_turwardHostAccess (a : HostAccess) (s : State) : exec (.turwardHostAccess a) s = execTurwardHostAccess a s := by rfl

/-- The state in which a read of the host finds the status words. -/
def State.statusRead (s : State) (pa n : Nat) : State := if pa < s.linkBlock + 0x108 ∧ s.linkBlock + 0x40 < pa + n then s.replayed else s

theorem State.moreReplays_statusRead (s : State) (pa n : Nat) : s.MoreReplays (s.statusRead pa n) := by
  unfold State.statusRead
  split
  · exact s.moreReplays_replayed
  · exact ⟨.refl s, fun _ _ => ⟨rfl, Nat.le_refl _⟩⟩

theorem exec_hostRead {s : State} {pa n : Nat} (h : hostReaches s pa n) : exec (.turwardHostAccess (.read pa n)) s =
    .next { s.statusRead pa n with hostOut := (s.statusRead pa n).hostOut ++ [(s.statusRead pa n).hostGiven pa n] } := by
  have hn : n ≠ 0 := by have := h.1; omega
  rw [exec_turwardHostAccess]
  simp only [execTurwardHostAccess, State.statusRead, hostMay_of_hostReaches h, State.hostWaits_of_hostReaches h, hn, decide_false, Bool.not_true,
    Bool.or_false, Bool.false_eq_true, if_false, Bool.and_eq_true, decide_eq_true_eq]

theorem exec_hostWrite {s : State} {pa : Nat} {bs : List Byte} (h : hostReaches s pa bs.length) :
    exec (.turwardHostAccess (.write pa bs)) s = .next (s.hostWrite pa bs) := by
  have hn : bs.isEmpty = false := by
    have := h.1
    cases bs with
    | nil => simp at this
    | cons b bs => rfl
  rw [exec_turwardHostAccess]
  simp only [execTurwardHostAccess, hostMay_of_hostReaches h, State.hostWaits_of_hostReaches h, hn, Bool.not_true, Bool.or_false,
    Bool.false_eq_true, if_false]

theorem toBytes_add_ofNat (x : Nat) (v : Word) : toBytes 8 (BitVec.ofNat 64 x + v).toNat = toBytes 8 (x + v.toNat) := by
  rw [← toBytes_mod 8 (x + v.toNat), BitVec.toNat_add, BitVec.toNat_ofNat, Nat.mod_add_mod]
  rfl

theorem exec_hostAtomicAdd {s : State} {pa : Nat} (v : Word) (h : hostReaches s pa 8) (ha : pa % 8 = 0) :
    exec (.turwardHostAccess (.atomicAdd pa v)) s =
      .next { s.hostWrite pa (toBytes 8 (ofBytes (s.hostSees pa 8) + v.toNat)) with hostOut := s.hostOut ++ [s.hostGiven pa 8] } := by
  rw [exec_turwardHostAccess]
  simp only [execTurwardHostAccess, hostMay_of_hostReaches h, State.hostWaits_of_hostReaches h, ha, Bool.not_true, Bool.or_false, bne_self_eq_false,
    Bool.false_eq_true, if_false, toBytes_add_ofNat]

/-- The host's read, in the terms of its statement. -/
theorem exec_hostRead_of_sound {s : State} {pa n : Nat} (h : hostReaches s pa n) (hs : Claim.sound s pa n) :
    ∃ bs, exec (.turwardHostAccess (.read pa n)) s = .next { s.statusRead pa n with hostOut := s.hostOut ++ [some bs] } ∧ bs.length = n ∧
      ∀ i < n, (uncontrolled s (pa + i) ∨ readOnly s (pa + i) → bs[i]? = some ((s.statusRead pa n).mem.get (pa + i))) ∧
        (s.linkBlock + 0xA00 ≤ pa + i → pa + i < s.linkBlock + 0x1000 → bs[i]? = some 0) := by
  obtain ⟨frame, -⟩ := s.moreReplays_statusRead pa n
  rw [exec_hostRead h]
  generalize s.statusRead pa n = t at frame ⊢
  have hmasks : ∀ a, t.hostMasks a = s.hostMasks a := State.hostMasks_congr frame.mgmt frame.ctxs
  have hsound : Claim.sound t pa n := by rwa [Claim.sound, frame.damage]
  refine ⟨t.hostSees pa n, by rw [State.hostGiven_of_sound h.1 hsound, frame.hostOut], State.length_hostSees _ _ _, fun i hi => ?_⟩
  rw [State.getElem?_hostSees _ _ hi, hmasks]
  refine ⟨fun hu => ?_, fun lo hi => ?_⟩
  · have hff : (s.hostMasks (pa + i)).2 = 0xFF := hu.elim (fun h => by rw [State.hostMasks_uncontrolled h])
      fun h => by rw [State.hostMasks_readOnly h]
    rw [hff, and_ff]
  · rw [State.hostMasks_linkRest s lo hi]
    exact congrArg some BitVec.and_zero

theorem exec_hostRead_of_not_sound {s : State} {pa n : Nat} (h : hostReaches s pa n) (hs : ¬ Claim.sound s pa n) :
    exec (.turwardHostAccess (.read pa n)) s = .next { s.statusRead pa n with hostOut := s.hostOut ++ [none] } := by
  obtain ⟨frame, -⟩ := s.moreReplays_statusRead pa n
  rw [exec_hostRead h, frame.hostOut, State.hostGiven_of_not_sound h.1 (by rwa [Claim.sound, frame.damage])]

theorem exec_hostRead_hole (s : State) {pa : Nat} (n : Nat) (lo : 768 * 2 ^ 30 ≤ pa) (hi : pa < 2 ^ 52) :
    exec (.turwardHostAccess (.read pa n)) s = .fault .noSuchAddress := by
  rw [exec_turwardHostAccess]
  simp only [execTurwardHostAccess, hostMay, paValid_hole lo hi, Bool.false_and, Bool.not_false, Bool.or_true, if_true]

theorem exec_hostRead_waits {s : State} {pa n : Nat} (hn : 1 ≤ n) (hi : pa + n ≤ 768 * 2 ^ 30) (hu : s.turward.usable = false) :
    exec (.turwardHostAccess (.read pa n)) s = .fault .notEnabled := by
  have h0 : n ≠ 0 := by omega
  rw [exec_turwardHostAccess]
  simp only [execTurwardHostAccess, State.hostWaits, hostMay_of_device hn hi, paKind_device (pa := pa) (by omega), hu, h0, decide_false,
    Bool.not_true, Bool.not_false, Bool.or_false, beq_self_eq_true, Bool.and_true, Bool.false_eq_true, if_false, if_true]

theorem hostAccesses : HostAccesses := by
  intro s pa hmem
  have hs : s.mem.wf = true := hmem.1
  refine ⟨fun n h => ?_, fun hu => ?_, fun hu => ?_, fun bs h hin => ?_, fun v hu hlb hr => ⟨?_, ?_⟩, fun v h hin ha => ⟨fun hunc => ?_, ?_⟩,
    fun n _ lo hi => exec_hostRead_hole s n lo hi, fun n hn hi hu => exec_hostRead_waits hn hi hu⟩
  · obtain ⟨frame, ports⟩ := s.moreReplays_statusRead pa n
    exact ⟨ports, frame.thr, frame.hostOut, exec_hostRead_of_sound h, exec_hostRead_of_not_sound h⟩
  · rw [exec_turwardHostAccess]
    simp [execTurwardHostAccess, hu]
  · rw [exec_turwardHostAccess]
    simp [execTurwardHostAccess, hu]
  · obtain ⟨wrote, out⟩ := hostWrote_hostWrite hs hin
    exact ⟨_, exec_hostWrite h, wrote, out⟩
  · obtain ⟨cfg, ports⟩ := State.hostWrite_podcfg v hs hr
    have hreach : hostReaches s s.linkBlock (toBytes 8 v.toNat).length := by
      rw [length_toBytes]
      exact ⟨by omega, Or.inl ⟨by omega, hu⟩⟩
    exact ⟨_, _, exec_hostWrite hreach, rfl, cfg, ports⟩
  · obtain ⟨cfg, took⟩ := State.hostWrite_portctl v hs hr
    have hreach : hostReaches s (s.linkBlock + 8) (toBytes 8 v.toNat).length := by
      rw [length_toBytes]
      exact ⟨by omega, Or.inl ⟨by omega, hu⟩⟩
    exact ⟨_, exec_hostWrite hreach, cfg, took⟩
  · exact State.hostSees_eq_read fun i hi => by rw [State.hostMasks_uncontrolled (hunc i hi)]
  · obtain ⟨wrote, -⟩ := hostWrote_hostWrite (bs := toBytes 8 (ofBytes (s.hostSees pa 8) + v.toNat)) hs (by rwa [length_toBytes])
    exact ⟨_, exec_hostAtomicAdd v h ha, wrote, fun hsound => by rw [State.hostGiven_of_sound h.1 hsound],
      fun hsound => by rw [State.hostGiven_of_not_sound h.1 hsound]⟩

end Sys2Proof.Machine
end

section
/-! Requests of other packages (R385, R387, R388). -/

namespace Sys2Proof.Machine

set_option Elab.async false

open Sys2Proof.Claim

theorem exec_remoteRequest (r : RemoteReq) (s : State) : exec (.remoteRequest r) s = execRemoteRequest r s := by rfl

theorem Ctx.covers_iff (c : Ctx) (w : Bool) (lo hi : Nat) : c.covers w lo hi = true ↔
    ∃ x ∈ c.wins.toList, x.valid = true ∧ (w = true → x.w = true) ∧ x.base * 65536 ≤ lo ∧ hi ≤ x.last * 65536 := by
  unfold Ctx.covers
  rw [← Array.any_toList, List.any_eq_true]
  refine exists_congr fun x => and_congr Iff.rfl ?_
  cases w <;> simp [and_assoc]

theorem State.podCovers_iff (s : State) (ptid : Nat) (w : Bool) (pa : Nat) : s.podCovers ptid w pa = true ↔ Claim.admitted s ptid w pa := by
  unfold State.podCovers Claim.admitted
  rw [Bool.and_eq_true, bne_iff_ne, List.any_eq_true]
  refine and_congr Iff.rfl (exists_congr fun n => ?_)
  rw [List.mem_range, Bool.and_eq_true, Bool.and_eq_true, bne_iff_ne, beq_iff_eq, Ctx.covers_iff, and_assoc]

/-- What the home answers to a request that it meets for the first time: the cause, the state and the bytes. -/
def State.answerRemote (s : State) (r : RemoteReq) : Nat × State × List Byte :=
  let pa := r.pa % 2 ^ 42
  let (_, w, rd) := RemoteOp.shape r.op
  if !s.podCovers r.ptid w pa then (cREMOTE, s, [])
  else if rd && s.damage.fails (pa / 64) then (cCHECK, s, [])
  else if rd && s.damage.uncorr.contains (pa / 64) then (cUNCORRECTABLE, s, [])
  else (0, s.performRemote pa r.op)

/-- The answer is recorded, with the request's sequence. -/
def State.recordRemote (s : State) (r : RemoteReq) (cause : Nat) (bs : List Byte) : State :=
  { s with remoteSeen := (r.fromPkg, 2 * r.seq) :: s.remoteSeen, remoteOut := s.remoteOut ++ [(r.seq, cause, bs.take (RemoteOp.shape r.op).1)] }

section
variable {s : State} {r : RemoteReq} (hr : reaches s r)
include hr

theorem execRemoteRequest_of_reaches : execRemoteRequest r s =
    if s.remoteSeen.contains (r.fromPkg, 2 * r.seq) then .next s
    else .next ((s.answerRemote r).2.1.recordRemote r (s.answerRemote r).1 (s.answerRemote r).2.2) := by
  obtain ⟨hkind, hvalid, hpkg, hfrom, hen, hport, hform⟩ := hr
  have hown : (r.fromPkg == s.pkgid) = false := beq_eq_false_iff_ne.mpr hfrom
  unfold execRemoteRequest
  simp only [hkind, hvalid, hpkg, hown, hen, hport, hform, bne_self_eq_false, Bool.not_true, Bool.or_false, Bool.false_eq_true, if_false]
  rfl

theorem exec_remoteRequest_seen (hseen : (r.fromPkg, 2 * r.seq) ∈ s.remoteSeen) : exec (.remoteRequest r) s = .next s := by
  rw [exec_remoteRequest, execRemoteRequest_of_reaches hr, if_pos (List.contains_iff_mem.mpr hseen)]

theorem exec_remoteRequest_new (hseen : (r.fromPkg, 2 * r.seq) ∉ s.remoteSeen) {cause : Nat} {t : State} {bs : List Byte}
    (h : s.answerRemote r = (cause, t, bs)) : exec (.remoteRequest r) s = .next (t.recordRemote r cause bs) := by
  rw [exec_remoteRequest, execRemoteRequest_of_reaches hr, if_neg (mt List.contains_iff_mem.mp hseen), h]

end

theorem State.answerRemote_of_not_admitted {s : State} {r : RemoteReq} (h : ¬ Claim.admitted s r.ptid (RemoteOp.shape r.op).2.1 (r.pa % 2 ^ 42)) :
    s.answerRemote r = (cREMOTE, s, []) := by
  rw [← State.podCovers_iff, Bool.not_eq_true] at h
  unfold State.answerRemote
  simp only [h, Bool.not_false, if_true]

theorem State.answerRemote_of_fails {s : State} {r : RemoteReq} (h : Claim.admitted s r.ptid (RemoteOp.shape r.op).2.1 (r.pa % 2 ^ 42))
    (hrd : (RemoteOp.shape r.op).2.2 = true) (hfail : s.damage.fails (r.pa % 2 ^ 42 / 64) = true) :
    s.answerRemote r = (cCHECK, s, []) := by
  rw [← State.podCovers_iff] at h
  unfold State.answerRemote
  simp only [h, hrd, hfail, Bool.not_true, Bool.false_eq_true, Bool.and_self, if_false, if_true]

/-- The line that a request reads gives good data. -/
def State.remoteSound (s : State) (r : RemoteReq) : Prop :=
  (RemoteOp.shape r.op).2.2 = true →
    s.damage.fails (r.pa % 2 ^ 42 / 64) = false ∧ r.pa % 2 ^ 42 / 64 ∉ s.damage.uncorr

theorem State.answerRemote_of_admitted {s : State} {r : RemoteReq} (h : Claim.admitted s r.ptid (RemoteOp.shape r.op).2.1 (r.pa % 2 ^ 42))
    (hsound : s.remoteSound r) : s.answerRemote r = (0, s.performRemote (r.pa % 2 ^ 42) r.op) := by
  rw [← State.podCovers_iff] at h
  unfold State.answerRemote
  cases hrd : (RemoteOp.shape r.op).2.2 with
  | false => simp only [h, hrd, Bool.not_true, Bool.false_and, Bool.false_eq_true, if_false]
  | true =>
    obtain ⟨hfail, hunc⟩ := hsound hrd
    have hunc : s.damage.uncorr.contains (r.pa % 2 ^ 42 / 64) = false := Bool.eq_false_iff.mpr (mt List.contains_iff_mem.mp hunc)
    simp only [h, hfail, hunc, Bool.not_true, Bool.and_false, Bool.false_eq_true, if_false]

/-- A request at its home touches no thread, no context and no earlier answer. -/
def State.HomeFrame (s t : State) : Prop :=
  t.remoteSeen = s.remoteSeen ∧ t.remoteOut = s.remoteOut ∧ t.thr = s.thr ∧ t.ctxs = s.ctxs

theorem State.HomeFrame.refl (s : State) : s.HomeFrame s := ⟨rfl, rfl, rfl, rfl⟩

theorem State.homeFrame_storePA (s : State) (a : Nat) (bs : List Byte) : s.HomeFrame (s.storePA a bs) := ⟨rfl, rfl, rfl, rfl⟩

/-- An answer of no more bytes than were asked for is given whole. -/
theorem State.HomeFrame.recordRemote {s t : State} (h : s.HomeFrame t) (r : RemoteReq) (cause : Nat) {bs : List Byte}
    (hbs : bs.length ≤ (RemoteOp.shape r.op).1) :
    (t.recordRemote r cause bs).remoteSeen = (r.fromPkg, 2 * r.seq) :: s.remoteSeen ∧
      (t.recordRemote r cause bs).remoteOut = s.remoteOut ++ [(r.seq, cause, bs)] ∧
      (t.recordRemote r cause bs).thr = s.thr ∧ (t.recordRemote r cause bs).ctxs = s.ctxs := by
  obtain ⟨seen, out, thr, ctxs⟩ := h
  unfold State.recordRemote
  rw [List.take_of_length_le hbs]
  exact ⟨congrArg _ seen, congrArg (· ++ _) out, thr, ctxs⟩

theorem remoteRequests : RemoteRequests := by
  intro s r hr hmem
  refine ⟨exec_remoteRequest_seen hr, fun hseen => ⟨fun n hop hadm hfine => ?_, fun bs hop hadm => ?_, fun op wide v hop hadm hfine => ?_,
    fun wide e v hop hadm hfine => ?_, fun hadm => ?_, fun n hop hadm hfail => ?_⟩⟩
  · have h := State.answerRemote_of_admitted (r := r) (by rwa [hop]) fun _ => hfine
    rw [hop, State.performRemote] at h
    exact ⟨_, exec_remoteRequest_new hr hseen h, (State.HomeFrame.refl s).recordRemote r 0 (by rw [hop, Mem.length_read]; rfl), rfl⟩
  · have h := State.answerRemote_of_admitted (r := r) (s := s) (by rwa [hop]) (by rw [State.remoteSound, hop]; exact Bool.noConfusion)
    rw [hop, State.performRemote] at h
    exact ⟨_, exec_remoteRequest_new hr hseen h, (s.homeFrame_storePA _ bs).recordRemote r 0 (Nat.zero_le _), rfl⟩
  · have h := State.answerRemote_of_admitted (r := r) (by rwa [hop]) fun _ => hfine
    rw [hop, State.performRemote] at h
    rw [Mem.toBytes_num] at h
    exact ⟨_, exec_remoteRequest_new hr hseen h, (s.homeFrame_storePA _ _).recordRemote r 0 (by rw [hop, Mem.length_read]; rfl), rfl⟩
  · have h := State.answerRemote_of_admitted (r := r) (by rwa [hop]) fun _ => hfine
    rw [hop, State.performRemote] at h
    dsimp only at h ⊢
    rw [Mem.toBytes_num] at h
    have hlen : (s.mem.read (r.pa % 2 ^ 42) (if wide then 8 else 4)).length ≤ (RemoteOp.shape r.op).1 := by rw [hop, Mem.length_read]; rfl
    by_cases hold : s.mem.num (r.pa % 2 ^ 42) (if wide then 8 else 4) = e.toNat % 2 ^ (8 * if wide then 8 else 4)
    · rw [if_pos hold] at h ⊢
      exact ⟨_, exec_remoteRequest_new hr hseen h, (s.homeFrame_storePA _ _).recordRemote r 0 hlen, rfl⟩
    · rw [if_neg hold] at h ⊢
      exact ⟨_, exec_remoteRequest_new hr hseen h, (State.HomeFrame.refl s).recordRemote r 0 hlen, rfl⟩
  · have hadm : ¬ Claim.admitted s r.ptid (RemoteOp.shape r.op).2.1 (r.pa % 2 ^ 42) := by
      cases hop : r.op <;> rw [hop] at hadm <;> exact hadm
    exact ⟨_, exec_remoteRequest_new hr hseen (State.answerRemote_of_not_admitted hadm),
      (State.HomeFrame.refl s).recordRemote r cREMOTE (Nat.zero_le _), rfl⟩
  · have h := State.answerRemote_of_fails (r := r) (by rwa [hop]) (by rw [hop]; rfl) hfail
    exact ⟨_, exec_remoteRequest_new hr hseen h, (State.HomeFrame.refl s).recordRemote r cCHECK (Nat.zero_le _), rfl⟩

end Sys2Proof.Machine
namespace Sys2Proof

open Machine Claim

/-- Settles O52: `hostAccesses` takes each access of the host from the lemma of its form (`exec_hostRead_of_sound`, `hostWrote_hostWrite`,
`State.hostWrite_podcfg`, `State.hostWrite_portctl`), `remoteRequests` each request from what its home answers (`State.answerRemote`). -/
theorem outsideAccesses : Obligations.OutsideAccesses := ⟨hostAccesses, remoteRequests⟩

end Sys2Proof
end

section
/-! Tables: what a table of one value holds, the contexts one by one, and the tables after reset. -/

namespace Sys2Proof.Machine

set_option Elab.async false

theorem vget_replicate {α : Type} {n : Nat} [NeZero n] (x : α) (i : Nat) : vget (Vector.replicate n x) i = x := by
  simp [vget]

theorem State.any_ctxs_iff (s : State) (p : Ctx → Bool) : s.ctxs.toArray.any p = true ↔ ∃ n < 64, p (s.ctx n) = true := by
  have entry : ∀ n (hn : n < 64), s.ctx n = s.ctxs[n] := fun n hn => by simp only [State.ctx, vget, Nat.mod_eq_of_lt hn]
  rw [Array.any_eq_true]
  constructor
  · rintro ⟨n, hn, hp⟩
    rw [Vector.size_toArray] at hn
    exact ⟨n, hn, by rwa [entry n hn]⟩
  · rintro ⟨n, hn, hp⟩
    rw [entry n hn] at hp
    exact ⟨n, by rwa [Vector.size_toArray], hp⟩

theorem State.ctx_setCtx_same (s : State) (n : Nat) (c : Ctx) : (s.setCtx n c).ctx n = c := vget_vset_same _ _ _

theorem State.ctx_setCtx_other (s : State) {n k : Nat} (c : Ctx) (hn : n < 64) (hk : k < 64) (h : k ≠ n) : (s.setCtx n c).ctx k = s.ctx k :=
  vget_vset_other _ _ _ _ (by omega)

theorem State.reset_ctx (n : Nat) : State.reset.ctx n = Ctx.reset := vget_replicate _ _

theorem State.reset_queue (n q : Nat) : State.reset.queue n q = Queue.reset := by
  rw [State.queue, State.reset_ctx]
  exact vget_replicate _ _

theorem State.reset_core (c : Nat) : State.reset.core c = Core.reset := vget_replicate _ _

theorem State.reset_ports (p : Nat) : vget State.reset.ports p = ⟨.down, 0, 0, false, 0⟩ := vget_replicate _ _

theorem State.reset_clockOk : State.reset.ClockOk := ⟨by decide, by decide, by decide⟩

end Sys2Proof.Machine
end

section
/-! The obligations on the array clock and on the state after reset. -/

namespace Sys2Proof

open Machine

/-- Settles O60: the rule of `step`, from the state before it. -/
theorem stepKeepsClock : Obligations.StepKeepsClock := by
  unfold Obligations.StepKeepsClock
  intro s t hs hstep
  exact ((State.KeepsInv.refl s).step hstep).clockOk hs

/-- Settles O58: the tables of `State.reset` hold one value each, and `State.reset_memOk` is the invariant of memory. -/
theorem afterReset : Obligations.AfterReset := by
  unfold Obligations.AfterReset
  refine ⟨rfl, rfl, rfl, fun n _ => ⟨?_, fun q _ => ?_⟩, fun p _ => ?_, rfl, rfl, rfl, rfl, rfl, rfl, rfl, fun c _ => ?_,
    State.reset_memOk, State.reset_clockOk⟩
  · rw [State.reset_ctx]
    rfl
  · rw [State.reset_queue]
    rfl
  · rw [State.reset_ports]
    exact ⟨rfl, rfl⟩
  · rw [State.reset_core]
    exact ⟨rfl, rfl⟩

end Sys2Proof
end

section
/-! A port replaced: what the link block shows, and what is left unchanged (R384, R386). -/

namespace Sys2Proof.Machine

set_option Elab.async false

open Sys2Proof.Claim

theorem State.loadPA8_storePA8 {s : State} (hs : s.mem.wf = true) (a : Nat) (v : Word) : (s.storePA8 a v).loadPA8 a = v := by
  have hread : (s.mem.write a (toBytes 8 v.toNat)).read a 8 = toBytes 8 v.toNat := by
    have h := s.mem.read_write a (toBytes 8 v.toNat) hs
    rwa [length_toBytes] at h
  rw [State.loadPA8, State.storePA8, State.storePA_mem, Mem.num, hread, ofBytes_toBytes]
  exact BitVec.eq_of_toNat_eq (by rw [BitVec.toNat_ofNat]; omega)

@[simp] theorem State.mem_flushIrqs (s : State) : s.flushIrqs.mem = s.mem := by
  unfold State.flushIrqs
  split <;> rfl

@[simp] theorem State.groups_flushIrqs (s : State) : s.flushIrqs.groups = s.groups := by
  unfold State.flushIrqs
  split <;> rfl

theorem State.mem_setPort (s : State) (p : Nat) (x : Port) : (s.setPort p x).mem = (s.storePA8 (s.portAt p) x.status).mem := by
  unfold State.setPort
  rw [State.mem_flushIrqs]
  show (State.storePA8 (if p = 24 then _ else _) _ _).mem = _
  split <;> rfl

theorem State.groups_setPort (s : State) (p : Nat) (x : Port) : (s.setPort p x).groups = s.groups := by
  unfold State.setPort
  rw [State.groups_flushIrqs]
  show State.groups (if p = 24 then _ else _) = _
  split <;> rfl

theorem Port.usable_iff (x : Port) : x.usable = true ↔ x.state = .up ∨ x.state = .degraded := by
  simp [Port.usable]

theorem State.portAt_eq (s : State) (p : Nat) : s.portAt p = s.mgmt.cbase + (if p = 24 then 0x10100 else 0x10040 + 8 * p) := by
  unfold State.portAt State.linkBlock
  split <;> omega

theorem State.portShown_setPort {s : State} (hs : s.mem.wf = true) (p : Nat) (x : Port) : portShown (s.setPort p x) p := by
  have hload : (s.setPort p x).loadPA8 (s.portAt p) = x.status := by
    rw [State.loadPA8, State.mem_setPort]
    exact State.loadPA8_storePA8 hs _ _
  unfold portShown
  rw [(s.linkFrame_setPort p x).mgmt, ← State.portAt_eq, hload, State.port_setPort_same]
  simp only [Port.status, Port.usable_iff, Nat.reducePow]

theorem State.onlyPort_setPort {s : State} (hs : s.mem.wf = true) {p : Nat} (hp : p < 25) (x : Port) : onlyPort s (s.setPort p x) p := by
  have frame := s.linkFrame_setPort p x
  refine ⟨fun k hk h => s.port_setPort_other x hp hk h, frame.thr, frame.ctxs, s.groups_setPort p x, fun a ha => ?_⟩
  rw [State.mem_setPort]
  refine Mem.get_write_outside _ _ _ _ hs ?_
  rw [length_toBytes, State.portAt_eq]
  split <;> omega

theorem State.fencePort_of_inUse {s : State} {p : Nat} (h : (s.port p).state = .up ∨ (s.port p).state = .degraded ∨ (s.port p).state = .training) :
    s.fencePort p = s.portTo p .fenced 0 := by
  unfold State.fencePort
  rcases h with h | h | h <;> simp [Port.usable, h]

theorem State.fencePort_of_idle {s : State} {p : Nat} (h : (s.port p).state = .down ∨ (s.port p).state = .fenced) : s.fencePort p = s := by
  unfold State.fencePort
  rcases h with h | h <;> simp [Port.usable, h]

theorem State.fencePort_spec {s : State} (hs : s.mem.wf = true) {p : Nat} (hp : p < 25) :
    ((s.port p).state = .up ∨ (s.port p).state = .degraded ∨ (s.port p).state = .training →
      ((s.fencePort p).port p).state = .fenced ∧ portShown (s.fencePort p) p ∧ onlyPort s (s.fencePort p) p) ∧
    ((s.port p).state = .down ∨ (s.port p).state = .fenced → s.fencePort p = s) := by
  refine ⟨fun h => ?_, State.fencePort_of_idle⟩
  rw [State.fencePort_of_inUse h]
  exact ⟨by rw [State.port_portTo_same], State.portShown_setPort hs _ _, State.onlyPort_setPort hs hp _⟩

end Sys2Proof.Machine
end

section
/-! Requests of the management plane: when they wait, and what they do (R23, R403 to R406). -/

namespace Sys2Proof.Machine

set_option Elab.async false

open Sys2Proof.Claim

theorem State.tearing_iff (s : State) : s.tearing = true ↔ ∃ n < 64, (s.ctx n).state = .destroying := by
  simp only [State.tearing, State.any_ctxs_iff, beq_iff_eq]

theorem State.commanding_iff (s : State) : s.commanding = true ↔ ∃ n < 64, (s.ctx n).cmdSeq ≠ none := by
  simp only [State.commanding, State.any_ctxs_iff, Option.isSome_iff_ne_none]

theorem State.blocks_iff (s : State) (r : Request) :
    s.blocks r = true ↔ s.tearing = true ∨ ((∃ m, r = .margin m) ∧ ∃ n < 64, (s.ctx n).cmdSeq ≠ none) := by
  unfold State.blocks
  rw [← State.commanding_iff, Bool.or_eq_true]
  refine or_congr_right ?_
  split
  · exact (and_iff_right ⟨_, rfl⟩).symm
  · next hr => exact iff_of_false Bool.noConfusion fun ⟨⟨m, hm⟩, _⟩ => hr m hm

/-- A request completes: it acts at once or is held (R23, R406). -/
theorem State.manage_eq (s : State) (r : Request) : s.manage r = .next (orHeld s r (s.perform r)) := rfl

/-! ### The array clock (R18, R405) -/

theorem Mgmt.replan_arrayClk (m : Mgmt) (x : Margin) : (m.replan x).arrayClk = clockAfter m.arrayClk x := by
  cases x with
  | failing =>
    simp only [Mgmt.replan, clockAfter]
    split <;> rfl
  | holds => rfl
  | stepUp => rfl

theorem Mgmt.replanAll_arrayClk (l : List Margin) (m : Mgmt) : (l.foldl Mgmt.replan m).arrayClk = l.foldl clockAfter m.arrayClk := by
  induction l generalizing m with
  | nil => rfl
  | cons x l ih => rw [List.foldl_cons, ih, Mgmt.replan_arrayClk, List.foldl_cons]

/-- Where only measurements wait, they all act. -/
theorem Mgmt.releaseClock_of_margins {m : Mgmt} {l : List Margin} (h : m.held = l.map .margin) :
    m.releaseClock.held = [] ∧ m.releaseClock.arrayClk = l.foldl clockAfter m.arrayClk := by
  have hall : m.held.filterMap Request.margin? = l := by
    rw [h, List.filterMap_map]
    exact List.filterMap_some
  have hnone : m.held.filter (·.margin?.isNone) = [] := by
    rw [h, List.filter_map, List.map_eq_nil_iff]
    exact List.filter_eq_nil_iff.mpr fun _ _ => Bool.noConfusion
  rw [Mgmt.releaseClock, hall, hnone, Mgmt.replanAll_held, Mgmt.replanAll_arrayClk]
  exact ⟨rfl, rfl⟩

theorem State.perform_failing (s : State) : s.perform (.margin .failing) =
    if s.mgmt.arrayClk ≤ 600 then { s with mgmt := { s.mgmt with events := s.mgmt.events ++ ["critical margin"] } }
    else { s with mgmt := { s.mgmt with arrayClk := max 600 (s.mgmt.arrayClk - 25), events := s.mgmt.events ++ ["margin"] } } := by
  simp only [State.perform, Mgmt.replan]
  split <;> rfl

/-! ### The end of a `SUSPEND` (R271, R406) -/

theorem State.vecEvent_mgmt (s : State) (a : Nat) (v : Vec) : (s.vecEvent a v).mgmt = s.mgmt := by
  unfold State.vecEvent State.deliver
  dsimp only
  split
  · rfl
  · split <;> rfl

theorem State.cvecEvent_mgmt (s : State) (n : Nat) : (s.cvecEvent n).mgmt = s.mgmt := by
  unfold State.cvecEvent
  dsimp only
  split
  · split
    · exact s.vecEvent_mgmt _ _
    · rfl
  · exact s.vecEvent_mgmt _ _

theorem State.ctxDone_mgmt (s : State) (n : Nat) (seq : BitVec 32) (status : Nat) : (s.ctxDone n seq status).mgmt = s.mgmt :=
  State.cvecEvent_mgmt _ _

theorem State.ctxPlaced_eq_false {s : State} {n : Nat} (h : ∀ t ∈ s.threads, t.live = true → t.id.ctx ≠ n) : s.ctxPlaced n = false := by
  refine List.any_eq_false.mpr fun t ht => ?_
  rw [Bool.and_eq_true, beq_iff_eq, not_and]
  exact h t ht

/-- Context `n` SUSPENDED, with its command ended. -/
def State.suspended (s : State) (n : Nat) : State := s.setCtx n { s.ctx n with state := .suspended, cmdSeq := none }

theorem State.ctx_suspended (s : State) {n k : Nat} (hn : n < 64) (hk : k < 64) :
    (s.suspended n).ctx k = if k = n then { s.ctx n with state := .suspended, cmdSeq := none } else s.ctx k := by
  split
  case isTrue h => exact h ▸ s.ctx_setCtx_same _ _
  case isFalse h => exact s.ctx_setCtx_other _ hn hk h

theorem execQuiesceComplete_mgmt {s : State} {n : Nat} (hq : (s.ctx n).state = .quiescing) (hp : s.ctxPlaced n = false)
    (ht : s.ctxTransfers n = false) : ∃ t, execQuiesceComplete n s = .next t ∧ t.mgmt = (s.suspended n).releaseClock.mgmt := by
  unfold execQuiesceComplete
  simp only [hq, hp, ht, bne_self_eq_false, Bool.or_self, Bool.false_eq_true, if_false]
  refine ⟨_, rfl, ?_⟩
  split
  · exact State.ctxDone_mgmt _ _ _ _
  · rfl

/-- The last context command has ended: nothing holds the array clock back any more. -/
theorem State.suspended_releaseClock {s : State} {n : Nat} (hn : n < 64) (htear : s.tearing = false)
    (hcmd : ∀ k < 64, k ≠ n → (s.ctx k).cmdSeq = none) : (s.suspended n).releaseClock.mgmt = s.mgmt.releaseClock := by
  have hc : (s.suspended n).commanding = false := by
    rw [← Bool.not_eq_true, State.commanding_iff]
    rintro ⟨k, hk, h⟩
    rw [s.ctx_suspended hn hk] at h
    split at h
    · exact h rfl
    · exact h (hcmd k hk ‹_›)
  have ht : (s.suspended n).tearing = false := by
    rw [← Bool.not_eq_true, State.tearing_iff] at htear ⊢
    rintro ⟨k, hk, h⟩
    rw [s.ctx_suspended hn hk] at h
    split at h
    · exact CtxState.noConfusion h
    · exact htear ⟨k, hk, h⟩
  rw [State.releaseClock, hc, ht]
  rfl

theorem exec_quiesceComplete (n : Nat) (s : State) : exec (.quiesceComplete n) s = execQuiesceComplete n s := by rfl

theorem exec_quiesceComplete_margins {s : State} {n : Nat} {l : List Margin} (hn : n < 64) (hq : (s.ctx n).state = .quiescing)
    (hp : ∀ t ∈ s.threads, t.live = true → t.id.ctx ≠ n) (ht : s.ctxTransfers n = false) (htear : s.tearing = false)
    (hcmd : ∀ k < 64, k ≠ n → (s.ctx k).cmdSeq = none) (hheld : s.mgmt.held = l.map .margin) :
    ∃ t, exec (.quiesceComplete n) s = .next t ∧ t.mgmt.held = [] ∧ t.mgmt.arrayClk = l.foldl clockAfter s.mgmt.arrayClk := by
  obtain ⟨t, hnext, hmgmt⟩ := execQuiesceComplete_mgmt hq (State.ctxPlaced_eq_false hp) ht
  rw [State.suspended_releaseClock hn htear hcmd] at hmgmt
  exact ⟨t, (exec_quiesceComplete n s).trans hnext, hmgmt ▸ Mgmt.releaseClock_of_margins hheld⟩

/-! ### The settings and a firmware update (R403, R404) -/

theorem State.perform_minQuantum (s : State) (us : Nat) : s.perform (.minQuantum us) =
    if 10 ≤ us ∧ us ≤ 10000 then { s with mgmt := { s.mgmt with minQuantum := us } } else s := by
  simp only [State.perform, Bool.and_eq_true, decide_eq_true_eq]

theorem State.perform_regionSize (s : State) (g : Nat) : s.perform (.regionSize g) =
    if 1 ≤ g ∧ g ≤ 256 then { s with mgmt := { s.mgmt with csizeNext := g } } else s := by
  simp only [State.perform, Bool.and_eq_true, decide_eq_true_eq]

theorem imageSigned_iff (image sig : List Byte) :
    imageSigned image sig = true ↔ ∃ k ∈ Config.fusedKeys, Crypto.ed25519Verify k (Crypto.sha512 image) sig = true := List.any_eq_true

theorem State.perform_firmware (s : State) (image sig : List Byte) : s.perform (.firmware image sig) =
    if (∃ k ∈ Config.fusedKeys, Crypto.ed25519Verify k (Crypto.sha512 image) sig = true) ∧ s.mgmt.rollback ≤ Config.imageVersion image
    then { s with mgmt := { s.mgmt with staged := some image } } else s := by
  simp only [State.perform, Bool.and_eq_true, decide_eq_true_eq, imageSigned_iff]

/-! ### A fence and a package reset (R384, R403, R404) -/

theorem exec_portFence {p : Nat} (hp : p < 25) (s : State) : exec (.portFence p) s = s.manage (.fence p) := by
  rw [show exec (.portFence p) s = execPortFence p s from rfl, execPortFence, if_neg (by omega)]

theorem exec_packageReset (s : State) : exec .packageReset s = execPackageReset s := by rfl

end Sys2Proof.Machine

namespace Sys2Proof

open Machine Claim

/-- Settles O54: by `State.manage_eq` a request acts at once or is held. What it does is in the lemmas on `State.perform` where the model
tests it as a Bool, in `State.fencePort_spec` for a fence, and else in the definition itself. `exec_quiesceComplete_margins` is the end of
a `SUSPEND`. -/
theorem managementPlane : Obligations.ManagementPlane := by
  unfold Obligations.ManagementPlane
  intro s
  refine ⟨s.tearing_iff, s.blocks_iff, fun n l => exec_quiesceComplete_margins,
    rfl, ?_, s.manage_eq _, s.manage_eq _, fun us => ?_, fun g => ?_, fun image sig => ?_, s.manage_eq _, ⟨s.manage_eq _, fun nonce => s.manage_eq _⟩,
    s.manage_eq _, fun p hp hs => ?_, ?_⟩
  · rw [← State.perform_failing]
    exact s.manage_eq _
  · rw [← State.perform_minQuantum]
    exact s.manage_eq _
  · rw [← State.perform_regionSize]
    exact s.manage_eq _
  · rw [← State.perform_firmware]
    exact s.manage_eq _
  · exact ⟨s.fencePort p, (exec_portFence hp s).trans (s.manage_eq _), State.fencePort_spec hs.mem hp⟩
  · refine ⟨_, exec_packageReset s, rfl, rfl, rfl, rfl, rfl, rfl, rfl, rfl, rfl, rfl, ?_⟩
    cases s.mgmt.staged with
    | none => exact (if_pos rfl).symm
    | some image => exact (if_neg (Option.some_ne_none image)).symm

end Sys2Proof
end

section
/-! The commit of a word and the entry into the trap handler (R109, R366): what they leave of the thread, and that a register written is
read back (O3). -/

namespace Sys2Proof.Machine

set_option Elab.async false

/-! ### Packets and counters -/

theorem Thread.count_only (t : Thread) (ev n : Nat) : t.OnlyTrace (t.count ev n) := rfl

theorem Thread.sync_only (t : Thread) (cycle : Nat) (a : CodeAddr) : t.OnlyTrace (t.sync cycle a) := by
  unfold Thread.sync
  split
  · rfl
  · exact ((t.flushBits_only cycle).trans (Thread.enqueue_only _ cycle _)).trans rfl

theorem Thread.emit_only (t : Thread) (cycle ty payload : Nat) : t.OnlyTrace (t.emit cycle ty payload) := by
  have h := fun ws => (t.flushBits_only cycle).trans (Thread.enqueue_only _ cycle ws)
  unfold Thread.emit
  split
  · rfl
  · dsimp only
    split
    · exact (h _).trans (Thread.sync_only _ cycle _)
    · exact h _

/-! ### Words that commit together (R78, R109) -/

/-- A commit of several words leaves of the thread what that of one does. -/
theorem State.commitLen_only (s : State) (len n : Nat) : s.thr.OnlyScalar (s.commitLen len n).thr ∧ (s.commitLen len n).thr.r.g = s.thr.r.g := by
  unfold State.commitLen Thread.OnlyScalar
  dsimp only
  split
  · exact ⟨rfl, rfl⟩
  · have h := Thread.loopSteps_only s.cycle s.thr.pc [2, 1, 0] s.thr
    rw [h]
    exact ⟨rfl, rfl⟩

theorem Thread.OnlyTrace.loops {t u : Thread} (h : t.OnlyTrace u) : u.r.loops = t.r.loops := by
  rw [h]

/-- Where loop stepping goes on depends on the loop counters alone. -/
theorem Thread.loopSteps_target_congr {t u : Thread} (h : t.r.loops = u.r.loops) (c d : Nat) (a : CodeAddr) (l : List Nat) :
    (Thread.loopSteps c a l t).2 = (Thread.loopSteps d a l u).2 := by
  induction l generalizing t u with
  | nil => rfl
  | cons n l ih =>
    unfold Thread.loopSteps
    rw [h]
    dsimp only
    split
    · split
      · rfl
      · refine ih ?_
        rw [(Thread.branchBit_only _ c _).loops, (Thread.branchBit_only _ d _).loops]
    · exact ih h

theorem State.commitLen_pc (s : State) (len n : Nat) : (s.commitLen len n).thr.pc =
    (if s.thr.sup then none else (Thread.loopSteps s.cycle s.thr.pc [2, 1, 0] s.thr).2).getD (s.thr.pc + BitVec.ofNat 48 (8 * len)) := by
  unfold State.commitLen
  dsimp only
  split <;> rfl

theorem State.commitLen_pc_congr {s u : State} (hpc : s.thr.pc = u.thr.pc) (hsup : s.thr.sup = u.thr.sup) (hl : s.thr.r.loops = u.thr.r.loops)
    (len n : Nat) : (s.commitLen len n).thr.pc = (u.commitLen len n).thr.pc := by
  rw [State.commitLen_pc, State.commitLen_pc, hpc, hsup, Thread.loopSteps_target_congr hl s.cycle u.cycle]

/-! ### Trap entry (R365, R366) -/

/-- The control registers that trap entry writes are those of `trapRegs`; the counters alone are others. -/
theorem State.enterTrap_only (s : State) (a : TrapAt) (f : FaultInfo) :
    ∃ tr pmc, (s.enterTrap a f).thr = { s.thr with
      c := { s.thr.trapRegs a f with pmc := pmc }, sup := true, pc := s.tctx.trapvec.setWidth 48, wait := .none, heldX := false, held := none
      fillErr := none, trace := tr } := by
  have h := (s.thr.count_only 20 1).trans
    (Thread.emit_only _ s.cycle 8 (f.cause * 2 ^ 50 + a.stream * 2 ^ 48 + (a.pc (s.thr.count 20 1).pc).toNat / 8))
  unfold State.enterTrap State.emit State.count State.onThr
  dsimp only at h ⊢
  rw [Thread.sync_only, h]
  exact ⟨_, _, rfl⟩

theorem State.enterTrap_sup (s : State) (a : TrapAt) (f : FaultInfo) : (s.enterTrap a f).thr.sup = true := by
  obtain ⟨_, _, h⟩ := s.enterTrap_only a f
  rw [h]

theorem State.enterTrap_trappc (s : State) (a : TrapAt) (f : FaultInfo) :
    (s.enterTrap a f).thr.c.trappc = (a.pc s.thr.pc).zeroExtend 64 := by
  obtain ⟨_, _, h⟩ := s.enterTrap_only a f
  rw [h]
  rfl

theorem State.enterTrap_trapcause (s : State) (a : TrapAt) (f : FaultInfo) :
    (s.enterTrap a f).thr.c.trapcause = trapCause s.thr.pc a.stream f.cause := by
  obtain ⟨_, _, h⟩ := s.enterTrap_only a f
  rw [h]
  rfl

theorem State.enterTrap_trapinfo (s : State) (a : TrapAt) (f : FaultInfo) :
    (s.enterTrap a f).thr.c.trapinfo = #v[f.i0, f.i1, f.i2, f.i3] := by
  obtain ⟨_, _, h⟩ := s.enterTrap_only a f
  rw [h]
  rfl

theorem State.enterTrap_tqindex (s : State) (pc : CodeAddr) (post : Nat) (f : FaultInfo) :
    (s.enterTrap (.tile pc post) f).thr.c.tqindex = BitVec.ofNat 64 post := by
  obtain ⟨_, _, h⟩ := s.enterTrap_only (.tile pc post) f
  rw [h]
  rfl

/-- The cause stands below the address, so that the two may be added. -/
theorem trapCause_eq_add (pc : CodeAddr) (stream cause : Nat) (h : stream * 1024 + cause % 256 < 2 ^ 16) :
    trapCause pc stream cause = (pc.zeroExtend 64 <<< 16) + BitVec.ofNat 64 (stream * 1024 + cause % 256) := by
  unfold trapCause
  refine (BitVec.add_eq_or_of_and_eq_zero _ _ ?_).symm
  ext i hi
  simp only [BitVec.getElem_and, BitVec.getElem_shiftLeft, BitVec.getElem_zero]
  by_cases h16 : i < 16
  · simp [h16]
  · have : (BitVec.ofNat 64 (stream * 1024 + cause % 256))[i] = false := by
      rw [← BitVec.getLsbD_eq_getElem, BitVec.getLsbD_ofNat, decide_eq_true hi, Bool.true_and]
      exact Nat.testBit_lt_two_pow (h.trans_le (Nat.pow_le_pow_right (by decide) (by omega)))
    rw [this, Bool.and_false]

end Sys2Proof.Machine

namespace Sys2Proof

open Machine

/-- Settles O3. -/
theorem registerWrite : Obligations.RegisterWrite := by
  unfold Obligations.RegisterWrite
  exact fun s d x => ⟨rfl, s.writeG_g d x, s.writeG_keepsG d x⟩

end Sys2Proof
end

section
/-! The vector stream (R31, R36, R44, R78, R80, R129, R368): what keeps a word of it from being posted, what its convoy captures, and
what the members of a convoy that touches no memory do at its completion. -/

namespace Sys2Proof.Machine

set_option Elab.async false

open Sys2Proof.Claim

/-! ### Instructions that touch no memory -/

theorem exec_of_vOp {i : Instr} {o : VOp} (h : vOp i = some o) (s : State) : exec i s = s.postOne i := by
  unfold vOp at h
  split at h
  all_goals cases h
  all_goals rfl

theorem vmOp_of_vOp {i : Instr} {o : VOp} (h : vOp i = some o) : vmOp i = none := by
  unfold vOp at h
  split at h
  all_goals cases h
  all_goals rfl

theorem vmOp_of_isMem {i : Instr} (h : isMem i = true) : (vmOp i).isSome = true := by
  unfold isMem at h
  split at h
  all_goals cases h
  all_goals rfl

theorem vmOp_of_vmStream {i : Instr} (h : vmStream i = true) : (vmOp i).isSome = true := by
  unfold vmStream at h
  split at h
  all_goals cases h
  all_goals rfl

theorem isMem_of_vmOp {i : Instr} (h : vmOp i = none) : isMem i = false :=
  Bool.eq_false_iff.2 fun hm => by simpa [h] using vmOp_of_isMem hm

theorem Thread.badStream_of_vmOp {i : Instr} (t : Thread) (h : vmOp i = .none) : t.badStream i = false := by
  have hs : vmStream i = false := Bool.eq_false_iff.2 fun hm => by simpa [h] using vmOp_of_vmStream hm
  rw [Thread.badStream, hs, Bool.false_and]

/-! ### Before a convoy is posted (R34, R36, R38) -/

/-- Nothing that an interlock or damage holds back. -/
theorem State.Clear.unheld {s : State} (h : s.Clear) (rs : List (BitVec 6)) (l : List Nat) :
    s.gWait rs = none ∧ s.gDamaged rs = false ∧ s.csrLost l = false := by
  obtain ⟨hw, hd, -⟩ := h.executes rs []
  obtain ⟨-, -, -, -, hc⟩ := h
  rw [List.append_nil] at hw
  refine ⟨hw, hd, ?_⟩
  rw [State.csrLost, hc, List.any_nil]

/-- With both queues empty a word waits for an empty source alone. -/
theorem Thread.vecStalled_of_empty {t : Thread} (hv : t.vq = []) (ht : t.tq = []) (ms : List Instr) :
    t.vecStalled ms = (ms.flatMap vSources).any fun r => !t.full r.toNat := by
  simp [Thread.vecStalled, Thread.tileReads, Thread.loading, hv, ht]

theorem Thread.full_iff (t : Thread) (n : Nat) : t.full n = true ↔ vget t.r.arr n = BitVec.allOnes 32 := beq_iff_eq

/-- The sources of every member are full, and so are those that it marks. -/
def State.vecFull (s : State) (ms : List Instr) : Prop := ∀ i ∈ ms, vecReady s i

theorem State.vecFull.emptyFault {s : State} {ms : List Instr} (h : s.vecFull ms) : s.thr.emptyFault ms = none := by
  unfold Thread.emptyFault
  rw [List.findSome?_eq_none_iff]
  intro ⟨slot, f, r⟩ hx
  obtain ⟨⟨i, k⟩, hi, hx⟩ := List.mem_flatMap.1 hx
  obtain ⟨⟨f', r'⟩, hr, he⟩ := List.mem_map.1 hx
  cases he
  have hmem : i ∈ ms := by
    have := List.mem_zipIdx hi
    exact this.2.2 ▸ List.getElem_mem _
  exact if_pos ((s.thr.full_iff _).2 ((h i hmem).2 _ hr))

theorem State.vecFull.vecStalled {s : State} {ms : List Instr} (h : s.vecFull ms) (hs : s.Clear) : s.thr.vecStalled ms = false := by
  obtain ⟨hv, ht, -⟩ := hs
  rw [Thread.vecStalled_of_empty hv ht, List.any_eq_false]
  intro r hr
  obtain ⟨i, hi, hr⟩ := List.mem_flatMap.1 hr
  rw [(s.thr.full_iff _).2 ((h i hi).1 r hr)]
  exact Bool.false_ne_true

/-- A single word with one marked source, which is empty (R36). -/
theorem Thread.emptyFault_of_trapBit {t : Thread} {i : Instr} {n : Nat} {r : BitVec 6} (hb : trapBits i = [(n, r)])
    (hr : vget t.r.arr r.toNat ≠ BitVec.allOnes 32) :
    t.emptyFault [i] = some { cause := cVEC_EMPTY, i0 := r.zeroExtend 64, i1 := BitVec.ofNat 64 n } := by
  have hf : t.full r.toNat = false := Bool.eq_false_iff.2 (mt (t.full_iff _).1 hr)
  simp [Thread.emptyFault, hb, hf]

theorem Thread.emptyFault_of_unmarked (t : Thread) {i : Instr} (hb : trapBits i = []) : t.emptyFault [i] = .none := by
  simp [Thread.emptyFault, hb]

/-! ### What a convoy captures at commit (R60, R129) -/

/-- The convoy of members at the thread's address, as it captures them. -/
def State.captured (s : State) (ms : List Instr) : Convoy := { s.emptyConvoy with members := (s.captureAll s.emptyConvoy ms).2 }

/-- The state in which that convoy has joined the vector queue, `len` words committed as `n` instructions. -/
def State.posted (s : State) (ms : List Instr) (len n : Nat) : State :=
  (s.captureAll s.emptyConvoy ms).1.enqueueConvoy (s.captured ms) len n

/-- The member that a word without memory accesses becomes. -/
def State.laneMember (s : State) (i : Instr) : Member :=
  ⟨i, (match vOp i with | some o => if o.bs then s.g o.vb else 0 | none => 0), 0, 0, s.thr.c.rngctr, none, 0⟩

theorem State.captureMember_of_vmOp (s : State) (c : Convoy) {i : Instr} (h : vmOp i = none) :
    s.captureMember c i =
      (s.onThr fun t => { t with c := { t.c with rngctr := s.thr.c.rngctr + BitVec.ofNat 64 (c.blocks s.thr.vlmax i) } }, s.laneMember i) := by
  unfold State.captureMember State.laneMember
  rw [h]
  rfl

/-- Capturing reserves random words, and nothing else. -/
theorem State.captureAll_of_vmOp (s : State) (c : Convoy) {ms : List Instr} (h : ∀ i ∈ ms, vmOp i = none) :
    (∃ x, (s.captureAll c ms).1 = s.onThr fun t => { t with c := { t.c with rngctr := x } }) ∧
      (s.captureAll c ms).2.map Member.ins = ms := by
  induction ms generalizing s with
  | nil => exact ⟨⟨s.thr.c.rngctr, rfl⟩, rfl⟩
  | cons i l ih =>
    obtain ⟨hi, hl⟩ := List.forall_mem_cons.1 h
    unfold State.captureAll
    rw [s.captureMember_of_vmOp c hi]
    obtain ⟨⟨x, hx⟩, hm⟩ := ih (s.onThr fun t => { t with c := { t.c with
      rngctr := s.thr.c.rngctr + BitVec.ofNat 64 (c.blocks s.thr.vlmax i) } }) hl
    refine ⟨⟨x, ?_⟩, ?_⟩
    · exact hx
    · exact congrArg (i :: ·) hm

theorem State.captured_ins (s : State) {ms : List Instr} (h : ∀ i ∈ ms, vmOp i = none) : (s.captured ms).members.map Member.ins = ms :=
  (s.captureAll_of_vmOp s.emptyConvoy h).2

theorem State.captured_vmOp (s : State) {ms : List Instr} (h : ∀ i ∈ ms, vmOp i = none) : ∀ m ∈ (s.captured ms).members, vmOp m.ins = none := by
  intro m hm
  exact h _ (s.captured_ins h ▸ List.mem_map_of_mem hm)

/-! ### Posting (R31, R80, R368) -/

/-- The state in which a convoy has joined the vector queue, with RNGCTR where its reservation leaves it. -/
def State.joined (s : State) (rngctr : Word) (c : Convoy) : State :=
  s.onThr fun t => { t with c := { t.c with rngctr := rngctr }, vq := t.vq ++ [c] }

theorem State.posted_eq (s : State) {ms : List Instr} (h : ∀ i ∈ ms, vmOp i = none) (len n : Nat) :
    ∃ x, s.posted ms len n = (s.joined x (s.captured ms)).commitLen len n := by
  obtain ⟨⟨x, hx⟩, -⟩ := s.captureAll_of_vmOp s.emptyConvoy h
  refine ⟨x, ?_⟩
  unfold State.posted
  rw [hx]
  rfl

/-- What posting a convoy changes of the package: its thread alone. -/
theorem State.posted_state (s : State) {ms : List Instr} (h : ∀ i ∈ ms, vmOp i = none) (len n : Nat) :
    s.posted ms len n = { s with thr := (s.posted ms len n).thr } := by
  obtain ⟨x, hx⟩ := s.posted_eq h len n
  rw [hx]
  rfl

section
variable {s : State} (hs : vecClear s) {ms : List Instr} (hm : ∀ i ∈ ms, vmOp i = none) (len n : Nat)
include hs hm

/-- A thread whose streams are empty and undamaged comes to look for the arrival of its sources. -/
theorem State.postConvoy_of_clear :
    s.postConvoy ms len n =
      (s.thr.emptyFault ms).elim (if s.thr.vecStalled ms then .next s else .next (s.posted ms len n))
        fun f => .next (s.raiseEmpty .convoy f) := by
  obtain ⟨hc, -, -, hw⟩ := hs
  have hbad : ms.find? s.thr.badStream = none :=
    List.find?_eq_none.2 fun i hi => Bool.eq_false_iff.1 (s.thr.badStream_of_vmOp (hm i hi))
  have hmem : ((s.captureAll s.emptyConvoy ms).2.zipIdx.find? fun x => isMem x.1.ins) = none := by
    refine List.find?_eq_none.2 fun x hx => Bool.eq_false_iff.1 (isMem_of_vmOp (s.captured_vmOp hm x.1 ?_))
    obtain ⟨-, -, h⟩ := List.mem_zipIdx hx
    exact h ▸ List.getElem_mem _
  obtain ⟨hg, -, -⟩ := hc.unheld (ms.flatMap fun i => vGSources i ++ (vGDest i).toList) []
  obtain ⟨-, hd, hl⟩ := hc.unheld (ms.flatMap vGSources) (s.convoyCsrs ms)
  unfold State.postConvoy
  rw [hw]
  dsimp only
  rw [hg, hd, hl, hbad]
  rw [Bool.or_self, if_neg Bool.false_ne_true]
  cases s.thr.emptyFault ms with
  | some f => rfl
  | none =>
    dsimp only [Option.elim]
    rw [hmem]
    rfl

theorem State.postConvoy_of_full (hf : s.vecFull ms) : s.postConvoy ms len n = .next (s.posted ms len n) := by
  rw [State.postConvoy_of_clear hs hm, hf.emptyFault, hf.vecStalled hs.1]
  rfl

/-- What posting a convoy changes of its thread: the commit, the reservation of random words, the queue. -/
theorem State.posted_thr : (s.posted ms len n).thr = { s.thr with
      r := { s.thr.r with loops := (s.posted ms len n).thr.r.loops }
      c := { s.thr.c with rngctr := (s.posted ms len n).thr.c.rngctr, instret := (s.posted ms len n).thr.c.instret
                          pmc := (s.posted ms len n).thr.c.pmc }
      pc := (s.commitLen len n).thr.pc, wait := (s.posted ms len n).thr.wait, heldX := (s.posted ms len n).thr.heldX
      trace := (s.posted ms len n).thr.trace, vq := [s.captured ms] } := by
  obtain ⟨x, hx⟩ := s.posted_eq hm len n
  obtain ⟨⟨hv, -⟩, -⟩ := hs
  have hpc : ((s.joined x (s.captured ms)).commitLen len n).thr.pc = (s.commitLen len n).thr.pc :=
    State.commitLen_pc_congr (s := s.joined x (s.captured ms)) (u := s) rfl rfl rfl len n
  obtain ⟨hthr, hg⟩ := (s.joined x (s.captured ms)).commitLen_only len n
  rw [hx, ← hpc]
  generalize ((s.joined x (s.captured ms)).commitLen len n).thr = t at hthr hg
  have hq : (s.joined x (s.captured ms)).thr.vq = [s.captured ms] := congrArg (· ++ [s.captured ms]) hv
  rw [hthr, hg, hq]
  rfl

end

end Sys2Proof.Machine
end

section
/-! The traps of the vector stream at commit (R36, R80, R368), and the convoy that completes (R44, R129, R133). -/

namespace Sys2Proof.Machine

set_option Elab.async false

open Sys2Proof.Claim

/-! ### Traps at commit -/

theorem State.raiseEmpty_user {s : State} (h : s.Serial) (hv : s.thr.vq = []) (hu : s.thr.sup = false) (a : TrapAt) (f : FaultInfo) :
    s.raiseEmpty a f = s.enterTrap a f := by
  have he : s.thr.vq.isEmpty = true := by rw [hv]; rfl
  rw [State.raiseEmpty, he, Bool.or_true, if_pos rfl, State.raiseAt_user h hv hu]

/-- What a trap in user mode at a convoy's header reports (R368). -/
theorem State.enterTrap_convoy (s : State) (f : FaultInfo) (hf : f.cause < 256) :
    (s.enterTrap .convoy f).thr.sup = true ∧ (s.enterTrap .convoy f).thr.c.trappc = s.thr.pc.zeroExtend 64 ∧
      (s.enterTrap .convoy f).thr.c.trapcause = (s.thr.pc.zeroExtend 64 <<< 16) + BitVec.ofNat 64 (0x400 + f.cause) ∧
      (s.enterTrap .convoy f).thr.c.trapinfo = #v[f.i0, f.i1, f.i2, f.i3] := by
  refine ⟨s.enterTrap_sup _ f, s.enterTrap_trappc _ f, ?_, s.enterTrap_trapinfo _ f⟩
  have hlt : TrapAt.convoy.stream * 1024 + f.cause % 256 = 0x400 + f.cause := by
    rw [Nat.mod_eq_of_lt hf]
    rfl
  rw [s.enterTrap_trapcause, trapCause_eq_add _ _ _ (by omega), hlt]

theorem exec_convoy_of_illegal {o : COp} {s : State} (hs : vecClear s) (hu : s.thr.sup = false) (hm : s.convoyMembers o = none) :
    exec (.convoy o) s = .next (s.enterTrap .convoy { cause := cILLEGAL, i0 := insWord (.convoy o), i1 := 6 }) := by
  obtain ⟨⟨hv, -⟩, hser, -⟩ := hs
  rw [show exec (.convoy o) s = execConvoy o s from rfl, execConvoy, hm]
  exact congrArg _ (State.raiseAt_user hser hv hu _ _)

theorem exec_of_vOp_single {i : Instr} {o : VOp} {s : State} (h : vOp i = some o) (hs : vecClear s) : exec i s =
    (s.thr.emptyFault [i]).elim (if s.thr.vecStalled [i] then .next s else .next (s.posted [i] 1 1))
      fun f => .next (s.raiseEmpty .convoy f) :=
  (exec_of_vOp h s).trans (State.postConvoy_of_clear hs (List.forall_mem_singleton.2 (vmOp_of_vOp h)) 1 1)

/-- A word with one marked source, which is empty (R36). -/
theorem exec_of_trapBit {i : Instr} {o : VOp} {s : State} {n : Nat} {r : BitVec 6} (h : vOp i = some o) (hs : vecClear s)
    (hu : s.thr.sup = false) (hb : trapBits i = [(n, r)]) (hr : vget s.thr.r.arr r.toNat ≠ BitVec.allOnes 32) :
    exec i s = .next (s.enterTrap .convoy { cause := cVEC_EMPTY, i0 := r.zeroExtend 64, i1 := BitVec.ofNat 64 n }) := by
  rw [exec_of_vOp_single h hs, Thread.emptyFault_of_trapBit hb hr]
  obtain ⟨⟨hv, -⟩, hser, -⟩ := hs
  exact congrArg _ (State.raiseEmpty_user hser hv hu _ _)

/-- A word with no marked source and an empty one (R36). -/
theorem exec_of_emptySource {i : Instr} {o : VOp} {s : State} (h : vOp i = some o) (hs : vecClear s) (hb : trapBits i = [])
    (hr : ∃ r ∈ vSources i, vget s.thr.r.arr r.toNat ≠ BitVec.allOnes 32) : exec i s = .next s := by
  rw [exec_of_vOp_single h hs, s.thr.emptyFault_of_unmarked hb]
  obtain ⟨⟨hv, ht, -⟩, -⟩ := hs
  obtain ⟨r, hr, he⟩ := hr
  refine if_pos ?_
  rw [Thread.vecStalled_of_empty hv ht, List.any_eq_true]
  refine ⟨r, by simpa using hr, ?_⟩
  rw [Bool.eq_false_iff.2 (mt (s.thr.full_iff _).1 he)]
  rfl

/-! ### The members of a convoy that touches no memory -/

/-- Of a thread, only what members write that touch no memory: registers with their marks, flags, counters, the trace, the queue. -/
def Thread.OnlyVector (a b : Thread) : Prop :=
  b = { a with
    r := { a.r with g := b.r.g, v := b.r.v, k := b.r.k }
    c := { a.c with fstat := b.c.fstat, pmc := b.c.pmc }
    vdirty := b.vdirty, hwm := b.hwm, vq := b.vq, trace := b.trace }

theorem Thread.OnlyVector.trans {a b c : Thread} (h : a.OnlyVector b) (k : b.OnlyVector c) : a.OnlyVector c := by
  unfold Thread.OnlyVector at *
  rw [k, h]

theorem Thread.OnlyTrace.onlyVector {a b : Thread} (h : a.OnlyTrace b) : a.OnlyVector b := by
  unfold Thread.OnlyVector
  rw [h]

/-- The mask registers after an output. -/
def VOut.onK (o : VOut) (k : Vector MaskVal 16) : Vector MaskVal 16 :=
  match o.k with
  | some (d, m) => if d = 0 then k else vset k d.toNat m
  | none => k

/-- The `g` registers after an output. -/
def VOut.onG (o : VOut) (g : Vector Word 64) : Vector Word 64 :=
  match o.g with
  | some (d, x) => if d = 0 then g else vset g d.toNat x
  | none => g

/-- An output changes vector, mask and `g` registers, each from its own file. -/
theorem Regs.apply_eq (r : Regs) (o : VOut) :
    r.apply o = { r with v := o.v.foldl (fun v (d, x, _) => vset v d.toNat x) r.v, k := o.onK r.k, g := o.onG r.g } := by
  obtain ⟨v, k, g, fl⟩ := o
  unfold Regs.apply VOut.onK VOut.onG
  rcases k with _ | ⟨d, m⟩
  · rcases g with _ | ⟨e, x⟩
    · rfl
    · dsimp only
      split <;> rfl
  · rcases g with _ | ⟨e, x⟩
    · dsimp only
      split <;> rfl
    · dsimp only
      by_cases hd : d = 0
      · rw [if_pos hd, if_pos hd]
        split <;> rfl
      · rw [if_neg hd, if_neg hd]
        split <;> rfl

theorem Thread.applyOut_onlyVector (t : Thread) (o : VOut) : t.OnlyVector (t.applyOut o) := by
  unfold Thread.OnlyVector Thread.applyOut
  dsimp only
  rw [t.r.apply_eq o]

theorem State.OnlyThread.trans {s t u : State} (h : s.OnlyThread t) (k : t.OnlyThread u) : s.OnlyThread u := by
  unfold State.OnlyThread at *
  rw [k, h]

/-- No vector register is damaged, and no compare fails. -/
def Damage.vecSound (d : Damage) : Prop := d.vec = [] ∧ d.mismatch = []

theorem Damage.vecSound.rewriteVec {d : Damage} (h : d.vecSound) (core slot r n : Nat) : (d.rewriteVec core slot r n).vecSound := by
  obtain ⟨hv, hm⟩ := h
  refine ⟨?_, hm⟩
  rw [Damage.rewriteVec, hv, List.filter_nil]

theorem Damage.vecSound.rewriteG {d : Damage} (h : d.vecSound) (core slot r : Nat) : (d.rewriteG core slot r).vecSound := h

theorem State.applyOut_vecSound {s : State} (h : s.damage.vecSound) (o : VOut) : (s.applyOut o).damage.vecSound := by
  have hf := List.foldlRecOn (motive := Damage.vecSound) o.v
    (fun d x => d.rewriteVec s.thr.id.core s.thr.id.slot x.1.toNat x.2.2) h fun d hd x _ => hd.rewriteVec _ _ _ _
  unfold State.applyOut
  dsimp only
  split
  · exact hf.rewriteG _ _ _
  · exact hf

theorem State.vecDamage_of_sound {s : State} (h : s.damage.vecSound) (l : List VRead) : s.vecDamage l = (s, []) := by
  unfold State.vecDamage
  rw [h.1]
  rfl

theorem State.vecMismatch_of_sound {s : State} (h : s.damage.vecSound) (m : Member) (a : CodeAddr) (slot : Nat) :
    s.vecMismatch m a slot = (s, none) := by
  unfold State.vecMismatch State.mismatches
  rw [h.2]
  rfl

/-- What a member without memory accesses computes, its effect, and its flags. -/
theorem State.runMember_of_vmOp {s : State} (hd : s.damage.vecSound) {c : Convoy} {m : Member} (hm : vmOp m.ins = none) (slot : Nat) :
    s.runMember c slot m =
      ((s.count 6 (c.memberEgs s.thr.vlmax s.thr.r m)).applyOut (laneOf (c.env s.thr.vlmax s.thr.r m) m.ins),
        (laneOf (c.env s.thr.vlmax s.thr.r m) m.ins).flags, none) := by
  unfold State.runMember
  dsimp only
  rw [State.vecDamage_of_sound hd]
  dsimp only
  rw [State.vecMismatch_of_sound hd]
  dsimp only
  rw [hm]
  rfl

/-- What members in order make of the registers, each from what those before it left, and the flags that they raise (R129). -/
def Convoy.lanes (c : Convoy) (vlmax : Nat) : List Member → Regs → Regs × FFlags
  | [], r => (r, 0)
  | m :: l, r =>
    let out := laneOf (c.env vlmax r m) m.ins
    ((Convoy.lanes c vlmax l (r.apply out)).1, out.flags ||| (Convoy.lanes c vlmax l (r.apply out)).2)

theorem Convoy.lanes_regs (c : Convoy) (vlmax : Nat) (l : List Member) (r : Regs) :
    (c.lanes vlmax l r).1 = l.foldl (fun r m => r.apply (laneOf (c.env vlmax r m) m.ins)) r := by
  induction l generalizing r with
  | nil => rfl
  | cons m l ih => exact ih _

theorem VEnv.scanGo_loops (e : VEnv) (x : Vector Loop 3) (op : RedOp) (o : VOp) (c : RCtx) (l : List Nat) (acc : Nat) :
    VEnv.scanGo { e with r := { e.r with loops := x } } op o c l acc = e.scanGo op o c l acc := by
  induction l generalizing acc with
  | nil => rfl
  | cons n l ih =>
    unfold VEnv.scanGo
    dsimp only
    rw [ih]
    rfl

theorem laneVscan_loops (e : VEnv) (x : Vector Loop 3) (op : RedOp) (o : VOp) :
    laneVscan { e with r := { e.r with loops := x } } op o = laneVscan e op o := by
  unfold laneVscan
  dsimp only
  rw [VEnv.scanGo_loops]
  rfl

/-- What a member computes does not depend on the loop counters. -/
theorem laneOf_loops (e : VEnv) (x : Vector Loop 3) (i : Instr) : laneOf { e with r := { e.r with loops := x } } i = laneOf e i := by
  unfold laneOf
  split
  case h_35 => exact laneVscan_loops e x _ _
  all_goals rfl

theorem Regs.apply_loops (r : Regs) (x : Vector Loop 3) (o : VOut) : ({ r with loops := x } : Regs).apply o = { r.apply o with loops := x } := by
  rw [Regs.apply_eq, Regs.apply_eq]

theorem Convoy.lanes_loops (c : Convoy) (vlmax : Nat) (l : List Member) (r : Regs) (x : Vector Loop 3) :
    c.lanes vlmax l { r with loops := x } = ({ (c.lanes vlmax l r).1 with loops := x }, (c.lanes vlmax l r).2) := by
  induction l generalizing r with
  | nil => rfl
  | cons m l ih =>
    unfold Convoy.lanes
    dsimp only
    rw [show laneOf (c.env vlmax { r with loops := x } m) m.ins = laneOf (c.env vlmax r m) m.ins from
      laneOf_loops (c.env vlmax r m) x m.ins, Regs.apply_loops, ih]

/-- The state after members that touch no memory (R44, R129). -/
theorem State.runMembers_of_vmOp {c : Convoy} {l : List (Member × Nat)} (hm : ∀ x ∈ l, vmOp x.1.ins = none) {s : State}
    (hd : s.damage.vecSound) :
    ∃ u, s.runMembers c l = (u, (c.lanes s.thr.vlmax (l.map Prod.fst) s.thr.r).2, none) ∧ s.OnlyThread u ∧ s.thr.OnlyVector u.thr ∧
      u.thr.r = (c.lanes s.thr.vlmax (l.map Prod.fst) s.thr.r).1 ∧ u.thr.vq = s.thr.vq ∧ u.thr.c.fstat = s.thr.c.fstat := by
  induction l generalizing s with
  | nil => exact ⟨s, rfl, rfl, rfl, rfl, rfl, rfl⟩
  | cons x l ih =>
    obtain ⟨m, slot⟩ := x
    obtain ⟨hx, hl⟩ := List.forall_mem_cons.1 hm
    have hrun := State.runMember_of_vmOp hd hx slot (c := c)
    generalize hout : laneOf (c.env s.thr.vlmax s.thr.r m) m.ins = out at hrun
    generalize c.memberEgs s.thr.vlmax s.thr.r m = n at hrun
    obtain ⟨u, hu, hthr, hvec, hr, hq, hfl⟩ := ih hl (s := (s.count 6 n).applyOut out) (State.applyOut_vecSound hd out)
    refine ⟨u, ?_, State.OnlyThread.trans (show s.OnlyThread ((s.count 6 n).applyOut out) from rfl) hthr, ((s.thr.count_only 6 n).onlyVector.trans (Thread.applyOut_onlyVector _ out)).trans hvec,
      ?_, hq, hfl⟩
    · unfold State.runMembers
      rw [hrun]
      dsimp only
      rw [hu]
      refine congrArg (fun f => (u, f, none)) ?_
      rw [← hout]
      rfl
    · rw [hr, ← hout]
      rfl

/-! ### Completion (R44) -/

/-- A convoy alone in its queue that touches no memory completes: its registers, its flags, and nothing else of the thread. -/
theorem exec_convoyComplete_of_vmOp {s : State} {c : Convoy} (hq : s.thr.vq = [c]) (hm : ∀ m ∈ c.members, vmOp m.ins = none)
    (hd : s.damage.vecSound) :
    ∃ u, exec .convoyComplete s = .next u ∧ s.OnlyThread u ∧ s.thr.OnlyVector u.thr ∧ u.thr.vq = [] ∧
      u.thr.r = (c.lanes s.thr.vlmax c.members s.thr.r).1 ∧
      u.thr.c.fstat = s.thr.c.fstat ||| (c.lanes s.thr.vlmax c.members s.thr.r).2.zeroExtend 64 := by
  have hz : ∀ x ∈ c.members.zipIdx, vmOp x.1.ins = none := fun x hx => by
    obtain ⟨-, -, h⟩ := List.mem_zipIdx hx
    exact hm _ (h ▸ List.getElem_mem _)
  have hw : s.convoyWaits c = false := by
    have : (c.members.zipIdx.find? fun x => isMem x.1.ins) = none :=
      List.find?_eq_none.2 fun x hx => Bool.eq_false_iff.1 (isMem_of_vmOp (hz x hx))
    unfold State.convoyWaits
    rw [this]
  obtain ⟨u, hu, hthr, hvec, hr, hvq, hfl⟩ := State.runMembers_of_vmOp hz hd (c := c)
  rw [List.zipIdx_map_fst] at hu hr
  generalize hf : (c.lanes s.thr.vlmax c.members s.thr.r).2 = fl at hu
  have hrun : s.runConvoy c = (((u.orFlags fl).count 5 1).emit 3
      ((c.members.length - 1) * 2 ^ 56 + min (u.cycle - c.began) 65535 * 2 ^ 40 + u.time), none) := by
    unfold State.runConvoy
    rw [hu]
    rfl
  generalize (c.members.length - 1) * 2 ^ 56 + min (u.cycle - c.began) 65535 * 2 ^ 40 + u.time = p at hrun
  have hone : (u.orFlags fl).thr.OnlyTrace (((u.orFlags fl).count 5 1).emit 3 p).thr :=
    ((u.orFlags fl).thr.count_only 5 1).trans (Thread.emit_only _ _ 3 p)
  refine ⟨(((u.orFlags fl).count 5 1).emit 3 p).onThr fun t => t.dropConvoy u.cycle, ?_, hthr.trans ?_, hvec.trans ?_, ?_, ?_, ?_⟩
  · rw [show exec .convoyComplete s = execConvoyComplete s from rfl, execConvoyComplete, hq]
    dsimp only
    rw [hw, hrun]
    rfl
  · rfl
  · exact (show u.thr.OnlyVector (u.orFlags fl).thr from rfl).trans (hone.onlyVector.trans rfl)
  · show (Thread.dropConvoy _ _).vq = []
    unfold Thread.dropConvoy
    rw [hone]
    show (match u.thr.vq.tail with | [] => [] | c :: l => _) = []
    rw [hvq, hq]
    rfl
  · show (((u.orFlags fl).count 5 1).emit 3 p).thr.r = _
    rw [hone]
    exact hr
  · show (((u.orFlags fl).count 5 1).emit 3 p).thr.c.fstat = _
    rw [hone]
    exact congrArg (· ||| fl.zeroExtend 64) hfl

/-! ### A word or convoy from its commit to its completion -/

/-- What a convoy without memory accesses makes of the registers and flags at its commit (R129). -/
def State.convoyLanes (s : State) (ms : List Instr) : Regs × FFlags := (s.captured ms).lanes s.thr.vlmax (s.captured ms).members s.thr.r

/-- A convoy without memory accesses, once it is posted, completes: its members' results are there, and nothing else is changed. -/
theorem State.posted_completes {s : State} (hs : vecClear s) {ms : List Instr} (hm : ∀ i ∈ ms, vmOp i = none) (len n : Nat) :
    ∃ u, exec .convoyComplete (s.posted ms len n) = .next u ∧ s.OnlyThread u ∧ (s.posted ms len n).thr.OnlyVector u.thr ∧ u.thr.vq = [] ∧
      u.thr.r = { (s.convoyLanes ms).1 with loops := (s.posted ms len n).thr.r.loops } ∧
      u.thr.c.fstat = s.thr.c.fstat ||| (s.convoyLanes ms).2.zeroExtend 64 := by
  have hp := State.posted_thr hs hm len n
  have hst := s.posted_state hm len n
  obtain ⟨⟨-, -, -, hmis, -⟩, -, hvec, -⟩ := hs
  generalize s.posted ms len n = p at hp hst
  obtain ⟨u, hu, honly, hov, hvq, hr, hfl⟩ := exec_convoyComplete_of_vmOp (s := p) (by rw [hp]) (s.captured_vmOp hm)
    (by rw [hst]; exact ⟨hvec, hmis⟩)
  have hlanes : (s.captured ms).lanes p.thr.vlmax (s.captured ms).members p.thr.r =
      ({ (s.convoyLanes ms).1 with loops := p.thr.r.loops }, (s.convoyLanes ms).2) := by
    rw [hp]
    exact (s.captured ms).lanes_loops s.thr.vlmax _ s.thr.r _
  rw [hlanes] at hr hfl
  refine ⟨u, hu, State.OnlyThread.trans (by rw [hst]; rfl) honly, hov, hvq, hr, ?_⟩
  rw [hfl, hp]

/-- The environment that a single word captures (R129). -/
theorem State.captured_env (s : State) {i : Instr} {o : VOp} (h : vOp i = some o) :
    (s.captured [i]).env s.thr.vlmax s.thr.r (s.laneMember i) = envAt s o := by
  have hc : shapeCols s.thr.c.shape = s.thr.c.shape.toNat % 4096 := by
    rw [shapeCols, BitVec.extractLsb'_toNat, Nat.shiftRight_zero]
  have hr : shapeRows s.thr.c.shape = s.thr.c.shape.toNat / 4096 % 4096 := by
    rw [shapeRows, BitVec.extractLsb'_toNat, Nat.shiftRight_eq_div_pow]
  unfold Convoy.env envAt State.laneMember
  rw [h, ← hc, ← hr]
  rfl

theorem State.convoyLanes_single (s : State) {i : Instr} {o : VOp} (h : vOp i = some o) :
    s.convoyLanes [i] = (s.thr.r.apply (laneOf (envAt s o) i), (laneOf (envAt s o) i).flags) := by
  have hmem : (s.captured [i]).members = [s.laneMember i] := by
    unfold State.captured State.captureAll
    rw [s.captureMember_of_vmOp _ (vmOp_of_vOp h)]
    rfl
  unfold State.convoyLanes
  rw [hmem]
  unfold Convoy.lanes Convoy.lanes
  rw [s.captured_env h]
  exact congrArg _ (BitVec.or_zero)

theorem vectorOne : VectorOne := by
  intro i o s h hs hf
  have hm : ∀ j ∈ [i], vmOp j = none := List.forall_mem_singleton.2 (vmOp_of_vOp h)
  have hp := State.posted_thr hs hm 1 1
  obtain ⟨u, hu, honly, hov, hvq, hr, hfl⟩ := State.posted_completes hs hm 1 1
  rw [s.convoyLanes_single h] at hr hfl
  refine ⟨s.posted [i] 1 1, u, ?_, hu, ?_, ?_, ?_, ?_, ?_, ⟨?_, ?_, ?_, hfl⟩, hvq, ?_, ?_, ?_, honly⟩
  · exact (exec_of_vOp h s).trans (State.postConvoy_of_full hs hm 1 1 (List.forall_mem_singleton.2 hf))
  · rw [hp]; rfl
  · rw [hp]
  · rw [hp]
  · rw [hp]
  · rw [hp]
  · rw [hr]
  · rw [hr]
  · rw [hr]
  · rw [hov]
  · rw [hov, hp]
  · intro a
    rw [honly]

theorem convoyResult : ConvoyResult := by
  intro o s ms ho hs hf
  have hm : ∀ i ∈ ms, vmOp i = none := fun i hi => (hf i hi).2
  have hp := State.posted_thr hs hm (ms.length + 1) ms.length
  obtain ⟨u, hu, honly, hov, hvq, hr, hfl⟩ := State.posted_completes hs hm (ms.length + 1) ms.length
  refine ⟨s.posted ms (ms.length + 1) ms.length, u, s.captured ms, ?_, hu, ?_, s.captured_ins hm, ?_, ?_, ⟨?_, ?_, ?_⟩, hvq, ?_⟩
  · rw [show exec (.convoy o) s = execConvoy o s from rfl, execConvoy, ho]
    exact State.postConvoy_of_full hs hm _ _ fun i hi => (hf i hi).1
  · rw [hp]
  · rw [hp]
  · rw [hp]
  · rw [hr, ← Convoy.lanes_regs]; rfl
  · rw [hr, ← Convoy.lanes_regs]; rfl
  · rw [hr, ← Convoy.lanes_regs]; rfl
  · intro a
    rw [honly]

end Sys2Proof.Machine

namespace Sys2Proof

open Machine Claim

/-- Settles O20: the trap of a header that `convoyMembers` refuses, the trap of a marked source, and the wait of an unmarked one are each
one branch of `postConvoy`. -/
theorem convoyTraps : Obligations.ConvoyTraps := by
  unfold Obligations.ConvoyTraps
  refine fun s hs hu => ⟨fun o hm => ?_, fun i o n r h hb hr => ?_, fun i o h hb hr => exec_of_emptySource h hs hb hr⟩
  · exact ⟨_, exec_convoy_of_illegal hs hu hm, s.enterTrap_convoy _ (show cILLEGAL < 256 by decide)⟩
  · obtain ⟨hsup, -, hcause, hinfo⟩ := s.enterTrap_convoy
      { cause := cVEC_EMPTY, i0 := r.zeroExtend 64, i1 := BitVec.ofNat 64 n } (show cVEC_EMPTY < 256 by decide)
    exact ⟨_, exec_of_trapBit h hs hu hb hr, hsup, hcause, hinfo⟩

/-- Settles O21: a convoy that is posted completes with what `Convoy.lanes` computes from what it captured (`State.posted_completes`); a
single word is a convoy of one. -/
theorem vectorResult : Obligations.VectorResult := ⟨vectorOne, convoyResult⟩

end Sys2Proof
end

section
/-! Posting a tile instruction (R31, R60, R157, R163, R177): what its captured operands are checked for, what keeps it from its place in
the queue, and its entry. -/

namespace Sys2Proof.Machine

set_option Elab.async false

open Sys2Proof.Claim

/-! ### The instructions that post an entry -/

theorem exec_of_tilePosted {i : Instr} {o : TOp} (h : tilePosted i = some o) (s : State) : exec i s = s.postTile i := by
  unfold tilePosted at h
  split at h
  case h_4 hgetr hgetc hwait =>
    unfold tOp at h
    split at h
    case h_7 => exact absurd rfl (hgetr _)
    case h_8 => exact absurd rfl (hgetc _)
    case h_26 => exact absurd rfl (hwait _ _)
    all_goals cases h
    all_goals rfl
  all_goals cases h

theorem tOp_of_tilePosted {i : Instr} {o : TOp} (h : tilePosted i = some o) : tOp i = some o := by
  unfold tilePosted at h
  split at h
  case h_4 => exact h
  all_goals cases h

/-! ### The checks of captured operands -/

/-- The formats of a tile that carry scales (R55). -/
theorem tileFmt_of_scaled {f : Nat} (h5 : 5 ≤ f) (h16 : f ≤ 16) : ∃ x, tileFmt f = some x ∧ x.scaled = true := by
  interval_cases f
  all_goals exact ⟨_, rfl, rfl⟩

theorem extractLsb'_eq_div (x : Word) (lo n : Nat) : (x.extractLsb' lo n).toNat = x.toNat / 2 ^ lo % 2 ^ n := by
  rw [BitVec.extractLsb'_toNat, Nat.shiftRight_eq_div_pow]

theorem State.tileValueBad_of_legal {s : State} {i : Instr} (h : tileLegal s i) : s.tileValueBad i = none := by
  unfold tileLegal at h
  split at h
  case h_1 o =>
    obtain ⟨hlt, hvalid⟩ := h
    have hhigh : (s.g (o.g.zeroExtend 6)).extractLsb' 32 32 = 0 := by
      refine BitVec.eq_of_toNat_eq ?_
      rw [extractLsb'_eq_div, Nat.div_eq_of_lt hlt]
      rfl
    unfold State.tileValueBad
    dsimp only
    rw [hhigh, hvalid]
    rfl
  case h_2 o =>
    obtain ⟨hlt, h6, h5', h6', hf, hax⟩ := h
    have hrm : ((s.g (o.g.zeroExtend 6)).extractLsb' 8 3).toNat = (s.g (o.g.zeroExtend 6)).toNat / 2 ^ 8 := by
      rw [extractLsb'_eq_div]
      omega
    have hfmt : ((s.g (o.g.zeroExtend 6)).extractLsb' 0 5).toNat = (s.g (o.g.zeroExtend 6)).toNat % 32 := by
      rw [extractLsb'_eq_div, pow_zero, Nat.div_one]
      rfl
    have hrz : (s.g (o.g.zeroExtend 6)).extractLsb' 6 2 = 0 := by
      refine BitVec.eq_of_toNat_eq ?_
      rw [extractLsb'_eq_div]
      exact h6
    have hbit : (s.g (o.g.zeroExtend 6)).getLsbD 5 = decide ((s.g (o.g.zeroExtend 6)).toNat / 2 ^ 5 % 2 = 1) := by
      rw [BitVec.getLsbD, Nat.testBit_eq_decide_div_mod_eq]
    unfold State.tileValueBad
    dsimp only
    rw [hrm, hfmt, hrz, hbit]
    generalize (s.g (o.g.zeroExtend 6)).toNat = g at *
    have hhigh : g / 2 ^ 11 = 0 := Nat.div_eq_of_lt hlt
    refine if_neg ?_
    by_cases hb : g / 2 ^ 5 % 2 = 1
    · obtain ⟨x, hx, hs⟩ := tileFmt_of_scaled (hax hb).1 (hax hb).2
      simp [hx, hs, hf]
      omega
    · have hb' : ¬ g / 32 % 2 = 1 := hb
      simp [hb', hf]
      omega
  case h_3 h1 h2 =>
    unfold State.tileValueBad
    split
    · exact absurd rfl (h1 _)
    · exact absurd rfl (h2 _)
    · rfl

/-! ### Nothing holds the instruction back -/

/-- A sync point waits for no entry where none meets its condition (R34). -/
theorem State.syncOn_of_none {s : State} {p : TqEnt → Bool} (h : ∀ e ∈ s.thr.tq, p e = false) : s.syncOn p = none := by
  have hany : (s.thr.tq.any fun e => p e && s.thr.moving e) = false :=
    List.any_eq_false.2 fun e he => by rw [h e he]; exact Bool.false_ne_true
  have hfilter : s.thr.tq.filter p = [] := List.filter_eq_nil_iff.2 fun e he => by rw [h e he]; exact Bool.false_ne_true
  unfold State.syncOn
  rw [hany, hfilter]
  split
  · rfl
  · rfl

theorem Thread.vqPending_of_empty {t : Thread} (h : t.vq = []) (rs : List (BitVec 6)) : t.vqPending rs = false := by
  rw [Thread.vqPending, h, List.any_nil]

/-- With no convoy, and no entry that writes a `g` register, no interlock holds. -/
theorem State.gWait_of_quiet {s : State} (hv : s.thr.vq = []) (ht : ∀ e ∈ s.thr.tq, tGDest e.ins = none) (rs : List (BitVec 6)) :
    s.gWait rs = none := by
  rw [State.gWait, Thread.vqPending_of_empty hv, if_neg Bool.false_ne_true]
  refine State.syncOn_of_none fun e he => ?_
  rw [ht e he]

/-- The Philox blocks of a posting are those of its rounding mode and its source's shape (R60). -/
theorem State.postTile_of_free {s : State} {i : Instr} (hf : tileFree s i) (hu : s.thr.sup = false) (hl : tileLegal s i) :
    s.postTile i = .next (s.enqueueTile i (tileBlocks s i)) := by
  obtain ⟨hser, hw, hv, hlen, hg, hd, hc, hp, hmap⟩ := hf
  have hready : (!s.thr.tmapReady && s.mapNeeded i) = false := by
    rcases hmap with h | h
    · rw [h]; rfl
    · rw [h, Bool.and_false]
  unfold State.postTile
  rw [hw]
  dsimp only
  rw [State.gWait_of_quiet hv hg, Thread.vqPending_of_empty hv, hd, hc, hu, hser.guessing, hready, State.tileValueBad_of_legal hl, hp,
    hser.speculative]
  simp only [Bool.or_self, Bool.false_and, Bool.false_eq_true, if_false]
  rw [if_neg (by omega)]
  unfold tileBlocks
  cases s.tileRounds i with
  | none => rfl
  | some x =>
    obtain ⟨m, ma⟩ := x
    cases m with
    | sr => rfl
    | _ => rfl

/-! ### The entry and the commit -/

/-- The state in which the entry of an instruction stands in the queue, before its word commits. -/
def State.tileQueued (s : State) (i : Instr) (o : TOp) : State :=
  s.onThr fun t => { t with tq := t.tq ++ [tileEntry s i o], posts := t.posts + 1
                            c := { t.c with rngctr := t.c.rngctr + BitVec.ofNat 64 (tileBlocks s i) } }

theorem State.enqueueTile_eq {i : Instr} {o : TOp} (h : tOp i = some o) (s : State) :
    s.enqueueTile i (tileBlocks s i) = (s.tileQueued i o).commit := by
  unfold State.enqueueTile
  rw [h]
  rfl

theorem State.tileQueued_commit (s : State) (i : Instr) (o : TOp) :
    let t := (s.tileQueued i o).commit
    t.thr.tq = s.thr.tq ++ [tileEntry s i o] ∧ t.thr.posts = s.thr.posts + 1 ∧ t.thr.pc = s.commit.thr.pc ∧
      t.thr.c.rngctr = s.thr.c.rngctr + BitVec.ofNat 64 (tileBlocks s i) ∧ t.thr.c.fstat = s.thr.c.fstat ∧ t.thr.tmap = s.thr.tmap ∧
      t.thr.r.v = s.thr.r.v ∧ t.thr.r.arr = s.thr.r.arr ∧ s.KeepsG t [] ∧ s.KeepsMem t ∧ s.OnlyThread t := by
  obtain ⟨hthr, -⟩ := (s.tileQueued i o).commit_only
  have hg : s.KeepsG (s.tileQueued i o).commit [] := fun r _ => State.commit_g _ r
  have hpc : (s.tileQueued i o).commit.thr.pc = s.commit.thr.pc :=
    State.commitLen_pc_congr (s := s.tileQueued i o) (u := s) rfl rfl rfl 1 1
  refine ⟨?_, ?_, hpc, ?_, ?_, ?_, ?_, ?_, hg, fun _ => rfl, rfl⟩
  all_goals rw [hthr]
  all_goals rfl

end Sys2Proof.Machine

namespace Sys2Proof

open Machine Claim

/-- Settles O24: `State.postTile_of_free` posts the entry, and `State.tileQueued_commit` says what that leaves. -/
theorem tilePosting : Obligations.TilePosting := by
  unfold Obligations.TilePosting
  intro i o s hi hf hu hl
  refine ⟨(s.tileQueued i o).commit, ?_, s.tileQueued_commit i o⟩
  rw [exec_of_tilePosted hi, State.postTile_of_free hf hu hl, State.enqueueTile_eq (tOp_of_tilePosted hi)]

end Sys2Proof
end

section
/-! The entries and slots of the tile store, and the numbers that registers make: what a write shows and what it leaves (R224, R227). -/

namespace Sys2Proof.Machine

set_option Elab.async false

/-! ### Slots and cores -/

theorem Core.slotAt_putSlot_same (c : Core) (x : Slot) : (c.putSlot x).slotAt x.num = some x := by
  have hrest : ∀ y ∈ c.slots.filter fun y => y.num != x.num, ¬ (y.num == x.num) = true := fun y hy => by
    simpa using (List.mem_filter.1 hy).2
  unfold Core.putSlot Core.slotAt
  dsimp only
  rw [List.find?_append, List.find?_append,
    List.find?_eq_none.2 fun y hy => hrest y ((List.takeWhile_sublist _).subset hy)]
  simp

theorem Core.slotAt_putSlot_other (c : Core) (x : Slot) {n : Nat} (h : n ≠ x.num) : (c.putSlot x).slotAt n = c.slotAt n := by
  have hx : (x.num == n) = false := by simpa using Ne.symm h
  unfold Core.putSlot Core.slotAt
  dsimp only
  rw [List.find?_append, List.find?_append, List.find?_singleton, if_neg (by simp [hx]), Option.or_none, ← List.find?_append,
    List.takeWhile_append_dropWhile, List.find?_filter]
  congr 1
  funext y
  by_cases hy : y.num = n
  · simp [hy, h]
  · simp [hy]

theorem State.core_setCore_other (s : State) {n m : Nat} (c : Core) (h : n % 192 ≠ m % 192) : (s.setCore n c).core m = s.core m :=
  vget_vset_other _ _ _ _ h

/-- A core's number counts below 192, and the cores of the vector are those. -/
theorem State.core_setCore (s : State) (n m : Nat) (c : Core) :
    (s.setCore n c).core m = if m % 192 = n % 192 then c else s.core m := by
  split
  case isTrue h =>
    unfold State.core State.setCore vget vset
    simp [h]
  case isFalse h => exact s.core_setCore_other c (Ne.symm h)

/-! ### Entries of the installed map -/

theorem State.ent_setEnt_same (s : State) {n : Nat} (e : TEnt) (h : n < s.thr.tmap.length) : (s.setEnt n e).ent n = e := by
  simp [State.ent, State.setEnt, Thread.ent, Thread.setEnt, h]

theorem State.ent_setEnt_other (s : State) {n m : Nat} (e : TEnt) (h : m ≠ n) : (s.setEnt n e).ent m = s.ent m := by
  simp [State.ent, State.setEnt, Thread.ent, Thread.setEnt, List.getElem?_set_ne (Ne.symm h)]

end Sys2Proof.Machine
end

section
/-! Tile sync points (R34, R170, R181, R369): what `TWAIT` waits for, and what a get of a line writes. -/

namespace Sys2Proof.Machine

set_option Elab.async false

open Sys2Proof.Claim

/-! ### The wait for older entries (R34, R369) -/

/-- A thread whose `g` registers nothing is to write executes an instruction that reads none. -/
theorem State.scalar_of_quiet {s : State} (hv : s.thr.vq = []) (ht : ∀ e ∈ s.thr.tq, tGDest e.ins = none) (hd : s.gDamaged [] = false)
    (hm : s.takeMismatch = (0, s)) (i : Instr) (f : State → Out) : s.scalar i [] [] f = f s := by
  unfold State.scalar
  rw [State.gWait_of_quiet hv ht]
  dsimp only
  rw [hd, hm]
  rfl

/-- With no fault held, a sync point waits for the entries that meet its condition. -/
theorem State.syncOn_of_unheld {s : State} {p : TqEnt → Bool} (hu : s.thr.sup = false) (he : ∃ e ∈ s.thr.tq, p e = true)
    (hf : ∀ e ∈ s.thr.tq, ∀ f, e.st ≠ .held f) : s.syncOn p = some s := by
  have hfind : (s.thr.tq.filter p).getLast? ≠ none := by
    obtain ⟨e, hm, hp⟩ := he
    exact fun h => List.ne_nil_of_mem (List.mem_filter.2 ⟨hm, hp⟩) (List.getLast?_eq_none_iff.1 h)
  obtain ⟨l, hl⟩ := Option.ne_none_iff_exists'.1 hfind
  unfold State.syncOn
  rw [hu, hl]
  dsimp only
  rw [List.findSome?_eq_none_iff.2]
  · rfl
  · intro e hm
    split
    · next f h => exact absurd h (hf e hm f)
    · rfl

/-- The fault of the oldest entry, where that is held, is taken at the sync point. -/
theorem State.syncOn_of_held {s : State} {p : TqEnt → Bool} {e : TqEnt} {f : FaultInfo} {l : List TqEnt} (hu : s.thr.sup = false)
    (hq : s.thr.tq = e :: l) (hl : ∀ x ∈ l, e.post ≤ x.post) (hf : e.st = .held f) (hp : p e = true) :
    s.syncOn p = some (s.raiseAt (.tile e.pc e.post) f) := by
  have hne : (s.thr.tq.filter p).getLast? ≠ none := by
    rw [hq, List.filter_cons_of_pos hp]
    simp
  obtain ⟨x, hx⟩ := Option.ne_none_iff_exists'.1 hne
  have hpost : e.post ≤ x.post := by
    have hmem : x ∈ e :: l := hq ▸ (List.mem_filter.1 (List.mem_of_getLast? hx)).1
    rcases List.mem_cons.1 hmem with h | h
    · rw [h]
    · exact hl x h
  unfold State.syncOn
  rw [hu, hx]
  dsimp only
  rw [hq, List.findSome?_cons, hf]
  dsimp only
  rw [if_pos hpost]
  rfl

theorem tileWait : TileWait := by
  intro all o s hu hs hv hd hm ht
  have hexec : exec (.twait all o) s = (s.syncOn fun e => all || tqWrites o.ma e).elim (.next s.commit) .next := by
    show execTwait all o s = _
    unfold execTwait
    rw [State.scalar_of_quiet hv ht hd hm, hu, if_neg Bool.false_ne_true]
    cases s.syncOn fun e => all || tqWrites o.ma e with
    | none => rfl
    | some t => rfl
  rw [hexec]
  refine ⟨fun h => ?_, fun he hf => ?_, fun e f l hq hl hf hp => ?_⟩
  · rw [State.syncOn_of_none fun e he => by rw [(h e he).1, (h e he).2]; rfl, Option.elim_none]
  · have hp : ∃ e ∈ s.thr.tq, (all || tqWrites o.ma e) = true := by simpa only [Bool.or_eq_true] using he
    rw [State.syncOn_of_unheld hu hp hf, Option.elim_some]
  · rw [State.syncOn_of_held hu hq hl hf (Bool.or_eq_true _ _ ▸ hp), State.raiseAt_user hs hv hu,
      Option.elim_some]
    exact ⟨_, rfl, State.enterTrap_sup .., State.enterTrap_trappc .., State.enterTrap_trapcause .., State.enterTrap_tqindex ..,
      State.enterTrap_trapinfo ..⟩

/-! ### Bits written from the start of a register -/

/-- The low bits are those written, and the bits above are as they were. -/
theorem putRange_zero_toNat {k : Nat} (r : BitVec k) {len : Nat} (v : Nat) (h : len ≤ k) :
    (putRange r 0 len v).toNat = r.toNat / 2 ^ len * 2 ^ len + v % 2 ^ len := by
  have hlt : ∀ x, x % 2 ^ len < 2 ^ len := fun x => Nat.mod_lt _ (Nat.two_pow_pos _)
  have hle : 2 ^ len ≤ 2 ^ k := Nat.pow_le_pow_right (by decide) h
  refine Nat.eq_of_testBit_eq fun i => ?_
  rw [Nat.mul_comm, Nat.testBit_two_pow_mul_add _ (hlt v), Nat.testBit_div_two_pow]
  unfold putRange
  simp only [BitVec.shiftLeft_zero, BitVec.testBit_toNat, BitVec.getLsbD_or, BitVec.getLsbD_and, BitVec.getLsbD_not, BitVec.getLsbD_ofNat,
    Nat.testBit_two_pow_sub_one, Nat.testBit_mod_two_pow]
  by_cases hi : i < len
  · simp [hi, hi.trans_le h]
  · simp only [hi, if_false, decide_false, Bool.and_false, Bool.not_false, Bool.and_true, Bool.false_and, Bool.or_false]
    rw [Nat.sub_add_cancel (Nat.le_of_not_lt hi)]
    by_cases hk : i < k
    · simp [hk]
    · simp [hk, BitVec.getLsbD_of_ge _ _ (Nat.le_of_not_lt hk)]

theorem putRange_zero_mod {k : Nat} (r : BitVec k) {len : Nat} (v : Nat) (h : len ≤ k) :
    (putRange r 0 len v).toNat % 2 ^ len = v % 2 ^ len := by
  rw [putRange_zero_toNat r v h, Nat.mul_comm, Nat.mul_add_mod, Nat.mod_mod]

theorem putRange_zero_div {k : Nat} (r : BitVec k) {len : Nat} (v : Nat) (h : len ≤ k) :
    (putRange r 0 len v).toNat / 2 ^ len = r.toNat / 2 ^ len := by
  rw [putRange_zero_toNat r v h, Nat.mul_comm, Nat.mul_add_div (Nat.two_pow_pos _), Nat.div_eq_of_lt (Nat.mod_lt _ (Nat.two_pow_pos _)),
    Nat.add_zero]

theorem packElems_lt (w : Nat) (l : List Nat) : packElems w l < 2 ^ (w * l.length) := by
  induction l with
  | nil => exact Nat.one_pos
  | cons x l ih =>
    have hx : x % 2 ^ w < 2 ^ w := Nat.mod_lt _ (Nat.two_pow_pos _)
    calc x % 2 ^ w + 2 ^ w * packElems w l < 2 ^ w * 1 + 2 ^ w * packElems w l := by omega
      _ = 2 ^ w * (packElems w l + 1) := by ring
      _ ≤ 2 ^ w * 2 ^ (w * l.length) := Nat.mul_le_mul_left _ ih
      _ = 2 ^ (w * (x :: l).length) := by rw [← pow_add, List.length_cons, Nat.mul_succ, Nat.add_comm]

/-! ### The bits of a line (R160, R170) -/

theorem descTFmt_width_le (d : BitVec 32) : (descTFmt d).w ≤ 32 := by
  unfold descTFmt tileFmt
  split <;> decide

theorem descCols_le (d : BitVec 32) : descCols d ≤ 1024 := (d.extractLsb' 0 10).isLt

theorem descRows_le (d : BitVec 32) : descRows d ≤ 128 := (d.extractLsb' 16 7).isLt

theorem rowBlocks_le (d : BitVec 32) : rowBlocks d ≤ 32 := by
  have hc := descCols_le d
  have hr := descRows_le d
  unfold rowBlocks ceilDiv rowElems
  split <;> omega

/-- A line fits a vector register. -/
theorem lineBits_le (d : BitVec 32) (col : Bool) : lineBits d col ≤ 65536 := by
  have hw := descTFmt_width_le d
  unfold lineBits
  dsimp only
  split
  case isTrue h =>
    have : (descTFmt d).w * rowBlocks d ≤ 32 * 32 := Nat.mul_le_mul hw (rowBlocks_le d)
    unfold rowBytes
    dsimp only
    rw [if_pos h, Nat.mul_assoc]
    omega
  case isFalse =>
    have hn : (if col then descRows d else descCols d) ≤ 1024 := by
      split
      · exact (descRows_le d).trans (by decide)
      · exact descCols_le d
    exact (Nat.mul_le_mul hw hn).trans (by decide)

/-- The scales of a line are at most one for each block. -/
theorem TileVal.line_scales_length_le (v : TileVal) (col : Bool) (i : Nat) : (v.line col i).2.length ≤ 32 := by
  unfold TileVal.line
  dsimp only
  split
  case isTrue h =>
    unfold TileVal.scaleRows
    dsimp only
    rw [if_pos h, List.getD_eq_getElem?_getD, List.getElem?_map]
    cases (List.range (memRows v.shape))[i]? with
    | none => exact Nat.zero_le _
    | some q =>
      simpa only [Option.map_some, Option.getD_some, List.length_map, List.length_range] using rowBlocks_le v.shape
  case isFalse => exact Nat.zero_le _

theorem TileVal.line_scales_of_unscaled {v : TileVal} (h : (descTFmt v.shape).scaled = false) (col : Bool) (i : Nat) :
    (v.line col i).2 = [] := by
  unfold TileVal.line
  dsimp only
  rw [h]
  rfl

/-! ### A tile that stands in its core (R224, R227) -/

theorem TEnt.resident_iff (e : TEnt) : e.resident = true ↔ e.state = tRESIDENT ∨ e.state = tDIRTY := by
  simp [TEnt.resident]

theorem tileReady_notMoved {s : State} {t : Nat} (h : tileReady s t) :
    (s.ent t).state ≠ tABSENT ∧ (s.ent t).state ≠ tBACKED ∧ (s.ent t).state ≠ tPENDING := by
  obtain ⟨-, -, -, hres, -, -⟩ := h
  rcases (TEnt.resident_iff _).1 hres with h | h
  all_goals rw [h]
  all_goals decide

/-- A ready tile stays as its entry says. -/
theorem tileReady_settleEnt {s : State} {t : Nat} (h : tileReady s t) (hd : s.damage.slots = []) : s.settleEnt t = s := by
  have hp : ((s.ent t).state == tPENDING) = false := by simpa using (tileReady_notMoved h).2.2
  unfold State.settleEnt State.slotDamaged
  dsimp only
  rw [hp, hd]
  simp

/-- A ready tile answers that it may be read. -/
theorem tileReady_probe {s : State} {t : Nat} (h : tileReady s t) (hd : s.damage.slots = []) (e : TqEnt) (b : Bool) : s.probe e t b = .ok := by
  obtain ⟨ha, hb, hp⟩ := (tileReady_notMoved h)
  obtain ⟨-, hbad, hf, -, hcore, hslot⟩ := h
  have haway : Thread.away s s.thr t = false := by
    have hheld : (s.heldIn s.thr.id.ctx s.thr.c.tmapb t (s.thr.ent t)).isNone = false := by
      rw [Option.isNone_eq_false_iff]
      exact hslot
    have hc : ((s.thr.ent t).core.toNat != s.thr.id.core) = false := by
      show ((s.ent t).core.toNat != s.thr.id.core) = false
      simpa using hcore
    unfold Thread.away
    dsimp only
    rw [hheld, hc]
    simp
  unfold State.probe State.lostTile State.slotDamaged
  dsimp only
  rw [hbad, hf, hd, haway]
  simp [ha, hb, hp]

/-! ### Reading a tile (R224, R232) -/

/-- Of a thread, only the last-use hint of a tile's entry is another. -/
theorem State.setLu_ent (s : State) (t : Nat) (b : Bool) (m : Nat) :
    (s.setLu t b).ent m = { s.ent m with lu := ((s.setLu t b).ent m).lu } := by
  unfold State.setLu
  by_cases hm : m = t
  · subst hm
    by_cases h : m < s.thr.tmap.length
    · rw [State.ent_setEnt_same _ _ h]
    · have : s.setEnt m { s.ent m with lu := b } = s := by
        simp [State.setEnt, Thread.setEnt, List.set_eq_of_length_le (Nat.le_of_not_lt h)]
      rw [this]
  · rw [State.ent_setEnt_other _ _ hm]

/-- Where an entry stands does not hang on its hints. -/
theorem State.heldIn_lu (s : State) (ctx : Nat) (base : Word) (t : Nat) (e : TEnt) (b : Bool) :
    s.heldIn ctx base t { e with lu := b } = s.heldIn ctx base t e := rfl

theorem State.setLu_tileSlot (s : State) (t : Nat) (b : Bool) (m : Nat) : (s.setLu t b).tileSlot m = s.tileSlot m := by
  show s.heldIn s.thr.id.ctx s.thr.c.tmapb m ((s.setLu t b).ent m) = s.heldIn s.thr.id.ctx s.thr.c.tmapb m (s.ent m)
  rw [State.setLu_ent, State.heldIn_lu]

theorem State.setLu_tileVal (s : State) (t : Nat) (b : Bool) (m : Nat) : (s.setLu t b).tileVal m = s.tileVal m := by
  unfold State.tileVal
  rw [State.setLu_tileSlot, State.setLu_ent]

/-- A slot but for the cycle of its last use. -/
def Slot.stem (x : Slot) : Slot := { x with lastUse := 0 }

/-- The slots of every core are as they were, but for the cycles of their last use. -/
def State.SameSlots (s u : State) : Prop := ∀ c n, ((u.core c).slotAt n).map Slot.stem = ((s.core c).slotAt n).map Slot.stem

theorem State.heldIn_map (s : State) (ctx : Nat) (base : Word) (t : Nat) (e : TEnt) :
    (s.heldIn ctx base t e).map Slot.stem =
      (((s.core e.core.toNat).slotAt e.slot.toNat).map Slot.stem).filter fun x => x.tag = ⟨ctx, base, t, e.gen⟩ := by
  unfold State.heldIn
  cases (s.core e.core.toNat).slotAt e.slot.toNat with
  | none => rfl
  | some x =>
    dsimp only
    rw [Option.map_some, Option.filter_some, show x.stem.tag = x.tag from rfl]
    by_cases hx : x.tag = ⟨ctx, base, t, e.gen⟩
    · simp [hx]
    · simp [hx]

theorem State.SameSlots.heldIn {s u : State} (h : s.SameSlots u) (ctx : Nat) (base : Word) (t : Nat) (e : TEnt) :
    (u.heldIn ctx base t e).map Slot.stem = (s.heldIn ctx base t e).map Slot.stem := by
  rw [State.heldIn_map, State.heldIn_map, h]

/-- The value of a tile is that of its slot, else the zero of its shape. -/
theorem State.tileVal_eq (s : State) (t : Nat) :
    s.tileVal t = (((s.tileSlot t).map Slot.stem).map Slot.val).getD (TileVal.zero (s.ent t).shape) := by
  unfold State.tileVal
  cases s.tileSlot t <;> rfl

/-- A core takes back a slot of its own with another last use. -/
theorem Core.slotAt_touch {c : Core} {x : Slot} {k : Nat} (h : c.slotAt k = some x) (l n : Nat) :
    ((c.putSlot { x with lastUse := l }).slotAt n).map Slot.stem = (c.slotAt n).map Slot.stem := by
  have hnum : x.num = k := by simpa using List.find?_some h
  by_cases hn : n = k
  · have hput := c.slotAt_putSlot_same { x with lastUse := l }
    dsimp only at hput
    rw [hn, h, ← hnum, hput]
    rfl
  · rw [Core.slotAt_putSlot_other _ _ (by simpa [hnum] using hn)]

theorem State.useTile_sameSlots (s : State) (t : Nat) : s.SameSlots (s.useTile t) := by
  unfold State.useTile
  dsimp only
  split
  case h_1 x hx =>
    unfold State.tileSlot State.heldIn at hx
    split at hx
    case h_1 y hy =>
      split at hx
      case isTrue =>
        cases hx
        intro c n
        rw [State.core_setCore]
        split
        case isTrue hc =>
          have hcore : s.core c = s.core ((s.setLu t false).ent t).core.toNat := by
            unfold State.core vget
            simp only [hc]
          rw [hcore]
          exact Core.slotAt_touch hy _ n
        case isFalse => rfl
      case isFalse => cases hx
    case h_2 => cases hx
  case h_2 => exact fun _ _ => rfl

theorem State.useTile_thr (s : State) (t : Nat) : (s.useTile t).thr = (s.setLu t false).thr := by
  unfold State.useTile
  dsimp only
  split <;> rfl

theorem State.useTile_ent (s : State) (t m : Nat) : (s.useTile t).ent m = (s.setLu t false).ent m := by
  unfold State.ent
  rw [State.useTile_thr]

theorem State.useTile_tileVal (s : State) (t m : Nat) : (s.useTile t).tileVal m = s.tileVal m := by
  rw [← State.setLu_tileVal s t false m, State.tileVal_eq, State.tileVal_eq]
  unfold State.tileSlot
  rw [State.useTile_ent, State.useTile_thr, (State.SameSlots.heldIn (s.useTile_sameSlots t))]
  rfl

theorem State.useTile_mem (s : State) (t : Nat) : (s.useTile t).mem = s.mem := by
  unfold State.useTile
  dsimp only
  split <;> rfl

/-! ### Gets (R170) -/

/-- The registers after a get of a line: its data, and its scales where it has some. -/
def State.lineGot (s : State) (vd : BitVec 6) (bits : Nat) (line : Nat × List Nat) : State :=
  let s := s.putVec vd bits line.1
  if line.2.isEmpty then s else s.putVec (vd + 1) (8 * line.2.length) (packElems 8 line.2)

theorem State.putVec_thr (s : State) (r : BitVec 6) (bits v : Nat) : ∃ d h, (s.putVec r bits v).thr = { s.thr with
    r := { s.thr.r with v := vset s.thr.r.v r.toNat (putRange (vget s.thr.r.v r.toNat) 0 bits v) }, vdirty := d, hwm := h } := ⟨_, _, rfl⟩

theorem vget_vset_reg {α : Type} (v : Vector α 64) (a b : BitVec 6) (x : α) :
    vget (vset v a.toNat x) b.toNat = if b = a then x else vget v b.toNat := by
  split
  case isTrue h => rw [h, vget_vset_same]
  case isFalse h =>
    refine vget_vset_other _ _ _ _ ?_
    rw [Nat.mod_eq_of_lt a.isLt, Nat.mod_eq_of_lt b.isLt]
    exact fun h' => h (BitVec.eq_of_toNat_eq h'.symm)

/-- A get changes vector registers alone. -/
theorem State.lineGot_thr (s : State) (vd : BitVec 6) (bits : Nat) (line : Nat × List Nat) : ∃ d h, (s.lineGot vd bits line).thr = { s.thr with
    r := { s.thr.r with v := (s.lineGot vd bits line).thr.r.v }, vdirty := d, hwm := h } := by
  obtain ⟨d, h, hthr⟩ := s.putVec_thr vd bits line.1
  unfold State.lineGot
  dsimp only
  split
  · exact ⟨d, h, by rw [hthr]⟩
  · obtain ⟨d', h', hthr'⟩ := (s.putVec vd bits line.1).putVec_thr (vd + 1) (8 * line.2.length) (packElems 8 line.2)
    exact ⟨d', h', by rw [hthr', hthr]⟩

theorem State.lineGot_onlyThread (s : State) (vd : BitVec 6) (bits : Nat) (line : Nat × List Nat) : s.OnlyThread (s.lineGot vd bits line) := by
  unfold State.lineGot
  dsimp only
  split <;> rfl

/-- What a get of a line writes: the line's register, its scales' register where it has scales, and no other. -/
theorem State.lineGot_v (s : State) (vd : BitVec 6) (bits : Nat) (line : Nat × List Nat) (r : BitVec 6) :
    vget (s.lineGot vd bits line).thr.r.v r.toNat =
      if r = vd + 1 ∧ line.2 ≠ [] then putRange (vget s.thr.r.v (vd + 1).toNat) 0 (8 * line.2.length) (packElems 8 line.2)
      else if r = vd then putRange (vget s.thr.r.v vd.toNat) 0 bits line.1 else vget s.thr.r.v r.toNat := by
  obtain ⟨d, h, hthr⟩ := s.putVec_thr vd bits line.1
  have hne : vd + 1 ≠ vd := by bv_omega
  unfold State.lineGot
  dsimp only
  by_cases hsc : line.2 = []
  · rw [if_pos (List.isEmpty_iff.2 hsc), if_neg (fun h => h.2 hsc), hthr, vget_vset_reg]
  · obtain ⟨d', h', hthr'⟩ := (s.putVec vd bits line.1).putVec_thr (vd + 1) (8 * line.2.length) (packElems 8 line.2)
    rw [if_neg (mt List.isEmpty_iff.1 hsc), hthr', hthr]
    simp only [vget_vset_reg, hsc, if_neg hne, ne_eq, not_false_eq_true, and_true]

theorem State.getLine_of_ready {s : State} {i : Instr} {o : TOp} {col : Bool} (hs : s.Clear) (hu : s.thr.sup = false)
    (hd : s.damage.slots = []) (hr : tileReady s o.ma.toNat) (hmap : s.thr.tmapReady = true)
    (hfill : ∀ a, s.thr.fillErr ≠ some (o.ma.toNat, a)) (hrep : ∀ y, s.tileSlot o.ma.toNat = some y → y.report = false)
    (hline : lineCheck (s.tileVal o.ma.toNat).shape col (s.g (o.g.zeroExtend 6)).toNat s.thr.hdr.vregs (o.md.extractLsb' 0 6) 0 = none) :
    s.getLine i o col = .next ((((s.lineGot (o.md.extractLsb' 0 6) (lineBits (s.tileVal o.ma.toNat).shape col)
      ((s.tileVal o.ma.toNat).line col (s.g (o.g.zeroExtend 6)).toNat)).useTile o.ma.toNat).setLu o.ma.toNat o.la).commit) := by
  have hreads : ∀ rs, s.thr.tileReads rs = false := fun rs => by rw [Thread.tileReads, hs.2.1, List.any_nil]
  have hsync : s.syncOn (tqWrites o.ma) = none := State.syncOn_of_none (by rw [hs.2.1]; exact fun _ h => absurd h List.not_mem_nil)
  have hget : ∀ e, s.getReport e o.ma.toNat = none := fun e => by
    obtain ⟨-, -, -, -, -, hslot⟩ := hr
    obtain ⟨x, hx⟩ := Option.isSome_iff_exists.1 hslot
    unfold State.getReport State.spillReport
    rw [hx]
    dsimp only
    rw [hrep x hx, Bool.false_and, if_neg Bool.false_ne_true]
    rcases hf : s.thr.fillErr with _ | ⟨t, a⟩
    · rfl
    · exact if_neg fun h => hfill a (by rw [hf, h])
  unfold State.getLine
  dsimp only
  rw [State.scalar_of_executes (hs.executes _ _), hs.checked, hu, if_neg Bool.false_ne_true, hsync, hreads, hs.1, hmap]
  dsimp only
  rw [tileReady_settleEnt hr hd, hget]
  dsimp only
  rw [tileReady_probe hr hd]
  dsimp only
  rw [hline]
  rfl

/-- A tile read with its hint leaves the thread's other fields. -/
theorem State.useTile_setLu_thr (s : State) (t : Nat) (b : Bool) : ∃ l, ((s.useTile t).setLu t b).thr = { s.thr with tmap := l } :=
  ⟨_, by
    unfold State.setLu State.setEnt
    rw [State.useTile_thr]
    rfl⟩

/-- The state that a get leaves before its commit. -/
def State.lineRead (s : State) (o : TOp) (col : Bool) : State :=
  ((s.lineGot (o.md.extractLsb' 0 6) (lineBits (s.tileVal o.ma.toNat).shape col)
      ((s.tileVal o.ma.toNat).line col (s.g (o.g.zeroExtend 6)).toNat)).useTile o.ma.toNat).setLu o.ma.toNat o.la

theorem State.lineRead_thr (s : State) (o : TOp) (col : Bool) : ∃ d h l, (s.lineRead o col).thr = { s.thr with
    r := { s.thr.r with v := (s.lineGot (o.md.extractLsb' 0 6) (lineBits (s.tileVal o.ma.toNat).shape col)
      ((s.tileVal o.ma.toNat).line col (s.g (o.g.zeroExtend 6)).toNat)).thr.r.v }, vdirty := d, hwm := h, tmap := l } := by
  obtain ⟨d, h, hgot⟩ := s.lineGot_thr (o.md.extractLsb' 0 6) (lineBits (s.tileVal o.ma.toNat).shape col)
    ((s.tileVal o.ma.toNat).line col (s.g (o.g.zeroExtend 6)).toNat)
  obtain ⟨l, hl⟩ := State.useTile_setLu_thr (s.lineGot (o.md.extractLsb' 0 6) (lineBits (s.tileVal o.ma.toNat).shape col)
    ((s.tileVal o.ma.toNat).line col (s.g (o.g.zeroExtend 6)).toNat)) o.ma.toNat o.la
  refine ⟨d, h, l, ?_⟩
  unfold State.lineRead
  rw [hl]
  conv_lhs => rw [hgot]

theorem State.lineRead_mem (s : State) (o : TOp) (col : Bool) : (s.lineRead o col).mem = s.mem := by
  show (State.useTile _ _).mem = s.mem
  rw [State.useTile_mem, s.lineGot_onlyThread]

theorem State.tileVal_congr {s u : State} (hcores : u.cores = s.cores) (hid : u.thr.id = s.thr.id) (hb : u.thr.c.tmapb = s.thr.c.tmapb)
    (hmap : u.thr.tmap = s.thr.tmap) (t : Nat) : u.tileVal t = s.tileVal t := by
  unfold State.tileVal State.tileSlot State.heldIn State.ent Thread.ent State.core
  rw [hcores, hid, hb, hmap]

theorem State.lineRead_tileVal (s : State) (o : TOp) (col : Bool) (m : Nat) : (s.lineRead o col).tileVal m = s.tileVal m := by
  obtain ⟨d, h, hgot⟩ := s.lineGot_thr (o.md.extractLsb' 0 6) (lineBits (s.tileVal o.ma.toNat).shape col)
    ((s.tileVal o.ma.toNat).line col (s.g (o.g.zeroExtend 6)).toNat)
  unfold State.lineRead
  rw [State.setLu_tileVal, State.useTile_tileVal]
  refine State.tileVal_congr ?_ (by rw [hgot]) (by rw [hgot]) (by rw [hgot]) m
  rw [s.lineGot_onlyThread]

/-- A scaled line needs the register above its own (R170). -/
theorem lineCheck_scaled {d : BitVec 32} {col : Bool} {i vregs operand : Nat} {v : BitVec 6} (h : lineCheck d col i vregs v operand = none)
    (hs : (descTFmt d).scaled = true) : v ≠ 63 := by
  rintro rfl
  unfold lineCheck at h
  rw [hs] at h
  simp only [Bool.true_and, decide_true, Bool.true_or, if_true] at h
  split_ifs at h

theorem tileGet : TileGet := by
  intro col o s hs hser hu hd hr hmap hfill hrep i vd v n hline
  have hexec : exec i s = .next (s.lineRead o col).commit := by
    have hget := State.getLine_of_ready (i := i) hs hu hd hr hmap hfill hrep hline
    cases col
    · exact hget
    · exact hget
  obtain ⟨d, hw, l, hthr⟩ := s.lineRead_thr o col
  obtain ⟨honly, hg⟩ := (s.lineRead o col).commit_only
  have hv : (s.lineRead o col).commit.thr.r.v = (s.lineGot vd (lineBits v.shape col) (v.line col n)).thr.r.v := by
    rw [honly, hthr]
  have hpc : (s.lineRead o col).commit.thr.pc = s.commit.thr.pc :=
    State.commitLen_pc_congr (s := s.lineRead o col) (u := s) (by rw [hthr]) (by rw [hthr]) (by rw [hthr]) 1 1
  have hne : vd ≠ vd + 1 := by bv_omega
  have hk : 8 * (v.line col n).2.length ≤ 65536 := by
    have := TileVal.line_scales_length_le v col n
    omega
  refine ⟨_, hexec, hpc, by rw [honly, hthr], ?_, ?_, ?_, ?_, ?_, ?_⟩
  · intro r _
    unfold State.g
    rw [hg, hthr]
  · intro a
    rw [State.commit_mem, State.lineRead_mem]
  · refine (State.tileVal_congr (s := s.lineRead o col) (State.commit_cores _) ?_ ?_ ?_ _).trans (s.lineRead_tileVal o col _)
    all_goals rw [honly]
  · dsimp only
    rw [hv, State.lineGot_v, if_neg (fun h => hne h.1), if_pos rfl]
    exact ⟨putRange_zero_mod _ _ (lineBits_le _ _), putRange_zero_div _ _ (lineBits_le _ _)⟩
  · intro hsc
    have hvd : vd.toNat + 1 = (vd + 1).toNat := by
      have := lineCheck_scaled hline hsc
      bv_omega
    dsimp only
    rw [hv, hvd, State.lineGot_v]
    by_cases hl : (v.line col n).2 = []
    · rw [hl]
      simp [packElems, Nat.mod_one]
    · rw [if_pos ⟨rfl, hl⟩, putRange_zero_mod _ _ hk, putRange_zero_div _ _ hk, Nat.mod_eq_of_lt (packElems_lt 8 _)]
      exact ⟨rfl, rfl⟩
  · intro r hr64 hrd hrs
    have hreg : r = (BitVec.ofNat 6 r).toNat := by
      rw [BitVec.toNat_ofNat, Nat.mod_eq_of_lt hr64]
    rw [hv, hreg, State.lineGot_v]
    have hrd' : BitVec.ofNat 6 r ≠ vd := fun h => hrd (by rw [hreg, h])
    rw [if_neg, if_neg hrd']
    rintro ⟨h1, h2⟩
    cases hsc : (descTFmt v.shape).scaled with
    | false => exact h2 (TileVal.line_scales_of_unscaled hsc _ _)
    | true =>
      have := lineCheck_scaled hline hsc
      have hvd : vd.toNat + 1 = (vd + 1).toNat := by bv_omega
      exact hrs hsc (by rw [hreg, h1, hvd])

end Sys2Proof.Machine

namespace Sys2Proof

open Machine

/-- Settles O30. -/
theorem tileSync : Obligations.TileSync := ⟨tileWait, tileGet⟩

end Sys2Proof
end

section
/-! The trace of a thread at turn (R395, R396): what the unit's writes leave, and the flush of a partly filled line. -/

namespace Sys2Proof.Machine

set_option Elab.async false

open Sys2Proof.Claim

/-! ### What the trace unit leaves -/

/-- Of a thread, only its trace, its counters and its TRACECTL are others. -/
def Thread.OnlyTraced (a b : Thread) : Prop :=
  b = { a with trace := b.trace, c := { a.c with pmc := b.c.pmc, tracectl := b.c.tracectl } }

theorem Thread.OnlyTraced.trans {a b c : Thread} (h : a.OnlyTraced b) (k : b.OnlyTraced c) : a.OnlyTraced c := by
  unfold Thread.OnlyTraced at *
  rw [k, h]

theorem Thread.OnlyTrace.traced {a b : Thread} (h : a.OnlyTrace b) : a.OnlyTraced b := by
  unfold Thread.OnlyTraced
  rw [h]

/-- Only memory and the trace of the thread at turn are others, with its counters and its TRACECTL. -/
def State.OnlyTraced (s t : State) : Prop := s.OnlyMemory t ∧ s.thr.OnlyTraced t.thr

theorem State.OnlyMemory.trans {s t u : State} (h : s.OnlyMemory t) (k : t.OnlyMemory u) : s.OnlyMemory u := by
  unfold State.OnlyMemory at *
  rw [k, h]

theorem State.OnlyTraced.trans {s t u : State} (h : s.OnlyTraced t) (k : t.OnlyTraced u) : s.OnlyTraced u :=
  ⟨h.1.trans k.1, h.2.trans k.2⟩

theorem State.OnlyTraced.ofThread {s : State} {t : Thread} (h : s.thr.OnlyTraced t) : s.OnlyTraced { s with thr := t } := ⟨rfl, h⟩

theorem State.devWrite_ok {s t : State} {ctx va : Nat} {bs : List Byte} (h : s.devWrite ctx va bs = .ok t) : ∃ pa, t = s.storePA pa bs := by
  unfold State.devWrite at h
  split at h
  · cases h
  · split at h
    · cases h
    · cases h
      exact ⟨_, rfl⟩

/-- Unfolded as a function: unfolded on its argument, the kernel would run the write to compare the two sides. -/
theorem State.onlyTraced_traceLine (s : State) : s.OnlyTraced s.traceLine := by
  suffices ∀ f, f = State.traceLine → s.OnlyTraced (f s) from this _ rfl
  delta State.traceLine
  rintro _ rfl
  beta_reduce
  extract_lets +onlyGivenNames t size first va words
  split
  case h_1 h =>
    obtain ⟨pa, rfl⟩ := State.devWrite_ok h
    exact ⟨rfl, rfl⟩
  case h_2 => exact .ofThread rfl

theorem State.onlyTraced_setTrace (s : State) (x : TraceBuf) : s.OnlyTraced { s with thr := { s.thr with trace := x } } := .ofThread rfl

theorem State.onlyTraced_traceDrain (l : List (Word × Nat)) (s : State) : s.OnlyTraced (State.traceDrain l s) := by
  induction l generalizing s with
  | nil => exact s.onlyTraced_setTrace _
  | cons x l ih =>
    unfold State.traceDrain
    extract_lets +onlyGivenNames t
    split
    · exact s.onlyTraced_setTrace _
    · extract_lets +onlyGivenNames lap k c b t₁ s₁
      have h₁ : s.OnlyTraced s₁ := .ofThread rfl
      refine State.OnlyTraced.trans ?_ (ih _)
      split
      · exact h₁.trans (s₁.onlyTraced_traceLine.trans (State.onlyTraced_setTrace _ _))
      · exact h₁

theorem State.onlyTraced_traceWrite (s : State) : s.OnlyTraced s.traceWrite := by
  have h := State.onlyTraced_traceDrain s.thr.trace.queue s
  unfold State.traceWrite
  dsimp only
  split
  · exact h
  · exact (h.trans (.ofThread (Thread.pushLost_only _ _).traced)).trans (State.onlyTraced_traceDrain _ _)

theorem State.onlyTraced_traceFlush (s : State) : s.OnlyTraced s.traceFlush := by
  suffices ∀ f, f = State.traceFlush → s.OnlyTraced (f s) from this _ rfl
  delta State.traceFlush
  rintro _ rfl
  beta_reduce
  extract_lets +onlyGivenNames u v
  have hv : s.OnlyTraced v := .trans (.ofThread (s.thr.flushBits_only s.cycle).traced) u.onlyTraced_traceWrite
  split
  · exact hv
  · exact hv.trans (v.onlyTraced_traceLine.trans (State.onlyTraced_setTrace _ _))

/-! ### The flush of a partly filled line (R395) -/

/-- The thread at turn is the first that a unit finds in its slot. -/
theorem State.find_atTurn {s : State} (h : s.thr.live = true) :
    (s.threads.find? fun t => t.live && t.id.core == s.thr.id.core && t.id.slot == s.thr.id.slot) = some s.thr := by
  unfold State.threads
  rw [List.find?_cons_of_pos]
  simp [h]

theorem State.focus_atTurn {s : State} (h : s.thr.live = true) (f : State → State) :
    s.focus (fun t => t.live && t.id.core == s.thr.id.core && t.id.slot == s.thr.id.slot) f = f s :=
  if_pos (by simp [h])

/-- With nothing queued, a write of the queued packets changes nothing. -/
theorem State.traceWrite_of_empty {s : State} (hq : s.thr.trace.queue = []) (hl : s.thr.trace.lost = 0) : s.traceWrite = s := by
  have hdrain : State.traceDrain s.thr.trace.queue s = s := by
    rw [hq]
    unfold State.traceDrain
    rw [← hq]
  unfold State.traceWrite
  dsimp only
  rw [hdrain, if_pos hl]

theorem Thread.flushBits_of_empty {t : Thread} (h : t.trace.bits = []) (cycle : Nat) : t.flushBits cycle = t :=
  if_pos (List.isEmpty_iff.2 h)

/-- A flush with nothing queued writes the line. -/
theorem State.traceFlush_of_line {s : State} (hq : s.thr.trace.queue = []) (hb : s.thr.trace.bits = []) (hl : s.thr.trace.lost = 0)
    (hn : s.thr.trace.line ≠ []) (he : s.thr.c.tracectl.getLsbD 0 = true) : s.traceFlush =
      { s.traceLine with thr := { s.traceLine.thr with
          trace := { s.traceLine.thr.trace with stamp := s.traceLine.cycle, written := s.traceLine.thr.trace.line.length } } } := by
  unfold State.traceFlush
  dsimp only
  rw [Thread.flushBits_of_empty hb, State.traceWrite_of_empty hq hl, he, if_neg]
  simpa using hn

theorem State.devWrite_of_ok {s : State} {ctx va pa : Nat} (hx : s.xlate ctx true true va = .ok pa) (hd : s.dataErr ctx false true pa = none)
    (bs : List Byte) : s.devWrite ctx va bs = .ok (s.storePA pa bs) := by
  unfold State.devWrite
  rw [hx]
  dsimp only
  rw [hd]

/-- The slot of the line's first packet in the buffer (R395). -/
def Thread.lineFirst (t : Thread) : Nat := (t.wptr + 2 ^ 32 - t.trace.line.length) % 2 ^ t.traceLog

/-- The words of a write of the line: its packets, and zeros in the slots of those still to come. -/
def Thread.lineWords (t : Thread) : List Word :=
  t.trace.line ++ List.replicate (8 - t.lineFirst % 8 - t.trace.line.length) 0

theorem State.traceLine_of_ok {s t : State} (h : s.devWrite s.thr.id.ctx
      (s.tctx.tbase.toNat + s.thr.id.record * (8 * 2 ^ s.thr.traceLog) + 8 * s.thr.lineFirst)
      (s.thr.lineWords.flatMap fun w => toBytes 8 w.toNat) = .ok t) : s.traceLine = t := by
  suffices ∀ f, f = State.traceLine → f s = t from this _ rfl
  delta State.traceLine
  rintro _ rfl
  beta_reduce
  extract_lets +onlyGivenNames t size first va words
  split
  case h_1 u hu => exact Except.ok.inj (hu.symm.trans h)
  case h_2 e he => exact nomatch he.symm.trans h

theorem traceFlush : TraceFlush := by
  intro s pa hlive hq hb hn hlost hen line size wptr first flush
  have hun : s.thr.trace.unwritten = line.length - s.thr.trace.written := by
    rw [TraceBuf.unwritten, hq]
    exact Nat.zero_add _
  have hflush : flush =
      if s.thr.trace.unwritten = 0 ∨ s.cycle < s.thr.trace.stamp + 4096 then .fault .notEnabled else .next s.traceFlush := by
    show execTraceFlushTimeout _ _ s = _
    unfold execTraceFlushTimeout
    dsimp only
    rw [State.find_atTurn hlive]
    dsimp only
    rw [State.focus_atTurn hlive]
    simp
  refine ⟨fun h => ?_, fun hw hc hx hd => ?_⟩
  · rw [hflush, if_pos (by omega)]
  · have hline := State.traceLine_of_ok (State.devWrite_of_ok hx hd _)
    rw [hflush, if_neg (by omega), State.traceFlush_of_line hq hb hlost hn hen, hline]
    exact ⟨_, rfl, rfl, rfl⟩

end Sys2Proof.Machine
end

section
/-! The save record of a thread (R41, R274): its parts in memory, and the numbers that read back from them. -/

namespace Sys2Proof.Machine

set_option Elab.async false

open Sys2Proof.Claim

/-! ### Numbers in memory -/

theorem packElems_div (w : Nat) (l : List Nat) (k : Nat) : packElems w l / 2 ^ (w * k) % 2 ^ w = l.getD k 0 % 2 ^ w := by
  induction l generalizing k with
  | nil => simp [packElems]
  | cons x l ih =>
    have hx : x % 2 ^ w < 2 ^ w := Nat.mod_lt _ (Nat.two_pow_pos _)
    cases k with
    | zero => simp [packElems]
    | succ k =>
      have hdiv : packElems w (x :: l) / 2 ^ (w * (k + 1)) = packElems w l / 2 ^ (w * k) := by
        rw [packElems, Nat.mul_succ, Nat.add_comm (w * k), Nat.pow_add, ← Nat.div_div_eq_div_mul, Nat.add_mul_div_left _ _ (Nat.two_pow_pos _),
          Nat.div_eq_of_lt hx, Nat.zero_add]
      rw [hdiv, ih, List.getD_cons_succ]

theorem ofBytes_append (l m : List Byte) : ofBytes (l ++ m) = ofBytes l + 256 ^ l.length * ofBytes m := by
  induction l with
  | nil => simp [ofBytes]
  | cons b l ih => rw [List.cons_append, ofBytes, ih, ofBytes, List.length_cons, Nat.pow_succ]; ring

theorem ofBytes_lt (l : List Byte) : ofBytes l < 256 ^ l.length := by
  have h := ofBytes_toBytes l.length (ofBytes l)
  rw [toBytes_ofBytes] at h
  rw [h]
  exact Nat.mod_lt _ (Nat.pow_pos (by decide))

theorem ofBytes_drop_take (l : List Byte) (k n : Nat) : ofBytes ((l.drop k).take n) = ofBytes l / 256 ^ k % 256 ^ n := by
  by_cases hk : k ≤ l.length
  · have hdrop : ofBytes l / 256 ^ k = ofBytes (l.drop k) := by
      have h := ofBytes_append (l.take k) (l.drop k)
      rw [List.take_append_drop, List.length_take_of_le hk] at h
      have hlt := ofBytes_lt (l.take k)
      rw [List.length_take_of_le hk] at hlt
      rw [h, Nat.add_mul_div_left _ _ (Nat.pow_pos (by decide)), Nat.div_eq_of_lt hlt, Nat.zero_add]
    rw [hdrop]
    generalize l.drop k = m
    by_cases hn : n ≤ m.length
    · have h := ofBytes_append (m.take n) (m.drop n)
      rw [List.take_append_drop, List.length_take_of_le hn] at h
      have hlt := ofBytes_lt (m.take n)
      rw [List.length_take_of_le hn] at hlt
      rw [h, Nat.add_mul_mod_self_left, Nat.mod_eq_of_lt hlt]
    · have hm : m.length ≤ n := by omega
      rw [List.take_of_length_le hm, Nat.mod_eq_of_lt ((ofBytes_lt m).trans_le (Nat.pow_le_pow_right (by decide) hm))]
  · have hl : l.length ≤ k := by omega
    rw [List.drop_eq_nil_of_le hl, List.take_nil, Nat.div_eq_of_lt ((ofBytes_lt l).trans_le (Nat.pow_le_pow_right (by decide) hl)), Nat.zero_mod]
    rfl

theorem Mem.read_sub (m : Mem) (a n k j : Nat) (h : k + j ≤ n) : m.read (a + k) j = ((m.read a n).drop k).take j := by
  rw [Mem.read_eq_map, Mem.read_eq_map, ← List.map_drop, ← List.map_take]
  refine List.ext_getElem ?_ fun i h1 h2 => ?_
  · simp
    omega
  · simp [Nat.add_assoc]

/-- A number within one that has been written. -/
theorem Mem.num_write_inside {m : Mem} (hw : m.wf = true) (a n v : Nat) {k j : Nat} (h : k + j ≤ n) :
    (m.write a (toBytes n v)).num (a + k) j = v / 256 ^ k % 256 ^ j := by
  have hread : (m.write a (toBytes n v)).read a n = toBytes n v := by
    have := Mem.read_write m a (toBytes n v) hw
    rwa [length_toBytes] at this
  unfold Mem.num
  rw [Mem.read_sub _ a n k j h, hread, ofBytes_drop_take, ofBytes_toBytes]
  obtain ⟨d, rfl⟩ := Nat.exists_eq_add_of_le (show k ≤ n by omega)
  rw [Nat.pow_add, Nat.mod_mul_right_div_self, Nat.mod_mod_of_dvd _ (Nat.pow_dvd_pow _ (by omega))]

/-- A number that no byte of a write touches. -/
theorem Mem.num_write_outside {m : Mem} (hw : m.wf = true) {a b n : Nat} (bs : List Byte) (h : b + n ≤ a) : (m.write a bs).num b n = m.num b n := by
  unfold Mem.num
  rw [Mem.read_congr fun i h1 h2 => Mem.get_write_outside m a i bs hw (Or.inl (by omega))]

/-! ### The parts of a record -/

/-- The parts of a record, each an offset, a length and a number, written in order. -/
def Mem.writeParts (m : Mem) (base : Nat) (l : List (Nat × Nat × Nat)) : Mem :=
  l.foldl (fun m p => m.write (base + p.1) (toBytes p.2.1 p.2.2)) m

theorem Mem.wf_writeParts {m : Mem} (hw : m.wf = true) (base : Nat) (l : List (Nat × Nat × Nat)) : (m.writeParts base l).wf = true :=
  List.foldlRecOn (motive := fun m : Mem => m.wf = true) _ _ hw fun m hm _ _ => Mem.wf_write m _ _ hm

theorem Mem.writeParts_append (m : Mem) (base : Nat) (l l' : List (Nat × Nat × Nat)) :
    m.writeParts base (l ++ l') = (m.writeParts base l).writeParts base l' := List.foldl_append

theorem Mem.num_writeParts_above {m : Mem} (hw : m.wf = true) {base b n : Nat} {l : List (Nat × Nat × Nat)} (h : ∀ p ∈ l, b + n ≤ base + p.1) :
    (m.writeParts base l).num b n = m.num b n := by
  induction l generalizing m with
  | nil => rfl
  | cons p l ih =>
    have hp : b + n ≤ base + p.1 := h p List.mem_cons_self
    calc (m.writeParts base (p :: l)).num b n
      _ = (m.write (base + p.1) (toBytes p.2.1 p.2.2)).num b n :=
        ih (Mem.wf_write _ _ _ hw) fun q hq => h q (List.mem_cons_of_mem _ hq)
      _ = m.num b n := Mem.num_write_outside hw _ hp

/-- A number within a part that no later part touches. -/
theorem Mem.num_writeParts {m : Mem} (hw : m.wf = true) (base : Nat) {l : List (Nat × Nat × Nat)} {off n v : Nat}
    (hl : l.Pairwise fun p q => p.1 + p.2.1 ≤ q.1) (hp : (off, n, v) ∈ l) {k j : Nat} (h : k + j ≤ n) :
    (m.writeParts base l).num (base + (off + k)) j = v / 256 ^ k % 256 ^ j := by
  obtain ⟨l₁, l₂, rfl⟩ := List.append_of_mem hp
  have hafter : ∀ q ∈ l₂, base + (off + k) + j ≤ base + q.1 := fun q hq => by
    have : off + n ≤ q.1 := (List.pairwise_cons.1 (List.pairwise_append.1 hl).2.1).1 q hq
    omega
  have hwf := Mem.wf_writeParts hw base l₁
  rw [Mem.writeParts_append]
  show (((m.writeParts base l₁).write (base + off) (toBytes n v)).writeParts base l₂).num _ j = _
  rw [Mem.num_writeParts_above (Mem.wf_write _ _ _ hwf) hafter, ← Nat.add_assoc, Mem.num_write_inside hwf _ n v h]

/-- The parts of a record below its mask registers. -/
def State.saveHead (s : State) : List (Nat × Nat × Nat) :=
  let t := s.thr
  let ident := match t.hcall with
    | some h => t.id.ctx * 2 ^ 58 + h.seq.toNat
    | none => 0
  let w := fun (l : List Word) => packElems 64 (l.map BitVec.toNat)
  [(0, 8, t.pc.toNat), (8, 8, t.status), (0x10, 8, ident), (0x18, 8, t.vdirty.toNat), (0x20, 8, t.spx), (0x28, 24, 0)] ++
  [(0x40, 64, packElems 8 t.hwm.toList), (0x80, 512, w t.r.g.toList), (0x280, 384, w s.saveCsrs)]

theorem State.saveParts_eq (s : State) : ∃ rest, s.saveParts = s.saveHead ++ rest ∧ ∀ p ∈ rest, 0x400 ≤ p.1 := by
  unfold State.saveParts State.saveHead
  dsimp only
  simp only [List.append_assoc]
  refine ⟨_, rfl, fun p hp => ?_⟩
  simp only [List.mem_append, List.mem_map, List.mem_flatMap, List.mem_cons, List.not_mem_nil, or_false] at hp
  rcases hp with ⟨k, hk, rfl⟩ | ⟨k, hk, rfl⟩ | rfl | ⟨x, hx, rfl | rfl⟩ | ⟨k, hk, rfl⟩
  all_goals dsimp only
  all_goals omega

end Sys2Proof.Machine
end

section
/-! The save of a thread at rest (R40, R41, R304): its stop, its record, and what the last save does to its group. -/

namespace Sys2Proof.Machine

set_option Elab.async false

open Sys2Proof.Claim

/-! ### The stop (R40) -/

/-- Of a thread, only what its stop and its save change: the trace, the counters, TRACECTL, the tile queue and the waits. -/
def Thread.OnlyStopped (a b : Thread) : Prop :=
  b = { a with trace := b.trace, c := { a.c with pmc := b.c.pmc, tracectl := b.c.tracectl }, tq := b.tq, wait := b.wait, heldX := b.heldX
               held := b.held }

theorem Thread.OnlyStopped.trans {a b c : Thread} (h : a.OnlyStopped b) (k : b.OnlyStopped c) : a.OnlyStopped c := by
  unfold Thread.OnlyStopped at *
  rw [k, h]

theorem Thread.OnlyTraced.stopped {a b : Thread} (h : a.OnlyTraced b) : a.OnlyStopped b := by
  unfold Thread.OnlyStopped
  rw [h]

/-- Only the thread at turn, memory, the tile store and what is kept beside the records and the scratchpads are others. -/
def State.OnlySaved (s t : State) : Prop :=
  t = { s with thr := t.thr, cores := t.cores, mem := t.mem, damage := t.damage, coh := t.coh, images := t.images, spads := t.spads }

theorem State.OnlySaved.trans {s t u : State} (h : s.OnlySaved t) (k : t.OnlySaved u) : s.OnlySaved u := by
  unfold State.OnlySaved at *
  rw [k, h]

theorem State.OnlyMemory.saved {s t : State} (h : s.OnlyMemory t) : s.OnlySaved t := by
  unfold State.OnlySaved
  rw [h]

theorem State.settle_of_empty {s : State} (h : s.thr.tq = []) : ∃ c, s.settle =
    { s with cores := c, thr := { s.thr with tq := [], wait := .none, heldX := false, held := none } } := by
  refine ⟨(s.setCore s.thr.id.core { s.core s.thr.id.core with pool := (s.core s.thr.id.core).pool ++ [] }).cores, ?_⟩
  unfold State.settle State.setCore
  simp only [h, List.foldl_nil, List.filterMap_nil, List.map_nil]

/-! ### The record (R41, R274) -/

theorem State.foldl_storePA (s : State) (base : Nat) (l : List (Nat × Nat × Nat)) :
    ∃ d c, l.foldl (fun s (off, n, v) => s.storePA (base + off) (toBytes n v)) s =
      { s with mem := s.mem.writeParts base l, damage := d, coh := c } := by
  induction l generalizing s with
  | nil => exact ⟨_, _, rfl⟩
  | cons p l ih =>
    obtain ⟨d, c, h⟩ := ih (s.storePA (base + p.1) (toBytes p.2.1 p.2.2))
    exact ⟨d, c, h⟩

/-- The save writes the parts of the record and the image of the scratchpad, once the trace has been flushed. -/
theorem State.saveThread_eq (s : State) : ∃ d c i, s.saveThread = { s.traceFlush with
    mem := (s.traceFlush.mem.writeParts (s.traceFlush.tctx.recordAt s.traceFlush.thr.id.record) s.traceFlush.saveParts).write
      (s.traceFlush.tctx.recordAt s.traceFlush.thr.id.record + 0x84000) (s.traceFlush.thr.spad.read 0 s.traceFlush.thr.spx)
    damage := d, coh := c, images := i } := by
  unfold State.saveThread
  generalize s.traceFlush = u
  obtain ⟨d, c, h⟩ := u.foldl_storePA (u.tctx.recordAt u.thr.id.record) u.saveParts
  dsimp only
  rw [h]
  unfold State.storePA
  generalize u.saveParts = l
  generalize u.thr.spad.read 0 u.thr.spx = img
  generalize u.tctx.recordAt u.thr.id.record = base
  generalize base + 0x84000 = at_
  exact ⟨_, _, _, rfl⟩

/-- The state in which a stopped thread's record is written. -/
def State.stopped (s : State) : State := ((s.emit 8 (0x15 * 2 ^ 50 + s.thr.pc.toNat / 8)).count 21 1).settle.traceFlush

theorem State.stopped_only {s : State} (h : s.thr.tq = []) : s.OnlySaved s.stopped ∧ s.thr.OnlyStopped s.stopped.thr := by
  have hemit : s.thr.OnlyTrace ((s.emit 8 (0x15 * 2 ^ 50 + s.thr.pc.toNat / 8)).count 21 1).thr :=
    (s.thr.emit_only s.cycle 8 _).trans (Thread.count_only _ 21 1)
  have hq : ((s.emit 8 (0x15 * 2 ^ 50 + s.thr.pc.toNat / 8)).count 21 1).thr.tq = [] := by
    rw [hemit]
    exact h
  obtain ⟨c, hsettle⟩ := State.settle_of_empty hq
  obtain ⟨hmem, hthr⟩ := State.onlyTraced_traceFlush ((s.emit 8 (0x15 * 2 ^ 50 + s.thr.pc.toNat / 8)).count 21 1).settle
  refine ⟨.trans (t := ((s.emit 8 (0x15 * 2 ^ 50 + s.thr.pc.toNat / 8)).count 21 1).settle) ?_ hmem.saved,
    .trans (b := ((s.emit 8 (0x15 * 2 ^ 50 + s.thr.pc.toNat / 8)).count 21 1).settle.thr) ?_ hthr.stopped⟩
  · rw [hsettle]
    rfl
  · rw [hsettle]
    exact .trans hemit.traced.stopped rfl

theorem State.stopped_memOk {s : State} (h : s.MemOk) : s.stopped.MemOk :=
  ((State.KeepsInv.refl s).emit.count.settle.traceFlush).memOk h

theorem State.stopAndSave_eq {s : State} (h : s.thr.tq = []) : ∃ d c i, s.stopAndSave = { s.stopped with
    mem := (s.stopped.mem.writeParts (recordOf s) s.stopped.saveParts).write (recordOf s + 0x84000)
      (s.stopped.thr.spad.read 0 s.stopped.thr.spx)
    damage := d, coh := c, images := i } := by
  obtain ⟨hsaved, hthr⟩ := State.stopped_only h
  have hat : s.stopped.tctx.recordAt s.stopped.thr.id.record = recordOf s := by
    have hctx : s.stopped.tctx = s.tctx := by
      unfold State.tctx
      rw [hthr]
      unfold State.ctx
      rw [hsaved]
    rw [hctx, hthr]
    rfl
  rw [← hat]
  exact State.saveThread_eq _

theorem State.stopAndSave_only {s : State} (h : s.thr.tq = []) :
    s.OnlySaved s.stopAndSave ∧ s.thr.OnlyStopped s.stopAndSave.thr := by
  obtain ⟨hsaved, hthr⟩ := State.stopped_only h
  obtain ⟨d, c, i, hsave⟩ := State.stopAndSave_eq h
  rw [hsave]
  exact ⟨hsaved.trans rfl, hthr⟩

theorem State.saveHead_pairwise (s : State) : s.saveHead.Pairwise fun p q => p.1 + p.2.1 ≤ q.1 := by
  unfold State.saveHead
  simp

theorem State.saveHead_below (s : State) : ∀ p ∈ s.saveHead, p.1 + p.2.1 ≤ 0x400 := by
  unfold State.saveHead
  simp

/-- A number that reads back from a part of the record below its mask registers. -/
theorem State.stopAndSave_num {s : State} (h : s.thr.tq = []) (hm : s.MemOk) {off n v : Nat} (hp : (off, n, v) ∈ s.stopped.saveHead)
    {k j : Nat} (hk : k + j ≤ n) : s.stopAndSave.mem.num (recordOf s + (off + k)) j = v / 256 ^ k % 256 ^ j := by
  obtain ⟨d, c, i, hsave⟩ := State.stopAndSave_eq h
  obtain ⟨rest, hparts, hrest⟩ := s.stopped.saveParts_eq
  have hw : s.stopped.mem.wf = true := (State.stopped_memOk hm).1
  have hwhead := Mem.wf_writeParts hw (recordOf s) s.stopped.saveHead
  have hbelow : off + n ≤ 0x400 := s.stopped.saveHead_below _ hp
  rw [hsave]
  dsimp only
  rw [Mem.num_write_outside (Mem.wf_writeParts hw _ _) _ (by omega), hparts, Mem.writeParts_append,
    Mem.num_writeParts_above hwhead (fun q hq => by have := hrest q hq; omega),
    Mem.num_writeParts hw _ s.stopped.saveHead_pairwise hp hk]

/-- A part that is one word of the record. -/
theorem State.stopAndSave_word {s : State} (h : s.thr.tq = []) (hm : s.MemOk) {off v : Nat} (hp : (off, 8, v) ∈ s.stopped.saveHead) :
    s.stopAndSave.mem.num (recordOf s + off) 8 = v % 2 ^ 64 := by
  have := State.stopAndSave_num h hm hp (k := 0) (j := 8) (Nat.le_refl 8)
  rwa [Nat.add_zero, pow_zero, Nat.div_one] at this

/-- Word `k` of a part that packs a list of words. -/
theorem State.stopAndSave_words {s : State} (h : s.thr.tq = []) (hm : s.MemOk) {off n : Nat} {l : List Word}
    (hp : (off, n, packElems 64 (l.map BitVec.toNat)) ∈ s.stopped.saveHead) {k : Nat} (hk : 8 * k + 8 ≤ n) (hl : k < l.length) :
    s.stopAndSave.mem.num (recordOf s + (off + 8 * k)) 8 = l[k].toNat := by
  rw [State.stopAndSave_num h hm hp hk, show (256 : Nat) ^ (8 * k) = 2 ^ (64 * k) by rw [show (256 : Nat) = 2 ^ 8 from rfl, ← pow_mul]; ring_nf,
    show (256 : Nat) ^ 8 = 2 ^ 64 from rfl, packElems_div]
  simp [hl, Nat.mod_eq_of_lt l[k].isLt]

/-! ### Groups -/

/-- A group replaced is the one that its number finds. -/
theorem State.group_setGroup {s : State} {g h : Group} {gid : Nat} (hg : s.group gid = some g) (hh : h.gid = gid) :
    (s.setGroup h).group gid = some h := by
  have hgid : g.gid = gid := by simpa using List.find?_some hg
  have hp : ((fun x : Group => x.gid == gid) ∘ fun x => if x.gid == h.gid then h else x) = fun x => x.gid == gid := by
    funext x
    by_cases hx : x.gid = gid
    · simp [hx, hh]
    · simp [hx, hh]
  unfold State.group State.setGroup at *
  rw [List.find?_map, hp, hg, Option.map_some, hgid, hh]
  simp

theorem State.group_congr {s t : State} (h : t.groups = s.groups) (gid : Nat) : t.group gid = s.group gid := by
  unfold State.group
  rw [h]

theorem State.OnlySaved.group {s t : State} (h : s.OnlySaved t) (gid : Nat) : t.group gid = s.group gid :=
  State.group_congr (by rw [h]) gid

/-! ### A slot released -/

theorem State.onlyMemory_devWrite {s t : State} {ctx va : Nat} {bs : List Byte} (h : s.devWrite ctx va bs = .ok t) : s.OnlyMemory t := by
  obtain ⟨pa, rfl⟩ := State.devWrite_ok h
  rfl

theorem State.onlyMemory_writeMap (s : State) (t : Thread) : s.OnlyMemory (s.writeMap t) := by
  refine List.foldlRecOn (motive := s.OnlyMemory) _ _ rfl fun u hu x _ => ?_
  dsimp only
  split
  case h_1 v hv => exact hu.trans (State.onlyMemory_devWrite hv)
  case h_2 => exact hu

theorem State.onlySaved_uninstall (s : State) : s.OnlySaved s.uninstall := by
  unfold State.uninstall
  dsimp only
  split
  · exact (s.onlyMemory_writeMap s.thr).saved.trans rfl
  · rfl

theorem State.onlySaved_keepSpad (s : State) : s.OnlySaved s.keepSpad := by
  unfold State.keepSpad
  dsimp only
  split <;> rfl

theorem State.onlySaved_vacate (s : State) : s.OnlySaved s.vacate := by
  unfold State.vacate
  dsimp only
  split
  · exact s.onlySaved_keepSpad.trans rfl
  · exact (s.onlySaved_uninstall.trans s.uninstall.onlySaved_keepSpad).trans rfl

/-! ### The last save of a group, and the last leave (R304) -/

/-- A group with a thread that is still to be saved waits for it. -/
theorem State.suspendIfSaved_of_unsaved {s : State} {g : Group} (hg : s.group g.gid = some g) (h : ∃ x ∈ g.threads, x.2.2 = false) :
    s.suspendIfSaved g.gid = s := by
  have hall : (g.threads.all fun x => x.2.2) = false := by
    obtain ⟨x, hx, hs⟩ := h
    exact List.all_eq_false.2 ⟨x, hx, by rw [hs]; exact Bool.false_ne_true⟩
  unfold State.suspendIfSaved
  rw [hg]
  dsimp only
  rw [hall, Bool.and_false, if_neg Bool.false_ne_true]

/-- The last save suspends the group and empties the slot of its thread at turn. -/
theorem State.suspendIfSaved_of_last {s : State} {g : Group} {rec : Nat} (hg : s.group g.gid = some g) (hst : g.state = .stopping)
    (hth : g.threads = [(s.thr.id.tidx, rec, true)]) (hlive : s.thr.live = true) (hgid : s.thr.id.gid = g.gid) :
    s.suspendIfSaved g.gid = s.vacate.setGroup { g with state := .suspended } := by
  have hfocus : s.focus (isStroke g.gid s.thr.id.tidx) State.vacate = s.vacate := if_pos (by simp [isStroke, hlive, hgid])
  unfold State.suspendIfSaved
  rw [hg]
  dsimp only
  rw [hst, hth]
  simp only [List.foldl_cons, List.foldl_nil, hfocus]
  rfl

/-- The last thread of an aborted group ends it and frees its record. -/
theorem State.leaveGroup_of_last {s : State} {id : ThreadId} {g : Group} {rec : Nat} (hg : s.group id.gid = some g) (hst : g.state = .aborted)
    (hth : g.threads = [(id.tidx, rec, false)]) : ∃ gs rs, s.leaveGroup id = { s.freeRecord id.ctx id.record with groups := gs, regions := rs } ∧
      ∀ x ∈ gs, x.gid ≠ id.gid := by
  have hgid : g.gid = id.gid := by simpa using List.find?_some hg
  have hfree : (s.freeRecord id.ctx id.record).group id.gid = some g := hg
  have hfilter : g.threads.filter (fun x => x.1 != id.tidx) = [] := by
    rw [hth]
    simp
  have hrel : ∀ y : Group, y.release.gid = y.gid ∧ y.release.state = y.state ∧ y.release.threads = y.threads := fun y => by
    unfold Group.release
    split
    · exact ⟨rfl, rfl, rfl⟩
    · exact ⟨rfl, rfl, rfl⟩
  unfold State.leaveGroup
  dsimp only
  rw [hfree]
  dsimp only
  rw [hfilter]
  obtain ⟨h1, h2, h3⟩ := hrel { g with threads := [], exited := g.exited ||| (1 <<< id.tidx) }
  rw [h3]
  unfold State.endGroup
  rw [h1, h2]
  dsimp only
  rw [hst]
  refine ⟨_, _, rfl, fun x hx => ?_⟩
  have := (List.mem_filter.1 hx).2
  simpa [hgid] using this

end Sys2Proof.Machine
end

section
/-! The save of threads (R40, R41, R304), and with the flush of the trace O49. -/

namespace Sys2Proof.Machine

set_option Elab.async false

open Sys2Proof.Claim

theorem State.stoppedForGood_eq {s : State} {t : Thread} {g : Group} (h : s.group t.id.gid = some g) :
    s.stoppedForGood t = (g.state == .aborted) := by
  unfold State.stoppedForGood
  rw [h]

/-- A thread that rests is at its pre-emption point. -/
theorem resting_atRest {s : State} {g : Group} (h : resting s g) : s.atRest s.thr = true := by
  obtain ⟨hlive, hv, hq, hwait, htr, -, -, -, hheld, htraps, hmap, hrel⟩ := h
  have hhead : s.thr.headRetires = false := by
    unfold Thread.headRetires
    rw [hq]
  simp [State.atRest, Thread.settled, hlive, hv, hq, hwait, htr, hheld, htraps, hmap, hrel, hhead]

/-- A group once its thread of an index has been saved. -/
def Group.saved (g : Group) (tidx : Nat) : Group :=
  { g with threads := g.threads.map fun x => if x.1 = tidx then (x.1, x.2.1, true) else x }

/-- What the end of a save does with a thread at rest: one that is stopped for good leaves, one of a stopping group is saved. -/
theorem exec_threadSaveComplete {s : State} {g : Group} (h : resting s g) : exec (.threadSaveComplete s.thr.id.core s.thr.id.slot) s =
    if g.state == .aborted then .next (s.settle.vacate.leaveGroup s.thr.id)
    else if g.state != .stopping || g.threads.any (fun x => x.1 == s.thr.id.tidx && x.2.2) then .fault .notEnabled
    else .next ((s.stopAndSave.setGroup (g.saved s.thr.id.tidx)).suspendIfSaved g.gid) := by
  have hrest := resting_atRest h
  obtain ⟨hlive, -, -, -, -, hg, -⟩ := h
  show execThreadSaveComplete _ _ s = _
  unfold execThreadSaveComplete
  dsimp only
  rw [State.find_atTurn hlive]
  dsimp only
  rw [hrest, State.stoppedForGood_eq hg, hg, State.focus_atTurn hlive, State.focus_atTurn hlive]
  rfl

/-- The words of the record that a save gives. -/
theorem State.stopAndSave_record {s : State} (hq : s.thr.tq = []) (hm : s.MemOk) {m : Mem} (hsave : m = s.stopAndSave.mem) :
    let num := fun (off : Nat) => m.num (recordOf s + off) 8
    num 0 = s.thr.pc.toNat ∧ num 8 % 2 = s.thr.sup.toNat ∧ num 0x18 = s.thr.vdirty.toNat ∧
      (∀ k < 64, num (0x80 + 8 * k) = (vget s.thr.r.g k).toNat) ∧ num 0x280 = s.thr.c.shape.toNat ∧ num 0x288 = s.thr.c.fmode.toNat ∧
      num 0x290 = s.thr.c.fstat.toNat ∧ num 0x298 = s.thr.c.rngkey.toNat ∧ num 0x2A0 = s.thr.c.rngctr.toNat ∧
      num 0x2F0 = s.thr.c.instret.toNat ∧ num 0x318 = s.thr.c.tmapb.toNat ∧ num 0x320 = s.thr.c.trappc.toNat ∧
      num 0x328 = s.thr.c.trapcause.toNat ∧ ∀ k < 3, num (0x2A8 + 8 * k) = (vget s.thr.r.loops k).count.toNat := by
  subst hsave
  obtain ⟨-, hthr⟩ := State.stopped_only hq
  have hword := fun off v => State.stopAndSave_word hq hm (off := off) (v := v)
  have hreg : s.stopped.thr.r = s.thr.r := by rw [hthr]
  have hg : (0x80, 512, packElems 64 (s.thr.r.g.toList.map BitVec.toNat)) ∈ s.stopped.saveHead := by
    simp [State.saveHead, hreg]
  have hc : (0x280, 384, packElems 64 (s.stopped.saveCsrs.map BitVec.toNat)) ∈ s.stopped.saveHead := by
    simp [State.saveHead]
  have hcsr : ∀ (k : Nat) (x : Word), k < 48 → s.stopped.saveCsrs[k]? = some x →
      s.stopAndSave.mem.num (recordOf s + (0x280 + 8 * k)) 8 = x.toNat := fun k x hk hx => by
    obtain ⟨hl, rfl⟩ := List.getElem?_eq_some_iff.1 hx
    exact State.stopAndSave_words hq hm hc (by omega) hl
  have hpc := hword 0 s.stopped.thr.pc.toNat (by simp [State.saveHead])
  have hst := hword 8 s.stopped.thr.status (by simp [State.saveHead])
  have hvd := hword 0x18 s.stopped.thr.vdirty.toNat (by simp [State.saveHead])
  refine ⟨?_, ?_, ?_, ?_, hcsr 0 _ (by decide) ?_, hcsr 1 _ (by decide) ?_, hcsr 2 _ (by decide) ?_, hcsr 3 _ (by decide) ?_,
    hcsr 4 _ (by decide) ?_, hcsr 14 _ (by decide) ?_, hcsr 19 _ (by decide) ?_, hcsr 20 _ (by decide) ?_, hcsr 21 _ (by decide) ?_, ?_⟩
  · dsimp only
    rw [hpc, hthr]
    exact Nat.mod_eq_of_lt (s.thr.pc.isLt.trans (by decide))
  · dsimp only
    rw [hst, hthr]
    unfold Thread.status
    dsimp only
    have := Bool.toNat_lt s.thr.sup
    omega
  · dsimp only
    rw [hvd, hthr]
    exact Nat.mod_eq_of_lt s.thr.vdirty.isLt
  · intro k hk
    have hlen : k < s.thr.r.g.toList.length := by simpa using hk
    dsimp only
    rw [State.stopAndSave_words hq hm hg (by omega) hlen]
    simp [vget, Nat.mod_eq_of_lt hk]
  case refine_14 =>
    intro k hk
    have hloop := hcsr (5 + k) (vget s.thr.r.loops k).count (by omega) (by rw [State.saveCsrs, hthr]; interval_cases k <;> rfl)
    rwa [show 0x280 + 8 * (5 + k) = 0x2A8 + 8 * k by omega] at hloop
  all_goals rw [State.saveCsrs, hthr]
  all_goals rfl

/-- A thread that is the next of a stopping group to be saved. -/
theorem exec_threadSaveComplete_of_stopping {s : State} {g : Group} (h : resting s g) (hst : g.state = .stopping)
    (hth : ∀ x ∈ g.threads, x.2.2 = false) : exec (.threadSaveComplete s.thr.id.core s.thr.id.slot) s =
      .next ((s.stopAndSave.setGroup (g.saved s.thr.id.tidx)).suspendIfSaved (g.saved s.thr.id.tidx).gid) := by
  have hany : (g.threads.any fun x => x.1 == s.thr.id.tidx && x.2.2) = false :=
    List.any_eq_false.2 fun x hx => by rw [hth x hx, Bool.and_false]; exact Bool.false_ne_true
  have hstop : (g.state != .stopping) = false := by rw [hst]; rfl
  have habort : (g.state == .aborted) = false := by rw [hst]; rfl
  rw [exec_threadSaveComplete h, hany, hstop, habort]
  rfl

theorem threadSave : ThreadSave := by
  intro s g h save
  have hrest := h
  obtain ⟨hlive, hv, hq, -, -, hg, hgid, hm, -⟩ := h
  obtain ⟨hsaved, hthr⟩ := State.stopAndSave_only hq
  have hgrp : s.stopAndSave.group g.gid = some g := by rw [hsaved.group, hgid, hg]
  have hset : (s.stopAndSave.setGroup (g.saved s.thr.id.tidx)).group g.gid = some (g.saved s.thr.id.tidx) :=
    State.group_setGroup hgrp rfl
  refine ⟨fun other r' hst hth hne => ?_, fun hst hth => ?_, fun hst hctx hth => ?_, fun hst => ?_⟩
  · have hthreads : (g.saved s.thr.id.tidx).threads = [(s.thr.id.tidx, s.thr.id.record, true), (other, r', false)] := by
      simp [Group.saved, hth, hne]
    have hexec := exec_threadSaveComplete_of_stopping hrest hst (by rw [hth]; simp)
    rw [State.suspendIfSaved_of_unsaved (g := g.saved s.thr.id.tidx) hset ⟨(other, r', false), by simp [hthreads], rfl⟩] at hexec
    refine ⟨_, _, hexec, hset, ?_, ?_, State.stopAndSave_record hq hm rfl⟩
    · rw [← hthreads]
      rfl
    · rw [State.setGroup_thr, hthr]
      exact hlive
  · have hthreads : (g.saved s.thr.id.tidx).threads = [(s.thr.id.tidx, s.thr.id.record, true)] := by
      simp [Group.saved, hth]
    have hthr' : (s.stopAndSave.setGroup (g.saved s.thr.id.tidx)).thr.id = s.thr.id := by rw [State.setGroup_thr, hthr]
    have hlive' : (s.stopAndSave.setGroup (g.saved s.thr.id.tidx)).thr.live = true := by rw [State.setGroup_thr, hthr]; exact hlive
    have hexec := exec_threadSaveComplete_of_stopping hrest hst (by rw [hth]; simp)
    rw [State.suspendIfSaved_of_last (g := g.saved s.thr.id.tidx) hset hst (by rw [hthr', hthreads]) hlive' (by rw [hthr']; exact hgid.symm)]
      at hexec
    refine ⟨_, { g.saved s.thr.id.tidx with state := .suspended }, hexec, rfl, State.group_setGroup (g := g.saved s.thr.id.tidx) ?_ rfl, rfl,
      hthreads⟩
    rw [(State.onlySaved_vacate _).group]
    exact hset
  · have hvac : s.settle.vacate.group s.thr.id.gid = some g := by
      obtain ⟨c, hsettle⟩ := State.settle_of_empty hq
      rw [(State.onlySaved_vacate _).group, hsettle]
      exact hg
    obtain ⟨gs, rs, hleave, hgs⟩ := State.leaveGroup_of_last hvac hst hth
    refine ⟨s.settle.vacate.leaveGroup s.thr.id, ?_, ?_, ?_, ?_⟩
    · show exec _ s = _
      rw [exec_threadSaveComplete hrest, hst]
      rfl
    · rw [hleave]
      rfl
    · rw [hleave, hgid]
      exact List.find?_eq_none.2 fun x hx => by simpa using hgs x hx
    · rw [hleave]
      show s.thr.id.record ∉ ((s.settle.vacate.freeRecord s.thr.id.ctx s.thr.id.record).ctx s.thr.id.ctx).records
      unfold State.freeRecord
      rw [State.ctx_setCtx_same]
      simp
  · show exec _ s = _
    rw [exec_threadSaveComplete hrest, hst]
    rfl

end Sys2Proof.Machine

namespace Sys2Proof

open Machine

/-- Settles O49. -/
theorem threadSaving : Obligations.ThreadSaving := ⟨threadSave, traceFlush⟩

end Sys2Proof
end

section
/-! Placement where nothing is READY (R287): the context served last is a number of the state, and no premise of the statement bounds it. -/

namespace Sys2Proof.Machine

set_option Elab.async false

/-- A node of class 3 whose kernel has no group still to be created. -/
def strayNode : Node := { Node.ofWords 0x100 [] with body := vset (Vector.replicate 16 0) 1 0x300, state := .running }

/-- A suspended group of that node, its context numbered 64: no number of a context, and read as context 0. -/
def strayGroup : Group := { probeGroup with ctx := 64, node := 0x100, state := .suspended, threads := [(0, 0, true)] }

/-- Context 0, ACTIVE with the node in its queue 0, the group, and 64 for the context served last. -/
def strayState : State :=
  { State.reset.setCtx 0 { Ctx.reset with
      state := .active, cls := 3, deficit := 96, queues := vset Ctx.reset.queues 0 { Queue.reset with state := .active, nodes := [strayNode] } } with
    groups := [strayGroup], lastServed := 64 }

/-- No context has a READY group. -/
theorem strayState_quiet : ∀ n < 64, strayState.readyOf n = [] := by decide +kernel

/-- The group is placed all the same, as the context served last goes on. -/
theorem strayState_places : (strayState.placeFrom [3, 2, 1, 0]).isSome = true := by decide +kernel

end Sys2Proof.Machine

namespace Sys2Proof

open Machine

/-- Refutes O48: `GroupLaunch` says of every state that nothing is placed where no context of 0 to 63 has a READY group. Its last clause has not
the premise `lastServed < 64`, which the others take from `onlyReady`: in `strayState` the context served last is 64, which reads as context 0,
and a suspended group of that number is placed for it. -/
theorem not_placement : ¬ Obligations.Placement := by
  unfold Obligations.Placement Claim.GroupLaunch
  rintro ⟨⟨-, -, hnone⟩, -⟩
  have hfault : execGroupPlace strayState = .fault .notEnabled := hnone strayState strayState_quiet
  obtain ⟨t, ht⟩ := Option.isSome_iff_exists.1 strayState_places
  unfold execGroupPlace at hfault
  rw [ht] at hfault
  cases hfault

end Sys2Proof
end

section
/-! The run of an entry where another tile's entry names a core that the package does not have (R224, R227): the entry's core is a byte, the
package has 192 cores, and a core of a higher number is read as the one that it counts back to. -/

namespace Sys2Proof.Machine

set_option Elab.async false

open Sys2Proof.Claim

/-- A resident tile whose entry names slot 0 of core 192, which is read as core 0. -/
def strayEnt : TEnt := { TEnt.unpack 0 with core := 192, slot := 0, f := true, state := tRESIDENT }

/-- Slot 0 of core 0, with that tile's value: one bit set. -/
def straySlot : Slot :=
  { num := 0, tag := ⟨0, 0, 1, 0⟩, val := { shape := 0, data := 1, scales := 0 }, zmap := 0, dirty := false, full := true, sf := false, sfAddr := 0
    report := false, lastUse := 0 }

/-- A `TSHAPE` of tile 0, posted. -/
def strayPost : TqEnt :=
  { post := 0, pc := 0, ins := .tshape default, g0 := 0, g1 := 0, fmode := 0, rngkey := 0, rng := 0, st := .posted, done := false, skip := false
    slot := none, chain := none, unit := 0, since := 0, xheld := false, res := noResult }

/-- A thread in core 0 with an absent tile 0 and that tile 1, its queue the one entry; slot 0 is the core's only general slot. -/
def strayTiles : State :=
  { State.reset with
    thr := { Thread.none with live := true, tmap := [TEnt.unpack 0, strayEnt], tmapReady := true, tq := [strayPost] }
    cores := vset State.reset.cores 0 { split := 17, pool := List.range' 1 16, slots := [straySlot], moves := [] } }

theorem strayTiles_alone : tileAlone strayTiles strayPost := by
  refine ⟨rfl, rfl, rfl, rfl, rfl, rfl, rfl, by decide +kernel, rfl, rfl, rfl, rfl, rfl, by decide +kernel, by decide +kernel, rfl, rfl, ?_, ?_⟩
  · exact fun r hr => absurd hr List.not_mem_nil
  · intro t ht
    obtain rfl : t = (default : TOp).md.toNat := by simpa [tNames, tReads, tDests, strayPost] using ht
    exact ⟨by decide +kernel, fun y hy => by rw [show strayTiles.tileSlot (default : TOp).md.toNat = none by decide +kernel] at hy; cases hy⟩

theorem strayTiles_spare : tileSpare strayTiles 1 :=
  ⟨by decide +kernel, by decide, by decide +kernel, by decide +kernel⟩

/-- The state of an outcome that goes on. -/
def Out.state? (o : Out) : Option State :=
  match o with
  | .next s => some s
  | _ => none

/-- The state once an entry has been issued, has completed and has retired. -/
def State.tileRan (s : State) (post : Nat) : Option State :=
  (Out.state? (exec .tileEntryIssue s)).bind fun a =>
    (Out.state? (exec (.tileEntryComplete post) a)).bind fun b => Out.state? (exec .tileEntryRetire b)

/-- The retirement owes the pool a slot. Slot 0 does not look like one that its tile is in, so it pays, and the tile's value is gone. -/
theorem strayTiles_loses : (strayTiles.tileRan 0).map (fun c => c.tileVal 1) = some (TileVal.zero 0) := by decide +kernel

end Sys2Proof.Machine

namespace Sys2Proof

open Machine

/-- Refutes O26: the statement asks that every other resident tile keeps its value, whatever core its entry names. In `strayTiles` tile 1 names
core 192, which `State.core` reads as core 0, where its value stands; `State.liveSlot` compares the numbers 192 and 0, takes the slot for free,
and the retirement of a `TSHAPE` of tile 0 pays its pool slot with it. -/
theorem not_tileResult : ¬ Obligations.TileResult := by
  unfold Obligations.TileResult
  intro h
  obtain ⟨a, b, c, ha, hb, hc, -, -, -, -, -, -, hothers, -⟩ := h strayTiles strayPost 0 1 (TileVal.zero 0, 0) strayTiles_alone strayTiles_spare rfl
    (by decide) (fun x hx => absurd hx List.not_mem_nil) rfl
  have hran : strayTiles.tileRan 0 = some c := by
    have hb' : exec (.tileEntryComplete 0) a = .next b := hb
    rw [State.tileRan, ha, Out.state?, Option.bind_some, hb', Out.state?, Option.bind_some, hc, Out.state?]
  have hzero : c.tileVal 1 = TileVal.zero 0 := by
    have := strayTiles_loses
    rw [hran] at this
    exact Option.some.inj this
  have hkept : c.tileVal 1 = straySlot.val := ((hothers 1 (by decide)).1 (by decide) (by decide)).trans (by decide +kernel)
  exact absurd (hzero.symm.trans hkept) (by decide +kernel)

end Sys2Proof
end

section
/-! Decoding gives back every well-formed instruction that has a word of a thread (R73, R76, R83). -/

namespace Sys2Proof

set_option Elab.async false

theorem majorAssigned_lt {mj : Nat} (h : majorAssigned mj = true) : mj < 256 := by
  simp only [majorAssigned, Bool.or_eq_true, Bool.and_eq_true, decide_eq_true_eq, beq_iff_eq] at h
  omega

/-- A major and an FN of the opcode map that stand in a word: the convoy header has no FN. -/
def inMap (mj fn : Nat) : Bool := majorAssigned mj && mj != 0xC0 && decide (fn < 256)

/-- The word of an instruction decodes to it where the opcode map gives the instruction at the word's major and FN. -/
theorem decode_mkWord {mj fn : Nat} {f : BitVec 48} {i : Instr} (hm : inMap mj fn = true) (henc : encode64 i = some (mkWord mj fn f))
    (hwf : wf i = true) (hmap : decodeFn mj fn f = some i) : decode (mkWord mj fn f) = some i := by
  simp only [inMap, Bool.and_eq_true, bne_iff_ne, decide_eq_true_eq] at hm
  obtain ⟨⟨hmj, hc⟩, hfn⟩ := hm
  unfold decode decodeWord
  simp only [mkWord_major _ _ _ (majorAssigned_lt hmj), mkWord_fn _ _ _ hfn, mkWord_fields, hmj, hc, if_true, if_false, hmap, henc]
  rw [if_pos (beq_iff_eq.1 hwf)]
  rfl

/-- An instruction whose row of the opcode map unpacks a format decodes from its word. -/
theorem decode_of_map {α : Type} {pack : α → BitVec 48} {unpack : BitVec 48 → α} (hup : ∀ o, unpack (pack o) = o) {C : α → Instr}
    {mj fn : Nat} {o : α} {w : Word} (h : encode64 (C o) = some w) (hwf : wf (C o) = true)
    (henc : encode64 (C o) = some (mkWord mj fn (pack o))) (hm : inMap mj fn = true)
    (hmap : ∀ f, decodeFn mj fn f = some (C (unpack f))) : decode w = some (C o) := by
  obtain rfl : mkWord mj fn (pack o) = w := Option.some.inj (henc.symm.trans h)
  exact decode_mkWord hm henc hwf (by rw [hmap, hup])

/-- The map of the conversions: their FN is the two type codes, which differ (R103). -/
theorem decodeFn_fcvt {d t : CvtTy} (h : d ≠ t) (f : BitVec 48) :
    decodeFn 0x1F (16 * d.code + t.code) f = some (.fcvt d t (.unpack f)) := by
  have hd : (16 * d.code + t.code) / 16 = d.code ∧ (16 * d.code + t.code) % 16 = t.code := by
    cases d
    all_goals cases t
    all_goals decide
  have hc : ClassFmt.ofCode (16 * d.code + t.code) = none := by
    cases d
    all_goals cases t
    all_goals rfl
  simp [decodeFn, decodeMajor1, hc, hd, h]

/-- The FN of a move between a vector register and a `g` register is the upper part of its element number (R150). -/
theorem decodeFn_vmovs (n : BitVec 3) (f : BitVec 48) : decodeFn 0x58 n.toNat f = some (.vmovs n (.unpack f)) := by
  simp [decodeFn, decodeMajor5, n.isLt]

theorem decodeFn_vins (n : BitVec 3) (f : BitVec 48) : decodeFn 0x59 n.toNat f = some (.vins n (.unpack f)) := by
  simp [decodeFn, decodeMajor5, n.isLt]

theorem inMap_small {mj fn : Nat} (h : inMap mj 0 = true) (hfn : fn < 256) : inMap mj fn = true := by
  simp_all [inMap]

theorem decode_convoy (o : COp) : decode o.pack = some (.convoy o) := by
  have hmj : (o.pack.extractLsb' 56 8).toNat = 0xC0 := by
    simp (disch := omega) only [COp.pack, BitVec.extractLsb'_append_eq_of_le]
    simp
  unfold decode decodeWord
  simp only [hmj, COp.unpack_pack, if_true]
  rw [show encode64 (.convoy o) = some o.pack from rfl, if_pos rfl]
  rfl

/-- A write of a control register whose row is its own, and of every other (R216). -/
theorem decodeFn_csrw (o : YOp) : decodeFn 0xD1 0 o.pack =
    if o.n12 = 0x030 then some (.policygenWrite o) else if o.n12 = 0x100 then some (.tmapbWrite o)
    else if o.n12 = 0x109 then some (.tracectlWrite o) else some (.csrw o) := by
  simp only [decodeFn, decodeMajorD, YOp.unpack_pack]

theorem decode_encode64 (i : Instr) (w : Word) (h : encode64 i = some w) (hwf : wf i = true) : decode w = some i := by
  cases i with
  | add o | sub o | mul o | and o | or o | xor o | andn o | shl o | shr o | sar o | rol o | sel o | clz o | ctz o | popc o | bswap o
      | jr o | callr o | pgalloc o | pgfree o | hmark o | htrunc o | mbpoll o | mbctlMode o | mbctlBudget o | mbctlKill o | xloop o
      | xacc o =>
    exact decode_of_map SOp.unpack_pack h hwf rfl rfl fun _ => rfl
  | mulh x o | div x o | rem x o | min x o | max x o | cmp x o | fadd x o | fsub x o | fmul x o | fdiv x o | fsqrt x o | fmin x o
      | fmax x o | ffma x o | fclass x o | hmake x o | hchk x o | rng x o =>
    cases x
    all_goals exact decode_of_map SOp.unpack_pack h hwf rfl rfl fun _ => rfl
  | fcmp x y o =>
    cases x
    all_goals cases y
    all_goals exact decode_of_map SOp.unpack_pack h hwf rfl rfl fun _ => rfl
  | addi o | andi o | ori o | xori o | shli o | shri o | sari o | roli o | ldi o | lih o | bfi o =>
    exact decode_of_map IOp.unpack_pack h hwf rfl rfl fun _ => rfl
  | cmpi x o | bfx x o =>
    cases x
    all_goals exact decode_of_map IOp.unpack_pack h hwf rfl rfl fun _ => rfl
  | jmp o | call o => exact decode_of_map BOp.unpack_pack h hwf rfl rfl fun _ => rfl
  | br x o | loop x o =>
    cases x
    all_goals exact decode_of_map BOp.unpack_pack h hwf rfl rfl fun _ => rfl
  | lbrk x y o =>
    cases x
    all_goals cases y
    all_goals exact decode_of_map BOp.unpack_pack h hwf rfl rfl fun _ => rfl
  | bri x o =>
    cases x
    all_goals exact decode_of_map BIOp.unpack_pack h hwf rfl rfl fun _ => rfl
  | lea o => exact decode_of_map MOp.unpack_pack h hwf rfl rfl fun _ => rfl
  | ld x o | st x o | lds x o | sts x o | pref x o =>
    cases x
    all_goals exact decode_of_map MOp.unpack_pack h hwf rfl rfl fun _ => rfl
  | lda x y o | str x y o =>
    cases x
    all_goals cases y
    all_goals exact decode_of_map MOp.unpack_pack h hwf rfl rfl fun _ => rfl
  | amo x y z o | cas x y z o =>
    cases x
    all_goals cases y
    all_goals cases z
    all_goals exact decode_of_map MOp.unpack_pack h hwf rfl rfl fun _ => rfl
  | vadd o | vsub o | vmul o | vmulh o | vfma o | vfms o | vfnma o | vdiv o | vsqrt o | vrcp o | vrsq o | vexp2 o | vlog2 o | vsin o
      | vcos o | vtanh o | vmin o | vmax o | vabs o | vneg o | vand o | vor o | vxor o | vshl o | vshr o | vsar o | vsel o | vcvt o
      | vquant o | vdeq o | vcompress o | vexpand o | kand o | kor o | kxor o | kandn o | knot o | kcnt o | kfirst o | mbpost o
      | mbtake o =>
    exact decode_of_map VOp.unpack_pack h hwf rfl rfl fun _ => rfl
  | vshape x o | vcmp x o | viota x o | vredo x o | vredt x o | vperm x o | vbcast x o | vslide x o | kset x o | kmov x o =>
    cases x
    all_goals exact decode_of_map VOp.unpack_pack h hwf rfl rfl fun _ => rfl
  | vbind o => exact decode_of_map VMOp.unpack_pack h hwf rfl rfl fun _ => rfl
  | vld x o | vst x o | vldx x o | vstx x o | vlds x o | vsts x o | vunbind x o | vspos x o =>
    cases x
    all_goals exact decode_of_map VMOp.unpack_pack h hwf rfl rfl fun _ => rfl
  | tshape o | tzero o | tstp o | tcopy o | tgetr o | tgetc o | tputr o | tputc o | mma o | mmai o | tcvt o | tadd o | tmul o
      | tscale o | tpref o | tdead o | tflagr o | tflagc o | tsend o | tgather o | tappend o | tzmap o =>
    exact decode_of_map TOp.unpack_pack h hwf rfl rfl fun _ => rfl
  | tld x o | tst x o | ttrq x o | trecv x o | twait x o =>
    cases x
    all_goals exact decode_of_map TOp.unpack_pack h hwf rfl rfl fun _ => rfl
  | binit o | gbar o | spawn o => exact decode_of_map AOp.unpack_pack h hwf rfl rfl fun _ => rfl
  | cpy x o | cpy2d x o | barrive x o | bwait x o | gsig x o | fence x o | cmo x o | isync x o =>
    cases x
    all_goals exact decode_of_map AOp.unpack_pack h hwf rfl rfl fun _ => rfl
  | yield o | exit o | nop o | xgret o | xend o | xabort o | csrr o | csrx o | trap o | brk o | eret o | wfe o | hcall o =>
    exact decode_of_map YOp.unpack_pack h hwf rfl rfl fun _ => rfl
  | waitf x o =>
    cases x
    all_goals exact decode_of_map YOp.unpack_pack h hwf rfl rfl fun _ => rfl
  | fcvt d x o =>
    have hne : d ≠ x := by
      intro he
      simp [wf, wfStep, he] at hwf
    have hfn : 16 * d.code + x.code < 256 := by
      cases d
      all_goals cases x
      all_goals decide
    exact decode_of_map SOp.unpack_pack h hwf rfl (inMap_small rfl hfn) (decodeFn_fcvt hne)
  | vscan x o =>
    cases x with
    | mul => exact absurd hwf (by simp [wf, wfStep, VOp.wfScan, firstFail])
    | add | min | max | and | or | xor => exact decode_of_map VOp.unpack_pack h hwf rfl rfl fun _ => rfl
  | vmovs n o => exact decode_of_map VOp.unpack_pack h hwf rfl (inMap_small rfl (by omega)) (decodeFn_vmovs n)
  | vins n o => exact decode_of_map VOp.unpack_pack h hwf rfl (inMap_small rfl (by omega)) (decodeFn_vins n)
  | csrw o =>
    obtain rfl := Option.some.inj h
    have hown : csrOwnRow o.n12 = false := by
      by_contra hc
      simp [wf, wfStep, firstFail, hc] at hwf
    simp only [csrOwnRow, Bool.or_eq_false_iff, beq_eq_false_iff_ne] at hown
    obtain ⟨⟨hp, ht⟩, hr⟩ := hown
    exact decode_mkWord rfl rfl hwf (by rw [decodeFn_csrw, if_neg hp, if_neg ht, if_neg hr])
  | policygenWrite o | tmapbWrite o | tracectlWrite o =>
    obtain rfl := Option.some.inj h
    refine decode_mkWord rfl rfl hwf ?_
    have hn := hwf
    simp [wf, wfStep, firstFail] at hn
    simp [decodeFn_csrw, hn]
  | convoy o =>
    obtain rfl := Option.some.inj h
    exact decode_convoy o
  | _ => cases h
end Sys2Proof
end

section
/-! Decoding gives back every well-formed instruction that has a word of a hart (R331, R337), and with the words of a thread O56. -/

namespace Sys2Proof

set_option Elab.async false

theorem rvR_fields (f7 : BitVec 7) (rs2 rs1 : BitVec 5) (f3 : BitVec 3) (rd : BitVec 5) (op : BitVec 7) :
    (rvR f7 rs2 rs1 f3 rd op).extractLsb' 0 7 = op ∧ (rvR f7 rs2 rs1 f3 rd op).extractLsb' 7 5 = rd ∧
      (rvR f7 rs2 rs1 f3 rd op).extractLsb' 12 3 = f3 ∧ (rvR f7 rs2 rs1 f3 rd op).extractLsb' 15 5 = rs1 ∧
      (rvR f7 rs2 rs1 f3 rd op).extractLsb' 20 5 = rs2 ∧ (rvR f7 rs2 rs1 f3 rd op).extractLsb' 25 7 = f7 := by
  simp (disch := omega) only [rvR, BitVec.extractLsb'_append_eq_of_add_le, BitVec.extractLsb'_append_eq_of_le]
  simp

theorem rvIw_fields (imm : BitVec 12) (rs1 : BitVec 5) (f3 : BitVec 3) (rd : BitVec 5) (op : BitVec 7) :
    (rvIw imm rs1 f3 rd op).extractLsb' 0 7 = op ∧ (rvIw imm rs1 f3 rd op).extractLsb' 7 5 = rd ∧
      (rvIw imm rs1 f3 rd op).extractLsb' 12 3 = f3 ∧ (rvIw imm rs1 f3 rd op).extractLsb' 15 5 = rs1 ∧
      (rvIw imm rs1 f3 rd op).extractLsb' 20 12 = imm := by
  simp (disch := omega) only [rvIw, BitVec.extractLsb'_append_eq_of_add_le, BitVec.extractLsb'_append_eq_of_le]
  simp

/-- The A extension's word: an R-type word whose funct7 is funct5, aq and rl. -/
theorem rvA_fields (f5 : BitVec 5) (aq rl : Bool) (rs2 rs1 : BitVec 5) (f3 : BitVec 3) (rd : BitVec 5) :
    f5 ++ bit aq ++ bit rl ++ rs2 ++ rs1 ++ f3 ++ rd ++ 0x2F#7 = rvR (f5 ++ bit aq ++ bit rl) rs2 rs1 f3 rd 0x2F ∧
      (rvR (f5 ++ bit aq ++ bit rl) rs2 rs1 f3 rd 0x2F).extractLsb' 27 5 = f5 ∧
      (rvR (f5 ++ bit aq ++ bit rl) rs2 rs1 f3 rd 0x2F).getLsbD 26 = aq ∧
      (rvR (f5 ++ bit aq ++ bit rl) rs2 rs1 f3 rd 0x2F).getLsbD 25 = rl := by
  refine ⟨rfl, ?_, ?_, ?_⟩
  · simp (disch := omega) only [rvR, BitVec.extractLsb'_append_eq_of_le]
    simp
  · simp (disch := omega) only [BitVec.getLsbD_eq_extractLsb', rvR, BitVec.extractLsb'_append_eq_of_add_le, BitVec.extractLsb'_append_eq_of_le]
    simp
  · simp (disch := omega) only [BitVec.getLsbD_eq_extractLsb', rvR, BitVec.extractLsb'_append_eq_of_add_le, BitVec.extractLsb'_append_eq_of_le]
    simp

@[simp] theorem rvBr_code (c : RvBr) : rvBr c.code.toNat = some c := by cases c <;> rfl
@[simp] theorem rvLd_code (c : RvLd) : rvLd c.code.toNat = some c := by cases c <;> rfl
@[simp] theorem rvSt_code (c : RvSt) : rvSt c.code.toNat = some c := by cases c <;> rfl
@[simp] theorem rvMul_code (c : RvMul) : rvMul c.code.toNat = some c := by cases c <;> rfl
@[simp] theorem rvOp_code (c : RvAlu) : rvOp c.code.toNat c.f7.toNat = some c := by cases c <;> rfl

theorem RvAlu.f7_ne_one (f : RvAlu) : f.f7.toNat ≠ 1 := by
  cases f
  all_goals decide

/-- The mark of `srai` is taken off a shift amount again. -/
theorem sraMark_cleared {imm : BitVec 12} (h : imm.toNat < 2 ^ 6) : (imm ||| 0x400#12) &&& ~~~(0x400#12) = imm := by
  have hm : imm &&& 0x3F#12 = imm := BitVec.eq_of_toNat_eq (Nat.and_two_pow_sub_one_of_lt_two_pow h)
  calc (imm ||| 0x400#12) &&& ~~~(0x400#12) = imm &&& ~~~(0x400#12) := by
        rw [BitVec.and_or_distrib_right, show 0x400#12 &&& ~~~(0x400#12) = 0#12 from rfl, BitVec.or_zero]
    _ = imm &&& (0x3F#12 &&& ~~~(0x400#12)) := by rw [← BitVec.and_assoc, hm]
    _ = imm := hm

/-- The immediate of a register-immediate operation, of `n` bits where it is a shift amount, reads back with its operation. -/
theorem rvOpImm_code {n : Nat} (hn : n ≤ 6) {f : RvAlu} {imm : BitVec 12} (hs : f ≠ .sub)
    (hf : f = .sll ∨ f = .srl ∨ f = .sra → imm.toNat < 2 ^ n) : rvOpImm n f.code.toNat (imm ||| f.immHigh) = some (f, imm) := by
  have hz (h : imm.toNat < 2 ^ n) : imm >>> n = 0 := by
    apply BitVec.eq_of_toNat_eq
    rw [BitVec.toNat_ushiftRight, Nat.shiftRight_eq_div_pow, Nat.div_eq_of_lt h]
    rfl
  cases f with
  | sub => exact absurd rfl hs
  | add | slt | sltu | xor | or | and => simp [rvOpImm, RvAlu.code, RvAlu.immHigh]
  | sll | srl => simp [rvOpImm, RvAlu.code, RvAlu.immHigh, hz (hf (by simp))]
  | sra =>
    have hlt := hf (by simp)
    have hmark : 0x400#12 >>> n ≠ 0 := by
      interval_cases n
      all_goals decide
    have hshift : (imm ||| 0x400#12) >>> n = 0x400#12 >>> n := by
      rw [BitVec.ushiftRight_or_distrib, hz hlt]
      exact BitVec.zero_or
    show rvOpImm n 5 (imm ||| 0x400#12) = _
    unfold rvOpImm
    simp only [hshift, if_neg hmark, if_true, sraMark_cleared (hlt.trans_le (Nat.pow_le_pow_right (by decide) hn))]

/-- funct3 of a Zicsr operation on a register or on an immediate. -/
def RvCsr.f3 (f : RvCsr) (imm : Bool) : BitVec 3 :=
  match f, imm with
  | .rw, false => 1 | .rs, false => 2 | .rc, false => 3 | .rw, true => 5 | .rs, true => 6 | .rc, true => 7

theorem RvI.encode_csr (f : RvCsr) (imm : Bool) (rd rs1 : BitVec 5) (n : BitVec 12) :
    (RvI.csr f imm rd rs1 n).encode = rvIw n rs1 (f.f3 imm) rd 0x73 := by
  cases f
  all_goals cases imm
  all_goals rfl

theorem RvI.decode_encode {i : RvI} (h : i.legal = true) : RvI.decode i.encode = some i := by
  cases i with
  | lui rd imm | auipc rd imm | fence fm p s rd rs1 =>
    simp (disch := omega) only [RvI.encode, RvI.decode, BitVec.extractLsb'_append_eq_of_add_le, BitVec.extractLsb'_append_eq_of_le]
    simp
  | ecall | ebreak | wfi => rfl
  | jal rd off =>
    have hoff : off.extractLsb' 19 1 ++ off.extractLsb' 11 8 ++ off.extractLsb' 10 1 ++ off.extractLsb' 0 10 = off := by
      simp (disch := omega) only [BitVec.extractLsb'_append_extractLsb'_eq_extractLsb']
      exact BitVec.extractLsb'_eq_self
    simp (disch := omega) only [RvI.encode, RvI.decode, BitVec.extractLsb'_append_eq_of_add_le, BitVec.extractLsb'_append_eq_of_le]
    simp [hoff]
  | jalr rd rs1 imm =>
    obtain ⟨hop, hrd, hf3, hrs1, himm⟩ := rvIw_fields imm rs1 0 rd 0x67
    simp only [RvI.encode, RvI.decode, hop, hrd, hf3, hrs1, himm]
    rfl
  | branch c rs1 rs2 off =>
    have hoff : off.extractLsb' 11 1 ++ off.extractLsb' 10 1 ++ off.extractLsb' 4 6 ++ off.extractLsb' 0 4 = off := by
      simp (disch := omega) only [BitVec.extractLsb'_append_extractLsb'_eq_extractLsb']
      exact BitVec.extractLsb'_eq_self
    simp (disch := omega) only [RvI.encode, RvI.decode, BitVec.extractLsb'_append_eq_of_add_le, BitVec.extractLsb'_append_eq_of_le]
    simp [hoff]
  | store c rs1 rs2 off =>
    have hoff : off.extractLsb' 5 7 ++ off.extractLsb' 0 5 = off := by
      simp (disch := omega) only [BitVec.extractLsb'_append_extractLsb'_eq_extractLsb']
      exact BitVec.extractLsb'_eq_self
    simp (disch := omega) only [RvI.encode, RvI.decode, BitVec.extractLsb'_append_eq_of_add_le, BitVec.extractLsb'_append_eq_of_le]
    simp [hoff]
  | load f rd rs1 imm =>
    obtain ⟨hop, hrd, hf3, hrs1, himm⟩ := rvIw_fields imm rs1 f.code rd 0x03
    simp only [RvI.encode, RvI.decode, hop, hrd, hf3, hrs1, himm, rvLd_code]
    rfl
  | opImm f rd rs1 imm =>
    have hl : f ≠ .sub ∧ (f = .sll ∨ f = .srl ∨ f = .sra → imm.toNat < 64) := by
      cases f
      all_goals simp_all [RvI.legal]
    obtain ⟨hop, hrd, hf3, hrs1, himm⟩ := rvIw_fields (imm ||| f.immHigh) rs1 f.code rd 0x13
    simp only [RvI.encode, RvI.decode, hop, hrd, hf3, hrs1, himm]
    exact congrArg (Option.map fun p => RvI.opImm p.1 rd rs1 p.2) (rvOpImm_code (n := 6) (by decide) hl.1 hl.2)
  | opImm32 f rd rs1 imm =>
    have hl : f ≠ .sub ∧ (f = .sll ∨ f = .srl ∨ f = .sra → imm.toNat < 2 ^ 5) ∧ rvHasW f = true := by
      cases f
      all_goals simp_all [RvI.legal, rvHasW]
    obtain ⟨hsub, hsh, hw⟩ := hl
    obtain ⟨hop, hrd, hf3, hrs1, himm⟩ := rvIw_fields (imm ||| f.immHigh) rs1 f.code rd 0x1B
    simp only [RvI.encode, RvI.decode, hop, hrd, hf3, hrs1, himm, rvOpImm_code (n := 5) (by decide) hsub hsh]
    simp [hw]
  | op f rd rs1 rs2 =>
    obtain ⟨hop, hrd, hf3, hrs1, hrs2, hf7⟩ := rvR_fields f.f7 rs2 rs1 f.code rd 0x33
    simp only [RvI.encode, RvI.decode, hop, hrd, hf3, hrs1, hrs2, hf7, if_neg f.f7_ne_one, rvOp_code]
    rfl
  | op32 f rd rs1 rs2 =>
    have hw : rvHasW f = true := h
    obtain ⟨hop, hrd, hf3, hrs1, hrs2, hf7⟩ := rvR_fields f.f7 rs2 rs1 f.code rd 0x3B
    simp only [RvI.encode, RvI.decode, hop, hrd, hf3, hrs1, hrs2, hf7, if_neg f.f7_ne_one, rvOp_code]
    simp [hw]
  | mul f rd rs1 rs2 =>
    obtain ⟨hop, hrd, hf3, hrs1, hrs2, hf7⟩ := rvR_fields 1 rs2 rs1 f.code rd 0x33
    simp only [RvI.encode, RvI.decode, hop, hrd, hf3, hrs1, hrs2, hf7, rvMul_code]
    rfl
  | mul32 f rd rs1 rs2 =>
    have hw : rvMulHasW f = true := h
    obtain ⟨hop, hrd, hf3, hrs1, hrs2, hf7⟩ := rvR_fields 1 rs2 rs1 f.code rd 0x3B
    simp only [RvI.encode, RvI.decode, hop, hrd, hf3, hrs1, hrs2, hf7, rvMul_code]
    simp [hw]
  | fenceI imm rd rs1 =>
    obtain ⟨hop, hrd, hf3, hrs1, himm⟩ := rvIw_fields imm rs1 1 rd 0x0F
    simp only [RvI.encode, RvI.decode, hop, hrd, hf3, hrs1, himm]
    rfl
  | csr f imm rd rs1 n =>
    obtain ⟨hop, hrd, hf3, hrs1, himm⟩ := rvIw_fields n rs1 (f.f3 imm) rd 0x73
    rw [RvI.encode_csr]
    simp only [RvI.decode, hop, hrd, hf3, hrs1, himm]
    cases f
    all_goals cases imm
    all_goals rfl
  | lr dbl aq rl rd rs1 =>
    obtain ⟨hw, hf5, haq, hrl⟩ := rvA_fields 2#5 aq rl 0#5 rs1 (if dbl then 3#3 else 2#3) rd
    obtain ⟨hop, hrd, hf3, hrs1, hrs2, -⟩ := rvR_fields (2#5 ++ bit aq ++ bit rl) 0#5 rs1 (if dbl then 3#3 else 2#3) rd 0x2F
    rw [RvI.encode, hw]
    simp only [RvI.decode, hop, hrd, hf3, hrs1, hrs2, hf5, haq, hrl]
    cases dbl
    all_goals rfl
  | sc dbl aq rl rd rs1 rs2 =>
    obtain ⟨hw, hf5, haq, hrl⟩ := rvA_fields 3#5 aq rl rs2 rs1 (if dbl then 3#3 else 2#3) rd
    obtain ⟨hop, hrd, hf3, hrs1, hrs2, -⟩ := rvR_fields (3#5 ++ bit aq ++ bit rl) rs2 rs1 (if dbl then 3#3 else 2#3) rd 0x2F
    rw [RvI.encode, hw]
    simp only [RvI.decode, hop, hrd, hf3, hrs1, hrs2, hf5, haq, hrl]
    cases dbl
    all_goals rfl
  | amo f dbl aq rl rd rs1 rs2 =>
    obtain ⟨hw, hf5, haq, hrl⟩ := rvA_fields f.code aq rl rs2 rs1 (if dbl then 3#3 else 2#3) rd
    obtain ⟨hop, hrd, hf3, hrs1, hrs2, -⟩ := rvR_fields (f.code ++ bit aq ++ bit rl) rs2 rs1 (if dbl then 3#3 else 2#3) rd 0x2F
    rw [RvI.encode, hw]
    simp only [RvI.decode, hop, hrd, hf3, hrs1, hrs2, hf5, haq, hrl]
    cases dbl
    all_goals cases f
    all_goals rfl

/-- The opcode of a base instruction, bits [6:0] of its word. -/
def RvI.opcode : RvI → BitVec 7
  | .lui _ _ => 0x37
  | .auipc _ _ => 0x17
  | .jal _ _ => 0x6F
  | .jalr _ _ _ => 0x67
  | .branch _ _ _ _ => 0x63
  | .load _ _ _ _ => 0x03
  | .store _ _ _ _ => 0x23
  | .opImm _ _ _ _ => 0x13
  | .opImm32 _ _ _ _ => 0x1B
  | .op _ _ _ _ | .mul _ _ _ _ => 0x33
  | .op32 _ _ _ _ | .mul32 _ _ _ _ => 0x3B
  | .fence _ _ _ _ _ | .fenceI _ _ _ => 0x0F
  | .ecall | .ebreak | .wfi | .csr _ _ _ _ _ => 0x73
  | .lr _ _ _ _ _ | .sc _ _ _ _ _ _ | .amo _ _ _ _ _ _ _ => 0x2F

theorem RvI.encode_opcode (i : RvI) : i.encode.extractLsb' 0 7 = i.opcode := by
  cases i with
  | ecall | ebreak | wfi => rfl
  | _ =>
    simp (disch := omega) only [RvI.encode, rvR, rvIw, BitVec.extractLsb'_append_eq_of_add_le]
    exact BitVec.extractLsb'_eq_self

/-- No base instruction is a parcel, and none stands in custom-0. -/
theorem RvI.opcode_full (i : RvI) : i.opcode.extractLsb' 0 2 = 3 ∧ i.opcode ≠ 0x0B := by
  cases i
  all_goals simp [RvI.opcode]

theorem rvIsFull_iff (w : BitVec 32) : rvIsFull (w.extractLsb' 0 16) = true ↔ (w.extractLsb' 0 7).extractLsb' 0 2 = 3 := by
  rw [rvIsFull, beq_iff_eq, BitVec.extractLsb'_extractLsb'_of_le (by decide), BitVec.extractLsb'_extractLsb'_of_le (by decide)]

theorem decodeEtesian_encode_full {i : RvI} (h : i.legal = true) : decodeEtesian i.encode = some (.baseRiscv (.full i)) := by
  obtain ⟨hlow, hop⟩ := i.opcode_full
  have hfull : rvIsFull (i.encode.extractLsb' 0 16) = true := by rw [rvIsFull_iff, i.encode_opcode, hlow]
  unfold decodeEtesian
  rw [if_pos hfull, i.encode_opcode, if_neg hop, RvI.decode_encode h]
  rfl

/-- A parcel is no 32-bit word, and decodes where it stands for an instruction. -/
theorem decodeEtesian_parcel {h : BitVec 16} (hlow : h.extractLsb' 0 2 ≠ 3) (hx : RvI.expand h ≠ none) :
    decodeEtesian (h.setWidth 32) = some (.baseRiscv (.compressed h)) := by
  obtain ⟨i, hi⟩ := Option.ne_none_iff_exists'.1 hx
  have hw : (h.setWidth 32).extractLsb' 0 16 = h := by
    rw [BitVec.extractLsb'_setWidth_of_le (by decide)]
    exact BitVec.extractLsb'_eq_self
  unfold decodeEtesian
  rw [hw, if_neg (by simpa [rvIsFull] using hlow)]
  simp only [hi]
  rfl

/-- The instructions of custom-0 by funct3 (R337). -/
def ROp.custom (o : ROp) (f3 : BitVec 3) : Option Instr :=
  match f3.toNat with
  | 0 => some (.etake o)
  | 1 => some (.epost o)
  | 2 => some (.ewdkick o)
  | 3 => some (.eyield o)
  | 4 => some (.eexit o)
  | _ => none

theorem decodeEtesian_custom (o : ROp) (f3 : BitVec 3) :
    decodeEtesian (o.pack f3) = (o.custom f3).bind fun i => if wf i then some i else none := by
  obtain ⟨hop, hrd, hf3, hrs1, hrs2, hf7⟩ := rvR_fields 0 o.rs2 o.rs1 f3 o.rd 0x0B
  have hu : ROp.unpack (o.pack f3) = o := by simp only [ROp.unpack, ROp.pack, hrd, hrs1, hrs2]
  have hfull : rvIsFull ((o.pack f3).extractLsb' 0 16) = true := by
    rw [rvIsFull_iff, ROp.pack, hop]
    rfl
  have hf3' : (o.pack f3).extractLsb' 12 3 = f3 := hf3
  unfold decodeEtesian
  rw [if_pos hfull, if_pos (show (o.pack f3).extractLsb' 0 7 = 0x0B from hop)]
  dsimp only
  rw [if_pos (show (o.pack f3).extractLsb' 25 7 = 0 from hf7), hf3', hu]
  rfl

theorem decodeEtesian_encodeEtesian (i : Instr) (w : BitVec 32) (henc : encodeEtesian i = some w) (hwf : wf i = true)
    (hx : ∀ h, i = .baseRiscv (.compressed h) → RvI.expand h ≠ none) : decodeEtesian w = some i := by
  cases i with
  | baseRiscv r =>
    have hl : r.legal = true := by simpa [wf, wfStep, firstFail] using hwf
    cases r with
    | full i =>
      obtain rfl := Option.some.inj henc
      exact decodeEtesian_encode_full hl
    | compressed h =>
      obtain rfl := Option.some.inj henc
      exact decodeEtesian_parcel (by simpa [Rv.legal] using hl) (hx h rfl)
  | etake o | epost o | ewdkick o | eyield o | eexit o =>
    obtain rfl := Option.some.inj henc
    rw [decodeEtesian_custom]
    simp [ROp.custom, hwf]
  | _ => cases henc
/-- Settles O56: a thread's word is unpacked by the row of the opcode map that its format, major and FN name (`decode_encode64`); a hart's word
is that of custom-0, a 32-bit base word or a parcel (`decodeEtesian_encodeEtesian`). -/
theorem decodeEncode : Obligations.DecodeEncode := ⟨decode_encode64, decodeEtesian_encodeEtesian⟩

end Sys2Proof
end

section
/-! Words that the spec writes out (R76 to R78, R159, R337). -/

namespace Sys2Proof.Machine

set_option Elab.async false

theorem exec_nop {s : State} (o : YOp) (h : s.Executes [] []) : exec (.nop o) s = .next s.checked.commit :=
  State.scalar_of_executes (f := fun s => .next s.commit) h

end Sys2Proof.Machine

namespace Sys2Proof

open Machine

/-- Settles O55: each word is evaluated; `NOP` executes on the checked state. -/
theorem decodeWords : Obligations.DecodeWords := by
  refine ⟨?_, ?_, ?_, ?_, ?_, ?_, ?_, ?_, ?_, ?_, ?_, ?_, ?_, ?_, ?_, ?_, fun s h => exec_nop ⟨0, 0⟩ h⟩
  all_goals decide +kernel

end Sys2Proof
end

section
/-! The waits of a thread, and its `EXIT` (R34, R77, R113, R114). -/

namespace Sys2Proof.Machine

set_option Elab.async false

open Sys2Proof.Claim

/-! ### Waits (R113) -/

theorem Thread.waitfDone_one (t : Thread) (n : Nat) : t.waitfDone false n = true ↔ vget t.r.arr n = BitVec.allOnes 32 := t.full_iff n

theorem Thread.waitfDone_all (t : Thread) (n : Nat) :
    t.waitfDone true n = true ↔ t.vq = [] ∧ ∀ k < 64, vget t.r.arr k = BitVec.allOnes 32 := by
  simp only [Thread.waitfDone, if_true, Bool.and_eq_true, List.isEmpty_iff, List.all_eq_true, List.mem_range, Thread.full_iff]

theorem exec_waitf {s : State} (h : s.Executes [] []) (all : Bool) (o : YOp) : exec (.waitf all o) s =
    .next (if s.thr.waitfDone all (o.n12.extractLsb' 0 6).toNat then s.checked.commit
      else s.checked.setWait (.waitf all (o.n12.extractLsb' 0 6).toNat)) := by
  rw [show exec (.waitf all o) s = execWaitf all o s from rfl, execWaitf, State.scalar_of_executes h, State.checked_thr]

theorem exec_yield {s : State} (h : s.Executes [] []) (o : YOp) : exec (.yield o) s =
    .next (if o.n12 = 0 then s.checked.commit else s.checked.commit.setWait (.yield (s.cycle + o.n12.toNat))) := by
  rw [show exec (.yield o) s = execYield o s from rfl, execYield, State.scalar_of_executes h]
  dsimp only
  rw [show s.checked.commit.cycle = s.cycle from s.checked_cycle]

theorem waitResult : WaitResult := by
  intro s o h
  refine ⟨exec_nop o h, exec_yield h o, ?_, fun hd => ?_, fun hd => ?_⟩
  · rw [exec_waitf h]
    simp only [Thread.waitfDone_one]
  · rw [exec_waitf h, if_pos ((s.thr.waitfDone_all _).2 hd)]
  · rw [exec_waitf h, if_neg (mt (s.thr.waitfDone_all _).1 hd)]

theorem exec_waitfWake {s : State} {all : Bool} {n : Nat} (h : s.thr.wait = .waitf all n) :
    exec .waitfWake s = .next (if s.thr.waitfDone all n then s.commit else s) := by
  rw [show exec .waitfWake s = execWaitfWake s from rfl, execWaitfWake, h]

theorem waitWakes : WaitWakes := by
  refine fun s => ⟨fun n h hd => ?_, fun n h hv hd => ?_, fun n h hd => ?_, fun u h => ?_⟩
  · rw [exec_waitfWake h, if_pos ((s.thr.waitfDone_one n).2 hd)]
  · rw [exec_waitfWake h, if_pos ((s.thr.waitfDone_all n).2 ⟨hv, hd⟩)]
  · rw [exec_waitfWake h, if_neg (mt (s.thr.waitfDone_one n).1 hd)]
  · rw [show exec .yieldExpiry s = execYieldExpiry s from rfl, execYieldExpiry, h]

/-! ### `EXIT` (R114) -/

theorem State.Serial.checked {s : State} (h : s.Serial) : s.checked.Serial := s.checked_regions.trans h

/-- `EXIT` of a thread in no region. -/
theorem exec_exit {s : State} (h : s.Executes [] []) (hr : s.Serial) (o : YOp) : exec (.exit o) s =
    if !s.thr.vq.isEmpty || !s.thr.tmapReady then .next (s.checked.setWait .exit) else
    (s.checked.setWait .exit).syncAll.elim (.next ((s.checked.setWait .exit).onThr fun t => t.retire 1).endThread) .next := by
  have hv : (s.checked.setWait .exit).thr.vq = s.thr.vq := congrArg (·.vq) s.checked_thr
  have hm : (s.checked.setWait .exit).thr.tmapReady = s.thr.tmapReady := congrArg (·.tmapReady) s.checked_thr
  rw [show exec (.exit o) s = execExit o s from rfl, execExit, State.scalar_of_executes h, hr.checked.myRegion]
  dsimp only
  rw [hv, hm]
  cases (s.checked.setWait .exit).syncAll
  all_goals rfl

theorem exitWaits : ExitWaits := by
  intro s o h hr hv
  rw [exec_exit h hr, if_pos]
  simp [hv]

end Sys2Proof.Machine
end

section
/-! The end of a thread (R114, R304): once its slot is empty, what its group and its node's dispatcher do leaves it empty. -/

namespace Sys2Proof.Machine

set_option Elab.async false

open Sys2Proof.Claim

/-- The slot at turn holds no thread, and no group holds a hachure region. The rules below carry this through what the units do. -/
structure State.Vacant (s : State) : Prop where
  live : s.thr.live = false
  serial : s.Serial

variable {s t : State}

theorem State.Vacant.foldl {α : Type} {f : State → α → State} {l : List α} (h : s.Vacant) (hf : ∀ s x, s.Vacant → (f s x).Vacant) :
    (l.foldl f s).Vacant :=
  List.foldlRecOn l f h fun s h x _ => hf s x h

/-! ### What the units write (R281) -/

theorem State.Vacant.storePA {pa : Nat} {bs : List Byte} (h : s.Vacant) : (s.storePA pa bs).Vacant := ⟨h.live, h.serial⟩

theorem State.Vacant.storePA8 {pa : Nat} {v : Word} (h : s.Vacant) : (s.storePA8 pa v).Vacant := h.storePA

theorem State.Vacant.setCtx {n : Nat} {c : Ctx} (h : s.Vacant) : (s.setCtx n c).Vacant := ⟨h.live, h.serial⟩

theorem State.Vacant.setQueue {n q : Nat} {x : Queue} (h : s.Vacant) : (s.setQueue n q x).Vacant := h.setCtx

theorem State.Vacant.mapNode {n q : Nat} {a : Word} {f : Node → Node} (h : s.Vacant) : (s.mapNode n q a f).Vacant := h.setQueue

theorem State.Vacant.setGroup {g : Group} (h : s.Vacant) : (s.setGroup g).Vacant := ⟨h.live, h.serial⟩

theorem State.Vacant.devWrite8 {ctx va : Nat} {v : Word} (h : s.Vacant) (hw : s.devWrite8 ctx va v = .ok t) : t.Vacant := by
  obtain ⟨pa, rfl⟩ := State.devWrite_ok hw
  exact h.storePA

theorem State.Vacant.accUpdate8 {ctx va : Nat} {sup : Bool} {f : Word → Word} (h : s.Vacant) (hw : s.accUpdate8 ctx sup va f = .ok t) :
    t.Vacant := by
  unfold State.accUpdate8 at hw
  split at hw
  · cases hw
  split at hw
  · cases hw
  split at hw
  · cases hw
  · cases hw
    exact h.storePA8

theorem State.Vacant.arrive {ctx : Nat} {sup : Bool} {bar set clear : Word} {add : BitVec 32} (h : s.Vacant)
    (hw : s.arrive ctx sup bar add set clear = .ok t) : t.Vacant := by
  unfold State.arrive at hw
  split at hw
  · cases hw
    exact h
  · exact h.accUpdate8 hw

theorem State.Vacant.arriveOrDrop {ctx : Nat} {bar set clear : Word} {add : BitVec 32} (h : s.Vacant) :
    (s.arriveOrDrop ctx bar add set clear).Vacant := by
  unfold State.arriveOrDrop
  split
  · exact h.arrive ‹_›
  · exact h

theorem State.Vacant.vecEvent {a : Nat} {v : Vec} (h : s.Vacant) : (s.vecEvent a v).Vacant := by
  unfold State.vecEvent State.deliver
  dsimp only
  split
  · exact h.storePA
  · split
    · exact ⟨h.live, h.serial⟩
    · exact ⟨h.live, h.serial⟩

theorem State.Vacant.cvecEvent {n : Nat} (h : s.Vacant) : (s.cvecEvent n).Vacant := by
  unfold State.cvecEvent
  dsimp only
  split
  · split
    · exact h.vecEvent
    · exact h
  · exact h.vecEvent

/-! ### Queues and nodes (R276 to R283, R299) -/

theorem State.Vacant.qerr {n q cause : Nat} (h : s.Vacant) : (s.qerr n q cause).Vacant :=
  (State.Vacant.setQueue (State.Vacant.storePA8 h)).cvecEvent

theorem State.Vacant.qput {n q off : Nat} {v : Word} (h : s.Vacant) : (s.qput n q off v).Vacant := by
  unfold State.qput
  split
  · exact h.devWrite8 ‹_›
  · exact h.qerr

theorem State.Vacant.setQState {n q : Nat} {st : QState} (h : s.Vacant) : (s.setQState n q st).Vacant := by
  unfold State.setQState
  dsimp only
  split
  · exact h.setQueue.qput
  · exact h.setQueue.qerr

theorem State.Vacant.qDone {n q status : Nat} {seq : BitVec 32} (h : s.Vacant) : (s.qDone n q seq status).Vacant := by
  unfold State.qDone
  split
  · exact h.devWrite8 ‹_›
  · exact h.setQueue.qerr

theorem State.Vacant.qIrq {n q bit : Nat} (h : s.Vacant) : (s.qIrq n q bit).Vacant := by
  unfold State.qIrq State.ctlIrq
  split
  · exact h.vecEvent
  · exact h

theorem State.Vacant.freeze {n q : Nat} {fnode fault fpc : Word} (h : s.Vacant) : (s.freeze n q fnode fault fpc).Vacant := by
  unfold State.freeze
  split
  · exact h
  split
  · exact h.qerr
  split
  · exact h.qput
  have hf := h.qput (n := n) (q := q) (off := 0x28) (v := fnode) |>.qput (n := n) (q := q) (off := 0x30) (v := fault ||| (1 <<< 63))
    |>.qput (n := n) (q := q) (off := 0x38) (v := fpc) |>.setQState (n := n) (q := q) (st := .frozen)
  refine State.Vacant.qIrq ?_
  split
  · split
    · exact hf.setQueue.qDone.qIrq
    · exact hf
  · exact hf

theorem State.Vacant.nodeErr {n q cause : Nat} {a : Word} (h : s.Vacant) : (s.nodeErr n q a cause).Vacant := h.freeze

theorem State.Vacant.writeNState {n q : Nat} {a : Word} {st : NState} (h : s.Vacant) (hw : s.writeNState n q a st = .ok t) : t.Vacant := by
  unfold State.writeNState State.devUpdate8 at hw
  split at hw
  · cases hw
    rename_i hu
    split at hu
    · cases hu
    · exact (h.devWrite8 hu).mapNode
  · cases hw

theorem State.Vacant.setNState {n q : Nat} {a : Word} {st : NState} (h : s.Vacant) : (s.setNState n q a st).Vacant := by
  unfold State.setNState
  split
  · exact h.writeNState ‹_›
  · exact h.mapNode.nodeErr

theorem State.Vacant.decPreds {n m x : Nat} {a : Word} {sup : Bool} (h : s.Vacant) (hw : s.decPreds n a m sup = .ok (x, t)) : t.Vacant := by
  revert hw
  unfold State.decPreds
  dsimp only
  split
  · exact nofun
  split
  · exact nofun
  split
  · rintro ⟨⟩
    exact h
  split
  · rintro ⟨⟩
    exact h
  split
  · rintro ⟨⟩
    split
    · exact h.storePA8.setNState
    · exact h.storePA8
  · rintro ⟨⟩
    exact h.storePA8

theorem State.Vacant.owe {n cause : Nat} {w : Owed} {a : Word} (h : s.Vacant) : (s.owe n w a cause).Vacant := h.mapNode.setQueue.nodeErr

theorem State.Vacant.decOne {n : Nat} {w : Owed} (h : s.Vacant) : (s.decOne n w).Vacant := by
  unfold State.decOne
  split
  · exact h.owe
  split
  · exact (h.decPreds ‹_›).mapNode
  · exact h.owe

/-! ### The error token (R283) -/

theorem State.Vacant.tokens {n q nsucc : Nat} {a : Word} {taken : Bool} (h : s.Vacant) : (s.tokens n q a nsucc taken).1.Vacant := by
  refine List.foldlRecOn (motive := fun p : State × List Owed => p.1.Vacant) _ _ h fun p hp i _ => ?_
  dsimp only
  split
  · exact hp
  · dsimp only
    exact hp.owe

theorem State.Vacant.cancelOne {n : Nat} {w : Owed} (h : s.Vacant) : (s.cancelOne n w).1.Vacant := by
  unfold State.cancelOne
  split
  · exact h
  split
  · dsimp only
    exact h.owe
  split
  · exact h.mapNode
  dsimp only
  split
  · split
    · exact (State.Vacant.mapNode (h.writeNState ‹_›)).arriveOrDrop.tokens
    · dsimp only
      exact h.owe
  split
  · exact (State.Vacant.mapNode (h.devWrite8 ‹_›).setCtx).arriveOrDrop.tokens
  · dsimp only
    exact h.owe
  · dsimp only
    exact h.owe

theorem State.Vacant.cancelAll {n fuel : Nat} {skip : List Word} {l : List Owed} (h : s.Vacant) : (State.cancelAll n skip fuel l s).Vacant := by
  induction fuel generalizing l s with
  | zero => cases l <;> exact h
  | succ fuel ih =>
    cases l with
    | nil => exact h
    | cons a l =>
      unfold State.cancelAll
      split
      · exact ih h.mapNode
      · exact ih h.cancelOne

theorem State.Vacant.errorToken {n q nsucc : Nat} {a : Word} {taken : Bool} (h : s.Vacant) : (s.errorToken n q a nsucc taken).Vacant :=
  h.tokens.cancelAll

theorem State.Vacant.frzAll {n q : Nat} {on : Bool} (h : s.Vacant) : (s.frzAll n q on).Vacant := h.foldl fun _ _ h => h.arriveOrDrop

/-! ### Groups (R304) -/

theorem State.vacate_kept (s : State) : s.vacate.parked = s.parked ∧ s.vacate.regions = s.regions := by
  have h := s.onlySaved_vacate
  unfold State.OnlySaved at h
  rw [h]
  exact ⟨rfl, rfl⟩

/-- Releasing the slot of a thread elsewhere leaves the slot at turn empty. -/
theorem State.Vacant.focusVacate {gid tidx : Nat} (h : s.Vacant) : (s.focus (isStroke gid tidx) State.vacate).Vacant := by
  have hp : isStroke gid tidx s.thr = false := by simp [isStroke, h.live]
  unfold State.focus
  rw [hp, if_neg Bool.false_ne_true]
  split
  · exact h
  rename_i i _
  split
  · exact h
  rename_i u hu
  obtain ⟨hlt, -⟩ := List.getElem?_eq_some_iff.1 hu
  obtain ⟨hpk, hrg⟩ := ({ s with thr := u, parked := s.parked.set i s.thr } : State).vacate_kept
  dsimp only
  rw [hpk, List.getElem?_set_self hlt]
  exact ⟨h.live, hrg.trans h.serial⟩

theorem State.Vacant.abortGroup {g : Group} (h : s.Vacant) : (s.abortGroup g).Vacant := by
  unfold State.abortGroup
  split
  · exact h
  have hf : ((g.threads.filter fun x => x.2.2).foldl
      (fun s x => (s.focus (isStroke g.gid x.1) State.vacate).freeRecord g.ctx x.2.1) s).Vacant :=
    h.foldl fun _ _ h => h.focusVacate.setCtx
  revert hf
  generalize (g.threads.filter fun x => x.2.2).foldl
    (fun s x => (s.focus (isStroke g.gid x.1) State.vacate).freeRecord g.ctx x.2.1) s = u
  intro hu
  have hstop : u.stopRegion g.gid = u := by
    unfold State.stopRegion
    rw [show u.regions = [] from hu.serial]
    rfl
  have hreg : (u.regions.filter fun r => r.gid != g.gid) = [] := by rw [show u.regions = [] from hu.serial]; rfl
  dsimp only
  rw [hstop, hreg]
  split
  · exact ⟨hu.live, rfl⟩
  · exact ⟨hu.live, rfl⟩

theorem State.Vacant.nodeFault {n q : Nat} {a fault fpc : Word} {bar : Bool} (h : s.Vacant) : (s.nodeFault n q a fault fpc bar).Vacant := by
  unfold State.nodeFault
  split
  · exact h
  dsimp only
  split
  · split
    · exact (h.freeze.foldl fun _ _ h => h.abortGroup).setNState.mapNode.arriveOrDrop.errorToken.frzAll
    · exact (h.freeze.foldl fun _ _ h => h.abortGroup).setNState.mapNode.arriveOrDrop.errorToken
  split
  · exact (h.freeze.foldl fun _ _ h => h.abortGroup).setNState.mapNode.errorToken.frzAll
  · exact (h.freeze.foldl fun _ _ h => h.abortGroup).setNState.mapNode.errorToken

theorem State.Vacant.nodeDone {n q : Nat} {a : Word} (h : s.Vacant) : (s.nodeDone n q a).Vacant := by
  unfold State.nodeDone
  split
  · exact h
  split
  · exact h.nodeFault
  dsimp only
  split
  · exact (h.arrive ‹_›).setNState
  · exact (h.arrive ‹_›).setNState.foldl fun _ _ h => h.decOne

theorem State.Vacant.endGroup {g : Group} (h : s.Vacant) : (s.endGroup g).Vacant := by
  have hu : ({ s with groups := s.groups.filter fun x => x.gid != g.gid, regions := s.regions.filter fun r => r.gid != g.gid } : State).Vacant :=
    ⟨h.live, by rw [State.Serial, show s.regions = [] from h.serial]; rfl⟩
  unfold State.endGroup State.workEnded
  dsimp only
  split
  · exact hu
  split
  · exact hu.mapNode
  split
  · exact hu.mapNode.nodeDone
  · exact hu.mapNode

theorem State.Vacant.suspendIfSaved {gid : Nat} (h : s.Vacant) : (s.suspendIfSaved gid).Vacant := by
  unfold State.suspendIfSaved
  split
  · exact h
  split
  · exact State.Vacant.setGroup (h.foldl fun _ _ h => h.focusVacate)
  · exact h

theorem State.Vacant.leaveGroup {id : ThreadId} (h : s.Vacant) : (s.leaveGroup id).Vacant := by
  unfold State.leaveGroup
  dsimp only
  split
  · exact h.setCtx
  split
  · exact h.setCtx.setGroup.endGroup
  · exact h.setCtx.setGroup.suspendIfSaved

/-! ### The end (R114) -/

theorem State.dropEntries_of_empty (h : s.thr.tq = []) (n : Nat) : (s.dropEntries n).regions = s.regions := by
  unfold State.dropEntries
  simp only [h, List.filter_nil, List.foldl_nil]
  rfl

/-- A thread without tile entries, in no region, leaves its slot empty. -/
theorem State.endThread_live (h : s.thr.tq = []) (hr : s.Serial) : s.endThread.thr.live = false := by
  have htrace := (s.dropEntries 0).onlyTraced_traceFlush.1
  have hregs : (s.dropEntries 0).traceFlush.regions = [] := by
    unfold State.OnlyMemory at htrace
    rw [htrace]
    exact (s.dropEntries_of_empty h 0).trans hr
  have hv : ∀ u : State, u.Serial → u.vacate.Vacant := fun u hu => ⟨rfl, u.vacate_kept.2.trans hu⟩
  unfold State.endThread
  generalize (s.dropEntries 0).traceFlush = u at hregs
  refine (State.Vacant.leaveGroup (hv _ ?_)).live
  exact hregs

theorem exitEnds : ExitEnds := by
  intro s o hc hr hm
  have hrun := exec_exit (hc.executes [] []) hr o
  have hchk := hc.checked
  obtain ⟨hv, ht, -⟩ := hc
  have hq : (s.setWait .exit).thr.tq = [] := ht
  have hsync : (s.setWait .exit).syncAll = none := by
    unfold State.syncAll State.syncOn
    rw [hq]
    split
    all_goals rfl
  refine ⟨((s.setWait .exit).onThr fun t => t.retire 1).endThread, ?_, State.endThread_live ht hr⟩
  rw [hrun, hchk, hsync, hv, hm]
  rfl

end Sys2Proof.Machine

namespace Sys2Proof

open Machine Claim

/-- Settles O9: the waits and `EXIT` execute on the checked state, and what follows the end of a thread leaves its slot empty
(`State.Vacant.leaveGroup`). -/
theorem waitsAndExit : Obligations.WaitsAndExit := ⟨waitResult, waitWakes, exitEnds, exitWaits⟩

end Sys2Proof
end

section
/-! The causes of traps, and the return from one (R73, R74, R218, R219, R364 to R366, R372). -/

namespace Sys2Proof.Machine

set_option Elab.async false

open Sys2Proof.Claim

/-! ### A precise trap in user mode (R365, R366) -/

/-- A trap of the scalar stream has been taken: its record, the handler's mode and address, and what it leaves as it was. -/
structure State.Trapped (s t : State) (f : FaultInfo) : Prop where
  sup : t.thr.sup = true
  pc : t.thr.pc = s.tctx.trapvec.setWidth 48
  trappc : t.thr.c.trappc = s.thr.pc.zeroExtend 64
  cause : t.thr.c.trapcause = (s.thr.pc.zeroExtend 64 <<< 16) + BitVec.ofNat 64 f.cause
  info : t.thr.c.trapinfo = #v[f.i0, f.i1, f.i2, f.i3]
  r : t.thr.r = s.thr.r
  mem : s.KeepsMem t

theorem State.raise_user {s : State} (hr : s.Serial) (hv : s.thr.vq = []) (hu : s.thr.sup = false) {f : FaultInfo} (hf : f.cause < 256) :
    s.Trapped (s.raise f) f := by
  have hstream : TrapAt.scalar.stream * 1024 + f.cause % 256 = f.cause := by
    rw [Nat.mod_eq_of_lt hf]
    exact Nat.zero_add _
  obtain ⟨_, _, honly⟩ := s.enterTrap_only .scalar f
  rw [State.raise, State.raiseAt_user hr hv hu]
  refine ⟨s.enterTrap_sup _ f, ?_, s.enterTrap_trappc _ f, ?_, s.enterTrap_trapinfo _ f, ?_, fun a => rfl⟩
  · rw [honly]
  · rw [s.enterTrap_trapcause, trapCause_eq_add _ _ _ (by omega), hstream]
  · rw [honly]

/-! ### Words, fetches and instructions that trap -/

theorem illegalTraps : IllegalTraps := by
  intro s w n hr hv hu
  have h := State.raise_user hr hv hu (f := { cause := cILLEGAL, i0 := w, i1 := BitVec.ofNat 64 n }) (show cILLEGAL < 256 by decide)
  exact ⟨_, rfl, h.sup, h.pc, h.trappc, h.cause, h.info, h.r, h.mem⟩

theorem fetchTraps : FetchTraps := by
  intro s hr hv hu hx
  have h := State.raise_user hr hv hu (f := { cause := cCODE_PAGE, i0 := s.thr.pc.zeroExtend 64 }) (show cCODE_PAGE < 256 by decide)
  refine ⟨_, ?_, h.sup, h.pc, h.cause, h.info, h.r, h.mem⟩
  rw [show exec .codePageFetch s = execCodePageFetch s from rfl, execCodePageFetch, hx]

/-- A scalar instruction of a thread with nothing in flight has its effect on the state itself. -/
theorem State.Clear.scalar {s : State} (h : s.Clear) (i : Instr) (srcs dst : List (BitVec 6)) (f : State → Out) : s.scalar i srcs dst f = f s :=
  (State.scalar_of_executes (h.executes srcs dst)).trans (congrArg f h.checked)

theorem exec_trap {s : State} (h : s.Clear) (o : YOp) :
    exec (.trap o) s = .next (s.raise { cause := cTRAP, i0 := s.g o.g, i1 := o.n12.zeroExtend 64 }) := by
  rw [show exec (.trap o) s = execTrap o s from rfl, execTrap, h.scalar]

theorem exec_brk {s : State} (h : s.Clear) (o : YOp) :
    exec (.brk o) s = .next (s.raise { cause := cBREAK, i1 := o.n12.zeroExtend 64 }) := by
  rw [show exec (.brk o) s = execBrk o s from rfl, execBrk, h.scalar]

theorem trapAndBreak : TrapAndBreak := by
  intro s o hc hr hu
  have ht := State.raise_user hr hc.1 hu (f := { cause := cTRAP, i0 := s.g o.g, i1 := o.n12.zeroExtend 64 }) (show cTRAP < 256 by decide)
  have hb := State.raise_user hr hc.1 hu (f := { cause := cBREAK, i1 := o.n12.zeroExtend 64 }) (show cBREAK < 256 by decide)
  exact ⟨⟨_, exec_trap hc o, ht.sup, ht.pc, ht.trappc, ht.cause, ht.info, ht.r, ht.mem⟩,
    ⟨_, exec_brk hc o, hb.sup, hb.pc, hb.trappc, hb.cause, hb.info, hb.r, hb.mem⟩⟩

theorem returnPrivilege : ReturnPrivilege := by
  intro s o hc hr hu
  have h := State.raise_user hr hc.1 hu (f := { cause := cILLEGAL, i0 := insWord (.eret o), i1 := 7 }) (show cILLEGAL < 256 by decide)
  refine ⟨s.illegalMode (.eret o), ?_, h.sup, h.cause, h.info⟩
  rw [show exec (.eret o) s = execEret o s from rfl, execEret, hc.scalar, hu]
  rfl

/-! ### `ERET` (R219, R372) -/

/-- A mismatch that is met is the only damage that leaves. -/
theorem State.checked_csrLost (s : State) (l : List Nat) : s.checked.csrLost l = s.csrLost l := by
  have hd : s.checked.damage.csr = s.damage.csr := by
    show (s.mismatches s.thr.pc).2.damage.csr = _
    unfold State.mismatches
    split
    · rfl
    · split <;> rfl
  unfold State.csrLost
  rw [hd, State.checked_thr]

theorem exec_eret {s : State} (h : s.Executes [] []) (hu : s.thr.sup = true) (hl : s.csrLost [0x102, 0x103] = false) (o : YOp) :
    exec (.eret o) s = .next (s.checked.onThr fun t => t.retire 1).returnFromTrap := by
  rw [show exec (.eret o) s = execEret o s from rfl, execEret, State.scalar_of_executes h, State.checked_thr, State.checked_csrLost, hu, hl]
  rfl

/-- An entry after the return from a trap of the tile stream (R157, R372). -/
def TqEnt.returned (e : TqEnt) (t : Thread) : TqEnt :=
  if e.post % 2 ^ 64 = t.c.tqindex.toNat then
    { e with st := .posted, skip := t.c.trapcause.getLsbD 8, slot := none, since := 0 }
  else if t.c.trapcause.getLsbD 8 && e.shapeFrom t t.c.tqindex.toNat then { e with st := .posted } else e

theorem trapStream (tc : Word) : (tc.extractLsb' 10 2).toNat = tc.toNat / 1024 % 4 := by
  rw [BitVec.extractLsb'_toNat, Nat.shiftRight_eq_div_pow]

/-- What the return changes of the thread: the trace beside its mode, address, queue, cause and wait. -/
theorem State.returnFromTrap_only (s : State) : ∃ tr pmc, s.returnFromTrap = { s with thr := { s.thr with
      sup := false
      pc := if s.thr.c.trapcause.toNat / 1024 % 4 < 2 then s.thr.c.trappc.setWidth 48 else s.thr.c.trapcause.extractLsb' 16 48
      tq := (if s.thr.c.trapcause.toNat / 1024 % 4 = 2 then s.thr.tq.map (·.returned s.thr) else s.thr.tq).map TqEnt.thaw
      c := { s.thr.c with trapcause := s.thr.c.trapcause &&& ~~~(0x100 : Word), pmc := pmc }, wait := .none, trace := tr } } := by
  unfold State.returnFromTrap State.onThr
  dsimp only
  rw [Thread.sync_only, trapStream]
  exact ⟨_, _, rfl⟩

theorem TqEnt.thaw_eq : TqEnt.thaw = fun e => if e.st = .posted then { e with since := 0 } else e := by
  funext e
  simp only [TqEnt.thaw, beq_iff_eq]

theorem TqEnt.thaw_post (e : TqEnt) : e.thaw.post = e.post := by
  unfold TqEnt.thaw
  split <;> rfl

theorem TqEnt.returned_post (e : TqEnt) (t : Thread) : (e.returned t).post = e.post := by
  unfold TqEnt.returned
  split
  · rfl
  · split <;> rfl

/-- The entry that TQINDEX names is posted again. -/
theorem TqEnt.returned_named {e : TqEnt} {t : Thread} (h : e.post % 2 ^ 64 = t.c.tqindex.toNat) :
    (e.returned t).thaw.st = .posted ∧ (e.returned t).thaw.skip = t.c.trapcause.getLsbD 8 := by
  unfold TqEnt.returned
  rw [if_pos h]
  exact ⟨rfl, rfl⟩

theorem TqEnt.returned_other {e : TqEnt} {t : Thread} (h : e.post % 2 ^ 64 ≠ t.c.tqindex.toNat) : e.returned t =
    if t.c.trapcause.getLsbD 8 = true ∧ e.shapeFrom t t.c.tqindex.toNat = true then { e with st := .posted } else e := by
  unfold TqEnt.returned
  rw [if_neg h]
  simp only [Bool.and_eq_true]

theorem returnFromTrap : ReturnFromTrap := by
  intro s o h hu hl tc stream
  obtain ⟨tr, pmc, hret⟩ := (s.checked.onThr fun t => t.retire 1).returnFromTrap_only
  have hthr : (s.checked.onThr fun t => t.retire 1).thr = s.thr.retire 1 := congrArg (Thread.retire · 1) s.checked_thr
  obtain ⟨d, hchk⟩ := s.checked_eq
  refine ⟨_, exec_eret h hu hl o, ?_⟩
  rw [hret, hthr]
  refine ⟨rfl, fun hlt => if_pos hlt, fun hge => if_neg (Nat.not_lt.2 hge), ⟨fun hne => ?_, fun heq e he => ?_⟩, rfl, rfl, fun a => ?_, ?_⟩
  · rw [← TqEnt.thaw_eq]
    exact congrArg (List.map TqEnt.thaw) (if_neg hne)
  · refine ⟨(e.returned s.thr).thaw, ?_, ?_, TqEnt.returned_named, fun hne => ?_⟩
    · have hmem : e.returned s.thr ∈ (if stream = 2 then s.thr.tq.map (·.returned s.thr) else s.thr.tq) := by
        rw [if_pos heq]
        exact List.mem_map_of_mem he
      exact List.mem_map_of_mem hmem
    · rw [TqEnt.thaw_post, TqEnt.returned_post]
    · rw [TqEnt.returned_other hne, TqEnt.thaw_eq]
  · exact congrArg (Mem.get · a) s.checked_mem
  · rw [hchk]
    rfl

end Sys2Proof.Machine

namespace Sys2Proof

open Machine Claim

/-- Settles O11: each trap in user mode is `State.raise_user`; what `ERET` changes is `State.returnFromTrap_only`. -/
theorem trapCauses : Obligations.TrapCauses := ⟨illegalTraps, fetchTraps, trapAndBreak, returnFromTrap, returnPrivilege⟩

end Sys2Proof
end

section
/-! SHAPE and the stream bindings (R79, R128, R130, R154, R155). -/

namespace Sys2Proof.Machine

set_option Elab.async false

open Sys2Proof.Claim

/-! ### SHAPE (R130) -/

/-- ROWS as `VSHAPE` writes it. -/
def shapeRowsOf (n : Bool) (g : Word) : Nat := if n then 1 else g.toNat / 4096

/-- The value that `VSHAPE` writes. -/
def shapeWord (n : Bool) (g : Word) : Word := if n then (g &&& ~~~(0xFFF000 : Word)) ||| 0x1000 else g

/-- The `.n` form keeps COLS and writes ROWS 1. -/
theorem shapeWord_narrow {g : Word} (h : g.toNat < 2 ^ 24) :
    (g &&& ~~~(0xFFF000 : Word)) ||| 0x1000 = BitVec.ofNat 64 (1 * 4096 + g.toNat % 4096) := by
  have hcols : (g.setWidth 12).toNat < 2 ^ 12 := BitVec.isLt _
  have hsum : BitVec.ofNat 64 (1 * 4096 + g.toNat % 4096) = (g.setWidth 12).zeroExtend 64 ||| 0x1000 := by
    apply BitVec.eq_of_toNat_eq
    rw [BitVec.or_comm, BitVec.toNat_or, show (0x1000 : Word).toNat = 2 ^ 12 * 1 by decide, BitVec.toNat_setWidth_of_le (by decide),
      ← Nat.two_pow_add_eq_or_of_lt hcols, BitVec.toNat_ofNat, BitVec.toNat_setWidth]
    omega
  rw [hsum]
  refine congrArg (· ||| (0x1000 : Word)) (BitVec.eq_of_getLsbD_eq fun i hi => ?_)
  rw [BitVec.getLsbD_and, BitVec.getLsbD_setWidth, BitVec.getLsbD_setWidth]
  by_cases h24 : i < 24
  · have hmask : ∀ i < 24, (~~~(0xFFF000 : Word)).getLsbD i = decide (i < 12) := by decide
    rw [hmask i h24, decide_eq_true hi, Bool.true_and, Bool.and_comm]
  · have hbit : g.getLsbD i = false := Nat.testBit_lt_two_pow (h.trans_le (Nat.pow_le_pow_right (by decide) (by omega)))
    simp [hbit]

theorem shapeWord_eq (n : Bool) {g : Word} (h : g.toNat < 2 ^ 24) :
    shapeWord n g = BitVec.ofNat 64 (shapeRowsOf n g * 4096 + g.toNat % 4096) := by
  cases n with
  | false =>
    have hg : g.toNat / 4096 * 4096 + g.toNat % 4096 = g.toNat := Nat.div_add_mod' _ _
    show g = BitVec.ofNat 64 (g.toNat / 4096 * 4096 + g.toNat % 4096)
    rw [hg, BitVec.ofNat_toNat, BitVec.setWidth_eq]
  | true => exact shapeWord_narrow h

theorem shapeRowsOf_lt (n : Bool) {g : Word} (h : g.toNat < 2 ^ 24) : shapeRowsOf n g < 4096 := by
  cases n with
  | false => exact Nat.div_lt_of_lt_mul h
  | true => exact (by decide : 1 < 4096)

theorem toNat_shape {r c : Nat} (hr : r < 4096) (hc : c < 4096) : (BitVec.ofNat 64 (r * 4096 + c)).toNat = r * 4096 + c := by
  rw [BitVec.toNat_ofNat]
  omega

theorem shapeRows_ofNat {r c : Nat} (hr : r < 4096) (hc : c < 4096) : shapeRows (BitVec.ofNat 64 (r * 4096 + c)) = r := by
  rw [shapeRows, BitVec.extractLsb'_toNat, toNat_shape hr hc, Nat.shiftRight_eq_div_pow]
  omega

theorem shapeCols_ofNat {r c : Nat} (hr : r < 4096) (hc : c < 4096) : shapeCols (BitVec.ofNat 64 (r * 4096 + c)) = c := by
  rw [shapeCols, BitVec.extractLsb'_toNat, toNat_shape hr hc, Nat.shiftRight_zero]
  omega

/-- `VSHAPE` refuses reserved bits, and every shape that is not legal. -/
theorem shapeRefused_iff (n : Bool) (vlmax : Nat) (g : Word) : (g.toNat / 2 ^ 24 != 0 || !shapeLegal vlmax (shapeWord n g)) = false ↔
    g.toNat < 2 ^ 24 ∧ 1 ≤ shapeRowsOf n g ∧ 1 ≤ g.toNat % 4096 ∧ shapeRowsOf n g * (g.toNat % 4096) ≤ vlmax := by
  rw [Bool.or_eq_false_iff, bne_eq_false_iff_eq, Nat.div_eq_zero_iff_lt (by decide), Bool.not_eq_false']
  refine and_congr_right fun h => ?_
  have hr := shapeRowsOf_lt n h
  have hc : g.toNat % 4096 < 4096 := Nat.mod_lt _ (by decide)
  have hz : (shapeRowsOf n g * 4096 + g.toNat % 4096) / 2 ^ 24 = 0 := by omega
  rw [shapeWord_eq n h, shapeLegal, toNat_shape hr hc, hz, shapeRows_ofNat hr hc, shapeCols_ofNat hr hc]
  simp [and_assoc]

theorem exec_vshape {n : Bool} {o : VOp} {s : State} (h : s.Executes [o.vb] []) (hq : s.thr.vq.length < 4) : exec (.vshape n o) s = .next
    (if (s.g o.vb).toNat / 2 ^ 24 != 0 || !shapeLegal s.thr.vlmax (shapeWord n (s.g o.vb)) then s.checked.illegalVal (.vshape n o) (s.g o.vb)
    else ((s.checked.postSolo (.vshape n o)).onThr fun t => { t with c := { t.c with shape := shapeWord n (s.g o.vb) } }).commit) := by
  rw [show exec (.vshape n o) s = execVshape n o s from rfl, execVshape, State.scalar_of_executes h]
  simp only [State.checked_thr, State.checked_g]
  rw [if_neg (Nat.not_le.2 hq)]
  exact (apply_ite Host.Outcome.next _ _ _).symm

theorem shapeResult : ShapeResult := by
  intro n o s h hq g rows cols legal
  have href : (g.toNat / 2 ^ 24 != 0 || !shapeLegal s.thr.vlmax (shapeWord n g)) = false ↔ legal := shapeRefused_iff n s.thr.vlmax g
  refine ⟨fun hl => ?_, fun hl hr hv hu => ?_⟩
  · rw [exec_vshape h hq, href.2 hl, if_neg Bool.false_ne_true, shapeWord_eq n hl.1]
    rfl
  · rw [exec_vshape h hq, if_pos (Bool.eq_true_of_not_eq_false (mt href.1 hl))]
    have hv' : s.checked.thr.vq = [] := s.checked_thr ▸ hv
    have hu' : s.checked.thr.sup = false := s.checked_thr ▸ hu
    refine ⟨_, rfl, ?_⟩
    rw [State.illegalVal, State.raise, State.raiseAt_user hr.checked hv' hu']
    refine ⟨State.enterTrap_sup _ _ _, ?_, State.enterTrap_trapinfo _ _ _, ?_⟩
    · rw [State.enterTrap_trapcause, State.checked_thr]
      rfl
    · obtain ⟨_, _, honly⟩ := s.checked.enterTrap_only .scalar { cause := cILLEGAL, i0 := insWord (.vshape n o), i1 := 4, i2 := s.g o.vb }
      rw [honly, State.checked_thr]
      rfl

/-! ### Streams bound and unbound (R154, R155) -/

theorem sbNum_eq (r : BitVec 6) : sbNum r = r.toNat % 8 := by
  rw [sbNum, BitVec.extractLsb'_toNat, Nat.shiftRight_zero]

/-- A binding instruction with nothing in flight, of a stream that the image declares. -/
theorem State.Clear.binding {s : State} (h : s.Clear) {n : Nat} (hn : n < s.thr.hdr.nsb) (i : Instr) (srcs dst : List (BitVec 6)) (f : State → Out) :
    s.binding i n srcs dst f = f s := by
  obtain ⟨hv, -⟩ := id h
  rw [State.binding, h.scalar, if_neg (Nat.not_le.2 hn), hv]
  rfl

theorem State.Serial.iteration {s : State} (h : s.Serial) : s.iteration = none := by
  rw [State.iteration, h.myRegion]

theorem State.Serial.versionsFull {s : State} (h : s.Serial) (pas : List Nat) : s.versionsFull pas = false := by
  rw [State.versionsFull, h.iteration]

theorem State.Serial.loadBytes {s : State} (h : s.Serial) (pa n : Nat) : s.loadBytes pa n = (s.mem.read pa n, s) := by
  rw [State.loadBytes, h.iteration]

theorem State.Serial.storeBytes {s : State} (h : s.Serial) (pa : Nat) (bs : List Byte) : s.storeBytes pa bs = s.writeVia false pa bs := by
  rw [State.storeBytes, h.iteration]

/-- Bytes that go to L2 change memory, the translations held before, the damage and the caches. -/
theorem State.writeVia_eq (s : State) (pa : Nat) (bs : List Byte) : ∃ c d k,
    s.writeVia false pa bs = { s with mem := s.mem.write pa bs, ctxs := c, damage := d, coh := k } := by
  unfold State.writeVia
  rw [State.keepTables_eq]
  exact ⟨_, _, _, rfl⟩

/-- An access that meets no error finds its port. -/
theorem State.noPort_of_dataErr {s : State} {ctx pa : Nat} {read write : Bool} (h : s.dataErr ctx read write pa = none) :
    s.noPort pa = false := by
  unfold State.dataErr at h
  split at h
  · cases h
  · next hp =>
    rw [Bool.not_eq_true, Bool.or_eq_false_iff] at hp
    exact hp.2

theorem State.bindWaits_of_ports {s : State} {write : Bool} {pas : List Nat} (h : ∀ p ∈ pas, s.noPort p = false) : s.bindWaits write pas = none := by
  unfold State.bindWaits
  refine if_pos (List.all_eq_true.2 fun p hp => ?_)
  rw [h p hp, Bool.not_false, Bool.or_true]

theorem State.bindError_eq_none {s : State} {write : Bool} {pas : List Nat} :
    s.bindError write pas = none ↔ ∀ p ∈ pas, s.dataErr s.thr.id.ctx (!write) write p = none :=
  List.findSome?_eq_none_iff

theorem exec_vbind {s : State} {o : VMOp} {pa : Nat} (h : s.Clear) (hr : s.Serial) (ha : s.acqPending = false)
    (hn : o.vt.toNat % 8 < s.thr.hdr.nsb) (hal : (s.g o.base).toNat % 128 = 0)
    (hx : s.xlate s.thr.id.ctx s.thr.sup false (s.g o.base).toNat = .ok pa)
    (he : ∀ p ∈ [pa, pa + 64], s.dataErr s.thr.id.ctx true false p = none) : exec (.vbind o) s = .next
      (if Stream.valid (s.mem.num pa 128) (Stream.ofNum (s.mem.num pa 128) (s.g o.base))
      then ((s.postSolo (.vbind o)).setSb (o.vt.toNat % 8) (some (Stream.ofNum (s.mem.num pa 128) (s.g o.base)))).commit
      else (s.setSb (o.vt.toNat % 8) none).raiseAt .convoy { cause := cDATA_ACCESS, i0 := s.g o.base, i1 := 8 }) := by
  rw [show exec (.vbind o) s = execVbind o s from rfl, execVbind, sbNum_eq, h.binding hn, ha]
  dsimp only
  rw [hal, hx]
  dsimp only
  rw [State.bindWaits_of_ports fun p hp => State.noPort_of_dataErr (he p hp), State.bindError_eq_none.2 he, hr.loadBytes]
  exact (apply_ite Host.Outcome.next _ _ _).symm

theorem exec_vunbind_free {s : State} {o : VMOp} (h : s.Clear) (hn : o.vt.toNat % 8 < s.thr.hdr.nsb) (nw : Bool)
    (hb : vget s.thr.r.sb (o.vt.toNat % 8) = none) : exec (.vunbind nw o) s = .next (s.postSolo (.vunbind nw o)).commit := by
  rw [show exec (.vunbind nw o) s = execVunbind nw o s from rfl, execVunbind, sbNum_eq, h.binding hn, hb]

theorem exec_vunbind_drop {s : State} {o : VMOp} {b : Stream} (h : s.Clear) (hn : o.vt.toNat % 8 < s.thr.hdr.nsb)
    (hb : vget s.thr.r.sb (o.vt.toNat % 8) = some b) :
    exec (.vunbind true o) s = .next ((s.postSolo (.vunbind true o)).setSb (o.vt.toNat % 8) none).commit := by
  rw [show exec (.vunbind true o) s = execVunbind true o s from rfl, execVunbind, sbNum_eq, h.binding hn, hb]
  rfl

theorem State.vmCheck_of_xlate {s : State} {store : Bool} {b pa : Nat} {a : Word} (hal : a.toNat % b = 0)
    (hx : s.xlate s.thr.id.ctx s.thr.sup store a.toNat = .ok pa) : s.vmCheck store false b a = .ok pa := by
  rw [State.vmCheck, hal, hx]
  rfl

theorem exec_vunbind_write {s : State} {o : VMOp} {b : Stream} {pa : Nat} (h : s.Clear) (hr : s.Serial) (ha : s.acqPending = false)
    (hn : o.vt.toNat % 8 < s.thr.hdr.nsb) (hb : vget s.thr.r.sb (o.vt.toNat % 8) = some b) (hal : (b.block + 48).toNat % 8 = 0)
    (hx : s.xlate s.thr.id.ctx s.thr.sup true (b.block + 48).toNat = .ok pa) (he : s.dataErr s.thr.id.ctx false true pa = none) :
    exec (.vunbind false o) s =
      .next (((s.writeVia false pa (toBytes 8 b.pos)).postSolo (.vunbind false o)).setSb (o.vt.toNat % 8) none).commit := by
  have he' : ∀ p ∈ [pa], s.dataErr s.thr.id.ctx (!true) true p = none := List.forall_mem_singleton.2 he
  rw [show exec (.vunbind false o) s = execVunbind false o s from rfl, execVunbind, sbNum_eq, h.binding hn, hb, ha]
  dsimp only
  rw [State.vmCheck_of_xlate hal hx, hr.guessing, hr.speculative]
  dsimp only
  rw [hr.versionsFull, State.bindWaits_of_ports fun p hp => State.noPort_of_dataErr (he' p hp), State.bindError_eq_none.2 he', hr.storeBytes]
  rfl

theorem exec_vspos {s : State} {o : VMOp} (h : s.Clear) (hn : o.base.toNat % 8 < s.thr.hdr.nsb) :
    exec (.vspos true o) s = .next ((s.postSolo (.vspos true o)).writeG o.vt
      ((vget s.thr.r.sb (o.base.toNat % 8)).elim 0 fun b => BitVec.ofNat 64 b.pos)) ∧
    exec (.vspos false o) s = .next ((vget s.thr.r.sb (o.base.toNat % 8)).elim (s.postSolo (.vspos false o)) fun b =>
      (s.postSolo (.vspos false o)).setSb (o.base.toNat % 8) (some { b with
        pos := if b.wrap && b.len ≤ (s.g o.sx).toNat then (s.g o.sx).toNat % b.len else (s.g o.sx).toNat })).commit := by
  constructor
  · rw [show exec (.vspos true o) s = execVspos true o s from rfl, execVspos, sbNum_eq, h.binding hn]
    cases vget s.thr.r.sb (o.base.toNat % 8)
    all_goals rfl
  · rw [show exec (.vspos false o) s = execVspos false o s from rfl, execVspos, sbNum_eq, h.binding hn]
    cases vget s.thr.r.sb (o.base.toNat % 8)
    all_goals rfl

/-- A word that commits leaves the bindings alone. -/
theorem State.commit_sb (s : State) : s.commit.thr.r.sb = s.thr.r.sb := by
  obtain ⟨honly, -⟩ := s.commit_only
  rw [honly]

theorem State.setSb_sb (s : State) (n : Nat) (b : Option Stream) : vget (s.setSb n b).thr.r.sb n = b := vget_vset_same _ _ _

/-- Eight bytes of a number below 2 to the 64 read back as the number. -/
theorem Mem.num_write8 {m : Mem} (hw : m.wf = true) (a : Nat) {v : Nat} (hv : v < 2 ^ 64) : (m.write a (toBytes 8 v)).num a 8 = v := by
  have h := m.read_write a (toBytes 8 v) hw
  rw [length_toBytes] at h
  rw [Mem.num, h, ofBytes_toBytes]
  exact Nat.mod_eq_of_lt hv

theorem bindingResult : BindingResult := by
  intro o s h hr hmem ha n k
  refine ⟨fun pa hn hal hx he0 he1 => ?_, fun hn nw hb => exec_vunbind_free h hn nw hb, fun hn b hb => exec_vunbind_drop h hn hb,
    fun hn b pa hb hal hx he hpos => ?_, fun hk b hb => ?_, fun hk hb => ?_⟩
  · have he : ∀ p ∈ [pa, pa + 64], s.dataErr s.thr.id.ctx true false p = none := by simp [he0, he1]
    refine ⟨fun hv => ?_, fun hv hu => ?_⟩
    · rw [exec_vbind h hr ha hn hal hx he, if_pos hv]
    · obtain ⟨_, _, honly⟩ := (s.setSb n none).enterTrap_only .convoy { cause := cDATA_ACCESS, i0 := s.g o.base, i1 := 8 }
      obtain ⟨hvq, -⟩ := id h
      rw [exec_vbind h hr ha hn hal hx he, hv, if_neg Bool.false_ne_true]
      refine ⟨_, rfl, ?_⟩
      rw [State.raiseAt_user (s := s.setSb n none) hr hvq hu]
      refine ⟨State.enterTrap_sup _ _ _, ?_, State.enterTrap_trapinfo _ _ _, State.enterTrap_trapcause _ _ _⟩
      rw [honly]
      exact s.setSb_sb n none
  · obtain ⟨hwf, -⟩ := hmem
    obtain ⟨c, d, l, hw⟩ := s.writeVia_eq pa (toBytes 8 b.pos)
    refine ⟨_, exec_vunbind_write h hr ha hn hb hal hx he, ?_⟩
    rw [hw]
    refine ⟨Mem.num_write8 hwf pa hpos, fun a hout => ?_, ?_, fun r _ => State.commit_g _ r⟩
    · exact Mem.get_write_outside _ _ _ _ hwf (by rwa [length_toBytes])
    · rw [State.commit_sb]
      exact State.setSb_sb _ n none
  · obtain ⟨hread, hset⟩ := exec_vspos h hk
    rw [hb] at hread hset
    refine ⟨hread, hset.trans ?_⟩
    simp only [Option.elim, Bool.and_eq_true, decide_eq_true_eq]
    rfl
  · obtain ⟨hread, hset⟩ := exec_vspos h hk
    rw [hb] at hread hset
    exact ⟨hread, hset⟩

end Sys2Proof.Machine

namespace Sys2Proof

open Machine Claim

/-- Settles O23: `VSHAPE` by the ROWS and COLS of its value, the bindings by the effect of each instruction with nothing in flight. -/
theorem shapeAndStreams : Obligations.ShapeAndStreams := ⟨shapeResult, bindingResult⟩

end Sys2Proof
end

section
/-! Steps (R71 to R73, R242, R265, R331, R345, R377): an event that is due, and the step of an Etesian core. -/

namespace Sys2Proof.Machine

set_option Elab.async false

open Sys2Proof.Claim

variable {s t : State}

/-! ### Time leaves the order of a step alone -/

/-- The two states have the same events due and the same agent at turn. -/
structure State.SameTurn (s t : State) : Prop where
  agenda : t.agenda = s.agenda
  turn : t.turn = s.turn
  ecur : t.ecur = s.ecur

theorem State.SameTurn.refl (s : State) : s.SameTurn s := ⟨rfl, rfl, rfl⟩

theorem State.SameTurn.trans {u : State} (h : s.SameTurn t) (k : t.SameTurn u) : s.SameTurn u :=
  ⟨k.agenda.trans h.agenda, k.turn.trans h.turn, k.ecur.trans h.ecur⟩

theorem State.sameTurn_countOpen (s : State) : s.SameTurn s.countOpen := by
  unfold State.countOpen
  split
  · exact ⟨rfl, rfl, rfl⟩
  · exact .refl s

theorem State.sameTurn_podWrites (s : State) : s.SameTurn s.podWrites := by
  unfold State.podWrites State.draw
  dsimp only
  split
  · exact .refl s
  split
  · exact ⟨rfl, rfl, rfl⟩
  split
  · exact ⟨rfl, rfl, rfl⟩
  · exact ⟨rfl, rfl, rfl⟩

theorem State.sameTurn_foldl {α : Type} {f : State → α → State} (hf : ∀ s x, State.SameTurn s (f s x)) (l : List α) (s : State) :
    s.SameTurn (l.foldl f s) :=
  List.foldlRecOn l f (State.SameTurn.refl s) fun t h x _ => h.trans (hf t x)

theorem State.sameTurn_tick (s : State) : s.SameTurn s.tick := by
  have hp := s.sameTurn_countOpen.trans s.countOpen.sameTurn_podWrites
  have hn (u : State) (l : List (Nat × Nat × Word)) (f : Node → Node) : u.SameTurn (l.foldl (fun s x => s.mapNode x.1 x.2.1 x.2.2 f) u) :=
    State.sameTurn_foldl (f := fun s (x : Nat × Nat × Word) => s.mapNode x.1 x.2.1 x.2.2 f) (fun _ _ => ⟨rfl, rfl, rfl⟩) l u
  unfold State.tick
  obtain ⟨ha, ht, he⟩ := hp.trans (hn s.countOpen.podWrites _ fun x => { x with ran := x.ran + 1 })
  exact ⟨ha, ht, he⟩

/-! ### What a step does -/

theorem step_of_due {i : Instr} {l : List Instr} (h : s.agenda = i :: l) : step s = ({ s.tick with agenda := l } : State).due i := by
  unfold step
  dsimp only
  rw [s.sameTurn_tick.agenda, h]

theorem step_of_thread (ha : s.agenda = []) (ht : s.turn = .thread) : step s = andThen s.tick.threadTurn State.toDevice := by
  unfold step
  dsimp only
  rw [s.sameTurn_tick.agenda, s.sameTurn_tick.turn, ha, ht]

theorem step_of_hart (ha : s.agenda = []) (ht : s.turn = .hart) : step s = andThen s.tick.hartTurn State.toThread := by
  unfold step
  dsimp only
  rw [s.sameTurn_tick.agenda, s.sameTurn_tick.turn, ha, ht]

theorem dueStep : DueStep := by
  intro s i l ha hi s1
  rw [step_of_due ha, State.due, hi]
  refine ⟨fun t h => ?_, fun h => ?_⟩
  · rw [show exec i { s.tick with agenda := l } = .next t from h]
    rfl
  · rw [show exec i { s.tick with agenda := l } = .fault .notEnabled from h]
    rfl

/-! ### The fetch of a hart (R331, R332) -/

/-- The first bytes of a number. -/
theorem Mem.num_first (m : Mem) (a : Nat) {j n : Nat} (h : j ≤ n) : m.num a j = m.num a n % 256 ^ j := by
  have hr := m.read_sub a n 0 j (by omega)
  rw [Nat.add_zero] at hr
  rw [Mem.num, hr, ofBytes_drop_take, Nat.pow_zero, Nat.div_one, Mem.num]

/-- A parcel is the start of a full word where its two low bits are set (R331). -/
theorem rvIsFull_ofNat (n : Nat) : rvIsFull ((BitVec.ofNat 32 n).extractLsb' 0 16) = true ↔ n % 4 = 3 := by
  rw [rvIsFull, beq_iff_eq, ← BitVec.toNat_inj]
  simp only [BitVec.extractLsb'_toNat, BitVec.toNat_ofNat, Nat.shiftRight_zero]
  show n % 2 ^ 32 % 2 ^ 16 % 2 ^ 2 = 3 ↔ n % 4 = 3
  omega

/-- Of a compressed parcel only its own bits are read. -/
theorem decodeEtesian_low {n : Nat} (h : n % 4 ≠ 3) : decodeEtesian (BitVec.ofNat 32 (n % 2 ^ 16)) = decodeEtesian (BitVec.ofNat 32 n) := by
  have hfull : rvIsFull ((BitVec.ofNat 32 n).extractLsb' 0 16) ≠ true := mt (rvIsFull_ofNat n).1 h
  have hlow : (BitVec.ofNat 32 (n % 2 ^ 16)).extractLsb' 0 16 = (BitVec.ofNat 32 n).extractLsb' 0 16 := by
    apply BitVec.eq_of_toNat_eq
    simp only [BitVec.extractLsb'_toNat, BitVec.toNat_ofNat, Nat.shiftRight_zero]
    omega
  unfold decodeEtesian
  rw [hlow, if_neg hfull, if_neg hfull]

theorem State.hartFetch_eq (s : State) (x : Episode) (a : Word) (n : Nat) : s.hartFetch x a n =
    if a.toNat + n ≤ 32768 * x.lunits then some (ofBytes (partBytes s x a.toNat n)) else none := rfl

theorem partBytes_first (s : State) (x : Episode) (a : Nat) {j n : Nat} (h : j ≤ n) :
    ofBytes (partBytes s x a j) = ofBytes (partBytes s x a n) % 256 ^ j := Mem.num_first _ _ h

/-- The instruction that the four bytes at the PC stand for, where they lie in the partition. -/
theorem State.hartFetched_inside {x : Episode} (h : x.hart.pc.toNat + 4 ≤ 32768 * x.lunits) : s.hartFetched x =
    (decodeEtesian (BitVec.ofNat 32 (ofBytes (partBytes s x x.hart.pc.toNat 4)))).elim (.error 2) .ok := by
  have h2 : x.hart.pc.toNat + 2 ≤ 32768 * x.lunits := by omega
  have hlow := partBytes_first s x x.hart.pc.toNat (show 2 ≤ 4 by decide)
  generalize hn : ofBytes (partBytes s x x.hart.pc.toNat 4) = n at hlow ⊢
  have hpar : n % 256 ^ 2 % 4 = n % 4 := by omega
  unfold State.hartFetched
  rw [State.hartFetch_eq, State.hartFetch_eq, if_pos h2, if_pos h, hlow, hn]
  dsimp only
  rw [hpar]
  by_cases hf : n % 4 = 3
  · rw [hf]
    cases decodeEtesian (BitVec.ofNat 32 n)
    all_goals rfl
  · rw [if_pos (bne_iff_ne.2 hf), show 256 ^ 2 = 2 ^ 16 from rfl, decodeEtesian_low hf]
    cases decodeEtesian (BitVec.ofNat 32 n)
    all_goals rfl

/-- A full word that runs past the end of the partition. -/
theorem State.hartFetched_cut {x : Episode} (h2 : x.hart.pc.toNat + 2 ≤ 32768 * x.lunits) (h4 : 32768 * x.lunits < x.hart.pc.toNat + 4)
    (hfull : ofBytes (partBytes s x x.hart.pc.toNat 1) % 4 = 3) : s.hartFetched x = .error 1 := by
  rw [partBytes_first s x x.hart.pc.toNat (show 1 ≤ 2 by decide)] at hfull
  have hpar : ofBytes (partBytes s x x.hart.pc.toNat 2) % 4 = 3 := by omega
  unfold State.hartFetched
  rw [State.hartFetch_eq, State.hartFetch_eq, if_pos h2, if_neg (Nat.not_le.2 h4)]
  dsimp only
  rw [hpar]
  rfl

theorem State.hartFetched_outside {x : Episode} (h : 32768 * x.lunits < x.hart.pc.toNat + 2) : s.hartFetched x = .error 1 := by
  unfold State.hartFetched
  rw [State.hartFetch_eq, if_neg (Nat.not_le.2 h)]

/-! ### The turn of an Etesian core (R345) -/

/-- An episode that has a core at turn is live on it. -/
theorem State.hartEp_live {x : Episode} (h : s.hartEp = some x) : x.state.live = true := by
  unfold State.hartEp at h
  split at h
  · split at h
    · split at h
      · next hl =>
        cases h
        rw [Bool.and_eq_true] at hl
        exact hl.1
      · cases h
    · cases h
  · cases h

/-- What the turn of a hart runs: the instruction fetched, or the exception of its fetch. -/
def fetchedInstr : Except Nat Instr → Instr
  | .error c => .episodeException c
  | .ok i => i

theorem State.hartTurn_eq {x : Episode} (hx : s.hartEp = some x) (hw : x.wait = .none) : s.hartTurn =
    exec (if x.budget ≤ x.count ∧ s.charged x = true then .budgetExceeded s.ecur else fetchedInstr (s.hartFetched x)) s := by
  have hr : x.runnable = true := by rw [Episode.runnable, State.hartEp_live hx, hw]; rfl
  unfold State.hartTurn
  rw [hx]
  dsimp only
  rw [hr, hw]
  simp only [Bool.not_true, Bool.false_eq_true, if_false, Bool.and_eq_true, decide_eq_true_eq]
  by_cases h : x.budget ≤ x.count ∧ s.charged x = true
  · rw [if_pos h, if_pos h]
  · rw [if_neg h, if_neg h]
    cases s.hartFetched x
    all_goals rfl

theorem hartStep : HartStep := by
  intro s x ha ht hx hw s1 a w spent
  have hstep : step s = andThen s1.hartTurn State.toThread := step_of_hart ha ht
  rw [State.hartTurn_eq hx hw, s.sameTurn_tick.ecur] at hstep
  refine ⟨fun h => ?_, fun h hin => ?_, fun h h2 h4 hf => ?_, fun h h2 => ?_⟩
  · rw [hstep, if_pos h]
  · rw [if_neg h, State.hartFetched_inside hin] at hstep
    refine ⟨fun i hi => ?_, fun hi => ?_⟩
    · rw [hstep, show decodeEtesian (BitVec.ofNat 32 (ofBytes (partBytes s.tick x x.hart.pc.toNat 4))) = some i from hi]
      rfl
    · rw [hstep, show decodeEtesian (BitVec.ofNat 32 (ofBytes (partBytes s.tick x x.hart.pc.toNat 4))) = none from hi]
      rfl
  · rw [hstep, if_neg h, State.hartFetched_cut h2 h4 hf]
    rfl
  · rw [hstep, if_neg h, State.hartFetched_outside h2]
    rfl

end Sys2Proof.Machine
end

section
/-! The step of a thread (R71 to R73, R242, R265, R377, R385): the block that the fetch leaves, its word, and what follows. -/

namespace Sys2Proof.Machine

set_option Elab.async false

open Sys2Proof.Claim

/-! ### Code addresses (R72, R265) -/

/-- A walk whose leaves cover whole lines keeps an address's place in its line. -/
theorem walk_aligned {m : Mem} {c : Ctx} {code sup write : Bool} {va pa : Nat} {ls : List Level} {table : Nat} (hl : ∀ l ∈ ls, 6 ≤ l.shift)
    (hva : va % 64 = 0) (h : walk m c code sup write va ls table = .ok pa) : pa % 64 = 0 := by
  induction ls generalizing table with
  | nil => cases h
  | cons l rest ih =>
    obtain ⟨hl6, hrest⟩ := List.forall_mem_cons.1 hl
    unfold walk at h
    dsimp only at h
    split at h
    · cases h
    generalize m.num (table + 8 * (va / 2 ^ l.shift % 2 ^ l.bits)) 8 = e at h
    generalize e / 256 % 2 ^ 48 * 256 = addr at h
    cases hleaf : e.testBit 1 with
    | false =>
      simp only [hleaf, Bool.not_false, Bool.false_eq_true, if_true, if_false] at h
      split at h
      · cases h
      split at h
      · cases h
      · exact ih hrest h
    | true =>
      simp only [hleaf, Bool.not_true, Bool.false_eq_true, if_true, if_false] at h
      split at h
      · cases h
      next hok =>
      split at h
      · cases h
      split at h
      · cases h
      split at h
      · cases h
      cases h
      have hdvd : 64 ∣ 2 ^ l.shift := pow_dvd_pow 2 hl6
      simp only [Bool.or_eq_true, not_or, bne_iff_ne, not_not] at hok
      obtain ⟨⟨-, haddr⟩, -⟩ := hok
      have h64 : 64 ∣ addr + va % 2 ^ l.shift := dvd_add (hdvd.trans (Nat.dvd_of_mod_eq_zero haddr))
        ((Nat.dvd_mod_iff hdvd).2 (Nat.dvd_of_mod_eq_zero hva))
      exact Nat.mod_eq_zero_of_dvd h64

theorem Ctx.translate_aligned {c : Ctx} {m : Mem} {cycle va root pa : Nat} {code sup write : Bool} {ls : List Level} (hl : ∀ l ∈ ls, 6 ≤ l.shift)
    (hva : va % 64 = 0) (h : c.translate m cycle code sup write va ls root = .ok pa) : pa % 64 = 0 := by
  have hok {m' : Mem} {a : Nat} : walk m' c code sup write va ls root = .ok a → a % 64 = 0 := walk_aligned hl hva
  unfold Ctx.translate at h
  dsimp only at h
  split at h
  · exact hok h
  split at h
  · exact hok h
  · exact hok h
  · split at h
    · cases h
    · exact hok h
  · split at h
    · cases h
      exact hok ‹_›
    · cases h
      exact hok ‹_›
  · split at h
    · cases h
      exact hok ‹_›
    · cases h

/-- The line of a block of code starts where its translation says. -/
theorem State.xlateCode_aligned {s : State} {ctx va pa : Nat} {sup : Bool} (hva : va % 64 = 0) (h : s.xlateCode ctx sup va = some pa) :
    pa % 64 = 0 := by
  unfold State.xlateCode at h
  dsimp only at h
  split at h
  · next hx =>
    cases h
    exact Ctx.translate_aligned (by decide) hva hx
  · cases h

theorem toNat_ofNat_of_lt {w n : Nat} (h : n < 2 ^ w) : (BitVec.ofNat w n).toNat = n := Nat.mod_eq_of_lt h

/-- A word of a line in memory. -/
theorem extractLsb'_num (m : Mem) (a : Nat) {k : Nat} (hk : k < 8) :
    (BitVec.ofNat 512 (m.num a 64)).extractLsb' (64 * k) 64 = BitVec.ofNat 64 (m.num (a + 8 * k) 8) := by
  have hw : m.num (a + 8 * k) 8 = m.num a 64 / 256 ^ (8 * k) % 256 ^ 8 := by
    rw [Mem.num, m.read_sub a 64 (8 * k) 8 (by omega), ofBytes_drop_take, Mem.num]
  have hbytes (n : Nat) : 256 ^ n = 2 ^ (8 * n) := by rw [show 256 = 2 ^ 8 from rfl, ← Nat.pow_mul]
  have hlt : m.num a 64 < 2 ^ 512 := by
    have h := ofBytes_lt (m.read a 64)
    rwa [Mem.length_read, hbytes, show 8 * 64 = 512 from rfl] at h
  apply BitVec.eq_of_toNat_eq
  rw [BitVec.extractLsb'_toNat, toNat_ofNat_of_lt hlt, BitVec.toNat_ofNat, Nat.shiftRight_eq_div_pow, hw, hbytes, ← Nat.mul_assoc]
  exact (Nat.mod_mod _ _).symm

/-! ### The word of a block -/

/-- The place of the thread's word in its block. -/
def State.wordAt (s : State) : Nat := s.thr.pc.toNat % 64 / 8

theorem State.wordAt_lt (s : State) : s.wordAt < 8 := by
  unfold State.wordAt
  omega

theorem State.word_of_block {s : State} {b : IBlock} (h : s.icache.find? s.atPc = some b) : s.word = b.data.extractLsb' (64 * s.wordAt) 64 := by
  have hk : (s.thr.pc.extractLsb' 3 3).toNat % 8 = s.wordAt := by
    rw [BitVec.extractLsb'_toNat, Nat.shiftRight_eq_div_pow, State.wordAt]
    omega
  have hb : s.codeBlock s.thr.pc = some b.data := by
    unfold State.codeBlock
    rw [show (s.icache.find? fun b => b.core == s.thr.id.core && b.ctx == s.thr.id.ctx && b.block == s.thr.pc.extractLsb' 6 42) = some b from h]
  rw [State.word, hb]
  dsimp only
  rw [blockWord, hk]

/-! ### The block that a fetch brings (R242) -/

/-- A line below the L1s: as an L1 found it, or as memory has it. -/
theorem State.lineBelow_clean {s : State} {line : Nat} (h : s.coh.l1.any (·.line == line) = false) :
    s.lineBelow line = BitVec.ofNat 512 (s.mem.num (line * 64) 64) := by
  have hf : s.coh.l1.find? (fun x => x.line == line) = none := by
    rw [List.find?_eq_none]
    exact fun x hx hl => Bool.false_ne_true (h.symm.trans (List.any_eq_true.2 ⟨x, hx, hl⟩))
  rw [State.lineBelow, hf]

theorem State.lineBelow_cases (s : State) (line : Nat) : s.lineBelow line = BitVec.ofNat 512 (s.mem.num (line * 64) 64) ∨
    ∃ d ∈ s.coh.l1, d.line = line ∧ s.lineBelow line = d.below := by
  unfold State.lineBelow
  split
  · next d hd => exact .inr ⟨d, List.mem_of_find?_eq_some hd, by simpa using List.find?_some hd, rfl⟩
  · exact .inl rfl

theorem State.codeLine_clean {s : State} {line : Nat} (h : s.coh.l1.any (·.line == line) = false) :
    (s.codeLine line).1 = BitVec.ofNat 512 (s.mem.num (line * 64) 64) := by
  rw [State.codeLine, h]
  exact State.lineBelow_clean h

theorem State.codeLine_cases (s : State) (line : Nat) : (s.codeLine line).1 = BitVec.ofNat 512 (s.mem.num (line * 64) 64) ∨
    ∃ d ∈ s.coh.l1, d.line = line ∧ (s.codeLine line).1 = d.below := by
  unfold State.codeLine State.draw
  dsimp only
  split
  · split
    · refine .inl (State.lineBelow_clean (List.any_eq_false.2 fun x hx hl => ?_))
      simpa [beq_iff_eq.1 hl] using (List.mem_filter.1 hx).2
    · exact s.lineBelow_cases line
  · exact s.lineBelow_cases line

/-- Reading a line of code leaves the thread. -/
theorem State.codeLine_thr (s : State) (line : Nat) : (s.codeLine line).2.thr = s.thr := by
  unfold State.codeLine State.draw
  dsimp only
  split
  · split
    · rfl
    · rfl
  · rfl

theorem State.fill_thr (s : State) (pa : Nat) : (s.fill pa).thr = s.thr := s.codeLine_thr (pa / 64)

/-- The block fetched for the thread stands first. -/
theorem State.fill_icache (s : State) (pa : Nat) : (s.fill pa).icache.find? (s.fill pa).atPc =
    some ⟨s.thr.id.core, s.thr.id.ctx, s.thr.pc.extractLsb' 6 42, pa, (s.codeLine (pa / 64)).1⟩ := by
  have hthr := s.codeLine_thr (pa / 64)
  unfold State.fill
  dsimp only
  rw [List.find?_cons_of_pos, hthr]
  simp [State.atPc]

theorem State.word_fill (s : State) (pa : Nat) : (s.fill pa).word = (s.codeLine (pa / 64)).1.extractLsb' (64 * s.wordAt) 64 := by
  rw [State.word_of_block (s.fill_icache pa), State.wordAt, s.fill_thr]
  rfl

/-! ### The turn of a thread that is free to run -/

/-- A trace unit with nothing to do leaves the state. -/
theorem State.traceTurn_idle {s : State} (hq : s.thr.trace.queue = []) (hs : s.thr.trace.since < 4096) : s.traceTurn = s := by
  unfold State.traceTurn
  dsimp only
  rw [if_neg (Nat.not_le.2 hs), hq]
  rfl

theorem State.threadStep_of_runs {s : State} (h : runs s) : s.threadStep = s.runNext := by
  obtain ⟨-, -, -, hw, hh, hc, hk, hsp⟩ := h
  have hfree : (s.speculative && (s.thr.heldX || s.thr.faulted)) = false := by
    cases hspec : s.speculative with
    | false => rfl
    | true =>
      obtain ⟨hx, hf⟩ := hsp hspec
      rw [hx, hf]
      rfl
  unfold State.threadStep
  rw [hc, hk, hfree, hh, hw]
  rfl

/-- A step of a unit that waits for a port leaves the units' waits beside what the step does, or beside the state as it was. -/
theorem waited_patient {s t : State} {k : UnitWork} {f : State → Out} (h : f s = .next t) :
    ∃ l, waited s (s.patient k f) = .next { t with unitWaits := l } ∨ waited s (s.patient k f) = .next { s with unitWaits := l } := by
  unfold State.patient
  rw [h]
  split
  · exact ⟨t.unitWaits, .inl rfl⟩
  dsimp only
  split
  next t' u ht _ =>
    cases ht
    split
    · exact ⟨_, .inl rfl⟩
    split
    · exact ⟨_, .inr rfl⟩
    split
    · exact ⟨s.unitWaits, .inr rfl⟩
    split
    · exact ⟨_, .inl rfl⟩
    · exact ⟨_, .inr rfl⟩
  · exact ⟨t.unitWaits, .inl rfl⟩

/-- The turn of a thread that is free to run, where no port has to be waited for (R385). -/
theorem State.threadTurn_of_runs {s : State} (h : runs s) (hp : s.reachesPort = false ∨ ∀ t, s.runNext = .next t → s.ended t = false) :
    s.threadTurn = s.runNext := by
  have hstep := State.threadStep_of_runs h
  obtain ⟨hl, hq, hs, -⟩ := h
  unfold State.threadTurn
  dsimp only
  rw [hl, State.traceTurn_idle hq hs, hstep]
  obtain hp | hp := hp
  · rw [hp]
    rfl
  · cases s.reachesPort with
    | false => rfl
    | true =>
      cases hr : s.runNext with
      | next t =>
        dsimp only
        rw [hp t hr]
        rfl
      | fault e => rfl
      | refused e => rfl

/-- The turn of a thread that is free to run, where its step may have to wait for a port. -/
theorem State.threadTurn_waits {s t : State} (h : runs s) (ht : s.runNext = .next t) :
    ∃ l, s.threadTurn = .next { t with unitWaits := l } ∨ s.threadTurn = .next { s with unitWaits := l } := by
  cases hp : s.reachesPort with
  | false => exact ⟨t.unitWaits, .inl ((State.threadTurn_of_runs h (.inl hp)).trans ht)⟩
  | true =>
    have hstep := State.threadStep_of_runs h
    cases he : s.ended t with
    | false =>
      refine ⟨t.unitWaits, .inl ((State.threadTurn_of_runs h (.inr fun u hu => ?_)).trans ht)⟩
      cases ht.symm.trans hu
      exact he
    | true =>
      have hturn : s.threadTurn = waited s (s.patient (.thread s.thr.id.core s.thr.id.slot) State.threadStep) := by
        obtain ⟨hl, hq, hs, -⟩ := h
        unfold State.threadTurn
        dsimp only
        rw [hl, State.traceTurn_idle hq hs, hp, hstep, ht]
        dsimp only
        rw [he]
        rfl
      rw [hturn]
      exact waited_patient (hstep.trans ht)

/-! ### What a step of a thread takes -/

theorem State.decodeAt_ok {s : State} {w : Word} {i : Instr} (h : decodeWord w = .ok i) :
    s.decodeAt w = if regsOk s.thr.hdr.vregs s.thr.hdr.tiles i then i else .illegalInstruction w 5 := by
  unfold State.decodeAt
  rw [h]

theorem State.decodeAt_error {s : State} {w : Word} {n : Nat} (h : decodeWord w = .error n) : s.decodeAt w = .illegalInstruction w n := by
  unfold State.decodeAt
  rw [h]

/-- The step of `s`, with the thread's turn in `s1`, is `o`, then the device's units; where it may have to wait for a port, it leaves the
units' waits beside its effect, or beside the state as the turn found it. -/
def State.Takes (s s1 : State) (o : Out) : Prop :=
  (s1.reachesPort = false ∨ (∀ t, o = .next t → s1.ended t = false) → step s = andThen o State.toDevice) ∧
  ∀ t, o = .next t → ∃ l, step s = .next (State.toDevice { t with unitWaits := l }) ∨ step s = .next (State.toDevice { s1 with unitWaits := l })

/-- The step runs what a word is at the thread at turn, in the state `s2`. -/
def State.RunsWord (s s1 s2 : State) (w : Word) : Prop :=
  (∀ i, decodeWord w = .ok i → regsOk s1.thr.hdr.vregs s1.thr.hdr.tiles i = true → s.Takes s1 (exec i s2)) ∧
  (∀ i, decodeWord w = .ok i → regsOk s1.thr.hdr.vregs s1.thr.hdr.tiles i = false → s.Takes s1 (exec (.illegalInstruction w 5) s2)) ∧
  (∀ n, decodeWord w = .error n → s.Takes s1 (exec (.illegalInstruction w n) s2))

theorem State.RunsWord.congr {s s1 s2 : State} {w w' : Word} (h : s.RunsWord s1 s2 w) (hw : w = w') : s.RunsWord s1 s2 w' := hw ▸ h

/-- A word as a fetch of the line at `pa` may bring it: the newest, or one below an L1 that holds the line dirty (R242). -/
def State.Fresh (s1 : State) (pa : Nat) (w : Word) : Prop :=
  w = BitVec.ofNat 64 (s1.mem.num (pa + 8 * s1.wordAt) 8) ∨
    ∃ d ∈ s1.coh.l1, d.line = pa / 64 ∧ w = d.below.extractLsb' (64 * s1.wordAt) 64

/-- The word that a fetch of a line brings. -/
theorem State.fresh_fill (s : State) {pa : Nat} (hpa : pa % 64 = 0) : s.Fresh pa (s.fill pa).word := by
  have hline : pa / 64 * 64 = pa := Nat.div_mul_cancel (Nat.dvd_of_mod_eq_zero hpa)
  rw [State.Fresh, State.word_fill]
  obtain h | ⟨d, hd, hl, h⟩ := s.codeLine_cases (pa / 64)
  · rw [h, hline]
    exact .inl (extractLsb'_num _ _ s.wordAt_lt)
  · rw [h]
    exact .inr ⟨d, hd, hl, rfl⟩

theorem State.word_fill_clean {s : State} {pa : Nat} (hpa : pa % 64 = 0) (hc : s.coh.l1.any (·.line == pa / 64) = false) :
    (s.fill pa).word = BitVec.ofNat 64 (s.mem.num (pa + 8 * s.wordAt) 8) := by
  have hline : pa / 64 * 64 = pa := Nat.div_mul_cancel (Nat.dvd_of_mod_eq_zero hpa)
  rw [State.word_fill, State.codeLine_clean hc, hline]
  exact extractLsb'_num _ _ s.wordAt_lt

section
variable {s s1 : State} (hs : step s = andThen s1.threadTurn State.toDevice) (hr : runs s1)
include hs hr

theorem State.takes_runNext : s.Takes s1 s1.runNext := by
  refine ⟨fun hp => ?_, fun t h => ?_⟩
  · rw [hs, State.threadTurn_of_runs hr hp]
  · obtain ⟨l, hl⟩ := State.threadTurn_waits hr h
    refine ⟨l, hl.imp (fun hl => ?_) fun hl => ?_⟩
    · rw [hs, hl, andThen]
    · rw [hs, hl, andThen]

/-- A fetch that leaves the thread decides what the step runs. -/
theorem State.runsWord_of_fetch {u : State} (hl : s1.fetchLost = false) (hf : s1.fetch = some u) (hu : u.thr = s1.thr) :
    s.RunsWord s1 u u.word := by
  have hnext : s1.runNext = exec (u.decodeAt u.word) u := by
    unfold State.runNext
    rw [hl, hf]
    rfl
  have htakes : s.Takes s1 (exec (u.decodeAt u.word) u) := hnext ▸ State.takes_runNext hs hr
  refine ⟨fun i hi hregs => ?_, fun i hi hregs => ?_, fun n hn => ?_⟩
  · rwa [State.decodeAt_ok hi, hu, hregs, if_pos rfl] at htakes
  · rwa [State.decodeAt_ok hi, hu, hregs, if_neg Bool.false_ne_true] at htakes
  · rwa [State.decodeAt_error hn] at htakes

end

/-! ### The fetch, case by case (R242, R246, R377) -/

section
variable {s : State} {pa : Nat} (hx : s.xlateCode s.thr.id.ctx s.thr.sup (s.thr.pc.toNat / 64 * 64) = some pa)
include hx

theorem State.fetchLost_iff : s.fetchLost = true ↔ pa / 64 ∈ s.damage.uncorr ∧ ∀ b ∈ s.icache, s.atPc b = true → b.pa ≠ pa := by
  rw [State.fetchLost, hx]
  simp

theorem State.fetch_miss (hb : s.icache.find? s.atPc = none) : s.fetch = some (s.fill pa) := by
  rw [State.fetch, hx, hb]

theorem State.fetch_moved {b : IBlock} (hb : s.icache.find? s.atPc = some b) (h : b.pa ≠ pa) : s.fetch = some (s.fill pa) := by
  rw [State.fetch, hx, hb]
  exact if_pos (bne_iff_ne.2 h)

variable {b : IBlock} (hb : s.icache.find? s.atPc = some b) (hpa : b.pa = pa)
include hb hpa

theorem State.fetch_cached (h : b.data = BitVec.ofNat 512 (s.mem.num pa 64) ∨ pa / 64 ∈ s.damage.uncorr) : s.fetch = some s := by
  have hcond : (b.data == BitVec.ofNat 512 (s.mem.num pa 64) || s.damage.uncorr.contains (pa / 64)) = true := by
    rwa [Bool.or_eq_true, beq_iff_eq, List.contains_iff_mem]
  rw [State.fetch, hx, hb]
  dsimp only
  rw [hpa, bne_self_eq_false, if_neg Bool.false_ne_true, if_pos hcond]

/-- A block that has changed in memory is used, or filled again. -/
theorem State.fetch_changed (hd : b.data ≠ BitVec.ofNat 512 (s.mem.num pa 64)) (hu : pa / 64 ∉ s.damage.uncorr) :
    s.fetch = some (if s.draw.1.getLsbD 0 then s.draw.2 else s.draw.2.fill pa) := by
  have hcond : (b.data == BitVec.ofNat 512 (s.mem.num pa 64) || s.damage.uncorr.contains (pa / 64)) ≠ true := by
    rw [Ne, Bool.or_eq_true, beq_iff_eq, List.contains_iff_mem]
    exact not_or.2 ⟨hd, hu⟩
  rw [State.fetch, hx, hb]
  dsimp only
  rw [hpa, bne_self_eq_false, if_neg Bool.false_ne_true, if_neg hcond]

end

theorem State.runNext_lost {s : State} (h : s.fetchLost = true) :
    s.runNext = .next (s.raise { cause := cUNCORRECTABLE, i0 := s.thr.pc.zeroExtend 64 }) := by
  rw [State.runNext, h, if_pos rfl]

theorem State.runNext_unmapped {s : State} (h : s.xlateCode s.thr.id.ctx s.thr.sup (s.thr.pc.toNat / 64 * 64) = none) :
    s.runNext = exec .codePageFetch s := by
  have hl : s.fetchLost = false := by rw [State.fetchLost, h]
  have hf : s.fetch = none := by rw [State.fetch, h]
  unfold State.runNext
  rw [hl, hf]
  rfl

theorem threadStep : ThreadStep := by
  intro s ha ht hr
  have hs := step_of_thread ha ht
  generalize s.tick = s1 at hs hr ⊢
  intro s1 page takes is k part inMem fresh lost
  have hword {b : IBlock} (hb : s1.icache.find? s1.atPc = some b) : s1.word = part b.data := State.word_of_block hb
  have halign {pa : Nat} (hx : page = some pa) : pa % 64 = 0 := State.xlateCode_aligned (Nat.mul_mod_left _ _) hx
  have hfetch {pa : Nat} {u : State} (hx : page = some pa) (hl : ¬ lost pa) (hf : s1.fetch = some u) (hu : u.thr = s1.thr) :
      s.RunsWord s1 u u.word :=
    State.runsWord_of_fetch hs hr (Bool.eq_false_iff.2 (mt (State.fetchLost_iff hx).1 hl)) hf hu
  refine ⟨fun pa hx hl => ?_, fun pa hx hb hl => ?_, fun pa b hx hb hl => ?_, fun hx => ?_⟩
  · exact State.runNext_lost ((State.fetchLost_iff hx).2 hl) ▸ State.takes_runNext hs hr
  · have h := hfetch hx hl (State.fetch_miss hx hb) (s1.fill_thr pa)
    exact ⟨fun hc => h.congr (State.word_fill_clean (halign hx) hc), _, s1.fresh_fill (halign hx), h⟩
  · refine ⟨fun hpa hsame => ?_, fun hpa hsame hu => ?_, fun hpa hsame hu => ?_, fun hpa => ?_⟩
    · have hw : s1.word = inMem pa := (hword hb).trans ((congrArg part hsame).trans (extractLsb'_num _ _ s1.wordAt_lt))
      exact (hfetch hx hl (State.fetch_cached hx hb hpa (.inl hsame)) rfl).congr hw
    · exact (hfetch hx hl (State.fetch_cached hx hb hpa (.inr hu)) rfl).congr (hword hb)
    · have hf := State.fetch_changed hx hb hpa hsame hu
      refine ⟨fun hd => ?_, fun hd => ?_⟩
      · rw [hd, if_pos rfl] at hf
        exact (hfetch hx hl hf rfl).congr (State.word_of_block (s := s1.draw.2) hb)
      · rw [hd, if_neg Bool.false_ne_true] at hf
        exact ⟨_, s1.draw.2.fresh_fill (halign hx), hfetch hx hl hf (s1.draw.2.fill_thr pa)⟩
    · exact ⟨_, s1.fresh_fill (halign hx), hfetch hx hl (State.fetch_moved hx hb hpa) (s1.fill_thr pa)⟩
  · exact State.runNext_unmapped hx ▸ State.takes_runNext hs hr

end Sys2Proof.Machine

namespace Sys2Proof

open Machine Claim

/-- Settles O57: the fetch of a thread case by case, the fetch of a hart, and the event that is due. -/
theorem stepRunsDecoded : Obligations.StepRunsDecoded := ⟨threadStep, hartStep, dueStep⟩

end Sys2Proof
end
